-- ==== Sys2Proof/Word.lean ====
section
/-! DEFINITION. The word types of the device: 32-bit registers (R5), bytes and 64-bit beat and sequence
numbers. Everything that computes with them stands in Machine/Bits.lean. -/

namespace Sys2Proof

/-- A register or a bus word: 32 bits (R5). -/
abbrev Word := BitVec 32

/-- One byte of a buffer, a store or a message. -/
abbrev Byte := BitVec 8

end Sys2Proof
end

