-- ==== Sys2Proof/Types/Acquisition.lean ====
section
/-! DEFINITION. State of the CONV and FLUE islands: hearths with witness, kindling and raw tap (chapter
"Hearths"), flue engines with banks, swaps and trackers, and the filter chain of each input (chapter "The
Flue"). -/

namespace Sys2Proof.Machine

/-! Hearths. -/

/-- Kindling state of a hearth (R78). -/
inductive KindleState
  | off | running | pass | fail
  deriving DecidableEq, Repr

/-- One section of a filter: two held values. -/
structure Pair where
  a : Rat
  b : Rat
  deriving DecidableEq, Repr, Inhabited

/-- One bank of a linearity table (R64, R66): the inter-stage gain and offset terms of the pipeline stages in
2^-16 LSB, which the converter's back end has applied to every code it delivers; 257 residual corrections in 1/16
LSB; and, for the main converter, 16 input-path timing terms in units of 5 ps. -/
structure LinTable where
  stages : List Int
  corr   : List Int
  timing : List Int
  deriving DecidableEq, Repr

/-- A rebuild in progress (R68, R70): none, of a bank at start-up, or in the background. -/
inductive Rebuild
  | none | startup (bank : Bool) | background
  deriving DecidableEq, Repr

/-- The kindling of one converter (R67, R68, R70). `bank1` active is `active = true`. -/
structure Converter where
  bank0    : LinTable
  bank1    : LinTable
  active   : Bool
  met      : Bool          -- the active bank met R67 since the start-up kindling began
  rebuild  : Rebuild
  bgFails  : Nat           -- consecutive background failures
  doubtful : Bool          -- the doubtful mark of R70
  deriving DecidableEq, Repr

/-- The running sums of a witness dwell (R60). -/
structure Dwell where
  s : Int
  a : Nat
  k : Nat
  deriving DecidableEq, Repr

/-- The last completed dwell (HEARTH_WIT_LAST, HEARTH_WIT_DIFF): result 0 none, 1 pass, 2 fail,
3 inconclusive. -/
structure WitResult where
  input    : Nat
  result   : Nat
  count    : Nat
  meanDiff : Int
  meanAbs  : Nat
  deriving DecidableEq, Repr

/-- The raw tap's effective selection and its latch (R72, R73). -/
structure Tap where
  ctl   : Word             -- HEARTH_TAP_CTL as last taken at a frame boundary
  data  : Word             -- HEARTH_TAP_DATA
  seq   : Nat
  count : Nat              -- codes of the tapped input since the last one kept, below 2^TAP_DEC
  pend  : Bool             -- HEARTH_TAP_CTL has been written since the last frame boundary
  deriving DecidableEq, Repr

/-- One hearth. Masks of inputs are numbers, bit `i` for input `i`. -/
structure Hearth where
  refSettled : Bool
  refPrev    : Option Nat  -- the monitor's previous measurement, ppm of nominal
  refMark    : Bool        -- every input marked by a reference fault (R51)
  refRelease : Bool        -- REF_SETTLED rose again: the mark goes after one more beat (R51)
  ovrNow     : Nat         -- inputs clamped in the current frame
  ovrBefore  : Nat         -- inputs clamped in the frame before it
  witFail    : Nat         -- HEARTH_WIT_FAIL
  anchor     : Option Nat  -- b0 of R59; none while no rotation runs
  dwell      : Dwell
  dwells     : Nat         -- completed dwells, modulo 65 536
  last       : WitResult
  kindle     : KindleState
  waitRef    : Bool        -- start-up kindling waits for REF_SETTLED (R68 step 2)
  cause      : Nat         -- KINDLE_INFO.CAUSE (R79)
  swaps      : Nat         -- background bank swaps since release
  bgCount    : Nat         -- background rebuilds started since the count's anchor (R70)
  doubtNow   : Bool        -- R70 has held the hearth doubtful at some time in this beat
  main       : Converter
  wit        : Converter
  tap        : Tap
  deriving DecidableEq, Repr

/-! The flue. -/

/-- A flue sample (R87): VALUE, the INVALID mark of an overrange, the mark of a fill sample (R130: it was formed in a fill
span), SAT and FADE. `tail`: formed after the fill span from a support that holds fill samples (R92). -/
structure Samp where
  val     : Int
  invalid : Bool
  fill    : Bool
  sat     : Bool
  fade    : Bool
  tail    : Bool
  deriving DecidableEq, Repr

/-- The three billing presets (R90). -/
inductive Preset
  | banked | steady | roaring
  deriving DecidableEq, Repr

/-- A billing sample on its way to the energy engine: delivered in grid frame `due` (R89). -/
structure DueSample where
  preset : Preset
  due    : Nat
  samp   : Samp
  deriving DecidableEq, Repr

/-- The resampler of a PQ input (R97): whether a cycle runs, where it started and its predicted length in
units of 2^-32 wide-stream sample, the outputs formed in it, and the outputs formed since the stream switched
to the target bank (R102). -/
structure Resampler where
  running : Bool
  start   : Nat
  len     : Nat
  k       : Nat
  switchJ : Nat
  deriving DecidableEq, Repr

/-- The filter chain of one global input (R80). Histories are newest first. -/
structure Chain where
  integ     : List Int     -- CIC integrator registers
  comb      : List Int     -- CIC comb registers
  cic       : List Int     -- CIC outputs, the last 33
  clampLeft : Nat          -- wide-stream samples still to be marked INVALID (R92)
  wide      : List Samp    -- wide-stream samples after the integrator, the last 8192
  prevX     : Int          -- the last wide-stream value before the integrator
  acc       : Int          -- integrator accumulator in half units (R94)
  intFill   : Bool         -- within the integrator's fill time (R95)
  newFill   : Bool         -- newly enabled by an activation and still filling (R104)
  due       : List DueSample
  pq        : List Samp    -- power-quality samples of the cycle in progress, newest first
  rs        : Resampler
  okFor     : Nat          -- frames for which its hearth and engine have met the conditions of R111, at most 41 ms
  intFor    : Nat          -- frames for which its integrator has been out of its fill time (R111)
  deriving DecidableEq, Repr

/-- A bank swap in progress (R102). The counters hold the outputs formed by each stream since its switch;
they count from the end of the hash. -/
structure Swap where
  target  : Bool           -- the bank being taken into use (true: B)
  hashed  : Bool           -- the hash has completed and was not refused
  fade    : Nat            -- F, so that the fade spans 2^F outputs
  jComp   : Nat
  jSteady : Nat
  jBanked : Nat
  deriving DecidableEq, Repr

/-- A cycle tracker (R96, R436); lengths and positions in units of 2^-32 wide-stream sample. -/
structure Tracker where
  lp       : Pair          -- the 100 Hz section
  out      : Option Rat    -- its last output; none: it has taken no sample since the engine started
  found    : List Nat      -- crossings placed and not yet reported, oldest first
  last     : Option Nat    -- position of the last crossing
  measured : Option Nat    -- length of the last measured cycle
  cycles   : Nat           -- cycles measured, modulo 65 536
  good     : Nat           -- consecutive lengths within the band
  locked   : Bool
  lastGood : Option Nat    -- the last locked length; none: never locked since the engine started
  deriving DecidableEq, Repr

/-- One flue engine with its tracker. Bank words are listed by word offset; unlisted words are 0. -/
structure Flue where
  filling  : Bool
  bankA    : List (Nat × BitVec 24)
  bankB    : List (Nat × BitVec 24)
  active   : Bool          -- true: B
  swapReq  : Bool          -- FLUE_BANK_CTL.SWAP, until a frame boundary accepts it
  fadeN    : Nat           -- FLUE_BANK_CTL.FADE_N as last taken at a frame boundary
  swap     : Option Swap
  queued   : Bool
  swaps    : Nat           -- completed swaps, modulo 65 536
  tracker  : Tracker
  shadow   : Option (Word × Word)   -- FLUE_TRK_LEN_HI and FLUE_TRK_FREQ, frozen (R107)
  deriving DecidableEq, Repr

/-! Result windows of CONV and FLUE (R26 to R28). -/

/-- What the Hearth status window holds of one hearth (R28). -/
structure HearthStatus where
  ovr        : Nat         -- HEARTH_OVR
  nsusp      : Nat         -- HEARTH_NSUSP
  witness    : Word        -- HEARTH_WIT_STATE
  witFail    : Nat         -- HEARTH_WIT_FAIL
  refSettled : Bool
  kindle     : KindleState
  deriving DecidableEq, Repr

/-- One half of the Hearth status window: its beat, first and last, and the hearths. -/
structure HearthWindow where
  beat    : Nat
  hearths : List HearthStatus
  deriving DecidableEq, Repr

/-- One half of the link receive window: its block number, first and last, and 256 wide-stream samples of input 127,
oldest first. -/
structure RxBlock where
  block   : Nat
  samples : List Samp
  deriving DecidableEq, Repr

/-- The result windows of CONV and FLUE with their halves; `hearthHalf` and `rxHalf` name the published one. -/
structure PlaneWindows where
  hearth0    : HearthWindow
  hearth1    : HearthWindow
  hearthHalf : Bool
  rx0        : RxBlock
  rx1        : RxBlock
  rxHalf     : Bool
  deriving DecidableEq, Repr

end Sys2Proof.Machine
end

