-- ==== Sys2Proof/Types/Operand.lean ====
section
/-! DEFINITION. Operands of commands: what comes from outside with a command (host memory contents, converter
codes, measured values, received frames). -/

namespace Sys2Proof.Machine

/-- What a host-memory read returns: the bytes, or none where the transfer failed. -/
abbrev HostRead := Option (List Byte)

/-- How the writes of a capture go in a frame (R272, R275): they are carried, the capture windows cannot carry the stream, or a write
to the host buffer fails. -/
inductive CapWrite
  | carried | overrun | failed
  deriving DecidableEq, Repr

/-- What comes from outside in one frame: what its conversions return (R55), that is the unclamped main-converter value of every
global input in LSB, already rounded, and the unclamped witness value of every hearth; and how the writes of the four captures go. -/
structure FrameCodes where
  main : List Int
  wit  : List Int
  caps : List CapWrite
  deriving DecidableEq, Repr

/-- A table as a rebuild left it (R67): the table, the stage terms of the iteration before the last in 2^-16 LSB, and
whether the bank's check word matches. -/
structure Rebuilt where
  table  : LinTable
  before : List Int
  check  : Bool
  deriving DecidableEq, Repr

/-- What the decoder makes of a frame where the spec does not fix it (R376): the header, and the segment with its CRC-32, that come
out of symbols impaired by more than erasure; and the mean SNR, unit 0.5 dB. -/
structure RxFrame where
  header : Nat
  data   : List Byte
  snr    : Nat
  deriving DecidableEq, Repr

/-- Power supplies and straps as found at a release. -/
structure Straps where
  bootSel : Nat
  clkMode : Nat
  deriving DecidableEq, Repr

/-- What a start-up step finds (R313). DRAM training (R434): the code of the highest rate at which the devices train,
0 for none, and the usable capacity in MiB. The other steps use nothing of it. -/
structure StepReport where
  rate : Nat
  mib  : Nat
  deriving DecidableEq, Repr

/-- How a panel temperature read ends (R396): failed, the PMIC's byte, or the thermistor's resistance in Ω. -/
inductive TempRead
  | failed | pmic (b : Byte) | ohms (r : Nat)
  deriving DecidableEq, Repr

end Sys2Proof.Machine
end

