-- ==== Sys2Proof/Syntax.lean ====
section
/-! DEFINITION. The commands: one constructor per row of spec/opcode_table.json, in the table's order. Operands
are numbers of the resources of R3, register words as written, and what the environment supplies. A row that reads
a register whose partner it freezes covers, with `hi`, the read of the partner that releases it. A descriptor
row names its descriptor by its place `ord` in the submission order (R267), with the outcome of its buffer
transfer. -/

namespace Sys2Proof

open Sys2Proof.Machine

inductive Instr
  | registerWrite (addr : Nat) (be : BitVec 4) (v : Word)
  | sqTailDoorbell (n : Fin 8) (be : BitVec 4) (v : Word)
  | headDoorbell (m : Fin 11) (be : BitVec 4) (v : Word)
  | descriptorFetch (buf : HostRead)
  | nop (ord : Nat)
  | readPoint (ord : Nat) (ok : Bool)
  | readTotals (ord : Nat) (ok : Bool)
  | sessionOpen (ord : Nat) (buf : HostRead)
  | sessionTariff (ord : Nat)
  | sessionPause (ord : Nat)
  | sessionResume (ord : Nat)
  | sessionClose (ord : Nat)
  | sessionRelease (ord : Nat)
  | sessionRead (ord : Nat) (ok : Bool)
  | timeSet (ord : Nat)
  | timeRead (ord : Nat)
  | attest (ord : Nat) (ok : Bool)
  | keyInfo (ord : Nat) (ok : Bool)
  | captureStart (ord : Nat)
  | captureTrigger (cap : Fin 4)
  | captureStop (ord : Nat)
  | displayCompose (ord : Nat) (buf : HostRead)
  | displayWindow (ord : Nat)
  | linkPollset (ord : Nat) (buf : HostRead)
  | linkSend (ord : Nat) (buf : HostRead)
  | imageStage (ord : Nat)
  | imageTransferComplete (buf : HostRead)
  | admissionComplete
  | imageActivate (ord : Nat)
  | fwStage (ord : Nat) (buf : HostRead) (readBack : List Byte)
  | fwActivateControl (ord : Nat)
  | controlFirmwareRestart
  | fwActivateMetrology (ord : Nat)
  | metrologyLayerReady
  | resetRequest (ord : Nat)
  | completionWrite (ord : Nat) (ok : Bool)
  | evqEntryWrite (ok : Bool)
  | rcqEntryWrite (ok : Bool)
  | capqEntryWrite (ok : Bool)
  | coalTimeExpiry (m : Fin 11)
  | ringEnable (sub : Bool) (n : Fin 11) (v : Word)
  | sqDisable (n : Fin 8) (v : Word)
  | oqDisable (m : Fin 11) (v : Word)
  | inflightPeakRead
  | pcieLinkUp (speed width : Nat)
  | busMasterEnable (on : Bool)
  | d3hot (on : Bool)
  | frameBoundary (codes : FrameCodes)
  | mailboxLatch
  | beatBoundary (refs : Vector Nat 8)
  | roundBoundary (refs : Vector Nat 8)
  | publicationCycle
  | bankingWrite (cut : Option Nat)
  | recordIssue
  | recordSigned
  | overrange (h : Fin 8) (i : Fin 16)
  | trackerCrossing (t : Fin 8) (pos : Nat)
  | cycleClose (ch : Fin 48) (pos : Nat) (ecc : Option Word)
  | cycleTimeout (ch : Fin 48)
  | harmonicWindowClose (ch : Fin 48)
  | harmonicPublication (ch : Fin 48)
  | supraharmonicBlock
  | supraharmonicIntervalPublication (ch : Fin 24)
  | spectralRestartEnd
  | urmsEvaluation (p : Fin 32)
  | fundamentalCrossing (p : Fin 32)
  | impulseStart (c : Fin 8)
  | impulseEnd (c : Fin 8)
  | fillEnd (h : Fin 8)
  | refTimeout (h : Fin 8)
  | rebuildComplete (h : Fin 8) (wit : Bool) (attempt : Rebuilt)
  | rebuildTimeout (h : Fin 8) (wit : Bool) (attempt : Rebuilt)
  | backgroundRekindle (h : Fin 8)
  | retry (mask : BitVec 8)
  | tapLatch (h : Fin 8) (code : Int)
  | tapDataRead (h : Fin 8)
  | flueBankData (h : Fin 8) (v : Word)
  | swap (h : Fin 8) (v : Word)
  | bankHashComplete (h : Fin 8)
  | swapComplete (h : Fin 8)
  | flueTrkLenLoRead (h : Fin 8) (hi : Bool)
  | energyBeatLoRead (hi : Bool)
  | eventTbBeatLoRead (hi : Bool)
  | damperBeatLoRead (hi : Bool)
  | damperActBeatLoRead (hi : Bool)
  | emberLoRead (off : Nat)
  | emberRdDataRead
  | pfwN (low : Bool)
  | powerFailMonitor (low : Bool)
  | markerWritten
  | powerFailTriggerEnd
  | finalBankWaitTimeout
  | powerGoodCheck (p : Fin 4) (high : Bool)
  | por (low : Bool)
  | borCore (low : Bool)
  | borIo (low : Bool)
  | resetNPin (lowNs : Nat)
  | ctrlWatchdog
  | startWindowExpiry
  | damperWatchdog
  | thermalTrip (tj : Int)
  | tamper (low : Bool)
  | perstN (low : Bool)
  | pcieHotReset
  | resetSoft (v : Word)
  | debugReset
  | clockLoss (refOk pllM pllC : Bool)
  | episodeRelease (straps : Straps)
  | stepReady (report : StepReport)
  | startOk (v : Word)
  | resetWdtCfg (v : Word)
  | resetWdtKick (v : Word)
  | clockRefDevMeasure (dev : Int)
  | fault (island : Fin 12) (code : BitVec 8) (detail : Word)
  | islandRecoveryComplete (island : Fin 12)
  | repeatCountClear (island : Fin 12)
  | faultPop
  | faultInject (v : Word)
  | halt
  | haltClear
  | haltTimeout
  | calApply (v : Word)
  | trimStep (temp : Int)
  | rtcTimeRead (which : Fin 3)
  | rtcCalDateRead (time : Bool)
  | fuseProgram (v : Word)
  | fuseProgramComplete
  | extend (v : Word)
  | begin (v : Word)
  | fwupdWinData (v : Word)
  | endWindow
  | windowVerifyComplete (readBack : List Byte)
  | ident (req : List Byte)
  | auditorRead (req : List Byte)
  | auditorAttest (req : List Byte)
  | recover (req : List Byte)
  | loadBegin (req : List Byte)
  | loadData (req : List Byte)
  | loadEnd (req : List Byte)
  | auditorPoll (cut : Bool)
  | linkEn (on : Bool)
  | pollRun (on : Bool)
  | attemptStart
  | transmitEnd
  | frameReceived (f : RxFrame) (dmaOk : Bool)
  | replyTimeout (dmaOk : Bool)
  | segmentTimeout (dmaOk : Bool)
  | mantelRun (v : Word)
  | digest
  | digestRequestEnd
  | mantelTblData (v : Word)
  | commit (v : Word)
  | commitComplete (flashOk : Bool)
  | updateStart (p : Fin 4) (temp : TempRead)
  | hvDlyExpiry (p : Fin 4)
  | updateEnd (p : Fin 4)
  | temperatureRetry (p : Fin 4) (temp : TempRead)
  | pcieLinkDown
  | prescalerEdge
  | vbatLost
  | integratorFillEnd (i : Fin 128)
  deriving DecidableEq, Repr

end Sys2Proof
end

