-- ==== Sys2Proof/Decode.lean ====
section
/-! DEFINITION. The commands of the table that a word spells. spec/opcode_table.json gives no row any bits: a
command reaches the block as a bus access, a descriptor, a pin event or an event of its own clocks, none of
which the table encodes (log entry 5). -/

namespace Sys2Proof

/-- The command that the `nbits` bits of a word spell by the table: none for every word. -/
def decodeTableWord (_nbits _w : Nat) : Option Instr := none

end Sys2Proof
end

