-- ==== Sys2Proof/Types/Energy.lean ====
section
/-! DEFINITION. State of the energy engine and the pulse generators (chapter "Energy Computation and Pulse
Outputs"): evaluated inputs, points with their registers, residues and beat sums, the published point
window, and the pulse channels. -/

namespace Sys2Proof.Machine

/-- State of a point (R111). -/
inductive PointState
  | unused | arming | metering
  deriving DecidableEq, Repr

/-- One input at one preset in the energy engine: the delivered samples newest first (as many as the
longest delay of R115 reaches), the evaluated value, the two phase-split paths (R120) and their outputs. -/
structure EvalState where
  hist  : List Int
  x     : Rat
  pathI : List Pair
  pathQ : List Pair
  outI  : Rat
  outQ  : Rat
  deriving DecidableEq, Repr

/-- The sums of one point over one beat (R118 to R127). `sq` holds the mean-square sums of the seven role
positions and, last, of the computed current of AC3W; `vSum` to `vsISum` are sums over v, i, vs and vs·i of
a DC point, whose squares stand in `sq`. -/
structure BeatAcc where
  state    : PointState    -- the point's state in the beat
  n        : Nat
  nInvalid : Nat
  range    : Bool
  gap      : Bool
  doubt    : Bool          -- measurement doubtful in the beat by the first three causes of R62
  pSum     : Rat
  qSum     : Rat
  paSum    : Rat
  a1Sum    : Rat
  pMax     : Rat
  sq       : Vector Rat 8
  vSum     : Rat
  iSum     : Rat
  vsSum    : Rat
  vsISum   : Rat
  vsBad    : Bool          -- a vs sample of the beat was INVALID or SAT (R166)
  freq     : Nat           -- centre frequency of the fundamental filter at the last sample, mHz
  unlocked : Bool
  senseFb  : Bool
  lastTs   : Nat           -- wide-stream index of the last billing sample's represented instant
  firstTs  : Nat
  deriving DecidableEq, Repr

/-- The readings and flags of a published point window (R127, R142), apart from totals. -/
structure PointWindow where
  beat   : Nat
  status : Word            -- POINT_STATUS
  image  : List Word       -- POINT_DEF, POINT_IN_A, POINT_IN_B, POINT_CABLE
  regs   : List Nat        -- nine registers, unit 2^-32 Wh
  nsamp  : Word
  p      : Word
  q      : Word
  s      : Word
  pf     : Word
  freq   : Word
  volts  : List Word       -- POINT_U1 to POINT_U3
  amps   : List Word       -- POINT_I1 to POINT_I3, POINT_IN
  pmax   : Word
  incP   : Word
  incQ   : Word
  p1     : Word
  pmaxWh : Rat             -- POINT_PMAX before its reduction to a word, in watts (R245)
  deriving DecidableEq, Repr

/-- One metering point. Registers count in 2^-32 Wh, varh or VAh (R132); `held` is the banked TYPE of a point that R243
keeps. -/
structure Point where
  state    : PointState
  regs     : Vector Nat 9
  residue  : Vector Rat 9
  fund     : Vector Pair 7
  fundOut  : Vector Rat 7  -- fundamental filter outputs at the last sample
  acc      : BeatAcc
  closing  : BeatAcc
  missNext : Bool          -- the crossing delivers no sample at the next sample instant (R131)
  held     : Option Nat
  half0    : PointWindow
  half1    : PointWindow
  half     : Bool          -- the published half
  deriving DecidableEq, Repr

/-- A pulse channel (R135 to R139). Impulse amounts are in units of 2^-40 impulse, `carry` exact. `queue`
holds the increments waiting for their beat, oldest first. -/
structure Pulse where
  carry    : Rat
  queue    : List Nat      -- u_b of the beats not yet spread
  spreadU  : Nat           -- u_b being spread in this beat
  spreadM  : Nat           -- frames of the spread
  spreadF  : Nat           -- frames spread so far
  acc      : Nat
  pending  : Nat
  dueNow   : Nat           -- impulses that fell due in the current frame
  lastAt   : Option Nat    -- grid frame of the previous impulse start
  fresh    : Bool          -- no impulse since the channel started or an activation changed it
  lowFor   : Nat           -- low time of the impulse in progress, frames
  low      : Bool
  freeAt   : Option Nat    -- grid frame at which the pin was last released
  count    : Nat           -- PULSE_COUNT
  deriving DecidableEq, Repr

end Sys2Proof.Machine
end

