-- ==== Sys2Proof/Config.lean ====
section
/-! DEFINITION. The free values: what the spec names without giving its value or its arithmetic. Each is a
constant without a body, so that every statement holds whatever it is. -/

namespace Sys2Proof

open Sys2Proof.Machine

/-! What a device carries from manufacturing (R339, R341, R346): keys and digests, whose values the spec does not give (log
entry 10). -/

/-- What the private identity key is generated from. -/
opaque Config.identitySeed : Nat
/-- The Creumund certificate (DER). -/
opaque Config.certificate : List Byte
/-- The Creumund firmware key, a P-384 public key as an uncompressed point, and the fused key-encryption key. -/
opaque Config.creumundKey : List Byte
opaque Config.keyEncryptionKey : BitVec 256

/-- SHA-384 of the boot ROM, and of the recovery loader. -/
opaque Config.bootRomDigest : BitVec 384
opaque Config.recoveryDigest : BitVec 384

/-- The place of the device identifier copy in the header partition of the ember store, and the partition's other bytes, the
layout version among them (R235; log entry 114). -/
opaque Config.headerIdAt : Nat
opaque Config.headerByte : Nat → BitVec 8

/-- The Vendor ID assigned to Creumund (R250). -/
opaque Config.vendorId : BitVec 16

/-- How the n-th failed transfer failed (R275): 0 Unsupported Request, 1 Completer Abort, 2 poisoned data, 3 completion timeout
(log entry 89). -/
opaque Config.failureKind : Nat → Fin 4

/-- Does the n-th host write that waited for the bus succeed (R250; log entry 122)? The number counts the draws so far. -/
opaque Config.owedWrite : Nat → Bool

/-- The band filter of the link receiver over the values consumed, newest first; and where, in a run of positions that meet the
conditions of a frame, the symbol timing is taken, from the correlations with SYNCM (R374; log entry 123). -/
opaque Config.bandFilter : List Int → Rat
opaque Config.symbolTiming : List Rat → Nat

/-- The raised-cosine weights of the eight taper samples of a symbol (R368; log entry 124). -/
opaque Config.linkTaper : Nat → Rat

/-- Does the PCIe PHY PLL keep its lock when the link goes down (R311; log entry 89)? The number counts the draws so far. -/
opaque Config.phyLocked : Nat → Bool

/-! Arithmetic that the spec bounds without stating it. -/

/-- One step of the trackers' second-order section of 100 Hz cut-off (R96): section state and input; the new state and
the output. And its fixed group delay in units of 2^-32 wide-stream sample (log entry 107). -/
opaque Config.trackerStep : Pair → Int → Pair × Rat
opaque Config.trackerDelay : Nat

/-- What thd127 shows of a window whose grp(1) is 0, from the sum of the squares of the groups above (log entry 113). -/
opaque Config.thdAtZero : Rat → BitVec 32

/-- The coefficients of the 320 kS/s resampler by phase and tap, which are fixed in the device (R157; log entry 13). -/
opaque Config.supraTap : Nat → Nat → Rat

/-- What an uncorrectable ash-buffer block at an address makes of sample `k` of a redone cycle (log entry 18). -/
opaque Config.ashError : Word → Nat → Int

/-- Word `k` of a harmonic result that is not final at its publication beat, by window number (log entry 18). -/
opaque Config.unfinalWord : Nat → Nat → BitVec 32

/-- The ratio of ripple to a mean voltage of 0, from the ripple squared (log entry 17). -/
opaque Config.rippleAtZero : Rat → Rat

/-- Is a RESET_N low of between the never-accepted and the always-accepted length taken as an assertion (R306)?
The number counts the pulses judged so far (log entry 14). -/
opaque Config.resetPulse : Nat → Bool

/-- What a 32-bit reading shows for a value outside its format (log entry 17). -/
opaque Config.readingOver : Int → BitVec 32

/-- Which of several points a fault record names (R289: the record has room for one); applied to how many there
are (log entry 16). -/
opaque Config.faultPoint : Nat → Nat

/-- The temperature of a thermistor whose resistance and B give no temperature (R396; log entry 15). -/
opaque Config.thermistor : Nat → Nat → Int

end Sys2Proof
end

