-- ==== Sys2Proof/Machine/Bits.lean ====
section
/-! DEFINITION. Bit fields of registers, little-endian byte strings (R7) and the rounding and
saturation of R82. -/

namespace Sys2Proof.Machine

/-- Bits `[hi:lo]` of a register as a number. -/
def fieldOf (w : Word) (hi lo : Nat) : Nat := (w.toNat >>> lo) % 2 ^ (hi + 1 - lo)

/-- Bit `i` of a register. -/
def bitOf (w : Word) (i : Nat) : Bool := w.toNat.testBit i

/-- The mask of bits `[hi:lo]`. -/
def maskOf (hi lo : Nat) : Word := BitVec.ofNat 32 ((2 ^ (hi + 1 - lo) - 1) <<< lo)

/-- A number placed in the bits from `lo` up. -/
def putAt (v lo : Nat) : Word := BitVec.ofNat 32 (v <<< lo)

/-- A flag placed at bit `i`. -/
def flagAt (b : Bool) (i : Nat) : Word := if b then putAt 1 i else 0

/-- The bits of `new` under the mask, the bits of `old` elsewhere. -/
def mergeMask (m old new : Word) : Word := (old &&& ~~~m) ||| (new &&& m)

/-- A number as a register word, modulo 2^32. -/
def word (n : Nat) : Word := BitVec.ofNat 32 n

/-- An integer as a two's complement register word. -/
def iword (n : Int) : Word := BitVec.ofInt 32 n

/-- Bits [31:0] and [63:32] of a 64-bit count. -/
def loWord (n : Nat) : Word := word n
def hiWord (n : Nat) : Word := word (n >>> 32)

/-- An `n`-bit number read as two's complement. -/
def signed (v n : Nat) : Int := if v % 2 ^ n < 2 ^ (n - 1) then (v % 2 ^ n : Nat) else ((v % 2 ^ n : Nat) : Int) - 2 ^ n

/-- Set or clear bit `i` of a 16- or 32-input mask held as a number's bits. -/
def setBitN (m i : Nat) (b : Bool) : Nat := if b then m ||| 2 ^ i else m - (m &&& 2 ^ i)

/-! Little-endian byte strings (R7). -/

/-- The number a little-endian byte string spells. -/
def leNat : List Byte → Nat
  | [] => 0
  | b :: bs => b.toNat + 256 * leNat bs

/-- The number a big-endian byte string spells. -/
def beNat (bs : List Byte) : Nat := leNat bs.reverse

/-- `n` bytes of a number, least significant first. -/
def leBytes : Nat → Nat → List Byte
  | 0, _ => []
  | n + 1, v => BitVec.ofNat 8 v :: leBytes n (v / 256)

/-- `n` bytes of a number, most significant first. -/
def beBytes (n v : Nat) : List Byte := (leBytes n v).reverse

/-- `n` bytes of an integer in two's complement, least significant first. -/
def leInt (n : Nat) (v : Int) : List Byte := leBytes n (v % (256 ^ n : Nat)).toNat

/-- Bytes `[off, off+n)` of a byte string; a byte past its end reads 0. -/
def sliceOf (bs : List Byte) (off n : Nat) : List Byte :=
  (List.range n).map fun i => bs.getD (off + i) 0

/-- A little-endian field of a byte string. -/
def leField (bs : List Byte) (off n : Nat) : Nat := leNat (sliceOf bs off n)

/-! Rounding (R82). -/

/-- Round half to even, R82. -/
def roundEven (x : Rat) : Int :=
  let q := x.floor
  let r := x - q
  if r > 1 / 2 ∨ (r = 1 / 2 ∧ q % 2 = 1) then q + 1 else q

/-- `round_shift(x, s)` of R82, for `s` from 0 up. -/
def roundShift (x : Int) (s : Nat) : Int :=
  if s = 0 then x else
  let q := x / (2 ^ s : Nat)
  let r := x - q * (2 ^ s : Nat)
  let half : Int := (2 ^ (s - 1) : Nat)
  if r > half ∨ (r = half ∧ q % 2 = 1) then q + 1 else q

/-- `saturate(q, w)` of R82: the value and whether it was changed. -/
def saturate (q : Int) (w : Nat) : Int × Bool :=
  if q > (2 ^ (w - 1) : Nat) - 1 then ((2 ^ (w - 1) : Nat) - 1, true)
  else if q < -(2 ^ (w - 1) : Nat) then (-(2 ^ (w - 1) : Nat), true)
  else (q, false)

/-- Integer square root by bits, from bit `k - 1` down. -/
def isqrtFrom (n : Nat) : Nat → Nat → Nat
  | 0, r => r
  | k + 1, r => let t := r + 2 ^ k; isqrtFrom n k (if t * t ≤ n then t else r)

/-- The floor of the square root of a number below 2^512. -/
def isqrt (n : Nat) : Nat := isqrtFrom n 256 0

/-- The square root of a non-negative rational, rounded half to even to an integer. -/
def roundSqrt (x : Rat) : Int :=
  let twice := isqrt (4 * x).floor.toNat
  if twice % 2 = 0 then (twice / 2 : Nat)
  else if (twice * twice : Nat) = 4 * x ∧ (twice / 2) % 2 = 0 then (twice / 2 : Nat)
  else (twice / 2 + 1 : Nat)

/-- 2 to an integer power. -/
def pow2 (e : Int) : Rat := if 0 ≤ e then (2 ^ e.toNat : Nat) else 1 / (2 ^ (-e).toNat : Nat)

/-! Fixed-size tables. -/

/-- The element a number selects, where it is in range. -/
def Tab.at {α : Type} {n : Nat} (v : Vector α n) (i : Nat) (d : α) : α := v.toList.getD i d

/-- Change the element a number selects, where it is in range. -/
def Tab.upd {α : Type} {n : Nat} (v : Vector α n) (i : Nat) (f : α → α) : Vector α n :=
  if h : i < n then v.set i (f v[i]) else v

end Sys2Proof.Machine
end

