-- ==== Sys2Proof/Machine/Sparse.lean ====
section
/-! DEFINITION. Sparse contents by address, in one canonical form: addresses strictly rising, and no
entry equal to what an unlisted address reads as. Memory (the image buffers, the flash, the tables) lists
bytes and reads 0 where nothing is listed; the register file lists words and reads each register's reset
value where nothing is listed. -/

namespace Sys2Proof.Machine

/-- The value at an address: the listed one, else what an unlisted address reads as. -/
def Sparse.get {β : Type} (dflt : Nat → β) (m : List (Nat × β)) (a : Nat) : β :=
  match m with
  | [] => dflt a
  | (k, v) :: r => if k = a then v else Sparse.get dflt r a

/-- Take an address out of the list. -/
def Sparse.drop {β : Type} (m : List (Nat × β)) (a : Nat) : List (Nat × β) :=
  m.filter fun c => c.1 != a

/-- Put an entry in its place by address. -/
def Sparse.insert {β : Type} (m : List (Nat × β)) (a : Nat) (v : β) : List (Nat × β) :=
  match m with
  | [] => [(a, v)]
  | (k, x) :: r => if a < k then (a, v) :: (k, x) :: r else (k, x) :: Sparse.insert r a v

/-- Write a value: writing what an unlisted address reads as takes the entry out. -/
def Sparse.set {β : Type} [DecidableEq β] (dflt : Nat → β) (m : List (Nat × β)) (a : Nat) (v : β) :
    List (Nat × β) :=
  if v = dflt a then Sparse.drop m a else Sparse.insert (Sparse.drop m a) a v

/-- The canonical form. -/
def Sparse.wf {β : Type} [DecidableEq β] (dflt : Nat → β) : List (Nat × β) → Bool
  | [] => true
  | (k, v) :: r => v != dflt k && r.all (fun c => k < c.1) && Sparse.wf dflt r

/-! Byte memories: an unlisted byte reads 0. -/

/-- What an unlisted byte reads as (erased and never-written buffers read 0; DESIGN CHOICE, log entry 3). -/
def Memory.blank (_ : Nat) : Byte := 0

def Memory.read (m : List Host.Cell) (a : Nat) : Byte := Sparse.get Memory.blank m a
def Memory.write (m : List Host.Cell) (a : Nat) (b : Byte) : List Host.Cell := Sparse.set Memory.blank m a b
def Memory.wf (m : List Host.Cell) : Bool := Sparse.wf Memory.blank m

/-- `n` bytes from an address up. -/
def Memory.readN (m : List Host.Cell) (a n : Nat) : List Byte := (List.range n).map fun i => Memory.read m (a + i)

/-- A little-endian number of `n` bytes. -/
def Memory.readLE (m : List Host.Cell) (a n : Nat) : Nat := leNat (Memory.readN m a n)

/-- Write a byte string from an address up. -/
def Memory.writeN (m : List Host.Cell) (a : Nat) : List Byte → List Host.Cell
  | [] => m
  | b :: bs => Memory.writeN (Memory.write m a b) (a + 1) bs

/-- A byte string as a memory from address 0. -/
def Memory.ofBytes (bs : List Byte) : List Host.Cell := Memory.writeN [] 0 bs

end Sys2Proof.Machine
end

