-- ==== Sys2Proof/Types/Image.lean ====
section
/-! DEFINITION. The draught image (R182 to R199): its bytes in one buffer and the length that was
transferred. Its fields are read by Machine/Image.lean. -/

namespace Sys2Proof.Machine

/-- One image buffer's contents: bytes by offset (an unlisted byte is 0) and the transferred length. -/
structure Image where
  bytes : List Host.Cell
  size  : Nat
  deriving DecidableEq, Repr

end Sys2Proof.Machine
end

