-- ==== Sys2Proof/Machine/Image.lean ====
section
/-! DEFINITION. The fields of a draught image, each at the byte offset that R182 to R199 give it. -/

namespace Sys2Proof.Machine

/-- No image: every IMAGE field reads 0. -/
def Image.blank : Image := { bytes := [], size := 0 }

/-- Little-endian fields (R182). -/
def Image.u8 (g : Image) (a : Nat) : Nat := (Memory.read g.bytes a).toNat
def Image.u16 (g : Image) (a : Nat) : Nat := Memory.readLE g.bytes a 2
def Image.u32 (g : Image) (a : Nat) : Nat := Memory.readLE g.bytes a 4
def Image.s32 (g : Image) (a : Nat) : Int := signed (g.u32 a) 32
def Image.w32 (g : Image) (a : Nat) : Word := word (g.u32 a)
def Image.bytesAt (g : Image) (a n : Nat) : List Byte := Memory.readN g.bytes a n

/-! Header (R183). -/

def Image.magic (g : Image) : Nat := g.u32 0x00
def Image.verMajor (g : Image) : Nat := g.u16 0x04
def Image.verMinor (g : Image) : Nat := g.u16 0x06
def Image.totalSize (g : Image) : Nat := g.u32 0x08
def Image.bodySize (g : Image) : Nat := g.u32 0x0C
def Image.serial (g : Image) : Word := g.w32 0x10
def Image.dirOffset (g : Image) (sec : Nat) : Nat := g.u32 (0x50 + 8 * (sec - 2))
def Image.dirLength (g : Image) (sec : Nat) : Nat := g.u32 (0x54 + 8 * (sec - 2))

/-! Section places (R184). Sections 2 to 6 begin at fixed offsets, since their lengths are fixed
multiples of 8; the later ones follow the slot table's length. -/

def Image.sec2 : Nat := 0x100
def Image.sec3 : Nat := 0x200
def Image.sec4 : Nat := 0x2C8
def Image.sec5 : Nat := 266440
def Image.sec6 : Nat := 269064
def Image.nEntries (g : Image) : Nat := g.u16 (Image.sec6 + 4)
def Image.sec7 (g : Image) : Nat := Image.sec6 + 0x140 + 8 * g.nEntries
def Image.sec8 (g : Image) : Nat := g.sec7 + 1936
def Image.sec9 (g : Image) : Nat := g.sec8 + 640
def Image.sec10 (g : Image) : Nat := g.sec9 + 32
def Image.sec11 (g : Image) : Nat := g.sec10 + 528
def Image.nField (g : Image) : Nat := g.u16 g.sec11
def Image.nGlyph (g : Image) : Nat := g.u16 (g.sec11 + 2)
def Image.glyphW (g : Image) : Nat := g.u8 (g.sec11 + 4)
def Image.glyphH (g : Image) : Nat := g.u8 (g.sec11 + 5)
def Image.glyphBytes (g : Image) : Nat := (g.glyphW * g.glyphH + 7) / 8
def Image.sec11Len (g : Image) : Nat := 8 + 16 * g.nField + g.nGlyph * g.glyphBytes
def Image.sec12 (g : Image) : Nat := (g.sec11 + g.sec11Len + 7) / 8 * 8

/-- Where a section begins, and how long it is, by R184. -/
def Image.secBase (g : Image) : Nat → Nat
  | 2 => Image.sec2 | 3 => Image.sec3 | 4 => Image.sec4 | 5 => Image.sec5 | 6 => Image.sec6
  | 7 => g.sec7 | 8 => g.sec8 | 9 => g.sec9 | 10 => g.sec10 | 11 => g.sec11 | 12 => g.sec12
  | _ => 0

def Image.secLength (g : Image) : Nat → Nat
  | 2 => 256 | 3 => 200 | 4 => 265728 | 5 => 2624 | 6 => 0x140 + 8 * g.nEntries
  | 7 => 1936 | 8 => 640 | 9 => 32 | 10 => 528 | 11 => g.sec11Len
  | 12 => g.dirLength 12
  | _ => 256

/-! Section 2, resource declaration (R186). -/

def Image.pattern (g : Image) : Nat := g.u32 (Image.sec2 + 0x14)
def Image.xbCF (g : Image) (h : Nat) : Nat := g.u16 (Image.sec2 + 0x18 + 2 * h)
def Image.xbFM (g : Image) (h : Nat) : Nat := g.u16 (Image.sec2 + 0x28 + 2 * h)
def Image.xbME (g : Image) : Nat := g.u16 (Image.sec2 + 0x38)
def Image.eLanePeak (g : Image) : Nat := g.u32 (Image.sec2 + 0x3C)
def Image.sLanePeak (g : Image) : Nat := g.u32 (Image.sec2 + 0x40)
def Image.bankBytes (g : Image) : Nat := g.u32 (Image.sec2 + 0x44)
def Image.dramBytes (g : Image) : Nat := g.u32 (Image.sec2 + 0x48)

/-! Section 3, hearth scan tables (R187). Inputs are global numbers `i` (R4): hearth `i / 16`. -/

def Image.bgPeriod (g : Image) : Nat := g.u16 Image.sec3
def Image.linkRx (g : Image) : Bool := (g.u8 (Image.sec3 + 2)).testBit 0
def Image.scanEntry (h : Nat) : Nat := Image.sec3 + 8 + 24 * h
def Image.mask (g : Image) (h : Nat) : Nat := g.u16 (Image.scanEntry h)
def Image.refSel (g : Image) (h : Nat) : Nat := g.u8 (Image.scanEntry h + 2) % 4
def Image.gainLo (g : Image) (h : Nat) : Word := g.w32 (Image.scanEntry h + 4)
def Image.gainHi (g : Image) (h : Nat) : Word := g.w32 (Image.scanEntry h + 8)
def Image.thOfs (g : Image) (h : Nat) : Nat := g.u16 (Image.scanEntry h + 12)
def Image.thAbs (g : Image) (h : Nat) : Nat := g.u16 (Image.scanEntry h + 14)

/-- The gain code of a global input (R46). -/
def Image.gainCode (g : Image) (i : Nat) : Nat :=
  g.u8 (Image.scanEntry (i / 16) + 4 + (i % 16) / 2) / (if i % 2 = 0 then 1 else 16) % 16

/-- The gain G of a global input (R46): 2 to the gain code. -/
def Image.gain (g : Image) (i : Nat) : Nat := 2 ^ g.gainCode i

/-- Is a global input enabled in its hearth's scan mask? -/
def Image.enabled (g : Image) (i : Nat) : Bool := (g.mask (i / 16)).testBit (i % 16)

/-- The enabled inputs (0 to 15) of a hearth in slot order (R52). -/
def Image.scanList (g : Image) (h : Nat) : List Nat := (List.range 16).filter fun i => (g.mask h).testBit i

/-- The position of an input in the enabled list: the slot it is sampled in (R52). -/
def Image.slotOf (g : Image) (h i : Nat) : Nat := ((List.range i).filter fun j => (g.mask h).testBit j).length

/-- The input sampled in the slot after input `i`'s, if that slot is not a gap slot (R57). -/
def Image.nextInSlot (g : Image) (h i : Nat) : Option Nat :=
  (g.scanList h)[g.slotOf h i + 1]?

/-! Section 4, flue programmes (R189). -/

def Image.flueEntry (h : Nat) : Nat := Image.sec4 + 33216 * h
def Image.cicOrder (g : Image) (h : Nat) : Nat := g.u8 (Image.flueEntry h)
def Image.nom60 (g : Image) (h : Nat) : Bool := (g.u8 (Image.flueEntry h + 1)).testBit 0
def Image.intEn (g : Image) (h : Nat) : Nat := g.u16 (Image.flueEntry h + 2)
def Image.streamLo (g : Image) (h : Nat) : Word := g.w32 (Image.flueEntry h + 4)
def Image.streamHi (g : Image) (h : Nat) : Word := g.w32 (Image.flueEntry h + 8)
def Image.trkSelLo (g : Image) (h : Nat) : Word := g.w32 (Image.flueEntry h + 12) &&& 0x77777777
def Image.trkSelHi (g : Image) (h : Nat) : Word := g.w32 (Image.flueEntry h + 16) &&& 0x77777777
def Image.trkSrc (g : Image) (t : Nat) : Nat := g.u8 (Image.flueEntry t + 20)
def Image.trkInput (g : Image) (t : Nat) : Nat := g.trkSrc t % 128
def Image.trkEn (g : Image) (t : Nat) : Bool := (g.trkSrc t).testBit 7
def Image.nDigest (g : Image) (h : Nat) : Nat := g.u8 (Image.flueEntry h + 21)
def Image.intCfg (g : Image) (h i : Nat) : Nat := g.u16 (Image.flueEntry h + 24 + 2 * i) &&& 0xF1F
def Image.digest (g : Image) (h d : Nat) : List Byte := g.bytesAt (Image.flueEntry h + 64 + 48 * d) 48
def Image.bankOffset (h : Nat) (b : Bool) : Nat := Image.flueEntry h + if b then 16832 else 448

/-- Stream set of a global input: bit 0 ROARING, 1 STEADY, 2 BANKED, 3 PQ (R91). -/
def Image.streams (g : Image) (i : Nat) : Nat :=
  g.u8 (Image.flueEntry (i / 16) + 4 + (i % 16) / 2) / (if i % 2 = 0 then 1 else 16) % 16

/-- Tracker followed by a PQ input. -/
def Image.trkSel (g : Image) (i : Nat) : Nat :=
  g.u8 (Image.flueEntry (i / 16) + 12 + (i % 16) / 2) / (if i % 2 = 0 then 1 else 16) % 8

def Image.hasPQ (g : Image) (i : Nat) : Bool := (g.streams i).testBit 3
def Image.integrated (g : Image) (i : Nat) : Bool := (g.intEn (i / 16)).testBit (i % 16)
def Image.leak (g : Image) (i : Nat) : Nat := g.intCfg (i / 16) (i % 16) % 32
def Image.intShift (g : Image) (i : Nat) : Nat := g.intCfg (i / 16) (i % 16) / 256 % 16

/-! Section 5, point definitions (R190): words as the registers named there; their reserved bits read 0 (R6). -/

def Image.inEntry (i : Nat) : Nat := Image.sec5 + 16 * i
def Image.inScale (g : Image) (i : Nat) : Nat := g.u32 (Image.inEntry i)
def Image.inCfg (g : Image) (i : Nat) : Word := g.w32 (Image.inEntry i + 4) &&& 0x71FF
def Image.inExp (g : Image) (i : Nat) : Int := signed (fieldOf (g.inCfg i) 7 0) 8
def Image.inNeg (g : Image) (i : Nat) : Bool := bitOf (g.inCfg i) 8
def Image.inKind (g : Image) (i : Nat) : Nat := fieldOf (g.inCfg i) 14 12
def Image.inGain (g : Image) (i : Nat) : Int := g.s32 (Image.inEntry i + 8)
def Image.inDelay (g : Image) (i : Nat) : Nat := g.u32 (Image.inEntry i + 12) % 2 ^ 18

def Image.pointEntry (p : Nat) : Nat := Image.sec5 + 0x800 + 16 * p
def Image.pDef (g : Image) (p : Nat) : Word := g.w32 (Image.pointEntry p) &&& 0x7737
def Image.pInA (g : Image) (p : Nat) : Word := g.w32 (Image.pointEntry p + 4)
def Image.pInB (g : Image) (p : Nat) : Word := g.w32 (Image.pointEntry p + 8) &&& 0xFFFFFF
def Image.pCable (g : Image) (p : Nat) : Nat := g.u32 (Image.pointEntry p + 12)
def Image.pType (g : Image) (p : Nat) : Nat := fieldOf (g.pDef p) 2 0
def Image.pPreset (g : Image) (p : Nat) : Nat := fieldOf (g.pDef p) 5 4
def Image.pTrk (g : Image) (p : Nat) : Nat := fieldOf (g.pDef p) 10 8
def Image.pComp (g : Image) (p : Nat) : Nat := fieldOf (g.pDef p) 13 12
def Image.pSenseFb (g : Image) (p : Nat) : Bool := bitOf (g.pDef p) 14

/-- Point types of R108. -/
def Image.isUsed (g : Image) (p : Nat) : Bool := g.pType p != 0
def Image.isDC (g : Image) (p : Nat) : Bool := g.pType p == 4
def Image.isAC (g : Image) (p : Nat) : Bool := g.pType p == 1 || g.pType p == 2 || g.pType p == 3

/-- The global input at a role position of a point, where the position is filled (R108). -/
def Image.posIn (g : Image) (p q : Nat) : Option Nat :=
  let b := g.u8 (Image.pointEntry p + 4 + q)
  if q < 7 ∧ b.testBit 7 then some (b % 128) else none

/-- The global inputs of a point. -/
def Image.inputsOf (g : Image) (p : Nat) : List Nat := (List.range 7).filterMap (g.posIn p)

/-- The elements of a point: positions of the voltage and the current (R108). -/
def Image.elements (g : Image) (p : Nat) : List (Nat × Nat) :=
  if g.pType p = 1 then [(4, 0), (5, 1), (6, 2)]
  else if g.pType p = 2 then [(4, 0), (5, 1)]
  else if g.pType p = 3 ∨ g.pType p = 4 then [(4, 0)] else []

/-- Does a point use an input, or an input of a hearth? -/
def Image.usesInput (g : Image) (p i : Nat) : Bool := g.isUsed p && (g.inputsOf p).contains i
def Image.usesHearth (g : Image) (p h : Nat) : Bool := g.isUsed p && (g.inputsOf p).any fun i => i / 16 == h

/-- Does a hearth provide an input to any point (and so feed a billing stream, R100)? -/
def Image.feedsBilling (g : Image) (h : Nat) : Bool := (List.range 32).any fun p => g.usesHearth p h

def Image.pulseEntry (c : Nat) : Nat := Image.sec5 + 0xA00 + 8 * c
def Image.pulseCfg (g : Image) (c : Nat) : Word := g.w32 (Image.pulseEntry c) &&& 0xF1F03
def Image.pulseConst (g : Image) (c : Nat) : Nat := g.u32 (Image.pulseEntry c + 4)
def Image.pulseEn (g : Image) (c : Nat) : Bool := bitOf (g.pulseCfg c) 0
def Image.pulseCal (g : Image) (c : Nat) : Bool := bitOf (g.pulseCfg c) 1
def Image.pulsePoint (g : Image) (c : Nat) : Nat := fieldOf (g.pulseCfg c) 12 8
def Image.pulseQty (g : Image) (c : Nat) : Nat := fieldOf (g.pulseCfg c) 19 16

/-! Section 6, energy-engine slot table (R191). -/

def Image.pubCycle (g : Image) : Nat := g.u32 Image.sec6
def Image.netEntry (s : Nat) : Nat := Image.sec6 + 8 + 104 * s
def Image.netK (g : Image) (s : Nat) : Nat := g.u8 (Image.netEntry s)
def Image.netA (g : Image) (s k : Nat) : Int := g.s32 (Image.netEntry s + 4 + 4 * k)
def Image.netB (g : Image) (s k : Nat) : Int := g.s32 (Image.netEntry s + 52 + 4 * k)
def Image.slotEntry (n : Nat) : Nat := Image.sec6 + 0x140 + 8 * n
def Image.slotStart (g : Image) (n : Nat) : Nat := g.u32 (Image.slotEntry n) % 2 ^ 19
def Image.slotTag (g : Image) (n : Nat) : Bool := (g.u32 (Image.slotEntry n)).testBit 31
def Image.slotLen (g : Image) (n : Nat) : Nat := g.u16 (Image.slotEntry n + 4)
def Image.slotPoint (g : Image) (n : Nat) : Nat := g.u8 (Image.slotEntry n + 6)
def Image.slotOp (g : Image) (n : Nat) : Nat := g.u8 (Image.slotEntry n + 7) % 64
def Image.slotLane (g : Image) (n : Nat) : Nat := g.u8 (Image.slotEntry n + 7) / 64

/-! Section 7, spectral budgets (R193). -/

def Image.dH (g : Image) : Nat := g.u8 g.sec7
def Image.dS (g : Image) : Nat := g.u8 (g.sec7 + 1)
def Image.nH (g : Image) : Nat := g.u8 (g.sec7 + 2)
def Image.nS (g : Image) : Nat := g.u8 (g.sec7 + 3)
def Image.harmEntry (g : Image) (j : Nat) : Nat := g.sec7 + 0x10 + 32 * j
def Image.supraEntry (g : Image) (j : Nat) : Nat := g.sec7 + 0x610 + 16 * j
def Image.harmInput (g : Image) (j : Nat) : Nat := g.u8 (g.harmEntry j) % 128
def Image.harmValid (g : Image) (j : Nat) : Bool := (g.u8 (g.harmEntry j)).testBit 7
def Image.redoBeats (g : Image) (j : Nat) : Nat := g.u16 (g.harmEntry j + 28)
def Image.supraInput (g : Image) (j : Nat) : Nat := g.u8 (g.supraEntry j) % 128
def Image.supraValid (g : Image) (j : Nat) : Bool := (g.u8 (g.supraEntry j)).testBit 7
def Image.supraPhase (g : Image) (j : Nat) : Nat := g.u8 (g.supraEntry j + 1) % 4

/-! Section 8, event thresholds (R194). -/

def Image.pcfg (g : Image) (p : Nat) : Word := g.w32 (g.sec8 + 4 * p) &&& 0xFF0007
/-- The fields of word `w` of a threshold set; its reserved bits read 0 (R6, R176). -/
def setMask : Nat → Word
  | 1 => 0x7FF07FF | 2 => 0xFF07FF | 3 => 0xFFFFFF | 4 => 0x1FFFF | 5 => 0x1FFFF | 7 => 0x7FF07FF | 9 => 0xFFFF | 13 => 0xFF
  | _ => 0xFFFFFFFF
def Image.thSet (g : Image) (s w : Nat) : Word := g.w32 (g.sec8 + 0x080 + 0x40 * s + 4 * w) &&& setMask w

/-! Section 9, banking schedule (R195). -/

def Image.bankPeriod (g : Image) : Nat := g.u8 g.sec9
def Image.bankPhase (g : Image) : Nat := g.u8 (g.sec9 + 1)
def Image.bankStart (g : Image) : Nat := g.u32 (g.sec9 + 4)
def Image.bankCycles (g : Image) : Nat := g.u32 (g.sec9 + 8)

/-! Section 10, DRAM write windows (R197). -/

def Image.nWin (g : Image) : Nat := g.u8 g.sec10
def Image.ashBase (g : Image) : Nat := g.u32 (g.sec10 + 4)
def Image.ashSize (g : Image) : Nat := g.u32 (g.sec10 + 8)
def Image.winEntry (g : Image) (n : Nat) : Nat := g.sec10 + 16 + 16 * n
def Image.winStart (g : Image) (n : Nat) : Nat := g.u32 (g.winEntry n)
def Image.winLen (g : Image) (n : Nat) : Nat := g.u32 (g.winEntry n + 4)
def Image.winUse (g : Image) (n : Nat) : Nat := g.u8 (g.winEntry n + 8)

/-! Section 11, mantel legal fields and glyphs (R198). -/

def Image.fieldEntry (g : Image) (n : Nat) : Nat := g.sec11 + 8 + 16 * n
def Image.fldPort (g : Image) (n : Nat) : Nat := g.u8 (g.fieldEntry n)
def Image.fldCode (g : Image) (n : Nat) : Nat := g.u8 (g.fieldEntry n + 1)
def Image.fldPoint (g : Image) (n : Nat) : Nat := g.u8 (g.fieldEntry n + 2)
def Image.fldFlags (g : Image) (n : Nat) : Nat := g.u8 (g.fieldEntry n + 3)
def Image.fldX (g : Image) (n : Nat) : Nat := g.u16 (g.fieldEntry n + 4)
def Image.fldY (g : Image) (n : Nat) : Nat := g.u16 (g.fieldEntry n + 6)
def Image.fldW (g : Image) (n : Nat) : Nat := g.u16 (g.fieldEntry n + 8)
def Image.fldH (g : Image) (n : Nat) : Nat := g.u16 (g.fieldEntry n + 10)
def Image.fldDigits (g : Image) (n : Nat) : Nat := g.u8 (g.fieldEntry n + 12)
def Image.fldDecimals (g : Image) (n : Nat) : Nat := g.u8 (g.fieldEntry n + 13)
def Image.glyphBase (g : Image) (n : Nat) : Nat := g.sec11 + 8 + 16 * g.nField + n * g.glyphBytes

/-- Is pixel (x, y) of glyph `n` ink? Row by row, most significant bit first (R198). -/
def Image.glyphInk (g : Image) (n x y : Nat) : Bool :=
  let k := y * g.glyphW + x
  (g.u8 (g.glyphBase n + k / 8)).testBit (7 - k % 8)

/-! Digests and what a definition is (R185, R209). -/

/-- The bytes the image digest and the signature cover (R185). -/
def Image.signedBytes (g : Image) : List Byte := g.bytesAt 0 (0x100 + g.bodySize)

/-- The listed bytes of a range, by offset within it: two ranges hold the same bytes when these agree. -/
def Image.span (g : Image) (a n : Nat) : List Host.Cell :=
  (g.bytes.filter fun c => a ≤ c.1 && c.1 < a + n).map fun c => (c.1 - a, c.2)

/-- Does the definition of a point differ between two images (R209)? -/
def Image.defChanged (a b : Image) (p : Nat) : Bool :=
  a.span (Image.pointEntry p) 16 != b.span (Image.pointEntry p) 16 ||
  (a.inputsOf p ++ b.inputsOf p).any (fun i =>
    a.span (Image.inEntry i) 16 != b.span (Image.inEntry i) 16 ||
    a.span (Image.scanEntry (i / 16)) 24 != b.span (Image.scanEntry (i / 16)) 24 ||
    a.span (Image.flueEntry (i / 16)) 33216 != b.span (Image.flueEntry (i / 16)) 33216) ||
  ((a.isAC p || b.isAC p) &&
    (a.pPreset p != b.pPreset p ||
     a.span (Image.netEntry (a.pPreset p - 1)) 104 != b.span (Image.netEntry (a.pPreset p - 1)) 104))

/-- Does an activation change the flue programme of an engine (R104)? -/
def Image.flueChanged (a b : Image) (h : Nat) : Bool :=
  a.span (Image.flueEntry h) 33216 != b.span (Image.flueEntry h) 33216

/-- Does an activation change a pulse channel's settings (R137), or those or its point's definition (R139)? -/
def Image.pulseSet (a b : Image) (c : Nat) : Bool := a.span (Image.pulseEntry c) 8 != b.span (Image.pulseEntry c) 8
def Image.pulseChanged (a b : Image) (c : Nat) : Bool := a.pulseSet b c || a.defChanged b (b.pulsePoint c)

/-- Does an activation restart the spectral channels (R212)? -/
def Image.spectralChanged (a b : Image) : Bool :=
  a.span a.sec7 1936 != b.span b.sec7 1936 || a.ashBase != b.ashBase || a.ashSize != b.ashSize

end Sys2Proof.Machine
end

