-- ==== Sys2Proof/Machine/Crypto.lean ====
section
/-! DEFINITION. The cryptographic functions that R340 names: SHA-256 and SHA-384 (FIPS 180-4), ECDSA over P-256 and P-384
(FIPS 186-5, the nonce of RFC 6979), AES-256-GCM decryption (SP 800-38D) and RFC 3394 unwrapping. PRESUMED: the spec names
these standards, and their text stands outside it (log entry 10). -/

namespace Sys2Proof.Machine

/-- The pieces of `n` elements that a list consists of, up to a number of pieces. -/
def pieces {α : Type} (n : Nat) : Nat → List α → List (List α)
  | 0, _ => []
  | k + 1, xs => xs.take n :: pieces n k (xs.drop n)

/-! FIPS 180-4. -/

/-- The first eighty primes. -/
def firstPrimes : List Nat := (List.range 410).filter fun n => 2 ≤ n && (List.range n).all fun d => d < 2 || n % d != 0

/-- The floor of a cube root, by bits. -/
def icbrtFrom (n : Nat) : Nat → Nat → Nat
  | 0, r => r
  | k + 1, r => let t := r + 2 ^ k; icbrtFrom n k (if t * t * t ≤ n then t else r)

/-- The constants K: the first 64 bits of the fractional parts of the cube roots of the first eighty primes; those of SHA-256
are the upper halves of the first 64. -/
def shaK : List Nat := firstPrimes.map fun p => icbrtFrom (p * 2 ^ 192) 68 0 % 2 ^ 64
/-- The initial values: the fractional parts of the square roots of primes. -/
def shaRoots (w : Nat) (ps : List Nat) : List (BitVec w) := ps.map fun p => BitVec.ofNat w (isqrt (p * 2 ^ (2 * w)))

/-- A member of the SHA-2 family: the rotations of its four functions. The last number of a small function is a shift. -/
structure Sha2 (w : Nat) where
  S0 : Nat × Nat × Nat
  S1 : Nat × Nat × Nat
  s0 : Nat × Nat × Nat
  s1 : Nat × Nat × Nat
  K : List (BitVec w)

def Sha2.big {w : Nat} (r : Nat × Nat × Nat) (x : BitVec w) : BitVec w :=
  x.rotateRight r.1 ^^^ x.rotateRight r.2.1 ^^^ x.rotateRight r.2.2
def Sha2.small {w : Nat} (r : Nat × Nat × Nat) (x : BitVec w) : BitVec w :=
  x.rotateRight r.1 ^^^ x.rotateRight r.2.1 ^^^ (x >>> r.2.2)

/-- One round: the working variables a to h with a constant and a schedule word. -/
def Sha2.round {w : Nat} (f : Sha2 w) (k m : BitVec w) (v : List (BitVec w)) : List (BitVec w) :=
  match v with
  | [a, b, c, d, e, g, h, i] =>
    let t1 := i + Sha2.big f.S1 e + ((e &&& g) ^^^ (~~~e &&& h)) + k + m
    let t2 := Sha2.big f.S0 a + ((a &&& b) ^^^ (a &&& c) ^^^ (b &&& c))
    [t1 + t2, a, b, c, d + t1, e, g, h]
  | v => v

/-- The sixteen schedule words in use, moved on by one. -/
def Sha2.schedule {w : Nat} (f : Sha2 w) (m : List (BitVec w)) : List (BitVec w) :=
  m.tail ++ [Sha2.small f.s1 (m.getD 14 0) + m.getD 9 0 + Sha2.small f.s0 (m.getD 1 0) + m.headD 0]

def Sha2.compress {w : Nat} (f : Sha2 w) (h m : List (BitVec w)) : List (BitVec w) :=
  let fin := f.K.foldl (fun (p : List (BitVec w) × List (BitVec w)) k => (f.round k (p.2.headD 0) p.1, f.schedule p.2)) (h, m)
  List.zipWith (· + ·) h fin.1

/-- The message padded to whole blocks of 2·w bytes: 0x80, zeros, and its length in bits. -/
def shaPad (w : Nat) (bs : List Byte) : List Byte :=
  let block := 2 * w
  let zeroes := (2 * block - (bs.length + 1 + w / 4) % block) % block
  bs ++ [0x80] ++ List.replicate zeroes 0 ++ beBytes (w / 4) (8 * bs.length)

def Sha2.hash {w : Nat} (f : Sha2 w) (h0 : List (BitVec w)) (bs : List Byte) : List (BitVec w) :=
  let padded := shaPad w bs
  (pieces (2 * w) (padded.length / (2 * w)) padded).foldl
    (fun h b => f.compress h ((pieces (w / 8) 16 b).map fun x => BitVec.ofNat w (beNat x))) h0

def sha2Small : Sha2 32 :=
  { S0 := (2, 13, 22), S1 := (6, 11, 25), s0 := (7, 18, 3), s1 := (17, 19, 10),
    K := (shaK.take 64).map fun k => BitVec.ofNat 32 (k / 2 ^ 32) }
def sha2Large : Sha2 64 :=
  { S0 := (28, 34, 39), S1 := (14, 18, 41), s0 := (1, 8, 7), s1 := (19, 61, 6), K := shaK.map (BitVec.ofNat 64) }

def wordsNat {w : Nat} (vs : List (BitVec w)) : Nat := vs.foldl (fun n v => n * 2 ^ w + v.toNat) 0
def sha256 (bs : List Byte) : BitVec 256 :=
  BitVec.ofNat 256 (wordsNat (sha2Small.hash (shaRoots 32 (firstPrimes.take 8)) bs))
def sha384 (bs : List Byte) : BitVec 384 :=
  BitVec.ofNat 384 (wordsNat ((sha2Large.hash (shaRoots 64 ((firstPrimes.drop 8).take 8)) bs).take 6))

/-! FIPS 186-5 over the curves y² = x³ − 3x + b, with SEC 1 uncompressed points. -/

structure Curve where
  p : Nat
  n : Nat
  b : Nat
  g : Nat × Nat
  /-- Bytes of a coordinate. -/
  size : Nat

def curveP256 : Curve :=
  { p := 2 ^ 256 - 2 ^ 224 + 2 ^ 192 + 2 ^ 96 - 1
    n := 0xFFFFFFFF00000000FFFFFFFFFFFFFFFFBCE6FAADA7179E84F3B9CAC2FC632551
    b := 0x5AC635D8AA3A93E7B3EBBD55769886BC651D06B0CC53B0F63BCE3C3E27D2604B
    g := (0x6B17D1F2E12C4247F8BCE6E563A440F277037D812DEB33A0F4A13945D898C296,
          0x4FE342E2FE1A7F9B8EE7EB4A7C0F9E162BCE33576B315ECECBB6406837BF51F5)
    size := 32 }
def curveP384 : Curve :=
  { p := 2 ^ 384 - 2 ^ 128 - 2 ^ 96 + 2 ^ 32 - 1
    n := 0xFFFFFFFFFFFFFFFFFFFFFFFFFFFFFFFFFFFFFFFFFFFFFFFFC7634D81F4372DDF581A0DB248B0A77AECEC196ACCC52973
    b := 0xB3312FA7E23EE7E4988E056BE3F82D19181D9C6EFE8141120314088F5013875AC656398D8A2ED19D2A85C8EDD3EC2AEF
    g := (0xAA87CA22BE8B05378EB1C71EF320AD746E1D3B628BA79B9859F741E082542A385502F25DBF55296C3A545E3872760AB7,
          0x3617DE4A96262C6F5D9E98BF9292DC29F8F41DBD289A147CE9DA3113B5F0B8C00A60B1CE1D7E819D7A431D7C90EA0E5F)
    size := 48 }

/-- x^e modulo m, over the `k` lowest bits of e. -/
def powMod (x e m : Nat) : Nat → Nat
  | 0 => 1 % m
  | k + 1 => let h := powMod (x * x % m) (e / 2) m k; if e % 2 = 1 then x * h % m else h
/-- The inverse modulo a prime below 2^384. -/
def invMod (x m : Nat) : Nat := powMod (x % m) (m - 2) m 384

/-- A point of a curve; none is the point at infinity. -/
abbrev CurvePoint := Option (Nat × Nat)

/-- The third point on the line of slope `l` through two points of the curve, mirrored. -/
def Curve.chord (c : Curve) (l : Nat) (x1 y1 x2 : Nat) : Nat × Nat :=
  let x := (l * l + 2 * c.p - x1 - x2) % c.p
  (x, (l * (x1 + c.p - x) + c.p - y1) % c.p)
def Curve.add (c : Curve) : CurvePoint → CurvePoint → CurvePoint
  | none, q => q
  | q, none => q
  | some (x1, y1), some (x2, y2) =>
    if x1 = x2 then
      (if (y1 + y2) % c.p = 0 then none
       else some (c.chord ((3 * x1 * x1 + (c.p - 3)) * invMod (2 * y1) c.p % c.p) x1 y1 x2))
    else some (c.chord ((y2 + c.p - y1) * invMod (x2 + c.p - x1) c.p % c.p) x1 y1 x2)
/-- k times a point, over the `bits` lowest bits of k. -/
def Curve.mul (c : Curve) (q : CurvePoint) (k : Nat) : Nat → CurvePoint
  | 0 => none
  | bits + 1 => let h := c.mul (c.add q q) (k / 2) bits; if k % 2 = 1 then c.add q h else h
def Curve.times (c : Curve) (k : Nat) (q : Nat × Nat) : CurvePoint := c.mul (some q) k 384

/-- The point of an uncompressed encoding, where it names one of the curve. -/
def Curve.decode (c : Curve) (bs : List Byte) : Option (Nat × Nat) :=
  let x := beNat ((bs.drop 1).take c.size)
  let y := beNat ((bs.drop 1).drop c.size)
  if bs.length = 2 * c.size + 1 ∧ bs.headD 0 = 0x04 ∧ x < c.p ∧ y < c.p ∧ (y * y + 3 * x) % c.p = (x * x * x + c.b) % c.p then
    some (x, y) else none
def Curve.encode (c : Curve) (q : Nat × Nat) : List Byte := 0x04 :: (beBytes c.size q.1 ++ beBytes c.size q.2)

/-- Does a signature (r ‖ s) over a digest verify under a public key? -/
def Curve.verify (c : Curve) (key : List Byte) (digest : Nat) (sig : List Byte) : Bool :=
  let r := beNat (sig.take c.size)
  let t := beNat (sig.drop c.size)
  match c.decode key with
  | none => false
  | some q =>
    decide (sig.length = 2 * c.size) && decide (1 ≤ r) && decide (r < c.n) && decide (1 ≤ t) && decide (t < c.n) &&
    (let w := invMod t c.n
     match c.add (c.times (digest * w % c.n) c.g) (c.times (r * w % c.n) q) with
     | some (x, _) => x % c.n == r
     | none => false)

/-- HMAC over SHA-256 with a key of 32 bytes. -/
def hmac256 (key msg : List Byte) : List Byte :=
  let pad := fun (x : Byte) => (key ++ List.replicate 32 0).map (· ^^^ x)
  let h := fun bs => beBytes 32 (sha256 bs).toNat
  h (pad 0x5C ++ h (pad 0x36 ++ msg))

/-- A P-256 signature of a digest under a private key and nonce, where it is one. -/
def signWith (d digest k : Nat) : Option (Nat × Nat) :=
  let c := curveP256
  match c.times k c.g with
  | none => none
  | some (x, _) =>
    let r := x % c.n
    let t := invMod k c.n * (digest + r * d) % c.n
    if r = 0 ∨ t = 0 then none else some (r, t)

/-- The nonces of RFC 6979 in their order, until one signs. A further candidate is drawn for fewer than one digest in 2^31; the
search is bounded at `fuel` candidates, which no digest is known to exhaust. -/
def signFrom (d digest : Nat) : Nat → List Byte → List Byte → Nat × Nat
  | 0, _, _ => (0, 0)
  | fuel + 1, k, v =>
    let v := hmac256 k v
    let t := beNat v
    match if 1 ≤ t ∧ t < curveP256.n then signWith d digest t else none with
    | some sig => sig
    | none => let k := hmac256 k (v ++ [0x00]); signFrom d digest fuel k (hmac256 k v)

/-- ECDSA P-256 over SHA-256 under a private key, with the deterministic nonce of RFC 6979; r ‖ s. -/
def ecdsaP256 (d : Nat) (msg : List Byte) : BitVec 512 :=
  let digest := (sha256 msg).toNat
  let seed := beBytes 32 d ++ beBytes 32 (digest % curveP256.n)
  let v := List.replicate 32 (0x01 : Byte)
  let k := hmac256 (List.replicate 32 0) (v ++ [0x00] ++ seed)
  let v := hmac256 k v
  let k := hmac256 k (v ++ [0x01] ++ seed)
  let sig := signFrom d digest 64 k (hmac256 k v)
  BitVec.ofNat 512 (sig.1 * 2 ^ 256 + sig.2)

/-! AES-256. -/

/-- Multiplication by x in GF(2^8), and the product. -/
def xtime (a : Nat) : Nat := if 128 ≤ a then (2 * a) % 256 ^^^ 0x1B else 2 * a
def aesMulFrom (a b : Nat) : Nat → Nat
  | 0 => 0
  | k + 1 => (if b % 2 = 1 then a else 0) ^^^ aesMulFrom (xtime a) (b / 2) k
def aesMul (a b : Nat) : Nat := aesMulFrom a b 8
/-- The S-box: the inverse in GF(2^8) (0 for 0) and the affine map. -/
def sboxOf (a : Nat) : Nat :=
  let sq := fun x => aesMul x x
  let a2 := sq a; let a4 := sq a2; let a8 := sq a4; let a16 := sq a8; let a32 := sq a16; let a64 := sq a32; let a128 := sq a64
  let i := aesMul a2 (aesMul a4 (aesMul a8 (aesMul a16 (aesMul a32 (aesMul a64 a128)))))
  let r := fun k => (i * 2 ^ k) % 256 + (i * 2 ^ k) / 256
  i ^^^ r 1 ^^^ r 2 ^^^ r 3 ^^^ r 4 ^^^ 0x63
def sboxTable : List Nat := (List.range 256).map sboxOf
def sbox (a : Nat) : Nat := sboxTable.getD a 0
def sboxInverse (a : Nat) : Nat := sboxTable.findIdx (· == a)

/-- The words of the key schedule, newest first, from the eight of the key. -/
def aesExpand : Nat → Nat → List (List Nat) → List (List Nat)
  | 0, _, ws => ws
  | k + 1, i, ws =>
    let t := ws.headD []
    let t := if i % 8 = 0 then List.zipWith (· ^^^ ·) ((t.drop 1 ++ t.take 1).map sbox) [2 ^ (i / 8 - 1), 0, 0, 0]
             else if i % 8 = 4 then t.map sbox else t
    aesExpand k (i + 1) (List.zipWith (· ^^^ ·) (ws.getD 7 []) t :: ws)
/-- The fifteen round keys. -/
def aesKeys (key : BitVec 256) : List (List Nat) :=
  let words := (pieces 4 8 ((beBytes 32 key.toNat).map BitVec.toNat)).reverse
  (pieces 4 15 (aesExpand 52 8 words).reverse).map List.flatten

/-- ShiftRows and its inverse over the sixteen bytes in column order, and MixColumns with a column of coefficients. -/
def aesShift (back : Bool) (st : List Nat) : List Nat :=
  (List.range 16).map fun i => st.getD ((i + (if back then 12 else 4) * (i % 4)) % 16) 0
def aesMix (coef st : List Nat) : List Nat :=
  (List.range 16).map fun i =>
    (List.range 4).foldl (fun a k => a ^^^ aesMul (st.getD (i / 4 * 4 + k) 0) (coef.getD ((k + 4 - i % 4) % 4) 0)) 0
def aesXor (a b : List Nat) : List Nat := List.zipWith (· ^^^ ·) a b

/-- The cipher and its inverse on one block. -/
def aesEncrypt (keys : List (List Nat)) (block : List Nat) : List Nat :=
  let st := aesXor block (keys.headD [])
  let st := ((keys.drop 1).take 13).foldl (fun st k => aesXor (aesMix [2, 3, 1, 1] (aesShift false (st.map sbox))) k) st
  aesXor (aesShift false (st.map sbox)) (keys.getD 14 [])
def aesDecrypt (keys : List (List Nat)) (block : List Nat) : List Nat :=
  let st := (aesShift true (aesXor block (keys.getD 14 []))).map sboxInverse
  let st := ((keys.drop 1).take 13).reverse.foldl
    (fun st k => (aesShift true (aesMix [14, 11, 13, 9] (aesXor st k))).map sboxInverse) st
  aesXor st (keys.headD [])

def natBlock (n k : Nat) : List Nat := (beBytes n k).map BitVec.toNat
def blockNat (bs : List Nat) : Nat := bs.foldl (fun n b => 256 * n + b) 0

/-! SP 800-38D. -/

/-- The product in GF(2^128), from the leftmost bit of `x` down. -/
def ghashMul (x v : Nat) : Nat → Nat
  | 0 => 0
  | k + 1 => (if x.testBit k then v else 0) ^^^ ghashMul x (if v % 2 = 1 then v / 2 ^^^ 0xE1 * 2 ^ 120 else v / 2) k
def ghash (h : Nat) (bs : List Byte) : Nat :=
  (pieces 16 ((bs.length + 15) / 16) bs).foldl
    (fun y b => ghashMul (y ^^^ beNat (b ++ List.replicate (16 - b.length) 0)) h 128) 0
def padBlock (bs : List Byte) : List Byte := bs ++ List.replicate ((16 - bs.length % 16) % 16) 0

/-- AES-256-GCM decryption (96-bit IV, 128-bit tag): the plaintext where the tag verifies. -/
def gcmOpen (key : BitVec 256) (iv aad ct tag : List Byte) : Option (List Byte) :=
  let keys := aesKeys key
  let e := fun n => blockNat (aesEncrypt keys (natBlock 16 n))
  let j0 := beNat iv * 2 ^ 32
  let s := ghash (e 0) (padBlock aad ++ padBlock ct ++ beBytes 8 (8 * aad.length) ++ beBytes 8 (8 * ct.length))
  if beBytes 16 (s ^^^ e (j0 + 1)) = tag then
    some ((pieces 16 ((ct.length + 15) / 16) ct).mapIdx (fun i b =>
      List.zipWith (· ^^^ ·) b (beBytes 16 (e (j0 + (i + 2) % 2 ^ 32))))).flatten
  else none

/-! RFC 3394. -/

/-- Unwrapping of a 256-bit key from its 40 bytes: the steps t = 24 down to 1 over A and R1 to R4. -/
def unwrapSteps (keys : List (List Nat)) : Nat → Nat × List Nat → Nat × List Nat
  | 0, st => st
  | t + 1, (a, rs) =>
    let i := t % 4
    let b := blockNat (aesDecrypt keys (natBlock 8 (a ^^^ (t + 1)) ++ natBlock 8 (rs.getD i 0)))
    unwrapSteps keys t (b / 2 ^ 64, rs.set i (b % 2 ^ 64))
def unwrapKey (kek : BitVec 256) (bs : List Byte) : Option (BitVec 256) :=
  let c := (pieces 8 5 bs).map beNat
  let (a, rs) := unwrapSteps (aesKeys kek) 24 (c.headD 0, c.drop 1)
  if a = 0xA6A6A6A6A6A6A6A6 then some (BitVec.ofNat 256 (rs.foldl (fun n r => n * 2 ^ 64 + r) 0)) else none

/-! The keys of the device (R341). -/

/-- The private identity key, a number from 1 to n − 1, and its public key. -/
def identityScalar : Nat := 1 + Config.identitySeed % (curveP256.n - 1)
def identityKey : List Byte := curveP256.encode ((curveP256.times identityScalar curveP256.g).getD (0, 0))

/-- ECDSA P-256 under the identity key (R230). -/
def identitySign (msg : List Byte) : BitVec 512 := ecdsaP256 identityScalar msg

/-- Does an ECDSA P-384 signature over a SHA-384 digest verify under a public key? -/
def verifyP384 (key : List Byte) (digest : BitVec 384) (sig : List Byte) : Bool := curveP384.verify key digest.toNat sig

end Sys2Proof.Machine
end

