-- ==== Sys2Proof/Types/Control.lean ====
section
/-! DEFINITION. State of the fault collector, the reset controller and the clock control (chapters "Faults,
Fireguards and Ordering Through Recovery" and "Reset, Clocks and Start-up"). Islands are numbered as R279:
0 AON, 1 SYS, 2 CONV, 3 FLUE, 4 METRO, 5 EMBER, 6 CTRL, 7 HOST, 8 DRAM, 9 SEAL, 10 LINK, 11 MANTEL. -/

namespace Sys2Proof.Machine

/-- What an island is doing: running, held in reset (by an episode, or not yet started), or isolated by its
fireguard and in L3 recovery (R283). -/
inductive IslandState
  | running | inReset | isolated
  deriving DecidableEq, Repr

/-- Fault classes (R280). -/
inductive FaultClass
  | correctable | point | island | device
  deriving DecidableEq, Repr

/-- Reset levels of an episode (R296). -/
inductive Level
  | l0 | l1 | l2
  deriving DecidableEq, Repr

/-- A fault record (R289). -/
structure FaultRecord where
  fseq   : Nat
  time   : Nat
  epoch  : Nat
  beat   : Nat
  island : Nat
  code   : Nat
  cls    : FaultClass
  action : Nat
  detail : Nat
  rep    : Nat
  flags  : Nat
  deriving DecidableEq, Repr

/-- The repeat tracking of one island (R288): the class and detection time of the fault whose recovery runs
or has ended less than 100 ms ago, and the count. -/
structure RepeatState where
  cls   : Option FaultClass
  time  : Nat
  count : Nat
  deriving DecidableEq, Repr

structure Faults where
  timeBase : Nat               -- SYS time base, 10 ns units
  queue    : List FaultRecord  -- at most 32, oldest first
  overflow : Nat
  fseq     : Nat
  corr     : Vector Nat 12
  reps     : Vector RepeatState 12
  held     : List FaultRecord  -- waiting for the EMBER island to write them (R290)
  flueAt   : Option Nat        -- time base at which an isolated FLUE was isolated (R284)
  hotTj    : Bool              -- the junction has been above 105 °C since the last record of it
  deriving DecidableEq, Repr

/-- A reset episode (R304). Times in 10 ns units of the hold. -/
structure Episode where
  level   : Level
  sources : Nat                -- bit c - 1: source c asserted during the episode
  first   : Nat                -- the source that set the level
  clkLoss : Nat
  hold    : Nat                -- since the first assertion
  deep    : Option Nat         -- since the assertion that brought it to L1 or deeper (or to POR, BOR_CORE)
  waiting : Bool               -- the metrology islands wait for the final bank (R241)
  bank    : Bool               -- EMBER completes a final bank through a POR or BOR_CORE (R304)
  deepened : Bool              -- a start that the counter deepened to L1 (R318)
  deriving DecidableEq, Repr

/-- How a start is decided (R318): pilot-light mode with its cause, an L1 first, or a start with its window, where the
trial layer may be given up. -/
inductive StartKind
  | pilot (cause : Nat) | deepen | run (rollback : Bool)
  deriving DecidableEq, Repr

/-- A release sequence in progress (R313): its level, the step whose readiness is awaited, how the start was
decided. -/
structure Release where
  level    : Level
  step     : Nat
  outcome  : Nat               -- OUTCOME of the reset-history entry (R323)
  pilot    : Bool
  sources  : Nat
  first    : Nat
  holdUs   : Nat
  time     : Nat               -- RTC count at the release
  logged   : Bool              -- the reset-history entry is written
  hostLoad : Bool              -- BOOT_SEL = 0b01: steps 9 to 12 run before step 5 (R315)
  deriving DecidableEq, Repr

structure ResetCtl where
  islands   : Vector IslandState 12
  asserted  : Nat              -- sources asserted now, bit c - 1
  porDone   : Bool             -- the release conditions of R299 are met
  episode   : Option Episode
  release   : Option Release
  lastLevel : Level
  pilot     : Bool
  pilotCause : Nat
  window    : Bool
  started   : Bool
  badStrap  : Bool
  cause     : Nat              -- RESET_CAUSE
  first     : Nat
  clkLoss   : Nat
  number    : Nat              -- RESET_EPISODE
  hold      : Nat              -- RESET_HOLD, µs
  wdtRemain : Nat              -- ms
  wdtTick   : Nat              -- 10 ns units into the current ms
  tj        : Int              -- unit 0.25 °C
  pinDrive  : Bool             -- the device drives RESET_N low (R307)
  nDraws    : Nat              -- free values drawn so far (R306; the model's own field)
  deriving DecidableEq, Repr

structure Clocks where
  refOk    : Bool
  pllM     : Bool
  pllC     : Bool
  pllD     : Bool
  pcie     : Bool
  bootSel  : Nat               -- latched at release (R308)
  clkMode  : Nat
  refDev   : Int               -- 0.1 ppm
  refValid : Bool
  deriving DecidableEq, Repr

end Sys2Proof.Machine
end

