-- ==== Sys2Proof/Types/Host.lean ====
section
/-! DEFINITION. State of the host interface (chapter "Host Interface: PCIe, Rings and Doorbells"): PCIe link,
rings, descriptors in flight, captures, interrupts, and the log of what the device wrote to host memory. Ring
set-up registers stand in the register file. -/

namespace Sys2Proof.Machine

/-- What a completion carries (R262): status, detail and the 24 bytes of RESULT. -/
structure Completion where
  status : Nat
  detail : Nat
  result : List Byte
  deriving DecidableEq, Repr

/-- How far a fetched descriptor has come: not started; posted to the mailbox; applied, waiting for its
record's SEQ or its signature; at work in another island; finished, waiting for its turn in the ring. -/
inductive Phase
  | waiting
  | posted
  | applied (session beat : Nat)
  | signing (session beat seq : Nat)
  | working
  | done (c : Completion)
  deriving DecidableEq, Repr

/-- A descriptor in flight (R265): its place in the submission order, its SQ, its 64 bytes. -/
structure Inflight where
  ord   : Nat
  sq    : Nat
  bytes : List Byte
  phase : Phase
  deriving DecidableEq, Repr

/-- A submission ring: indices, and the submission order of its unfetched descriptors, oldest first. -/
structure SqRing where
  head : Nat
  tail : Nat
  vis  : List Nat
  deriving DecidableEq, Repr

/-- A device-to-host ring (R255, R273): indices, write phase, whether a message may be raised, and the counted
entries written since the last one, with their timer. -/
structure OqRing where
  head  : Nat
  tail  : Nat
  phase : Bool
  armed : Bool
  since : Nat
  late  : Bool             -- COAL.TIME has passed for an entry while no message could be raised
  deriving DecidableEq, Repr

/-- A write of the device to host memory. -/
structure DmaWrite where
  addr  : Nat
  bytes : List Byte
  deriving DecidableEq, Repr

/-- An entry waiting for CAPQ (R272). -/
structure CapEntry where
  cap    : Nat
  isEnd  : Bool
  cause  : Nat
  flags  : Nat
  offset : Nat
  len    : Nat
  first  : Nat
  stop   : Option (Nat × Nat)  -- END: the CAPTURE_STOP that waits for it, and the samples written
  deriving DecidableEq, Repr

/-- A running capture (R272): the stream, the buffer, and the span being filled. -/
structure Capture where
  source  : Nat
  input   : Nat
  preset  : Nat
  decim   : Nat
  count   : Nat
  addr    : Nat
  start   : Nat            -- stream index of the first sample captured
  begun   : Bool           -- the stream has reached the start (TRIGGER)
  next    : Nat            -- stream index of the next sample kept
  taken   : Nat            -- samples written
  spanOff : Nat            -- buffer offset of the span being filled
  first   : Nat            -- stream index of its first sample
  flags   : Nat            -- INVALID (bit 0) and SAT (bit 1) seen in it
  stopOrd : Option Nat     -- a CAPTURE_STOP that waits for the END entry
  deriving DecidableEq, Repr

/-- The registers of the function's configuration space that host software writes and the device acts on (R249, R250, R273, R275):
MSI-X Enable and Function Mask, the payload and read request sizes as PCIe encodes them, ECRC, the bases of BAR0 and BAR2, and the
errors that AER reports, one bit per kind of failed transfer. -/
structure ConfigSpace where
  msixOn   : Bool
  funcMask : Bool
  mps      : Nat
  mrrs     : Nat
  ecrcGen  : Bool
  ecrcChk  : Bool
  bar0     : Nat
  bar2     : Nat
  aer      : Nat           -- bit k: 0 Unsupported Request, 1 Completer Abort, 2 poisoned data, 3 completion timeout
  deriving DecidableEq, Repr

structure HostIf where
  linkUp   : Bool
  speed    : Nat
  width    : Nat
  busMaster : Bool
  d3hot    : Bool
  cfg      : ConfigSpace
  failures : Nat           -- failed transfers so far (the model's own field: the free value of their kind)
  paused   : Bool          -- control firmware activation pause (R276)
  sq       : Vector SqRing 8
  oq       : Vector OqRing 11
  lastSq   : Nat           -- the SQ served last (R265)
  nextOrd  : Nat           -- next number of the submission order
  inflight : List Inflight -- in order of fetching
  peak     : Nat
  errRing  : Nat           -- HOST_ERR_INFO
  pba      : Nat           -- MSI-X pending bits
  messages : List Nat      -- vectors of the messages sent, newest first
  rcqNext  : Nat           -- next SEQ to place on RCQ
  rcqHeld  : List Nat      -- SEQs placed on RCQ and not consumed, oldest first
  evqHeld  : List Nat      -- QSEQs placed on EVQ and not consumed, oldest first
  evqLast  : Option Nat    -- the QSEQ placed last since delivery began at EVENT_QRD
  ackWait  : Option Nat    -- an acknowledgement the mailbox had no room for
  captures : Vector (Option Capture) 4
  capq     : List CapEntry -- waiting for CAPQ, oldest first
  dma      : List DmaWrite -- newest first
  faultHeld : Bool         -- fault records queued while HOST was in reset (R291)
  lastRead : Option Word   -- what the last read command returned; none: Completer Abort (R283)
  deriving DecidableEq, Repr

end Sys2Proof.Machine
end

