-- ==== Sys2Proof/Types/Link.lean ====
section
/-! DEFINITION. State of the Penad link (chapter "Penad Link: Polling Over Power Wiring"). -/

namespace Sys2Proof.Machine

/-- A frame as sent (R370 to R373): the phases, the header bits, the segment data, and the coded bits of
header and payload. -/
structure TxFrame where
  phases  : Nat
  atten   : Nat                -- TX_ATTEN, and ROTB_g and ROTC_g in units of 60°, fixed for the frame (R368)
  rotB    : List Nat
  rotC    : List Nat
  header  : Nat
  data    : List Byte
  headBits : List Bool
  bits    : List Bool
  symbols : Nat
  first   : Nat                -- grid frame of the first sample, while it is sent
  deriving DecidableEq, Repr

/-- What the exchange in progress waits for: the line to be silent for the next attempt, the end of the
request segment being sent, the reply, or a further segment of the reply. -/
inductive LinkWait
  | silence | sending (seg : Nat) | reply | segment
  deriving DecidableEq, Repr

/-- One exchange (R377 to R383): a POLL of a list entry, or the LINK_SEND of a descriptor. -/
structure Exchange where
  send    : Option Nat         -- the LINK_SEND descriptor
  entry   : Nat                -- the list entry of a POLL
  outpost : Nat
  robust  : Bool
  phases  : Nat
  retries : Nat
  timeout : Nat                -- ms
  respMax : Nat
  respAddr : Nat
  req     : List Byte
  toggle  : Bool               -- TOGGLE and RESYNC of the request message (R377)
  resync  : Bool
  attempt : Nat                -- attempts begun
  wait    : LinkWait
  replied : Bool               -- a reply header has been received in this attempt
  allCrc  : Bool               -- every attempt so far received a reply header and failed its CRC
  got     : List Byte          -- reply data received in this attempt
  seg     : Nat                -- segments of it received
  deriving DecidableEq, Repr

/-- A LINK_SEND that waits for its turn (R381). -/
structure SendWait where
  ord     : Nat
  outpost : Nat
  robust  : Bool
  retries : Nat
  timeout : Nat
  req     : List Byte
  respAddr : Nat
  respLen : Nat
  deriving DecidableEq, Repr

/-- A wide-stream sample as the receiver holds it (R374): its value, the output of the band filter, its INVALID mark, and whether
the receiver was blanked. -/
structure RxSamp where
  val     : Int
  band    : Rat
  invalid : Bool
  blank   : Bool
  deriving DecidableEq, Repr

/-- A symbol received: the discrete Fourier transform of its window on the 35 carriers, and whether the window overlaps a flagged
block (R367, R375). -/
structure RxSymbol where
  carriers : List (Int × Int)
  hit      : Bool
  deriving DecidableEq, Repr

/-- A frame in reception: the stream index of its first sample, the mean block energy of its clean SYNC symbols, and its
symbols from SYNCM on. -/
structure RxSync where
  start   : Nat
  mean    : Rat
  symbols : List RxSymbol
  deriving DecidableEq, Repr

/-- The receiver (R374, R375): the samples consumed, newest first, the stream index of the next one, the correlations with SYNCM at
the positions up to the last that have met the conditions of a frame, and the frame in reception. -/
structure Receiver where
  hist  : List RxSamp
  pos   : Nat
  run   : List Rat
  frame : Option RxSync
  deriving DecidableEq, Repr

/-- The reply of a LINK_SEND that waits for the host: the descriptor, where its data go, and its RESULT (R250). -/
structure OwedReply where
  ord    : Nat
  addr   : Nat
  data   : List Byte
  result : List Byte
  deriving DecidableEq, Repr

structure Link where
  enPend   : Bool              -- EN was cleared while a frame was sent or received (R366)
  en       : Bool              -- EN in effect
  txen     : Bool              -- LINK_TXEN is raised and the last sample of the message is not sent
  rise     : Nat               -- grid frame in which LINK_TXEN last rose
  fall     : Option Nat        -- grid frame in which it falls after the last sample (R369)
  rx       : Receiver
  owed     : List OwedReply
  banks    : Vector (List Byte) 2  -- poll lists in CTRL, 64 bytes an entry
  bank     : Bool
  live  : Bool              -- a poll list is in use
  work     : Option (List Byte)    -- the LINK island's working copy of the bank in use
  swapOrd  : Option Nat        -- the LINK_POLLSET whose bank awaits the cycle's end
  polling  : Bool              -- a poll cycle is running
  wrote    : Bool              -- a slot was written in it
  next     : Nat               -- the next entry of the cycle
  seqs     : List Nat          -- exchanges of each entry since the bank came into use
  exch     : Option Exchange
  sends    : List SendWait     -- LINK_SEND descriptors waiting, oldest first
  toggles  : Nat               -- TOGGLE of the last request message, bit per outpost
  resync   : Nat               -- outposts whose next request carries RESYNC
  frame    : Option TxFrame    -- the frame being sent
  spans    : List (Nat × Nat × Nat)  -- transmit intervals: phases, start and end in grid frames (R385)
  rejEntry : Nat
  rejOffset : Nat
  cycles   : Nat
  txFrames : Nat
  rxFrames : Nat
  crcFails : Nat
  timeouts : Nat
  erased   : Nat
  dropped  : Nat
  lastRx   : Word
  deriving DecidableEq, Repr

end Sys2Proof.Machine
end

