-- ==== Sys2Proof/Types/Mantel.lean ====
section
/-! DEFINITION. State of the mantel engine (chapter "Mantel: Legal Display Panels"). Pixels of a panel are
numbered y * 1024 + x; an unlisted pixel has level 15. -/

namespace Sys2Proof.Machine

structure Rect where
  x : Nat
  y : Nat
  w : Nat
  h : Nat
  deriving DecidableEq, Repr

/-- What an update is for: journal KIND (R404), and the clearing of a DIRTY region at a start (R407). -/
inductive UpdKind
  | legal | composition | startup | windowOff
  deriving DecidableEq, Repr

/-- An update of a port (R394): its region, waveform mode (0 full, 1 fast, 2 clear), target levels, frame count F,
temperature range, and the DRAM banks of table and map it runs on. -/
structure Update where
  kind    : UpdKind
  region  : Rect
  mode    : Nat
  targets : List (Nat × Nat)
  imageId : Nat
  frames  : Nat
  range   : Nat
  bank    : Bool
  mapBank : Bool
  deriving DecidableEq, Repr

/-- A step of the start-up redraw (R407): the clear block over the journal region, the legal fields, the rest of the
region. -/
inductive StartStep
  | clear (r : Rect)
  | legal
  | rest (r : Rect)
  deriving DecidableEq, Repr

/-- A composition that waits for its update (R402). -/
structure CompWait where
  ord     : Nat
  region  : Rect
  mode    : Nat
  imageId : Nat
  clipped : Bool
  deriving DecidableEq, Repr

/-- Where a port stands: no update; an update that waits for a temperature reading; high voltage rising;
scanning. -/
inductive PortPhase
  | idle
  | waitTemp
  | rising (u : Update)
  | scanning (u : Update)
  deriving DecidableEq, Repr

/-- A scan that an abort has stopped (R405): its update, and the start of the scan and the trigger on the time base. -/
structure StoppedScan where
  update  : Update
  start   : Nat
  trigger : Nat
  deriving DecidableEq, Repr

structure Port where
  phase    : PortPhase
  levels   : List (Nat × Nat)     -- panel levels
  comp     : List (Nat × Nat)     -- composition image
  compOk   : Bool                 -- its CRC-32 is correct
  legalPx  : Option (List (Nat × Nat))  -- legal pixels as last rendered since the island started
  start    : List StartStep       -- start-up redraw still to run, in order
  legal    : Option Rect          -- region of a pending legal update
  comps    : List CompWait        -- compositions in order of fetching
  winOff   : Bool                 -- the update that follows the end of the low-power mode is due
  window   : Rect
  winOn    : Bool
  timingErr : Bool
  mapMismatch : Bool
  hven     : Bool
  range    : Nat
  temp     : Int                  -- last reading, in units of 0.5 °C
  tempAt   : Option Nat           -- time base at the last reading; none: no reading yet
  lastKind : Nat
  lastMode : Nat
  aborted  : Bool
  frames   : Nat
  updates  : Nat
  hvWatch  : Bool                 -- aborted by a trigger, power-good still to be checked
  scanAt   : Nat                  -- time base at which frame 0 of the update started
  pol      : Bool                 -- SD_POL between updates, where POL_MODE inverts it (R392)
  stopped  : Option StoppedScan   -- the last abort of a scan (R405)
  deriving DecidableEq, Repr

/-- A waveform table (target 0) or map (targets 1 to 4): two DRAM banks (R398). -/
structure TableSlot where
  bank0   : List Host.Cell
  bank1   : List Host.Cell
  active  : Bool
  pending : Bool
  copy    : Bool               -- flash copy that holds the active GEN
  deriving DecidableEq, Repr

structure Mantel where
  run      : Bool
  request  : Bool              -- a digest request span runs
  showReq  : Bool              -- as rendered: taken at round boundaries (R401)
  commit   : Option Nat        -- target whose commit is in progress
  cause    : Nat
  tables   : Vector TableSlot 5
  ports    : Vector Port 4
  deriving DecidableEq, Repr

end Sys2Proof.Machine
end

