-- ==== Sys2Proof/Types/Pins.lean ====
section
/-! DEFINITION. State of the DRAM controller's report and of the pins and supplies (chapter "Package, Pins,
Power and Electrical Limits"). -/

namespace Sys2Proof.Machine

structure Dram where
  trained : Bool
  rate    : Nat
  failed  : Bool
  setup   : Word
  mib     : Nat
  corr    : Nat
  uncorr  : Nat
  eccAddr : Word
  deriving DecidableEq, Repr

/-- Pin levels as sampled, and what the device drives that no other block holds. -/
structure Pins where
  gpioIn  : Nat                -- levels at GPIO0 to GPIO15
  pfw     : Bool               -- PFW_N as accepted
  tamper  : Bool
  perst   : Bool               -- PERST_N low
  vddIo33Low : Bool            -- VDD_IO33 below the monitor threshold
  deriving DecidableEq, Repr

end Sys2Proof.Machine
end

