-- ==== Sys2Proof/Types/Sessions.lean ====
section
/-! DEFINITION. State of the damper (chapter "The Draught Image and the Igpox Contract"), of the session
contexts, the record queue's due records and the ember store (chapter "Sessions, Billing Records and the
Ember Store"). RTC counts are in units of 1/32 768 s. -/

namespace Sys2Proof.Machine

/-! Sessions. -/

/-- Session state (R215). -/
inductive SessState
  | free | armed | active | paused | closing | sealed
  deriving DecidableEq, Repr

/-- A tariff segment: started, or programmed for an RTC second (R218). -/
structure Segment where
  tariff  : Nat
  started : Bool
  dueAt   : Nat            -- T of a programmed change, else 0
  deriving DecidableEq, Repr

/-- A session context (R215 to R220, R232, R239). Registers count in 2^-32 Wh. -/
structure Session where
  state        : SessState
  prior        : SessState -- its state in the beat that has ended
  point        : Nat
  onCurrent    : Bool
  iStart       : Nat
  interval     : Nat
  token        : BitVec 256
  segs         : List Segment
  openSeq      : Nat
  closeSeq     : Nat
  startEpoch   : Nat
  startBeat    : Nat
  started      : Bool      -- an OPEN record has fallen due
  appliedBeat  : Nat       -- beat at which SESSION_OPEN was applied
  lastInterval : Nat
  flags        : Word
  nextFlags    : Word      -- set in this beat, shown from its session window on
  flagsBefore  : Word      -- the flags of the beats before the one that has ended last
  regs         : Vector Nat 9
  segRegs      : Vector Nat 9
  segNew       : Bool      -- a segment began at the boundary of this beat
  uncert       : Nat
  elapsed      : Nat
  deriving DecidableEq, Repr

/-- The published session window: the contexts as they stood, and the queue's free count (R247). -/
structure SessView where
  beat     : Nat
  sessions : Vector Session 160
  queue    : Nat
  deriving DecidableEq, Repr

/-! Mailbox (R22, R23). -/

/-- What the control plane posts: session commands, SIGN and ACK entries, metrology activations (R20). -/
inductive MailCmd
  | openSess (point : Nat) (onCurrent : Bool) (iStart interval tariff : Nat) (token : BitVec 256)
  | tariff (session : Nat) (programmed : Bool) (dueAt index : Nat)
  | pause (session : Nat)
  | resume (session : Nat)
  | close (session : Nat)
  | release (session : Nat)
  | sign (seq : Nat) (sig : BitVec 512) (replace : Bool)
  | ack (seq : Nat)
  | fwActivate
  deriving DecidableEq, Repr

/-- A posted entry and the descriptor (by its order of fetching) that waits for its effective beat. -/
structure MailEntry where
  cmd : MailCmd
  ord : Option Nat
  deriving DecidableEq, Repr

/-! The damper. -/

/-- State of the staging buffer (R207). -/
inductive StageState
  | empty | loading | admitting | staged | rejected
  deriving DecidableEq, Repr

structure Damper where
  beat       : Nat
  frame      : Nat
  image      : Option Image     -- the active image
  outgoing   : Option Image     -- the image replaced at the start of beat b_a, until that beat ends
  activeBuf  : Bool
  signed     : Bool
  keyMatch   : Bool
  actBeat    : Nat              -- b_a of the active image
  stage      : StageState
  staged     : Option Image     -- contents of the staging buffer
  stageOrd   : Option Nat       -- the IMAGE_STAGE descriptor that waits for the outcome
  stgSigned  : Bool
  stgMatch   : Bool
  reason     : Nat
  sect   : Nat
  offset     : Nat
  pending    : Bool             -- an IMAGE_ACTIVATE awaits its round boundary
  latchedAct : Bool
  actOrd     : Option Nat       -- the IMAGE_ACTIVATE descriptor that waits for the decision
  cause      : Nat
  blocker    : Nat
  mailbox    : List MailEntry   -- posted and not applied, oldest first (at most 64)
  latched    : Nat              -- entries at its front that the latch of R22 has taken
  applied    : Nat              -- entries applied, modulo 65 536
  xing       : Option (Nat × Nat)   -- first crossing over its bound and its peak occupancy
  rtc        : Nat              -- the latch of the boundary that began this beat
  rtcBefore  : Nat              -- the latch one beat earlier
  shadowBeat : Option (Word × Word) -- DAMPER_FRAME and DAMPER_BEAT_HI, frozen (R214)
  shadowAct  : Option Word
  deriving DecidableEq, Repr

/-! Records and the ember store. -/

/-- Record types (R231), by their codes 1 to 12. -/
inductive RecType
  | openRec | tariff | pause | resume | close | interval | event | timeSet | imageSwap | fwChange
  | powerLoss | powerReturn
  deriving DecidableEq, Repr

/-- A record that has fallen due and holds no SEQ yet. Its registers, SENSE_FB and flags are filled in at the
publication cycle of the beat (`ready`). -/
structure DueRecord where
  type    : RecType
  session : Option Nat
  point   : Nat
  time    : Nat
  beat    : Nat
  epoch   : Nat
  flags   : Word
  legal8  : Nat            -- the first 8 bytes of the legal digest, as a big-endian number
  token   : BitVec 256
  nreg    : Nat
  regs    : Vector Nat 9
  uncert  : Nat
  comp    : Nat            -- the COMP byte
  cable   : Nat
  seg     : Nat
  tariff  : Nat
  detail  : List Byte      -- 40 bytes or fewer, padded with 0
  ready   : Bool
  fall    : Nat            -- the beat in which it falls due
  order   : Nat            -- place within that beat (R224)
  ord     : Option Nat     -- the descriptor that waits for its SEQ or its signature
  deriving DecidableEq, Repr

/-- A final-bank trigger in force (R240): cause, reset source code, the last published beat. -/
structure Trigger where
  cause  : Nat
  source : Nat
  beat   : Nat
  done   : Bool            -- the marker has been written
  deriving DecidableEq, Repr

/-- What a restore found, for the first beat of the new epoch (R242, R244). -/
structure Restore where
  firstStart : Bool
  marker     : Bool
  cause      : Nat
  source     : Nat
  epoch      : Nat         -- of the banked beat
  beat       : Nat
  time       : Nat         -- RTC of the marker, or of the bank
  deriving DecidableEq, Repr

structure Ember where
  store       : List Host.Cell   -- 512 KiB, never cleared by a reset
  restored    : Bool
  markerFound : Bool
  area        : Bool             -- area of the newest bank: false A, true B
  bankSeq     : Nat
  bankBeat    : Nat
  bankLen     : Nat
  epoch       : Nat
  nextSeq     : Nat
  ackSeq      : Nat
  skipped     : Nat
  missed      : Nat
  trigger     : Option Trigger
  restore     : Option Restore   -- set by a restore, taken by the first beat of the epoch
  firstBeat   : Nat              -- the first beat of the current epoch
  lastPub     : Option Nat       -- the last beat published in this epoch
  errPoint    : Nat              -- EMBER_ERR.POINT
  due         : List DueRecord
  half0       : SessView
  half1       : SessView
  half        : Bool
  legalNow    : BitVec 384       -- legally relevant digest in force in this beat and in the one before (R347)
  legalPrev   : BitVec 384
  shadows     : List (Nat × Word)    -- frozen _HI words by register offset (R248)
  deriving DecidableEq, Repr

end Sys2Proof.Machine
end

