-- ==== Sys2Proof/Types/Spectral.lean ====
section
/-! DEFINITION. State of the spectral engine and of the event detectors (chapter "Harmonics, Supraharmonics
and Supply Events"). Positions and lengths are in units of 2^-32 wide-stream sample. -/

namespace Sys2Proof.Machine

/-! Harmonic channels (R147 to R156). -/

/-- A cycle the resampler has started and no measurement has closed. -/
structure Cycle where
  num     : Nat            -- cycle number of the channel; its window is num / m
  start   : Nat
  len     : Nat
  samples : List Samp      -- oldest first, empty while the cycle is still being formed
  shut    : Option Nat     -- the beat in which a measurement confirmed it while it was still being formed
  deriving DecidableEq, Repr

/-- A harmonic window in progress or waiting for its publication. -/
structure Window where
  num     : Nat
  cycles  : List Cycle     -- its closed cycles, by number
  redos   : Nat
  mispred : Nat
  budget  : Bool
  timeout : Bool
  dramErr : Bool
  restart : Bool
  beatC   : Nat            -- b_c, the beat in which the last cycle closed
  result  : Option (List Word)   -- frequency, THD and groups, once computed
  deriving DecidableEq, Repr

/-- A published harmonic window: window number and the words of the aperture from H_INFO on. -/
structure HarmView where
  num   : Nat
  words : List Word
  deriving DecidableEq, Repr

structure HarmChan where
  started : Bool           -- window 0 has begun
  next    : Nat            -- number of the next cycle to start
  offset  : Int            -- o of R154
  opened  : List Cycle     -- at most 12, oldest first; the last one is being formed
  windows : List Window    -- oldest first
  ash     : List Samp      -- the ash buffer: the last 2 s of wide-stream samples, newest first (R155)
  half0   : HarmView
  half1   : HarmView
  half    : Bool
  deriving DecidableEq, Repr

/-! Supraharmonic channels (R157 to R160). -/

structure SupraChan where
  interval : Nat           -- j of the interval being accumulated
  power    : List Rat      -- sum of p_k(t) over its blocks, 740 bands
  invalid  : Bool
  ready    : List (Nat × List Rat × Bool × Bool)  -- finished intervals: j, sums, INVALID, ESTIMATED
  half0    : HarmView
  half1    : HarmView
  half     : Bool
  deriving DecidableEq, Repr

structure Spectral where
  restart   : Bool
  squashes  : Nat
  redos     : Nat
  estimated : Nat
  harm      : Vector HarmChan 48
  supra     : Vector SupraChan 24
  block     : Nat          -- supraharmonic blocks ended since the numbering began
  base      : Nat          -- the beat in which block 0 begins (R212)
  deriving DecidableEq, Repr

/-! Events (R161 to R174). -/

/-- An event entry (R171), its queue number given when it enters the queue. -/
structure EventEntry where
  qseq      : Nat
  type      : Nat
  kind      : Nat
  point     : Nat
  posmask   : Nat
  ts        : Nat
  onsetBack : Nat
  duration  : Nat
  value     : Word
  deriving DecidableEq, Repr

/-- One detector of one point: open event, consecutive counts towards its start and its end, onset, the
extreme value (squared for voltages) and the positions involved. -/
structure Detector where
  isOpen  : Bool
  count   : Nat
  clear   : Nat
  onset   : Nat
  extreme : Rat
  posmask : Nat
  deriving DecidableEq, Repr

/-- The detectors of one point, by event code 1 to 10, and what they hold between evaluations. -/
structure PointEvents where
  det      : Vector Detector 10
  urmsSq   : Vector Rat 3  -- squares of the latest Urms(1/2) of positions 4 to 6
  urmsDone : Bool          -- an evaluation has been made
  urmsNext : Nat           -- wide-stream index of the next evaluation
  urmsHalf : Bool          -- the next interval is N - floor(N/2)
  f4Prev   : Rat
  f4Now    : Rat           -- fundamental output of position 4 at the last billing sample
  fresh    : Bool          -- the last billing sample has not been judged for a crossing yet
  lastTs   : Nat           -- wide-stream index of its represented instant
  u0Run    : Bool          -- a cycle of f4 runs (R164)
  u0Sq     : Rat           -- sum of ((f4 + f5 + f6) / 3)^2 over the cycle, and its last term
  u0Last   : Rat
  u0N      : Nat
  tick     : Nat           -- units of 2^-32 sample into the nominal period, while the tracker is unlocked (R165)
  lastBad  : Nat           -- wide-stream index of the last INVALID sample of an OVERRANGE event
  deriving DecidableEq, Repr

structure Events where
  point    : Vector PointEvents 32
  batch    : List EventEntry       -- declared, not yet in the queue
  slots    : List (Nat × EventEntry)  -- the queue's 1024 places by index
  unread   : Nat                   -- entries the control cores have not read
  qseq     : Nat                   -- QSEQ of the newest entry
  qrd      : Nat                   -- read index of the control cores
  overflow : Nat
  tbBeat   : Nat
  tbSec    : Nat
  tbSub    : Nat
  before   : Nat × Nat             -- beat and RTC count of the latch before it
  shadow   : Option (Word × Word × Word × Word)  -- BEAT_HI, SUBSEC, SEC_LO, SEC_HI frozen (R178)
  deriving DecidableEq, Repr

end Sys2Proof.Machine
end

