-- ==== Sys2Proof/Types/Time.lean ====
section
/-! DEFINITION. State of the AON island: the real-time clock with its set unit, calendar view and trim (chapter
"Real-Time Clock and Calendar"), and the start bookkeeping of R317. Counts are in units of 1/32 768 s. -/

namespace Sys2Proof.Machine

/-- A set that has been accepted and takes effect at the next 1/32 768 s edge (R329): the new count, the path
code (1 TIME_SET, 2 calendar) and the TIME_SET descriptor that waits for it. -/
structure SetReq where
  new  : Nat
  path : Nat
  ord  : Option Nat
  deriving DecidableEq, Repr

/-- A set that has taken effect and that the damper has not yet been told of (R329, R234). -/
structure SetNotice where
  old  : Nat
  new  : Nat
  path : Nat
  ord  : Option Nat
  deriving DecidableEq, Repr

structure Rtc where
  count    : Nat               -- SECONDS * 32 768 + FRACTION
  halted   : Bool
  written  : Nat               -- during a halt, the count as written; `count` holds
  elapsed  : Nat               -- raw crystal ticks since the halt began
  shadow   : Option (Word × Word × Word)  -- SUBSEC, SEC_LO, SEC_HI, frozen until SEC_HI is read (R328)
  calDate  : Word              -- RTC_CAL_DATE as last computed (R333)
  calTime  : Option Word       -- RTC_CAL_TIME, frozen until it is read
  unit     : Option SetReq
  notice   : Option SetNotice
  isSet    : Bool
  refuseCause : Nat
  errField : Nat
  sets     : Nat
  trimCfg  : Word              -- T0 and K in effect, taken at the last trim step
  trimOfs  : Word
  step     : Nat               -- k of the next trim step
  lastStep : Nat               -- k of the last one
  temp     : Int               -- last temperature reading, unit 0.25 °C
  corr     : Int               -- C
  withhold : Nat               -- crystal ticks still to be withheld
  starts   : Nat               -- COUNT (R317)
  pilotReq : Bool
  trial    : Bool
  cleared  : Bool              -- AON was cleared and no start has found it so yet (R337)
  deriving DecidableEq, Repr

end Sys2Proof.Machine
end

