-- ==== Sys2Proof/Types/Trust.lean ====
section
/-! DEFINITION. State of SEAL, of the flash and the firmware update, and of the auditor port (chapter
"Measured Boot, Attestation and Firmware Update"). -/

namespace Sys2Proof.Machine

/-- The seal state (R344). -/
inductive SealState
  | openState | keyed | sealed
  deriving DecidableEq, Repr

structure Seal where
  fuses    : Vector Word 19      -- as read at the last L1 or L0 release (R345)
  blown    : Vector Word 19      -- as programmed
  kek      : Bool                -- the key-encryption key is fused (R341)
  program  : Option (Nat × Word) -- the fuse word being programmed and its bits
  mreg     : Vector (BitVec 384) 8
  legal    : BitVec 384
  deriving DecidableEq, Repr

/-- The one loader behind the window of R359 and the auditor's LOAD commands (R361). -/
structure Loader where
  layer   : Nat
  total   : Nat              -- bytes
  data    : List Byte        -- bytes received, in order
  isOpen  : Bool
  busy    : Bool
  auditor : Bool             -- opened by LOAD_BEGIN
  bad     : Bool             -- a write was ignored (R364)
  result  : Nat
  deriving DecidableEq, Repr

/-- A metrology firmware activation that holds the metrology plane (R357, R358): the slot whose layer is
loaded, the descriptor that waits, whether it is the return to the other slot, and the slot given up. -/
structure MetHold where
  slot     : Bool
  ord      : Option Nat
  fallback : Bool
  ready    : Bool          -- the new layer has been verified and measured and the restore is complete
  deriving DecidableEq, Repr

structure Firmware where
  flash    : List Host.Cell
  metSlot  : Bool
  ctlSlot  : Bool
  metDigest : BitVec 384        -- PLAIN_DIGEST of the running layers
  ctlDigest : BitVec 384
  metSvn   : Nat
  ctlSvn   : Nat
  loader   : Bool               -- recovery loader in place of control firmware
  stageLayer : Nat
  stageCause : Nat
  staging  : Option Nat         -- FW_STAGE or FW_ACTIVATE in flight
  ctlAct   : Option Nat         -- FW_ACTIVATE of layer 2 that restarts CTRL
  hold     : Option MetHold
  win      : Loader
  hostMet  : Option (List Byte) -- layers and image loaded by the host, not written to flash (R359)
  hostCtl  : Option (List Byte)
  hostImage : Option Image
  deriving DecidableEq, Repr

/-- The auditor port's response state (R360): idle, busy, or ready with code and data. -/
inductive AudState
  | idle | busy | ready (code : Nat) (data : List Byte)
  deriving DecidableEq, Repr

structure Auditor where
  st      : AudState
  recover : Bool              -- source 14 asserts once the response has been shifted out
  pend    : Bool              -- busy with LOAD_END
  out     : List Byte         -- what the last poll shifted out
  deriving DecidableEq, Repr

end Sys2Proof.Machine
end

