-- ==== Sys2Proof/Machine/Init.lean ====
section
/-! DEFINITION. What each part of the machine holds after a reset that clears it (R8, and the Reset columns of
the register chapters). Values that the spec states nowhere are log entries 1 and 2. -/

namespace Sys2Proof.Machine

/-! CONV and FLUE. -/

/-- A linearity table that has never been built: no correction (log entry 2). -/
def LinTable.init : LinTable := { stages := [], corr := List.replicate 257 0, timing := List.replicate 16 0 }
def Converter.init : Converter :=
  { bank0 := .init, bank1 := .init, active := false, met := false, rebuild := .none, bgFails := 0, doubtful := false }
def Tap.init : Tap := { ctl := 0, data := 0, seq := 0, count := 0, pend := false }
def Hearth.init : Hearth :=
  { refSettled := false, refPrev := none, refMark := false, refRelease := false, ovrNow := 0, ovrBefore := 0,
    witFail := 0, anchor := none, dwell := ⟨0, 0, 0⟩, dwells := 0, last := ⟨0, 0, 0, 0, 0⟩, kindle := .off,
    waitRef := false, cause := 0, swaps := 0, bgCount := 0, doubtNow := false, main := .init, wit := .init, tap := .init }

def Resampler.init : Resampler := { running := false, start := 0, len := 0, k := 0, switchJ := 0 }
def Chain.init : Chain :=
  { integ := [], comb := [], cic := [], clampLeft := 0, wide := [], prevX := 0, acc := 0, intFill := false,
    newFill := false, due := [], pq := [], rs := .init, okFor := 0, intFor := 0 }
def Pair.init : Pair := ⟨0, 0⟩
def Tracker.init : Tracker :=
  { lp := .init, out := none, found := [], last := none, measured := none, cycles := 0, good := 0, locked := false, lastGood := none }
def Flue.init : Flue :=
  { filling := false, bankA := [], bankB := [], active := false, swapReq := false, fadeN := 0, swap := none, queued := false,
    swaps := 0, tracker := .init, shadow := none }

/-- The result windows before anything is published. -/
def PlaneWindows.init : PlaneWindows :=
  { hearth0 := ⟨0, []⟩, hearth1 := ⟨0, []⟩, hearthHalf := false, rx0 := ⟨0, []⟩, rx1 := ⟨0, []⟩, rxHalf := false }

/-! METRO. -/

def BeatAcc.init : BeatAcc :=
  { state := .unused, n := 0, nInvalid := 0, range := false, gap := false, doubt := false, pSum := 0, qSum := 0, paSum := 0, a1Sum := 0, pMax := 0,
    sq := Vector.replicate 8 0, vSum := 0, iSum := 0, vsSum := 0, vsISum := 0, vsBad := false, freq := 0,
    unlocked := false, senseFb := false, lastTs := 0, firstTs := 0 }
def PointWindow.init : PointWindow :=
  { beat := 0, status := 0, image := [0, 0, 0, 0], regs := List.replicate 9 0, nsamp := 0, p := 0, q := 0, s := 0,
    pf := 0, freq := 0, volts := [0, 0, 0], amps := [0, 0, 0, 0], pmax := 0, incP := 0, incQ := 0, p1 := 0, pmaxWh := 0 }
def Point.init : Point :=
  { state := .unused, regs := Vector.replicate 9 0, residue := Vector.replicate 9 0, fund := Vector.replicate 7 .init,
    fundOut := Vector.replicate 7 0, acc := .init, closing := .init, missNext := false, held := none,
    half0 := .init, half1 := .init, half := false }
def Pulse.init : Pulse :=
  { carry := 0, queue := [], spreadU := 0, spreadM := 0, spreadF := 0, acc := 0, pending := 0, dueNow := 0,
    lastAt := none, fresh := true, lowFor := 0, low := false, freeAt := none, count := 0 }

def HarmView.init : HarmView := ⟨0, []⟩
def HarmChan.init : HarmChan :=
  { started := false, next := 0, offset := 0, opened := [], windows := [], ash := [], half0 := .init, half1 := .init,
    half := false }
def SupraChan.init : SupraChan :=
  { interval := 0, power := [], invalid := false, ready := [], half0 := .init, half1 := .init, half := false }
def Spectral.init : Spectral :=
  { restart := false, squashes := 0, redos := 0, estimated := 0, harm := Vector.replicate 48 .init,
    supra := Vector.replicate 24 .init, block := 0, base := 0 }
def Detector.init : Detector := { isOpen := false, count := 0, clear := 0, onset := 0, extreme := 0, posmask := 0 }
def PointEvents.init : PointEvents :=
  { det := Vector.replicate 10 .init, urmsSq := Vector.replicate 3 0, urmsDone := false, urmsNext := 0, urmsHalf := false,
    f4Prev := 0, f4Now := 0, fresh := false, lastTs := 0, u0Run := false, u0Sq := 0, u0Last := 0, u0N := 0, tick := 0,
    lastBad := 0 }
def Events.init : Events :=
  { point := Vector.replicate 32 .init, batch := [], slots := [], unread := 0, qseq := 0, qrd := 0, overflow := 0,
    tbBeat := 0, tbSec := 0, tbSub := 0, before := (0, 0), shadow := none }

/-! Damper, sessions, ember controller. -/

def Session.init : Session :=
  { state := .free, prior := .free, point := 0, onCurrent := false, iStart := 0, interval := 0, token := 0, segs := [], openSeq := 0,
    closeSeq := 0, startEpoch := 0, startBeat := 0, started := false, appliedBeat := 0,
    lastInterval := 0, flags := 0, nextFlags := 0, flagsBefore := 0, regs := Vector.replicate 9 0, segRegs := Vector.replicate 9 0, segNew := false,
    uncert := 0, elapsed := 0 }
def SessView.init : SessView := { beat := 0, sessions := Vector.replicate 160 .init, queue := 0 }
def Damper.init : Damper :=
  { beat := 0, frame := 0, image := none, outgoing := none, activeBuf := false, signed := false, keyMatch := false,
    actBeat := 0, stage := .empty, staged := none, stageOrd := none, stgSigned := false, stgMatch := false, reason := 0,
    sect := 0, offset := 0, pending := false, latchedAct := false, actOrd := none, cause := 0, blocker := 0,
    mailbox := [], latched := 0, applied := 0, xing := none, rtc := 0, rtcBefore := 0, shadowBeat := none,
    shadowAct := none }
/-- The controller's state; the store's bytes survive every reset. -/
def Ember.init (store : List Host.Cell) : Ember :=
  { store := store, restored := false, markerFound := false, area := false, bankSeq := 0, bankBeat := 0, bankLen := 0,
    epoch := 0, nextSeq := 0, ackSeq := 0, skipped := 0, missed := 0, trigger := none, restore := none, firstBeat := 0, lastPub := none,
    errPoint := 0, due := [], half0 := .init, half1 := .init, half := false, legalNow := 0, legalPrev := 0,
    shadows := [] }

/-! Host interface. -/

def SqRing.init : SqRing := ⟨0, 0, []⟩
def OqRing.init : OqRing := { head := 0, tail := 0, phase := true, armed := true, since := 0, late := false }
/-- Configuration space after reset: PCIe's reset values, payload size 128 and read request size 512 bytes (log entry 89). -/
def ConfigSpace.init : ConfigSpace :=
  { msixOn := false, funcMask := false, mps := 0, mrrs := 2, ecrcGen := false, ecrcChk := false, bar0 := 0, bar2 := 0, aer := 0 }
def HostIf.init : HostIf :=
  { linkUp := false, speed := 0, width := 0, busMaster := false, d3hot := false, cfg := .init, failures := 0, paused := false,
    sq := Vector.replicate 8 .init, oq := Vector.replicate 11 .init, lastSq := 7, nextOrd := 0, inflight := [],
    peak := 0, errRing := 0, pba := 0, messages := [], rcqNext := 1, rcqHeld := [], evqHeld := [], evqLast := none, ackWait := none,
    captures := Vector.replicate 4 none, capq := [], dma := [], faultHeld := false, lastRead := none }

/-! Faults, reset, clocks. -/

def RepeatState.init : RepeatState := ⟨none, 0, 0⟩
def Faults.init : Faults :=
  { timeBase := 0, queue := [], overflow := 0, fseq := 0, corr := Vector.replicate 12 0,
    reps := Vector.replicate 12 .init, held := [], flueAt := none, hotTj := false }
/-- The start of power-up: POR asserted in an L0 episode (R299, R304), every island held. -/
def Episode.powerUp : Episode :=
  { level := .l0, sources := 1, first := 1, clkLoss := 0, hold := 0, deep := some 0, waiting := false, bank := false, deepened := false }
def ResetCtl.init : ResetCtl :=
  { islands := Vector.replicate 12 .inReset, asserted := 1, porDone := false, episode := some Episode.powerUp,
    release := none, lastLevel := .l0, pilot := false, pilotCause := 0, window := false, started := false,
    badStrap := false, cause := 0, first := 0, clkLoss := 0, number := 0, hold := 0, wdtRemain := 0, wdtTick := 0,
    tj := 0, pinDrive := true, nDraws := 0 }
def Clocks.init : Clocks :=
  { refOk := false, pllM := false, pllC := false, pllD := false, pcie := false, bootSel := 0,
    clkMode := 0, refDev := 0, refValid := false }

/-! AON: after a loss of VBAT (R337). -/

def Rtc.init (trimCfg trimOfs : Word) : Rtc :=
  { count := 0, halted := false, written := 0, elapsed := 0, shadow := none, calDate := 0x000107D0, calTime := none,
    unit := none, notice := none, isSet := false, refuseCause := 0, errField := 0, sets := 0,
    trimCfg := trimCfg, trimOfs := trimOfs, step := 0, lastStep := 0, temp := 0, corr := 0, withhold := 0, starts := 0,
    pilotReq := false, trial := false, cleared := true }

/-! Trust. A device as delivered by the log's entry 1: no fuse programmed, an erased flash reading 0. -/

def Seal.init (fuses blown : Vector Word 19) (kek : Bool) : Seal :=
  { fuses := fuses, blown := blown, kek := kek, program := none, mreg := Vector.replicate 8 0, legal := 0 }
def Loader.init : Loader :=
  { layer := 0, total := 0, data := [], isOpen := false, busy := false, auditor := false, bad := false, result := 0 }
def Firmware.init (flash : List Host.Cell) : Firmware :=
  { flash := flash, metSlot := false, ctlSlot := false, metDigest := 0, ctlDigest := 0, metSvn := 0, ctlSvn := 0,
    loader := false, stageLayer := 0, stageCause := 0, staging := none, ctlAct := none, hold := none,
    win := .init, hostMet := none, hostCtl := none, hostImage := none }
def Auditor.init : Auditor := { st := .idle, recover := false, pend := false, out := [] }

/-! Link, mantel, DRAM, pins. -/

def Link.init : Link :=
  { enPend := false, en := false, txen := false, rise := 0, fall := none, rx := { hist := [], pos := 0, run := [], frame := none },
    owed := [], banks := Vector.replicate 2 [], bank := false,
    live := false, work := none, swapOrd := none, polling := false, wrote := false, next := 0, seqs := [],
    exch := none, sends := [], toggles := 0, resync := 2 ^ 32 - 2, frame := none, spans := [],
    rejEntry := 0, rejOffset := 0, cycles := 0, txFrames := 0, rxFrames := 0, crcFails := 0, timeouts := 0, erased := 0,
    dropped := 0, lastRx := 0 }
def Rect.none : Rect := ⟨0, 0, 0, 0⟩
def Port.init : Port :=
  { phase := .idle, levels := [], comp := [], compOk := false, legalPx := none, start := [], legal := none, comps := [],
    winOff := false, window := .none, winOn := false, timingErr := false, mapMismatch := false, hven := false,
    range := 0, temp := 0, tempAt := none, lastKind := 0, lastMode := 0, aborted := false, frames := 0, updates := 0,
    hvWatch := false, scanAt := 0, pol := false, stopped := none }
def TableSlot.init : TableSlot := { bank0 := [], bank1 := [], active := false, pending := false, copy := false }
def Mantel.init : Mantel :=
  { run := false, request := false, showReq := false, commit := none, cause := 0, tables := Vector.replicate 5 .init,
    ports := Vector.replicate 4 .init }
def Dram.init : Dram :=
  { trained := false, rate := 0, failed := false, setup := 0, mib := 0, corr := 0, uncorr := 0, eccAddr := 0 }
def Pins.init : Pins := { gpioIn := 0, pfw := false, tamper := false, perst := false, vddIo33Low := false }

end Sys2Proof.Machine
end

