-- ==== Sys2Proof/Machine/RegMap.lean ====
section
/-! DEFINITION. The register map (BAR0 offsets) as far as a host write can change it: for each block its place,
its island and, for each register with a writable field, its offset, reset value and fields with their access
codes and update classes (R5 to R14). Fields that a command of its own writes are marked `own`. Registers
outside this list ignore writes; what a read returns is put together in the families' files. -/

namespace Sys2Proof.Machine

/-- Access codes with a write effect (R9). -/
inductive Access
  | rw | w1c | w1s | wo
  deriving DecidableEq, Repr

/-- Update classes of writable fields (R10). -/
inductive UpdClass
  | live | frame | stop
  deriving DecidableEq, Repr

/-- A writable field: bits `[hi:lo]`, access, class, and whether a command of its own performs its write. -/
structure FieldSpec where
  hi  : Nat
  lo  : Nat
  acc : Access
  cls : UpdClass
  own : Bool
  deriving DecidableEq, Repr

/-- A register repeated `count` times every `step` bytes; copy `i` resets to `reset + i * rstep`. -/
structure RegSpec where
  off    : Nat
  step   : Nat
  count  : Nat
  reset  : Nat
  rstep  : Nat
  fields : List FieldSpec
  deriving DecidableEq, Repr

/-- A block repeated `copies` times every `stride` bytes, in an island (R279). `reject` is its status register
with the CFG_REJECTED bit and its CFG_REJECT_ADDR register, where it has them. -/
structure BlockSpec where
  base   : Nat
  stride : Nat
  copies : Nat
  island : Nat
  reject : Option (Nat × Nat × Nat)
  regs   : List RegSpec
  deriving DecidableEq, Repr

def Fld.live (hi lo : Nat) : FieldSpec := ⟨hi, lo, .rw, .live, false⟩
def Fld.stop (hi lo : Nat) : FieldSpec := ⟨hi, lo, .rw, .stop, false⟩
def Fld.frame (hi lo : Nat) : FieldSpec := ⟨hi, lo, .rw, .frame, false⟩
def Fld.w1c (hi lo : Nat) : FieldSpec := ⟨hi, lo, .w1c, .live, false⟩
/-- A field written by a command of its own. -/
def Fld.own (hi lo : Nat) (acc : Access) : FieldSpec := ⟨hi, lo, acc, .live, true⟩

def Reg.one (off reset : Nat) (fields : List FieldSpec) : RegSpec := ⟨off, 4, 1, reset, 0, fields⟩
def Reg.many (off step count reset : Nat) (fields : List FieldSpec) : RegSpec := ⟨off, step, count, reset, 0, fields⟩

/-- GLOBAL (R44). -/
def RegMap.global : BlockSpec := ⟨0x0, 0x1000, 1, 1, none, [Reg.one 0x00C 0 [Fld.live 31 0]]⟩

/-- RESET (R324, R325). -/
def RegMap.reset : BlockSpec := ⟨0x1000, 0x1000, 1, 1, none, [
  Reg.one 0x000 0 [Fld.w1c 6 6, Fld.w1c 9 9, Fld.w1c 11 11],
  Reg.one 0x020 0 [Fld.own 0 0 .wo, Fld.own 31 16 .wo],
  Reg.one 0x024 0 [Fld.own 1 0 .wo, Fld.own 31 16 .wo],
  Reg.one 0x028 0 [Fld.own 15 0 .rw, Fld.own 31 31 .rw],
  Reg.one 0x02C 0 [Fld.own 31 16 .wo]]⟩

/-- CLOCK (R326). -/
def RegMap.clock : BlockSpec := ⟨0x2000, 0x1000, 1, 1, some (0x000, 8, 0x010), [
  Reg.one 0x000 0 [Fld.w1c 8 8],
  Reg.one 0x00C 0x10 [Fld.stop 5 0]]⟩

/-- RTC (R338). The time registers' values stand in the AON island's count. -/
def RegMap.rtc : BlockSpec := ⟨0x3000, 0x1000, 1, 0, some (0x004, 8, 0x014), [
  Reg.one 0x000 0 [Fld.own 0 0 .rw],
  Reg.one 0x004 0 [Fld.w1c 3 3, Fld.w1c 7 7, Fld.w1c 8 8],
  Reg.one 0x008 0 [Fld.stop 14 0],
  Reg.one 0x00C 0 [Fld.stop 31 0],
  Reg.one 0x010 0 [Fld.stop 7 0],
  Reg.one 0x020 0x010107D0 [Fld.live 13 0, Fld.live 19 16, Fld.live 28 24],
  Reg.one 0x024 0 [Fld.live 4 0, Fld.live 13 8, Fld.live 21 16],
  Reg.one 0x028 0 [Fld.own 0 0 .w1s, Fld.w1c 1 1],
  Reg.one 0x02C 0 [Fld.frame 11 0, Fld.frame 27 16],
  Reg.one 0x030 0 [Fld.frame 15 0],
  Reg.many 0x040 4 16 0 [Fld.live 31 0]]⟩

/-- HOST (R277) and the MSI-X table (R251). -/
def RegMap.host : BlockSpec := ⟨0x4000, 0x1000, 1, 7, some (0x000, 5, 0x018), [
  Reg.one 0x000 0 [Fld.w1c 5 5],
  Reg.one 0x004 0 [Fld.live 0 0],
  Reg.one 0x010 0 [Fld.w1c 4 0],
  Reg.one 0x01C 0xCB [Fld.live 3 0, Fld.live 7 4],
  Reg.many 0x100 0x20 8 0 [Fld.stop 31 12],
  Reg.many 0x104 0x20 8 0 [Fld.stop 31 0],
  ⟨0x108, 0x20, 8, 0x4, 0x100, [Fld.stop 3 0, Fld.stop 10 8, Fld.live 18 12, Fld.own 31 31 .rw]⟩,
  Reg.many 0x114 0x20 8 0 [Fld.w1c 1 1],
  Reg.many 0x200 0x20 11 0 [Fld.stop 31 12],
  Reg.many 0x204 0x20 11 0 [Fld.stop 31 0],
  ⟨0x208, 0x20, 11, 0x4, 0x100, [Fld.stop 3 0, Fld.live 11 8, Fld.own 31 31 .rw]⟩,
  Reg.many 0x20C 0x20 11 1 [Fld.live 7 0, Fld.live 25 16],
  Reg.many 0x218 0x20 11 0 [Fld.w1c 1 1]]⟩
def RegMap.msix : BlockSpec := ⟨0x5000, 0x800, 1, 7, none, [
  Reg.many 0x000 0x10 16 0 [Fld.live 31 2],
  Reg.many 0x004 0x10 16 0 [Fld.live 31 0],
  Reg.many 0x008 0x10 16 0 [Fld.live 31 0],
  Reg.many 0x00C 0x10 16 1 [Fld.live 0 0]]⟩

/-- HEARTH (R76, R77). -/
def RegMap.hearth : BlockSpec := ⟨0x10000, 0x1000, 8, 2, some (0x014, 3, 0x018), [
  Reg.one 0x014 0 [Fld.w1c 3 2],
  Reg.one 0x020 0 [Fld.w1c 15 0],
  Reg.one 0x024 0 [Fld.w1c 15 0],
  Reg.one 0x040 0 [Fld.frame 1 0, Fld.frame 7 4, Fld.frame 12 8],
  Reg.one 0x048 0 [Fld.w1c 0 0],
  Reg.one 0x050 0 [Fld.stop 0 0, Fld.stop 7 4, Fld.stop 25 8]]⟩

/-- FLUE (R106, R107). -/
def RegMap.flue : BlockSpec := ⟨0x18000, 0x1000, 8, 3, none, [
  Reg.one 0x024 0 [Fld.w1c 15 0],
  Reg.one 0x028 0 [Fld.w1c 15 0],
  Reg.one 0x030 0 [Fld.own 0 0 .w1s, Fld.frame 11 8],
  Reg.one 0x034 0 [Fld.w1c 6 4],
  Reg.one 0x038 0 [Fld.live 11 0],
  Reg.one 0x03C 0 [Fld.own 23 0 .wo]]⟩

/-- DAMPER (R213, R214). -/
def RegMap.damper : BlockSpec := ⟨0x20000, 0x1000, 1, 2, none, [
  Reg.one 0x038 0 [Fld.w1c 2 1],
  Reg.one 0x040 0 [Fld.w1c 0 0]]⟩

/-- ENERGY (R140, R141). -/
def RegMap.energy : BlockSpec := ⟨0x21000, 0x1000, 1, 4, none, [
  Reg.one 0x01C 0 [Fld.w1c 31 0],
  Reg.one 0x020 0 [Fld.w1c 31 0]]⟩

/-- SPECTRAL (R175), EVENT (R176), PULSE (R144), SESSION (R247). -/
def RegMap.spectral : BlockSpec := ⟨0x28000, 0x1000, 1, 4, none, [Reg.one 0x00C 0 [Fld.live 5 0, Fld.live 12 8]]⟩
def RegMap.event : BlockSpec := ⟨0x29000, 0x1000, 1, 4, none, [Reg.one 0x040 0 [Fld.live 9 0]]⟩
def RegMap.pulse : BlockSpec := ⟨0x2A000, 0x1000, 1, 4, none, [Reg.many 0x00C 0x10 8 0 [Fld.w1c 17 16]]⟩
def RegMap.session : BlockSpec := ⟨0x2B000, 0x1000, 1, 4, none, [Reg.one 0x010 0 [Fld.live 7 0]]⟩

/-- EMBER (R248). -/
def RegMap.ember : BlockSpec := ⟨0x30000, 0x1000, 1, 5, none, [
  Reg.one 0x038 0 [Fld.w1c 4 0],
  Reg.one 0x080 0 [Fld.live 18 2]]⟩

/-- SEAL (R363) and FWUPD (R364). -/
def RegMap.seal : BlockSpec := ⟨0x31000, 0x1000, 1, 9, none, [
  Reg.one 0x000 0 [Fld.w1c 4 3],
  Reg.one 0x004 0 [Fld.live 4 0],
  Reg.one 0x008 0 [Fld.live 31 0],
  Reg.one 0x00C 0 [Fld.own 0 0 .wo, Fld.own 31 16 .wo],
  Reg.one 0x010 0 [Fld.own 2 0 .wo, Fld.own 31 31 .wo],
  Reg.many 0x040 4 12 0 [Fld.live 31 0]]⟩
def RegMap.fwupd : BlockSpec := ⟨0x32000, 0x1000, 1, 1, none, [
  Reg.one 0x010 0 [Fld.own 3 0 .wo, Fld.own 28 5 .wo],
  Reg.one 0x014 0 [Fld.own 31 0 .wo]]⟩

/-- KINDLE (R78). -/
def RegMap.kindle : BlockSpec := ⟨0x33000, 0x1000, 1, 2, none, [Reg.one 0x004 0 [Fld.own 7 0 .w1s]]⟩

/-- LINK (R389). -/
def RegMap.link : BlockSpec := ⟨0x34000, 0x1000, 1, 10, some (0x000, 7, 0x018), [
  Reg.one 0x000 0 [Fld.w1c 7 7],
  Reg.one 0x004 0 [Fld.own 0 0 .rw, Fld.own 1 1 .rw],
  Reg.one 0x008 1 [Fld.stop 2 0, Fld.stop 12 8],
  Reg.one 0x00C 0 [Fld.stop 2 0, Fld.stop 5 3, Fld.stop 8 6, Fld.stop 11 9, Fld.stop 14 12, Fld.stop 17 15,
    Fld.stop 20 18, Fld.stop 23 21, Fld.stop 26 24, Fld.stop 29 27],
  Reg.one 0x010 0x800C [Fld.stop 4 0, Fld.stop 15 8],
  Reg.one 0x014 0xD [Fld.live 3 0],
  Reg.one 0x040 0 [Fld.w1c 2 0]]⟩

/-- MANTEL (R408). -/
def RegMap.mantel : BlockSpec := ⟨0x35000, 0x1000, 1, 11, some (0x000, 1, 0x00C), [
  Reg.one 0x000 0 [Fld.w1c 1 1],
  Reg.one 0x004 0x1E00 [Fld.own 0 0 .rw, Fld.live 15 8],
  Reg.one 0x008 0 [Fld.own 0 0 .w1s],
  Reg.one 0x010 0 [Fld.live 2 0, Fld.own 4 4 .w1s],
  Reg.one 0x014 0 [Fld.live 18 2],
  Reg.one 0x018 0 [Fld.own 31 0 .wo],
  Reg.one 0x01C 0 [Fld.w1c 3 3, Fld.w1c 8 8],
  Reg.many 0x100 0x40 4 0x7C00 [Fld.stop 0 0, Fld.stop 1 1, Fld.stop 3 2, Fld.stop 9 4, Fld.stop 14 10, Fld.stop 15 15],
  Reg.many 0x104 0x40 4 0x02580320 [Fld.stop 9 0, Fld.stop 25 16],
  Reg.many 0x108 0x40 4 0x00020122 [Fld.stop 9 0, Fld.stop 25 16],
  Reg.many 0x10C 0x40 4 0 [Fld.stop 1 0, Fld.stop 14 8, Fld.stop 23 16, Fld.stop 31 24],
  Reg.many 0x110 0x40 4 0 [Fld.w1c 3 2, Fld.w1c 5 5]]⟩

/-- FAULT (R294). -/
def RegMap.fault : BlockSpec := ⟨0x37000, 0x1000, 1, 1, none, [
  Reg.one 0x00C 0 [Fld.own 0 0 .w1s],
  Reg.one 0x014 0 [Fld.w1c 11 0],
  Reg.one 0x060 0 [Fld.live 3 0, Fld.live 15 8, Fld.own 31 31 .w1s]]⟩

/-- PINCTL (R432). -/
def RegMap.pinctl : BlockSpec := ⟨0x38000, 0x1000, 1, 1, none, [
  Reg.one 0x000 0 [Fld.live 15 0], Reg.one 0x004 0 [Fld.live 15 0], Reg.one 0x00C 0xFFFF [Fld.live 15 0],
  Reg.one 0x010 0 [Fld.live 15 0], Reg.one 0x014 0 [Fld.live 15 0], Reg.one 0x018 5 [Fld.live 3 0]]⟩

def RegMap.blocks : List BlockSpec := [
  RegMap.global, RegMap.reset, RegMap.clock, RegMap.rtc, RegMap.host, RegMap.msix, RegMap.hearth, RegMap.flue,
  RegMap.damper, RegMap.energy, RegMap.spectral, RegMap.event, RegMap.pulse, RegMap.session, RegMap.ember,
  RegMap.seal, RegMap.fwupd, RegMap.kindle, RegMap.link, RegMap.mantel, RegMap.fault, RegMap.pinctl]

/-- Does a block hold an address, and the offset within its copy? -/
def BlockSpec.offset (b : BlockSpec) (a : Nat) : Option Nat :=
  if b.base ≤ a ∧ a < b.base + b.stride * b.copies then some ((a - b.base) % b.stride) else none

/-- The copy of a register at an offset. -/
def RegSpec.copyAt (r : RegSpec) (off : Nat) : Option Nat :=
  if r.off ≤ off ∧ off < r.off + r.step * r.count ∧ (off - r.off) % r.step = 0 then some ((off - r.off) / r.step) else none

/-- The writable register at a BAR0 address: block, register, copy of the register. -/
def RegMap.find (a : Nat) : Option (BlockSpec × RegSpec × Nat) :=
  RegMap.blocks.findSome? fun b => (b.offset a).bind fun off =>
    b.regs.findSome? fun r => (r.copyAt off).map fun i => (b, r, i)

/-- The value a register of the register file has after reset. -/
def RegMap.dflt (a : Nat) : Word :=
  match RegMap.find a with
  | some (_, r, i) => word (r.reset + i * r.rstep)
  | none => 0

/-! The register file. -/

def Regs.get (m : List (Nat × Word)) (a : Nat) : Word := Sparse.get RegMap.dflt m a
def Regs.set (m : List (Nat × Word)) (a : Nat) (v : Word) : List (Nat × Word) := Sparse.set RegMap.dflt m a v
def Regs.wf (m : List (Nat × Word)) : Bool := Sparse.wf RegMap.dflt m

/-- Give every register of an address range its reset value. -/
def Regs.clear (m : List (Nat × Word)) (base size : Nat) : List (Nat × Word) :=
  m.filter fun c => !(base ≤ c.1 && c.1 < base + size)

/-- Give every register of an island its reset value. -/
def Regs.clearIsland (m : List (Nat × Word)) (isl : Nat) : List (Nat × Word) :=
  (RegMap.blocks.filter fun b => b.island == isl).foldl (fun m b => Regs.clear m b.base (b.stride * b.copies)) m

/-- The value a field takes in a write, and whether the write is a rejected STOP write (R9, R10, R14). -/
def FieldSpec.write (f : FieldSpec) (running : Bool) (cur w : Word) : Word × Bool :=
  let m := maskOf f.hi f.lo
  if f.own then (cur, false) else
  match f.acc with
  | .wo => (cur, false)
  | .w1c => (cur &&& ~~~(w &&& m), false)
  | .w1s => (cur ||| (w &&& m), false)
  | .rw => if f.cls = .stop ∧ running then (cur, decide (cur &&& m ≠ w &&& m)) else (mergeMask m cur w, false)

/-- A write judged field by field (R14): the new value and whether a STOP field was rejected. -/
def RegSpec.write (r : RegSpec) (running : Bool) (cur w : Word) : Word × Bool :=
  r.fields.foldl (fun acc f => let x := f.write running acc.1 w; (x.1, acc.2 || x.2)) (cur, false)

/-- Record a rejected STOP write (R10, R11): the flag, and the first offset since it was clear. -/
def Regs.reject (m : List (Nat × Word)) (b : BlockSpec) (a : Nat) : List (Nat × Word) :=
  match b.reject, b.offset a with
  | some (st, bit, addr), some off =>
    let copy := a - off
    let cur := Regs.get m (copy + st)
    if bitOf cur bit then m
    else Regs.set (Regs.set m (copy + st) (cur ||| putAt 1 bit)) (copy + addr) (word off)
  | _, _ => m

end Sys2Proof.Machine
end

