-- ==== Sys2Proof/Machine/State.lean ====
section
/-! DEFINITION. The state of the BK3160, its reset, and the ways a step can stop. Host-writable register
fields and sticky bits stand in the register file `regs`; every other register is read from the part of the
state it shows. -/

namespace Sys2Proof.Machine

structure State where
  pending : List Instr               -- commands waiting, first in, first out
  regs    : List (Nat × Word)        -- the register file, by BAR0 offset
  hearth  : Vector Hearth 8
  flue    : Vector Flue 8
  chain   : Vector Chain 128
  window  : PlaneWindows
  evals   : List (Nat × EvalState)   -- by 4 * global input + preset
  point   : Vector Point 32
  energyHi : Option Word             -- ENERGY_BEAT_HI, frozen (R141)
  pulse   : Vector Pulse 8
  spectral : Spectral
  events  : Events
  damper  : Damper
  session : Vector Session 160
  ember   : Ember
  host    : HostIf
  fault   : Faults
  rst     : ResetCtl
  clk     : Clocks
  rtc     : Rtc
  trust   : Seal
  fw      : Firmware
  aud     : Auditor
  link    : Link
  mantel  : Mantel
  dram    : Dram
  pins    : Pins
  deriving DecidableEq, Repr

/-- The machine right after reset: power-up, with POR holding the device in an L0 episode (R299, R304), no fuse
programmed, an erased flash and an ember store never written (log entry 1), and no command waiting. -/
def State.reset : State :=
  { pending := [], regs := [], hearth := Vector.replicate 8 Hearth.init, flue := Vector.replicate 8 Flue.init,
    chain := Vector.replicate 128 Chain.init,
    window := PlaneWindows.init, evals := [], point := Vector.replicate 32 Point.init, energyHi := none,
    pulse := Vector.replicate 8 Pulse.init, spectral := Spectral.init, events := Events.init, damper := Damper.init,
    session := Vector.replicate 160 Session.init, ember := Ember.init [], host := HostIf.init, fault := Faults.init,
    rst := ResetCtl.init, clk := Clocks.init, rtc := Rtc.init 0 0,
    trust := Seal.init (Vector.replicate 19 0) (Vector.replicate 19 0) true, fw := Firmware.init [],
    aud := Auditor.init, link := Link.init, mantel := Mantel.init, dram := Dram.init, pins := Pins.init }

/-- Faults of the model. None is raised: an access the device refuses is answered on the bus, with its effect
modelled (R5, R283). -/
inductive Fault
  /-- Never raised by any command (safe: the constructor exists so that the type names the absence). -/
  | absentAddress
  deriving DecidableEq, Repr

/-- Refusals. -/
inductive Refusal
  /-- A command whose meaning is not written yet, by its mnemonic. Raised by the arms of Dispatch only; safe. -/
  | notModelled (mnemonic : String)
  deriving DecidableEq, Repr

end Sys2Proof.Machine
end

