-- ==== Sys2Proof/Machine/Ops.lean ====
section
/-! DEFINITION. Named operations over the state: registers, islands, elements of its tables, CRC-32, the images,
the fault collector's queue and the completion of descriptors. Every meaning is written over these. -/

namespace Sys2Proof.Machine

/-! Registers. -/

def State.reg (s : State) (a : Nat) : Word := Regs.get s.regs a
def State.setReg (s : State) (a : Nat) (v : Word) : State := { s with regs := Regs.set s.regs a v }
def State.setBits (s : State) (a : Nat) (m : Word) : State := s.setReg a (s.reg a ||| m)
def State.setFlag (s : State) (a i : Nat) : State := s.setBits a (putAt 1 i)
def State.putField (s : State) (a hi lo v : Nat) : State := s.setReg a (mergeMask (maskOf hi lo) (s.reg a) (putAt v lo))
def State.fld (s : State) (a hi lo : Nat) : Nat := fieldOf (s.reg a) hi lo

/-! Islands (R37, R279). -/

def Isl.aon : Nat := 0
def Isl.sys : Nat := 1
def Isl.conv : Nat := 2
def Isl.flue : Nat := 3
def Isl.metro : Nat := 4
def Isl.ember : Nat := 5
def Isl.ctrl : Nat := 6
def Isl.host : Nat := 7
def Isl.dram : Nat := 8
def Isl.seal : Nat := 9
def Isl.link : Nat := 10
def Isl.mantel : Nat := 11

def State.island (s : State) (i : Nat) : IslandState := Tab.at s.rst.islands i .inReset
def State.running (s : State) (i : Nat) : Bool := s.island i == .running
def State.setIsland (s : State) (i : Nat) (v : IslandState) : State :=
  { s with rst := { s.rst with islands := Tab.upd s.rst.islands i fun _ => v } }

/-! Elements. -/

def State.hearthAt (s : State) (h : Nat) : Hearth := Tab.at s.hearth h .init
def State.updHearth (s : State) (h : Nat) (f : Hearth → Hearth) : State := { s with hearth := Tab.upd s.hearth h f }
def State.flueAt (s : State) (h : Nat) : Flue := Tab.at s.flue h .init
def State.updFlue (s : State) (h : Nat) (f : Flue → Flue) : State := { s with flue := Tab.upd s.flue h f }
def State.chainAt (s : State) (i : Nat) : Chain := Tab.at s.chain i .init
def State.updChain (s : State) (i : Nat) (f : Chain → Chain) : State := { s with chain := Tab.upd s.chain i f }
def State.pointAt (s : State) (p : Nat) : Point := Tab.at s.point p .init
def State.updPoint (s : State) (p : Nat) (f : Point → Point) : State := { s with point := Tab.upd s.point p f }
def State.sessionAt (s : State) (k : Nat) : Session := Tab.at s.session k .init
def State.updSession (s : State) (k : Nat) (f : Session → Session) : State := { s with session := Tab.upd s.session k f }
def State.pulseAt (s : State) (c : Nat) : Pulse := Tab.at s.pulse c .init
def State.updPulse (s : State) (c : Nat) (f : Pulse → Pulse) : State := { s with pulse := Tab.upd s.pulse c f }
def State.updDamper (s : State) (f : Damper → Damper) : State := { s with damper := f s.damper }
def State.updEmber (s : State) (f : Ember → Ember) : State := { s with ember := f s.ember }
def State.updHost (s : State) (f : HostIf → HostIf) : State := { s with host := f s.host }

/-! Reads with an effect: the value answered, or Completer Abort where the block's island is isolated (R283). The AON
registers are reached through SYS. -/

/-- Does an island answer a read? Not while it is isolated (R283). A stopped island and one held in reset answer what its
registers hold (R74, R320). -/
def State.replies (s : State) (i : Nat) : Bool := s.running i || (s.running Isl.sys && s.island i == .inReset)

def State.readBack (s : State) (v : Word) : State := { s with host := { s.host with lastRead := some v } }
def State.readAbort (s : State) : State := { s with host := { s.host with lastRead := none } }
def readRow (isl : Nat) (s : State) (f : State → State) : State :=
  if s.replies (if isl = Isl.aon then Isl.sys else isl) then f s else s.readAbort

/-! The images. -/

/-- The active draught image; every field of none reads 0 (R13). -/
def State.img (s : State) : Image := s.damper.image.getD Image.blank
def State.active (s : State) : Bool := s.damper.image.isSome

/-- The image under which the beat that has just ended ran: the outgoing one in beat b_a (R211). -/
def State.imgOfBeat (s : State) : Image := s.damper.outgoing.getD s.img

/-- Does the metrology plane meter: an image is active, its islands run, and no freeze or
metrology firmware activation holds it? -/
def State.metering (s : State) : Bool :=
  s.active && s.running Isl.conv && s.running Isl.metro && s.running Isl.ember &&
  s.ember.trigger.isNone && s.fw.hold.isNone

/-- Are FLUE, METRO and the EMBER controller held in a metrology firmware activation: the marker is written, and the new layer is
not ready (R357)? -/
def State.layerHeld (s : State) : Bool := s.ember.trigger.isNone && s.fw.hold.any fun h => !h.ready
/-- Does the EMBER island write fault records (R290): neither in reset, nor frozen, nor held? -/
def State.emberWrites (s : State) : Bool := s.running Isl.ember && s.ember.trigger.isNone && !s.layerHeld

/-- DAMPER_STATUS.RUNNING: an admitted image is active, and neither pilot-light mode nor a metrology firmware activation holds the
plane (R206, R329). -/
def State.damperRunning (s : State) : Bool := s.active && s.running Isl.conv && !s.rst.pilot && s.fw.hold.isNone

/-- The current grid frame, counted from frame 0 of beat 0. -/
def State.gridFrame (s : State) : Nat := 10000 * s.damper.beat + s.damper.frame

/-! CRC-32 (ISO-HDLC): polynomial 0x04C11DB7 reflected, initial value and final XOR all ones. -/

def crcStep (c : BitVec 32) : BitVec 32 := if c.toNat % 2 = 1 then (c >>> 1) ^^^ 0xEDB88320 else c >>> 1
def crcByte (c : BitVec 32) (b : Byte) : BitVec 32 :=
  (List.range 8).foldl (fun c _ => crcStep c) (c ^^^ BitVec.ofNat 32 b.toNat)
def crc32 (bs : List Byte) : Nat := ((bs.foldl crcByte 0xFFFFFFFF) ^^^ 0xFFFFFFFF).toNat

/-- A byte string followed by its CRC-32, and whether a byte string ends with the CRC-32 of what precedes it. -/
def withCrc (bs : List Byte) : List Byte := bs ++ leBytes 4 (crc32 bs)
def crcOk (bs : List Byte) : Bool :=
  4 ≤ bs.length && leNat (bs.drop (bs.length - 4)) == crc32 (bs.take (bs.length - 4))

/-- A byte string cut or padded with zeros to a length. -/
def padTo (n : Nat) (bs : List Byte) : List Byte := (bs ++ List.replicate (n - bs.length) 0).take n

/-- An optional check: something where the condition holds. -/
def guardSome (b : Bool) : Option Unit := if b then some () else none

/-- A digest as 48 or 32 bytes, most significant byte first, and back. -/
def bytes384 (d : BitVec 384) : List Byte := beBytes 48 d.toNat
def bytes256 (d : BitVec 256) : List Byte := beBytes 32 d.toNat
def of384 (bs : List Byte) : BitVec 384 := BitVec.ofNat 384 (beNat bs)

/-! Time: packed as TIME of R222, the fraction in bits [14:0], the seconds in bits [54:15], which is the count. -/

def packTime (count : Nat) : List Byte := leBytes 8 (count % 2 ^ 55)
def unpackTime (bs : List Byte) (off : Nat) : Nat := leField bs off 8

/-! Host memory (R250, R256): writes are logged, newest first. -/

def State.dmaWrite (s : State) (addr : Nat) (bs : List Byte) : State :=
  s.updHost fun h => { h with dma := ⟨addr, bs⟩ :: h.dma }

/-- Raise an MSI-X vector (R251, R273): a message, or a pending bit while the vector or the function is masked, MSI-X is not enabled,
or the device may issue no request (R250). -/
def State.masked (s : State) (v : Nat) : Bool :=
  bitOf (s.reg (0x500C + 16 * (v % 16))) 0 || s.host.cfg.funcMask || !s.host.cfg.msixOn || !s.host.busMaster
def State.raiseVector (s : State) (v : Nat) : State :=
  if s.masked v then s.updHost fun h => { h with pba := setBitN h.pba (v % 16) true }
  else s.updHost fun h => { h with messages := v % 16 :: h.messages }

/-- Set error flags of HOST_ERR, with the ring of the first one, and raise ERR_VEC (R275, R277). -/
def State.hostErrs (s : State) (bits : Word) (ring : Nat) : State :=
  let first := s.reg 0x4010 = 0
  (s.setBits 0x4010 bits).updHost (fun h => if first then { h with errRing := ring } else h)
    |>.raiseVector (s.fld 0x401C 3 0)
def State.hostErr (s : State) (bit ring : Nat) : State := s.hostErrs (putAt 1 bit) ring
/-- AER reports a failed transfer as the PCIe error that it is (R275); which of the four kinds it was no command says. -/
def State.aerError (s : State) : State :=
  s.updHost fun h => { h with failures := h.failures + 1,
                              cfg := { h.cfg with aer := setBitN h.cfg.aer (Config.failureKind h.failures).val true } }

/-! Descriptors in flight. -/

def State.flight (s : State) (ord : Nat) : Option Inflight := s.host.inflight.find? fun d => d.ord == ord
/-- Has the descriptor finished? -/
def Phase.isDone : Phase → Bool
  | .done _ => true
  | _ => false
/-- A descriptor's progress. One that has finished (failed by an isolated island among others, R284) stays as it is. -/
def Inflight.toPhase (d : Inflight) (ph : Phase) : Inflight := if d.phase.isDone then d else { d with phase := ph }
def State.setPhase (s : State) (ord : Nat) (ph : Phase) : State :=
  s.updHost fun h => { h with inflight := h.inflight.map fun d => if d.ord = ord then d.toPhase ph else d }

/-- A descriptor has finished: its completion waits for its turn (R266). -/
def State.finish (s : State) (ord status detail : Nat) (result : List Byte) : State :=
  s.setPhase ord (.done { status := status, detail := detail, result := padTo 24 result })
def State.finishOk (s : State) (ord : Nat) (result : List Byte) : State := s.finish ord 0 0 result
def State.finishFail (s : State) (ord status detail : Nat) : State := s.finish ord status detail []
def State.finishOpt (s : State) (ord : Option Nat) (status detail : Nat) (result : List Byte) : State :=
  match ord with
  | some o => s.finish o status detail result
  | none => s

/-- Fields of a descriptor (R258). -/
def Inflight.opcode (d : Inflight) : Nat := leField d.bytes 2 1
def Inflight.flagBits (d : Inflight) : Nat := leField d.bytes 3 1
def Inflight.pointNo (d : Inflight) : Nat := leField d.bytes 4 2
def Inflight.sessionNo (d : Inflight) : Nat := leField d.bytes 6 2
def Inflight.bufAddr (d : Inflight) : Nat := leField d.bytes 8 8
def Inflight.bufLen (d : Inflight) : Nat := leField d.bytes 16 4
def Inflight.op (d : Inflight) (off n : Nat) : Nat := leField d.bytes off n

/-- The number of set bits of a 32-bit mask. -/
def popCount (m : Nat) : Nat := ((List.range 32).filter fun i => m.testBit i).length

end Sys2Proof.Machine
end

