-- ==== Sys2Proof/Machine/EmberStore.lean ====
section
/-! DEFINITION. The byte layouts of the ember store (R222, R235 to R239, R289, R323, R404, R438, R439), written
from and read back to the model's own data. -/

namespace Sys2Proof.Machine

/-! The store as bytes. -/

def Ember.bytes (e : Ember) (off n : Nat) : List Byte := Memory.readN e.store off n
def Ember.le (e : Ember) (off n : Nat) : Nat := Memory.readLE e.store off n
def Ember.put (e : Ember) (off : Nat) (bs : List Byte) : Ember := { e with store := Memory.writeN e.store off bs }

/-- A register of 2^-32 units in the 12-byte canonical form (R132), and back. -/
def canon (v : Nat) : List Byte := leBytes 12 v
def zeros (n : Nat) : List Byte := List.replicate n 0

/-! Sequence partition (R438). -/

def seqBase : Nat := 0x1000
def Ember.counterOff (k : Nat) : Nat := seqBase + 0x20 * k

/-- A copy's bytes; a copy is valid when its MAGIC and its CRC are correct. -/
def counterBytes (epoch last gen : Nat) : List Byte :=
  withCrc (leBytes 4 0x54435153 ++ leBytes 4 epoch ++ leBytes 8 last ++ leBytes 8 gen ++ zeros 4)
def Ember.counterValid (e : Ember) (k : Nat) : Bool :=
  let bs := e.bytes (Ember.counterOff k) 32
  leField bs 0 4 == 0x54435153 && crcOk bs
def Ember.counterGen (e : Ember) (k : Nat) : Nat := if e.counterValid k then e.le (Ember.counterOff k + 0x10) 8 else 0

/-- The counter copy in force: the valid one with the higher GEN. -/
def Ember.counterCopy (e : Ember) : Option Nat :=
  match e.counterValid 0, e.counterValid 1 with
  | true, true => some (if e.counterGen 0 < e.counterGen 1 then 1 else 0)
  | true, false => some 0
  | false, true => some 1
  | false, false => none
def Ember.storedEpoch (e : Ember) : Nat := (e.counterCopy.map fun k => e.le (Ember.counterOff k + 4) 4).getD 0
def Ember.storedSeq (e : Ember) : Nat := (e.counterCopy.map fun k => e.le (Ember.counterOff k + 8) 8).getD 0

/-- Write the counter: the copy with the lower GEN, with one more than the other's. -/
def Ember.putCounter (e : Ember) (epoch last : Nat) : Ember :=
  let k := if e.counterGen 0 ≤ e.counterGen 1 then 0 else 1
  e.put (Ember.counterOff k) (counterBytes epoch last (max (e.counterGen 0) (e.counterGen 1) + 1))

/-- The power-loss marker (R438). -/
def markerOff : Nat := seqBase + 0x40
def markerBytes (epoch bankSeq beat cause source rtc : Nat) : List Byte :=
  withCrc (leBytes 4 0x4B524D50 ++ leBytes 4 epoch ++ leBytes 8 bankSeq ++ leBytes 8 beat ++ leBytes 1 cause ++
    leBytes 1 source ++ zeros 2 ++ packTime rtc)
def Ember.markerValid (e : Ember) : Bool :=
  let bs := e.bytes markerOff 40
  leField bs 0 4 == 0x4B524D50 && crcOk bs
/-- Invalidate the marker: its MAGIC is written 0 (R244). -/
def Ember.dropMarker (e : Ember) : Ember := e.put markerOff (zeros 4)

/-! Banking areas (R236). -/

def areaBase (b : Bool) : Nat := if b then 0xA000 else 0x2000
def bankMagic : Nat := 0x4B4E4142

/-- The length of the bank in an area by its header, CHECK included. -/
def Ember.areaLen (e : Ember) (b : Bool) : Nat :=
  64 + 256 * (e.le (areaBase b + 0x20) 2 + e.le (areaBase b + 0x22) 2) + 4

/-- A bank is valid only with a correct MAGIC and CHECK. -/
def Ember.areaValid (e : Ember) (b : Bool) : Bool :=
  e.le (areaBase b) 4 == bankMagic && e.areaLen b ≤ 0x8000 && crcOk (e.bytes (areaBase b) (e.areaLen b))
/-- Written and invalid: the header is not all zero (R248). -/
def Ember.areaBad (e : Ember) (b : Bool) : Bool :=
  !(e.areaValid b) && (e.bytes (areaBase b) 64).any fun x => x != 0
def Ember.areaSeq (e : Ember) (b : Bool) : Nat := e.le (areaBase b + 8) 8

/-- The area of the valid bank with the highest BANK_SEQ. -/
def Ember.newestArea (e : Ember) : Option Bool :=
  match e.areaValid false, e.areaValid true with
  | true, true => some (decide (e.areaSeq false < e.areaSeq true))
  | true, false => some false
  | false, true => some true
  | false, false => none

/-- Offset of record `n` of the bank in an area, and the offsets of the records of a point or a session. -/
def recOff (b : Bool) (n : Nat) : Nat := areaBase b + 64 + 256 * n
def Ember.bankPoint (e : Ember) (b : Bool) (p : Nat) : Option Nat :=
  ((List.range (e.le (areaBase b + 0x20) 2)).map (recOff b)).find? fun o => e.le o 1 == p
def Ember.bankSession (e : Ember) (b : Bool) (k : Nat) : Option Nat :=
  let np := e.le (areaBase b + 0x20) 2
  ((List.range (e.le (areaBase b + 0x22) 2)).map fun n => recOff b (np + n)).find? fun o => e.le o 2 == k

/-- Nine registers from an offset. -/
def Ember.regsAt (e : Ember) (o : Nat) : Vector Nat 9 := Vector.ofFn fun k => e.le (o + 12 * k.val) 12

def regsBytes (v : Vector Nat 9) : List Byte := v.toList.flatMap canon

/-- The ranges of bytes that make up a point's definition (R209), in image order. -/
def Image.defRanges (g : Image) (p : Nat) : List (Nat × Nat) :=
  let ins := (List.range 128).filter fun i => (g.inputsOf p).contains i
  let hs := (List.range 8).filter fun h => ins.any fun i => i / 16 == h
  (hs.map fun h => (Image.scanEntry h, 24)) ++ (hs.map fun h => (Image.flueEntry h, 33216)) ++
  (ins.map fun i => (Image.inEntry i, 16)) ++ [(Image.pointEntry p, 16)] ++
  (if g.isAC p then [(Image.netEntry (g.pPreset p - 1), 104)] else [])

/-- SHA-384 of a point's definition, as a bank's point record carries it. -/
def Image.defDigest (g : Image) (p : Nat) : BitVec 384 :=
  sha384 ((g.defRanges p).flatMap fun r => g.bytesAt r.1 r.2)

/-- A point record; its STATE is that of the published window whose POINT_STATUS it carries. -/
def bankPointRecord (g : Image) (p : Nat) (pt : Point) : List Byte :=
  let w := if pt.half then pt.half1 else pt.half0
  leBytes 1 p ++ leBytes 1 (pt.held.getD (g.pType p)) ++
  leBytes 1 (w.status.toNat % 4) ++ zeros 1 ++
  leBytes 4 w.pmax.toNat ++ leBytes 4 w.status.toNat ++ zeros 4 ++ regsBytes pt.regs ++ zeros 4 ++
  bytes384 (g.defDigest p) ++ zeros 80

def SessState.code : SessState → Nat
  | .free => 0 | .armed => 1 | .active => 2 | .paused => 3 | .closing => 4 | .sealed => 5
def SessState.ofCode : Nat → SessState
  | 1 => .armed | 2 => .active | 3 => .paused | 4 => .closing | 5 => .sealed | _ => .free
/-- ARMED, ACTIVE or PAUSED. -/
def SessState.isOpen : SessState → Bool
  | .armed => true | .active => true | .paused => true | _ => false

/-- The segments that have started, and the number and tariff of the current one. -/
def Session.started' (x : Session) : List Segment := x.segs.filter Segment.started
def Session.segNo (x : Session) : Nat := x.started'.length - 1
def Session.tariffNow (x : Session) : Nat := (x.started'.getLast?.map Segment.tariff).getD 0

/-- A session record of a bank. -/
def bankSessionRecord (k : Nat) (x : Session) : List Byte :=
  leBytes 2 k ++ leBytes 1 x.point ++ leBytes 1 x.state.code ++ leBytes 4 x.flags.toNat ++ leBytes 1 x.segNo ++
  leBytes 1 x.tariffNow ++ zeros 6 ++ regsBytes x.regs ++ regsBytes x.segRegs ++ canon x.uncert ++
  leBytes 8 x.elapsed ++ zeros 4

/-- The whole write, CHECK last. -/
def bankBytesOf (epoch bankSeq beat rtc period : Nat) (final : Bool) (points sessions : List (List Byte)) : List Byte :=
  withCrc (leBytes 4 bankMagic ++ leBytes 4 epoch ++ leBytes 8 bankSeq ++ leBytes 8 beat ++ packTime rtc ++
    leBytes 2 points.length ++ leBytes 2 sessions.length ++ leBytes 1 period ++ leBytes 1 (if final then 1 else 0) ++
    zeros 26 ++ points.flatten ++ sessions.flatten)

/-! Session contexts (R239). -/

def ctxOff (k : Nat) : Nat := 0x12000 + 256 * k
def segBytes (g : Segment) : List Byte :=
  leBytes 1 g.tariff ++ leBytes 1 (if g.started then 1 else 2) ++ zeros 1 ++ leBytes 5 g.dueAt
def ctxBytes (x : Session) : List Byte :=
  withCrc (leBytes 1 x.state.code ++ leBytes 1 x.point ++ leBytes 1 (if x.onCurrent then 1 else 0) ++
    leBytes 1 x.segs.length ++ leBytes 4 x.iStart ++ leBytes 1 x.interval ++ zeros 7 ++ bytes256 x.token ++
    padTo 64 (x.segs.flatMap segBytes) ++ leBytes 8 x.openSeq ++ leBytes 8 x.closeSeq ++ leBytes 4 x.startEpoch ++
    leBytes 4 x.lastInterval ++ leBytes 8 x.startBeat ++ leBytes 4 x.flags.toNat ++ zeros 104)
def Ember.ctxValid (e : Ember) (k : Nat) : Bool := crcOk (e.bytes (ctxOff k) 256)
/-- A context never written: 256 zero bytes, as delivered from manufacturing; it sets no CONTEXT_CHECK (log entry 115). -/
def Ember.ctxBlank (e : Ember) (k : Nat) : Bool := (e.bytes (ctxOff k) 256).all fun b => b == 0
def Ember.ctxSegs (e : Ember) (o : Nat) : List Segment :=
  (List.range (min (e.le (o + 3) 1) 8)).map fun n =>
    { tariff := e.le (o + 0x30 + 8 * n) 1, started := e.le (o + 0x31 + 8 * n) 1 == 1, dueAt := e.le (o + 0x33 + 8 * n) 5 }
/-- The session a context restores (R242 step 3): its registers come from the bank. -/
def Ember.ctxSession (e : Ember) (k : Nat) : Session :=
  let o := ctxOff k
  if e.ctxValid k then
    { Session.init with
      state := SessState.ofCode (e.le o 1), point := e.le (o + 1) 1, onCurrent := e.le (o + 2) 1 == 1,
      iStart := e.le (o + 4) 4, interval := e.le (o + 8) 1, token := BitVec.ofNat 256 (beNat (e.bytes (o + 0x10) 32)),
      segs := e.ctxSegs o, openSeq := e.le (o + 0x70) 8, closeSeq := e.le (o + 0x78) 8, startEpoch := e.le (o + 0x80) 4,
      lastInterval := e.le (o + 0x84) 4, startBeat := e.le (o + 0x88) 8, 
      started := e.le (o + 0x70) 8 != 0 || [SessState.active, .paused].contains (SessState.ofCode (e.le o 1)),
      flags := word (e.le (o + 0x90) 4), nextFlags := 0 }
  else Session.init

/-! Record queue (R222). -/

def RecType.code : RecType → Nat
  | .openRec => 1 | .tariff => 2 | .pause => 3 | .resume => 4 | .close => 5 | .interval => 6 | .event => 7
  | .timeSet => 8 | .imageSwap => 9 | .fwChange => 10 | .powerLoss => 11 | .powerReturn => 12

def entryOff (seq : Nat) : Nat := 0x1C000 + 320 * (seq % 1024)

/-- The bytes of an entry before CHECK, with STATE 0. -/
def entryBody (r : DueRecord) (seq : Nat) : List Byte :=
  leBytes 8 seq ++ leBytes 1 r.type.code ++ leBytes 1 r.nreg ++ leBytes 1 (if r.session.isSome then r.point else 0xFF) ++
  leBytes 1 r.comp ++ leBytes 2 (r.session.getD 0xFFFF) ++ zeros 2 ++ packTime r.time ++ leBytes 8 r.beat ++
  leBytes 4 r.epoch ++ leBytes 4 r.flags.toNat ++ beBytes 8 r.legal8 ++
  (if r.session.isSome then bytes256 r.token else zeros 32) ++ regsBytes r.regs ++ canon r.uncert ++ leBytes 4 r.cable ++
  leBytes 1 r.seg ++ leBytes 1 r.tariff ++ zeros 2 ++ padTo 40 r.detail ++ zeros 4
/-- A new entry: the record with its SEQ, an empty signature area. -/
def entryBytes (r : DueRecord) (seq : Nat) : List Byte := withCrc (entryBody r seq) ++ zeros 64

/-- An entry's body as CHECK covers it: STATE taken as 0. -/
def Ember.entryCovered (e : Ember) (n : Nat) : List Byte :=
  (e.bytes (entryOff n) 256).set 0x0E 0
def Ember.entryValid (e : Ember) (n : Nat) : Bool := crcOk (e.entryCovered n)
def Ember.entryBlank (e : Ember) (n : Nat) : Bool := (e.bytes (entryOff n) 256).all fun b => b == 0
def Ember.entrySeq (e : Ember) (n : Nat) : Nat := e.le (entryOff n) 8
def Ember.entryState (e : Ember) (n : Nat) : Nat := e.le (entryOff n + 0x0E) 1
def Ember.signedEntry (e : Ember) (seq : Nat) : Bool := (e.entryState seq).testBit 0
def Ember.ackedEntry (e : Ember) (seq : Nat) : Bool := (e.entryState seq).testBit 1
/-- Does the queue hold the record with a SEQ? -/
def Ember.holds (e : Ember) (seq : Nat) : Bool := e.entryValid seq && e.entrySeq seq == seq && seq != 0
/-- A bit of an entry's STATE byte, bit 0 SIGNED and bit 1 ACKED, set. -/
def Ember.markEntry (e : Ember) (seq bit : Nat) : Ember :=
  e.put (entryOff seq + 0x0E) (leBytes 1 (e.entryState seq ||| 2 ^ bit))
def Ember.storeSig (e : Ember) (seq : Nat) (sig : BitVec 512) : Ember :=
  (e.put (entryOff seq + 0x100) (beBytes 64 sig.toNat)).markEntry seq 0

/-- The highest SEQ held by an entry whose CHECK is correct. -/
def Ember.highestSeq (e : Ember) : Nat :=
  (List.range 1024).foldl (fun m n => if e.entryValid n then max m (e.entrySeq n) else m) 0
/-- Entries with a wrong CHECK (R248); one that is all zero has never been written (log entry 115). -/
def Ember.badEntries (e : Ember) : Bool := (List.range 1024).any fun n => !(e.entryValid n) && !(e.entryBlank n)
/-- The highest acknowledged SEQ found in the queue. -/
def Ember.highestAcked (e : Ember) : Nat :=
  (List.range 1024).foldl (fun m n => if e.entryValid n && e.ackedEntry n then max m (e.entrySeq n) else m) 0

/-- f of R227: places of the queue that hold no issued, unacknowledged record. -/
def Ember.free (e : Ember) : Nat := 1024 - (e.nextSeq - 1 - e.ackSeq)
/-- Queue state (R227): 0 NORMAL, 1 LOW, 2 GATED. -/
def queueState (f : Nat) : Nat := if 384 ≤ f then 0 else if 336 ≤ f then 1 else 2
def Ember.gated (e : Ember) : Bool := queueState e.free == 2
def Ember.low (e : Ember) : Bool := queueState e.free != 0

/-! Configuration digest partition (R439). -/

def cfgOff (k : Nat) : Nat := 0x71000 + 0x80 * k
def cfgBytes (gen : Nat) (image legal : BitVec 384) (epoch : Nat) : List Byte :=
  withCrc (leBytes 4 0x47494443 ++ leBytes 4 gen ++ bytes384 image ++ bytes384 legal ++ leBytes 4 epoch ++ zeros 16)
def Ember.cfgValid (e : Ember) (k : Nat) : Bool :=
  let bs := e.bytes (cfgOff k) 0x80
  leField bs 0 4 == 0x47494443 && crcOk bs
def Ember.cfgGen (e : Ember) (k : Nat) : Nat := if e.cfgValid k then e.le (cfgOff k + 4) 4 else 0
def Ember.cfgCopy (e : Ember) : Option Nat :=
  match e.cfgValid 0, e.cfgValid 1 with
  | true, true => some (if e.cfgGen 0 < e.cfgGen 1 then 1 else 0)
  | true, false => some 0
  | false, true => some 1
  | false, false => none
/-- The held image digest and legally relevant digest; all zero while neither copy is valid. -/
def Ember.heldImage (e : Ember) : BitVec 384 := (e.cfgCopy.map fun k => of384 (e.bytes (cfgOff k + 8) 48)).getD 0
def Ember.heldLegal (e : Ember) : BitVec 384 := (e.cfgCopy.map fun k => of384 (e.bytes (cfgOff k + 0x38) 48)).getD 0
def Ember.putCfg (e : Ember) (image legal : BitVec 384) : Ember :=
  let k := if e.cfgGen 0 ≤ e.cfgGen 1 then 0 else 1
  e.put (cfgOff k) (cfgBytes (max (e.cfgGen 0) (e.cfgGen 1) + 1) image legal e.epoch)

/-! Fault and reset history (R289, R290, R323). -/

def FaultClass.code : FaultClass → Nat
  | .correctable => 0 | .point => 1 | .island => 2 | .device => 3
def faultBytes (r : FaultRecord) : List Byte :=
  leBytes 4 r.fseq ++ leBytes 8 r.time ++ leBytes 4 r.epoch ++ leBytes 8 r.beat ++ leBytes 1 r.island ++ leBytes 1 r.code ++
  leBytes 1 r.cls.code ++ leBytes 1 r.action ++ leBytes 2 r.detail ++ leBytes 1 r.rep ++ leBytes 1 r.flags
def Ember.putFault (e : Ember) (r : FaultRecord) : Ember := e.put (0x6D000 + 32 * (r.fseq % 384)) (faultBytes r)
/-- The highest FSEQ in the partition, from which FSEQ continues. -/
def Ember.highestFseq (e : Ember) : Nat :=
  (List.range 384).foldl (fun m n => max m (e.le (0x6D000 + 32 * n) 4)) 0

def resetEntryOff (n : Nat) : Nat := 0x70000 + 32 * (n % 128)
def Ember.resetEntryValid (e : Ember) (n : Nat) : Bool := crcOk (e.bytes (resetEntryOff n) 32)
def Ember.highestEpisode (e : Ember) : Nat :=
  (List.range 128).foldl (fun m n => if e.resetEntryValid n then max m (e.le (resetEntryOff n) 4) else m) 0
/-- Episodes of the history that held source 8, and the RTC seconds of the latest (attestation key 16). -/
def Ember.tamperCount (e : Ember) : Nat :=
  ((List.range 128).filter fun n => e.resetEntryValid n && (e.le (resetEntryOff n + 16) 2).testBit 7).length
def Ember.tamperLast (e : Ember) : Nat :=
  ((List.range 128).foldl (fun (m : Nat × Nat) n =>
    if e.resetEntryValid n && (e.le (resetEntryOff n + 16) 2).testBit 7 && m.1 ≤ e.le (resetEntryOff n) 4 then
      (e.le (resetEntryOff n) 4, e.le (resetEntryOff n + 4) 8 / 32768) else m) (0, 0)).2

/-! Display journal (R404). -/

def journalOff (p k : Nat) : Nat := 0x6C000 + 0x80 * p + 0x40 * k
def Ember.journalValid (e : Ember) (p k : Nat) : Bool :=
  let bs := e.bytes (journalOff p k) 64
  leField bs 0 4 == 0x4C4E524A && crcOk bs
def Ember.journalGen (e : Ember) (p k : Nat) : Nat := if e.journalValid p k then e.le (journalOff p k + 4) 4 else 0
def Ember.journalSlot (e : Ember) (p : Nat) : Option Nat :=
  match e.journalValid p 0, e.journalValid p 1 with
  | true, true => some (if e.journalGen p 0 < e.journalGen p 1 then 1 else 0)
  | true, false => some 0
  | false, true => some 1
  | false, false => none
def Ember.journalDirty (e : Ember) (p : Nat) : Bool :=
  (e.journalSlot p).any fun k => e.le (journalOff p k + 9) 1 == 1
def Ember.journalRegion (e : Ember) (p : Nat) : Rect :=
  match e.journalSlot p with
  | some k => ⟨e.le (journalOff p k + 0xC) 2, e.le (journalOff p k + 0xE) 2, e.le (journalOff p k + 0x10) 2,
      e.le (journalOff p k + 0x12) 2⟩
  | none => Rect.none
/-- Write the slot that is not in force. -/
def Ember.putJournal (e : Ember) (p : Nat) (dirty : Bool) (kind mode : Nat) (r : Rect) (imageId f range time : Nat) : Ember :=
  let k := match e.journalSlot p with | some 0 => 1 | _ => 0
  e.put (journalOff p k) (withCrc (leBytes 4 0x4C4E524A ++ leBytes 4 (max (e.journalGen p 0) (e.journalGen p 1) + 1) ++
    leBytes 1 p ++ leBytes 1 (if dirty then 1 else 0) ++ leBytes 1 kind ++ leBytes 1 mode ++ leBytes 2 r.x ++ leBytes 2 r.y ++
    leBytes 2 r.w ++ leBytes 2 r.h ++ leBytes 4 imageId ++ leBytes 2 f ++ leBytes 1 range ++ zeros 1 ++ leBytes 4 e.epoch ++
    packTime time ++ zeros 20))

end Sys2Proof.Machine
end

