-- ==== Sys2Proof/Machine/Bank.lean ====
section
/-! DEFINITION. Banks and the power-loss marker (R236 to R240, R438): what a banking write carries and where it goes. -/

namespace Sys2Proof.Machine

/-- Sessions that are ARMED, ACTIVE or PAUSED, in ascending number; the one of a point. -/
def openSessions (s : State) : List Nat := (List.range 160).filter fun k => (s.sessionAt k).state.isOpen
def openOf (s : State) (p : Nat) : Option Nat := (openSessions s).find? fun k => (s.sessionAt k).point == p

/-- The beat of the newest published windows. -/
def publishedBeat (s : State) : Nat := if s.ember.half then s.ember.half1.beat else s.ember.half0.beat

/-- The points that a bank carries. -/
def bankedPoints (s : State) : List Nat := (List.range 32).filter fun p => s.img.isUsed p || (s.pointAt p).held.isSome
def bankContent (s : State) (bankSeq : Nat) (final : Bool) : List Byte :=
  bankBytesOf s.ember.epoch bankSeq (publishedBeat s) s.damper.rtc s.img.bankPeriod final
    ((bankedPoints s).map fun p => bankPointRecord s.img p (s.pointAt p))
    ((openSessions s).map fun k => bankSessionRecord k (s.sessionAt k))

/-- Write a bank to the area that does not hold the newest valid one: records first, then the header, CHECK last. With
`cut`, only that many bytes arrive before the power fails. -/
def writeBank (final : Bool) (cut : Option Nat) (s : State) : State :=
  let area := match s.ember.newestArea with | some b => !b | none => false
  let seq := (match s.ember.newestArea with | some b => s.ember.areaSeq b | none => 0) + 1
  let bs := bankContent s seq final
  let body := (bs.drop 64).take (bs.length - 68)
  let order := [(areaBase area + 64, body), (areaBase area, bs.take 64), (areaBase area + bs.length - 4, bs.drop (bs.length - 4))]
  let put := fun (acc : Ember × Nat) (w : Nat × List Byte) => (acc.1.put w.1 (w.2.take acc.2), acc.2 - w.2.length)
  let e := (order.foldl put (s.ember, cut.getD bs.length)).1
  let whole := match cut with | some n => decide (bs.length ≤ n) | none => true
  if whole then
    { s with ember := { e with area := area, bankSeq := seq, bankBeat := publishedBeat s, bankLen := bs.length } }
  else { s with ember := e }

/-- The final bank (R240): none where the newest bank already holds beat c of this epoch. -/
def finalBank (s : State) : State :=
  match s.ember.newestArea, s.ember.trigger with
  | some b, some t =>
    if s.ember.le (areaBase b + 4) 4 = s.ember.epoch ∧ s.ember.le (areaBase b + 0x10) 8 = t.beat then s else writeBank true none s
  | _, _ => writeBank true none s

/-- The power-loss marker of the trigger in force. -/
def writeMarker (s : State) : State :=
  match s.ember.trigger, s.ember.newestArea with
  | some t, some b =>
    let bytes := markerBytes s.ember.epoch (s.ember.areaSeq b) t.beat t.cause t.source s.rtc.count
    s.updEmber fun e => { e.put markerOff bytes with trigger := some { t with done := true } }
  | _, _ => s

end Sys2Proof.Machine
end

