-- ==== Sys2Proof/Machine/ResetOps.lean ====
section
/-! DEFINITION. Resets: what an island loses (R8, R37, R296), the final-bank trigger (R240, R405), the assertion
of a source with the episode it begins or deepens (R297 to R305), and the L3 of one island through its fireguard
(R283, R284). -/

namespace Sys2Proof.Machine

/-! What each island loses. -/

/-- A port after a reset of the mantel engine: the panel keeps its image, the composition image stands in DRAM. -/
def Port.cleared (p : Port) : Port := { Port.init with levels := p.levels, comp := p.comp, compOk := p.compOk }

/-- The composition image is lost with the DRAM. -/
def Port.lost (p : Port) : Port := { p with comp := [], compOk := false }

/-- The banks of a table or map are lost with the DRAM. -/
def TableSlot.lost (t : TableSlot) : TableSlot := { t with bank0 := [], bank1 := [] }

/-- The contents of an island at its reset values. The ember store, the flash, the panels and the AON island keep
theirs. -/
def clearIsland (i : Nat) (s : State) : State :=
  let s := { s with regs := Regs.clearIsland s.regs i }
  match i with
  | 1 => { s with fault := Faults.init,
                  fw := { s.fw with win := Loader.init, hostMet := none, hostImage := none, stageLayer := 0, stageCause := 0,
                                    metSlot := false, ctlSlot := false, loader := false },
                  clk := { s.clk with refDev := 0, refValid := false }, aud := Auditor.init }
  | 2 => { s with hearth := Vector.replicate 8 Hearth.init, damper := Damper.init,
                  window := { s.window with hearth0 := ⟨0, []⟩, hearth1 := ⟨0, []⟩, hearthHalf := false } }
  | 3 => { s with flue := Vector.replicate 8 Flue.init, chain := Vector.replicate 128 Chain.init,
                  window := { s.window with rx0 := ⟨0, []⟩, rx1 := ⟨0, []⟩, rxHalf := false } }
  | 4 => { s with point := Vector.replicate 32 Point.init, evals := [], energyHi := none,
                  pulse := Vector.replicate 8 Pulse.init, spectral := Spectral.init, events := Events.init }
  | 5 => { s with ember := Ember.init s.ember.store, session := Vector.replicate 160 Session.init }
  | 6 => { s with link := { s.link with banks := Vector.replicate 2 [], live := false, swapOrd := none }, host := { s.host with evqLast := none },
                  fw := { s.fw with hostCtl := none } }
  | 7 => { s with host := { HostIf.init with
                   dma := s.host.dma, messages := s.host.messages, faultHeld := s.host.faultHeld, nextOrd := s.host.nextOrd } }
  | 8 => { s with dram := { s.dram with trained := false, failed := false, corr := 0, uncorr := 0, eccAddr := 0 },
                  mantel := { s.mantel with ports := s.mantel.ports.map Port.lost, tables := s.mantel.tables.map TableSlot.lost } }
  | 9 => { s with trust := { s.trust with program := none } }
  | 10 => { s with link := { Link.init with banks := s.link.banks, live := s.link.live } }
  | 11 => { s with mantel := { Mantel.init with tables := s.mantel.tables, ports := s.mantel.ports.map Port.cleared } }
  | _ => s

/-- Hold an island in reset. -/
def enterReset (i : Nat) (s : State) : State := (clearIsland i s).setIsland i .inReset

def controlIslands : List Nat := [6, 7, 8, 9, 10, 11]
def metrologyIslands : List Nat := [2, 3, 4, 5]

/-- A transfer of the loader ends where CTRL or SEAL is reset (R364). -/
def endTransfer (s : State) : State :=
  if s.fw.win.isOpen || s.fw.win.busy then
    let aud := if s.aud.pend then { s.aud with pend := false, st := .ready 0x02 (leBytes 1 0x0A) } else s.aud
    { s with fw := { s.fw with win := { s.fw.win with isOpen := false, busy := false, result := 0x0A } }, aud := aud }
  else s

/-- The panel abort (R405): every updating port stops, its high voltage goes off, its journal stays DIRTY. -/
def Port.abort (now : Nat) (p : Port) : Port :=
  match p.phase with
  | .rising _ => { p with phase := .idle, hven := false, aborted := true, hvWatch := true, stopped := none }
  | .scanning u => { p with phase := .idle, hven := false, aborted := true, hvWatch := true,
                            stopped := some { update := u, start := p.scanAt, trigger := now } }
  | _ => p
def abortPanels (s : State) : State :=
  { s with mantel := { s.mantel with ports := s.mantel.ports.map (Port.abort s.fault.timeBase) } }

/-- A staging buffer that is being loaded returns to EMPTY (R207, R284). -/
def dropLoading (s : State) : State :=
  if s.damper.stage = .loading then s.updDamper fun d => { d with stage := .empty, staged := none, stageOrd := none } else s

/-- Control-plane islands enter reset (L2), after the panel abort (R406); GPIOs with REL lose their drive (R433). -/
def enterControlReset (s : State) : State :=
  let s := dropLoading s
  let s := s.setReg 0x38000 (s.reg 0x38000 &&& ~~~(s.reg 0x38014))
  let s := endTransfer (abortPanels s)
  let s := { s with rst := { s.rst with window := false, wdtRemain := 0, wdtTick := 0 }, host := { s.host with paused := false },
                    fw := { s.fw with ctlAct := none, staging := none } }
  (controlIslands.foldl (fun s i => enterReset i s) s).setReg 0x1028 0

/-- What an L0 clears besides the islands: the supply supervisors, the oscillator and the PLL calibration (R296). -/
def clearPower (s : State) : State :=
  if s.rst.episode.any fun e => e.level == .l0 then
    { s with clk := { s.clk with refOk := false, pllM := false, pllC := false, pllD := false, pcie := false },
             rst := { s.rst with porDone := false } }
  else s

/-- The metrology islands and SYS enter reset. The controller's own registers stay (R297). -/
def enterMetrologyReset (keepEmber : Bool) (s : State) : State :=
  let keep := (List.range 4).map fun k => (0x1000 + 4 * k, s.reg (0x1000 + 4 * k))
  let isl := if keepEmber then [2, 3, 4] else [2, 3, 4, 5]
  let s := isl.foldl (fun s i => enterReset i s) s
  let s := { s with fw := { s.fw with hold := none } }
  let s := enterReset 1 s
  clearPower (keep.foldl (fun s c => s.setReg c.1 c.2) s)

/-! Final bank (R240, R241). -/

/-- Is there billing state that a final bank would save? -/
def canBank (s : State) : Bool := s.active && s.running Isl.metro && s.running Isl.ember && s.fw.hold.isNone

/-- The trigger: freeze, with the last published beat, and the panel abort (R405). -/
def triggerBank (cause source : Nat) (s : State) : State :=
  if canBank s && s.ember.trigger.isNone then
    let s := abortPanels s
    s.updEmber fun e => { e with trigger := some { cause := cause, source := source,
                                                   beat := if e.half then e.half1.beat else e.half0.beat, done := false } }
  else s

/-! Levels and sources (R296, R298, R302). -/

def Level.depth : Level → Nat
  | .l0 => 0 | .l1 => 1 | .l2 => 2
def Level.deeper (a b : Level) : Level := if a.depth ≤ b.depth then a else b

/-- The minimum level of a source. -/
def sourceMin (c : Nat) : Level :=
  if c = 1 ∨ c = 2 then .l0 else if c = 3 ∨ c = 4 ∨ c = 6 ∨ c = 7 ∨ c = 14 ∨ c = 16 then .l1 else .l2

/-- RESET_MAP as fused (word 12) and the level of a field. -/
def resetMap (s : State) : Word := Tab.at s.trust.fuses 12 0
def mapField (s : State) (c : Nat) : Option Level :=
  match fieldOf (resetMap s) (2 * c - 1) (2 * c - 2) with
  | 1 => some .l2 | 2 => some .l1 | 3 => some .l0 | _ => none

/-- The level a source resets at. -/
def sourceLevel (s : State) (c : Nat) : Level :=
  if c = 1 ∨ c = 2 ∨ c = 6 then sourceMin c
  else match mapField s c with
    | some l => l.deeper (sourceMin c)
    | none => sourceMin c

/-! Episodes (R304, R305). -/

/-- A new episode. -/
def Episode.begin (c : Nat) (l : Level) (clk : Nat) : Episode :=
  { level := l, sources := 2 ^ (c - 1), first := c, clkLoss := clk, hold := 0, deep := if l = .l2 then none else some 0,
    waiting := false, bank := false, deepened := false }

/-- A further assertion in an episode: the deepest level is latched with the source that first brought it. -/
def Episode.add (e : Episode) (c : Nat) (l : Level) (clk : Nat) : Episode :=
  let e := { e with sources := setBitN e.sources (c - 1) true, clkLoss := if c = 16 then clk else e.clkLoss }
  if l.depth < e.level.depth then
    { e with level := l, first := c, deep := if e.deep.isNone then some 0 else e.deep } else e

/-- The metrology islands enter reset after the final bank, for a trigger with cause 2 and a source, or at once where
there is none to write (R241, R304). -/
def awaitBank (source : Nat) (s : State) : State :=
  if canBank s || (s.running Isl.ember && s.ember.trigger.any fun t => !t.done) then
    let s := triggerBank 2 source s
    if s.ember.trigger.any fun t => t.done then enterMetrologyReset false s
    else { s with rst := { s.rst with episode := s.rst.episode.map fun e => { e with waiting := true } } }
  else enterMetrologyReset false s

/-- The islands that an assertion puts into reset (R304). -/
def enterLevel (c : Nat) (old : Option Level) (new : Level) (s : State) : State :=
  let deepens := match old with | none => true | some o => decide (new.depth < o.depth)
  if c = 1 ∨ c = 2 then
    -- POR and BOR_CORE: at once, but for an EMBER that completes a bank and its marker (R421)
    let keep := s.running Isl.ember && (s.ember.trigger.any fun t => !t.done)
    -- the frozen totals go into the bank before their islands lose them
    let s := if keep then finalBank s else s
    let s := enterMetrologyReset keep (enterControlReset s)
    { s with rst := { s.rst with episode := s.rst.episode.map (fun e => { e with waiting := false, bank := keep }),
                                 asserted := s.rst.asserted, window := false, pilot := false, pilotCause := 0,
                                 cause := 0, first := 0, clkLoss := 0, number := 0, hold := 0, started := false,
                                 badStrap := false, lastLevel := .l0, tj := 0 },
             regs := Regs.clear s.regs 0x1000 0x1000 }
  else if !deepens then s
  else match new with
    | .l2 => enterControlReset s
    | _ =>
      let s := if old.isNone then enterControlReset s else s
      if (old.any fun o => o.depth ≤ 1) then          -- already at L1: an L0 clears its own as soon as the bank is done
        (if s.rst.episode.any Episode.waiting then s else clearPower s)
      else awaitBank c s

/-- A source is asserted at a level. An assertion before a release sequence is complete begins a new episode that
starts at the interrupted sequence's level (R305). `clk` is the clock-loss detail. -/
def assertAt (c : Nat) (l : Level) (clk : Nat) (s : State) : State :=
  match s.rst.episode with
  | some e =>
    -- POR and BOR_CORE clear the controller with its episode (R297): what still asserts is seen anew
    let e' := if c = 1 ∨ c = 2 then { Episode.begin c l clk with sources := setBitN s.rst.asserted (c - 1) true } else e.add c l clk
    let s1 := { s with rst := { s.rst with episode := some e', pinDrive := s.rst.pinDrive || l != .l2 } }
    enterLevel c (some e.level) l s1
  | none =>
    let l := match s.rst.release with | some r => l.deeper r.level | none => l
    let s1 := { s with rst := { s.rst with episode := some (Episode.begin c l clk), release := none,
                                           pinDrive := l != .l2 } }
    enterLevel c none l s1

/-- A source is asserted at the level the fuses give it; a level-sensitive source stays asserted (R298). -/
def assertSource (c : Nat) (s : State) : State :=
  let s := if c = 5 ∨ c = 6 ∨ (10 ≤ c ∧ c ≤ 15) then s
           else { s with rst := { s.rst with asserted := setBitN s.rst.asserted (c - 1) true } }
  assertAt c (sourceLevel s c) 0 s

/-- A level-sensitive source is no longer asserted. -/
def releaseSource (c : Nat) (s : State) : State :=
  { s with rst := { s.rst with asserted := setBitN s.rst.asserted (c - 1) false } }

/-! L3 of one island (R283, R284). -/

/-- Opcodes that complete with INTERNAL_FAULT when an island is isolated (R284). -/
def faultedBy (i : Nat) (op : Nat) : Bool :=
  match i with
  | 6 => true
  | 8 => op == 0x72 || op == 0x50 || op == 0x40 || op == 0x41
  | 9 => op == 0x30 || op == 0x31 || op == 0x72 || op == 0x73
  | 10 => op == 0x61 || op == 0x60
  | 11 => op == 0x50 || op == 0x51
  | _ => false

/-- Complete the descriptors in flight that an island's isolation fails; an IMAGE_STAGE only while LOADING (DRAM).
The hash of a SESSION_OPEN is taken in one command, so none is found still hashing (SEAL). -/
def failInflight (i : Nat) (s : State) : State :=
  let hit := fun (d : Inflight) => !d.phase.isDone && (faultedBy i d.opcode ||
    (i == 8 && d.opcode == 0x70 && s.damper.stage == .loading && s.damper.stageOrd == some d.ord))
  let ended := fun (d : Inflight) =>
    if hit d then { d with phase := .done { status := 0x0B, detail := i, result := zeros 24 } } else d
  s.updHost fun h => { h with inflight := h.inflight.map ended }

/-- End every running capture with a cause (R272, R284): its END entry waits for CAPQ. -/
def endCapture (n cause : Nat) (s : State) : State :=
  match Tab.at s.host.captures n none with
  | some c =>
    let last : CapEntry := { cap := n, isEnd := true, cause := cause, flags := c.flags, offset := c.spanOff,
                             len := 4 * c.taken - c.spanOff, first := c.first,
                             stop := c.stopOrd.map fun o => (o, c.taken) }
    s.updHost fun h => { h with captures := Tab.upd h.captures n fun _ => none, capq := h.capq ++ [last] }
  | none => s
def endCaptures (cause : Nat) (s : State) : State := (List.range 4).foldl (fun s n => endCapture n cause s) s

/-- The fireguard isolates an island: its transfers end in error, its contents are lost, other islands take the
consequences of R284. -/
def isolate (i : Nat) (s : State) : State :=
  let s := failInflight i s
  match i with
  | 6 => -- the ring registers stand in HOST; CTRL loses what it ran, LINK keeps its working copy (R380)
    let s := endTransfer { s with fw := { s.fw with ctlAct := none, staging := none },
                                   rst := { s.rst with wdtRemain := 0, wdtTick := 0, window := false, started := false } }
    (clearIsland 6 s).setReg 0x1028 0 |>.setIsland 6 .isolated
  | 7 => -- an FW_ACTIVATE that still waits for other descriptors ends; CTRL that restarts already goes on
    let s := if s.running Isl.ctrl then { s with fw := { s.fw with ctlAct := none, staging := none } } else s
    (clearIsland 7 (dropLoading s)).setIsland 7 .isolated
  | 8 =>
    (clearIsland 8 (endCaptures 4 (dropLoading s))).setIsland 8 .isolated
  | 9 => (clearIsland 9 (endTransfer s)).setIsland 9 .isolated
  | 10 => -- the bank in use and its exchange counts stay (R380, R383)
    let t := clearIsland 10 s
    { t with link := { t.link with bank := s.link.bank, seqs := s.link.seqs } }.setIsland 10 .isolated
  | 3 => ({ clearIsland 3 s with fault := { s.fault with flueAt := some s.fault.timeBase } }).setIsland 3 .isolated
  | i => (clearIsland i s).setIsland i .isolated

end Sys2Proof.Machine
end

