-- ==== Sys2Proof/Machine/FaultOps.lean ====
section
/-! DEFINITION. The fault collector: the table of sources (R282), records (R289, R290), the decision of a fault
(R281, R285, R286, R288) and the repeat counts. -/

namespace Sys2Proof.Machine

/-- Class of a fault code, and the level of a DEVICE fault (R282). -/
def faultClass (code : Nat) : Option (FaultClass × Level) :=
  if [0x01, 0x11, 0x14, 0x24, 0x55, 0x63, 0x71, 0x81, 0x82].contains code then some (.correctable, .l2)
  else if [0x21, 0x22, 0x23, 0x25, 0x43, 0x53, 0x54].contains code then some (.point, .l2)
  else if [0x31, 0x32, 0x61, 0x62, 0x72, 0x83, 0x84, 0x91, 0xA1, 0xB1, 0xB2].contains code then some (.island, .l2)
  else if [0x12, 0x26, 0x27, 0x41, 0x42, 0x51, 0x52, 0x92].contains code then some (.device, .l1)
  else if code = 0x13 then some (.device, .l2)
  else none

/-- The island a code belongs to: its high nibble (R282). -/
def faultIsland (code : Nat) : Nat := code / 16

/-- The islands an island's recovery depends on, SYS apart (R286). -/
def dependsOn : Nat → List Nat
  | 6 => [9, 8] | 7 => [6, 8] | 10 => [6, 3] | 11 => [6, 8, 5] | 3 => [2] | _ => []

def State.reps (s : State) (i : Nat) : RepeatState := Tab.at s.fault.reps i RepeatState.init
def State.setReps (s : State) (i : Nat) (r : RepeatState) : State :=
  { s with fault := { s.fault with reps := Tab.upd s.fault.reps i fun _ => r } }

/-- Islands isolated or in recovery. -/
def recovering (s : State) : List Nat := (List.range 12).filter fun i => s.island i == .isolated
/-- A recovery at L2 or L1: from the start of its episode to the end of its release sequence. -/
def inRecovery (s : State) : Bool := !(recovering s).isEmpty || s.rst.episode.isSome || s.rst.release.isSome

/-! Records. -/

/-- Place of a record among those of its TIME: ascending island, then code (R289). -/
def recordKey (island code : Nat) : Nat := 256 * island + code
/-- Does a queued record come after a new one of a TIME and key? An escalation record goes with the record before it (R290). -/
def FaultRecord.follows (time key : Nat) (x : FaultRecord) : Bool :=
  x.time == time && x.code != 0xF0 && decide (key < recordKey x.island x.code)
/-- Number records on from a sequence number. -/
def renumber (n : Nat) : List FaultRecord → List FaultRecord
  | [] => []
  | x :: l => { x with fseq := n } :: renumber ((n + 1) % 2 ^ 32) l

/-- Queue a record at its place (R34, R289, R290, R291): FSEQ advances, the queue takes it if it has room, ahead of those of the same
TIME that follow it, which take the next numbers; the EMBER island writes it into the history, and the host hears of it. EPOCH is the
one in force (R223); before EMBER has restored it, the store's. -/
def addRecord (key island code : Nat) (cls : FaultClass) (action detail rep flags : Nat) (s : State) : State :=
  let f := s.fault
  let epoch := if s.running Isl.ember then s.ember.epoch else s.ember.storedEpoch
  let next := (f.fseq + 1) % 2 ^ 32
  let r : FaultRecord := { fseq := next, time := f.timeBase, epoch := epoch,
                           beat := if s.active then s.damper.beat else 0, island := island, code := code, cls := cls,
                           action := action, detail := detail % 65536, rep := rep, flags := flags }
  let room := decide (f.queue.length < 32)
  let ahead := f.queue.takeWhile fun x => !(x.follows f.timeBase key)
  let after := f.queue.drop ahead.length
  let moved := if room then renumber (match after with | x :: _ => x.fseq | [] => next) (r :: after) else [r]
  let canWrite := s.emberWrites
  let s := { s with fault := { f with fseq := next, queue := if room then ahead ++ moved else f.queue,
                                      overflow := if room then f.overflow else min (f.overflow + 1) (2 ^ 32 - 1),
                                      held := if canWrite then f.held
                                              else (f.held.filter fun x => moved.all fun y => x.fseq != y.fseq) ++ moved } }
  let s := if canWrite then s.updEmber fun e => moved.foldl (fun e r => e.putFault r) e else s
  if !room then s
  else if s.running Isl.host && s.host.linkUp then s.raiseVector (s.fld 0x401C 7 4)
  else s.updHost fun h => { h with faultHeld := true }

/-- Write the records that waited for the EMBER island (R290). -/
def flushRecords (s : State) : State :=
  if s.emberWrites then
    { s with ember := s.fault.held.foldl (fun e r => e.putFault r) s.ember, fault := { s.fault with held := [] } }
  else s

/-- ACTION of a reset at a level. -/
def levelAction : Level → Nat
  | .l2 => 3 | .l1 => 4 | .l0 => 6

/-- The recoveries that a fault escalates, by island and new level (R285, R288, R290): for each the record 0xF0, behind the fault's own
(`key`), and its flag; then the reset by source 15 at the levels the rules set. A new count starts. -/
def escalate (key : Nat) (l : List (Nat × Level)) (s : State) : State :=
  let s := l.foldl (fun s x =>
    ((addRecord key x.1 0xF0 .device (levelAction x.2) x.1 0 0 s).setBits 0x37014 (putAt 1 x.1)).setReps x.1 RepeatState.init) s
  l.foldl (fun s x => assertAt 15 x.2 0 s) s

/-- One level deeper than an L3 of an island. -/
def escalated (island : Nat) : Level := if island = Isl.flue then .l1 else .l2

/-! Decision. -/

/-- Is the recovery of an island's last fault of a class still running? A DEVICE fault's is the reset itself. -/
def stillRecovering (s : State) (island : Nat) (cls : FaultClass) : Bool :=
  s.island island == .isolated ||
    ((cls == .device || controlIslands.contains island) && (s.rst.episode.isSome || s.rst.release.isSome))

/-- The repeat count after a fault of class ISLAND or DEVICE (R288), and whether it escalates: the third repeat. A fault during the
earlier one's recovery is no repeat. -/
def repeatAfter (s : State) (island : Nat) (cls : FaultClass) : Nat × Bool :=
  let r := s.reps island
  if r.cls ≠ some cls then (0, false)
  else if stillRecovering s island cls then (r.count, false)
  else if r.count + 1 ≥ 3 then (3, true) else (r.count + 1, false)

/-- The recoveries that a further fault in an island escalates, with their new levels (R285): the recovery of the island itself, those
that depend on it, and an L2 start of the control plane. Faults of one SYS cycle in one island make one recovery. -/
def escalatedBy (s : State) (island : Nat) : List (Nat × Level) :=
  if s.island island = .isolated ∧ (s.reps island).time = s.fault.timeBase then []
  else
    let hit := (recovering s).filter fun j => j == island || (dependsOn j).contains island
    (if s.rst.release.isSome && controlIslands.contains island then [(island, Level.l1)] else []) ++
      hit.map fun j => (j, escalated j)

/-- Does a reset at one of these levels clear an island? -/
def clearedBy (l : List (Nat × Level)) (island : Nat) : Bool :=
  l.any fun x => x.2 != .l2 || controlIslands.contains island

/-- An ISLAND fault. During the start that follows an L1 it restarts the L1 (R285). -/
def islandFault (island code detail : Nat) (s : State) : State :=
  let nested := if inRecovery s then 1 else 0
  let key := recordKey island code
  let hits := if s.rst.release.any fun r => r.level != .l2 then [(island, Level.l1)] else escalatedBy s island
  let (n, up) := repeatAfter s island .island
  if !hits.isEmpty then
    let gone := s.island island == .isolated || clearedBy hits island
    let s := addRecord key island code .island (if gone then 5 else 2) detail (s.reps island).count 3 s
    let s := if gone then s else isolate island (s.setReps island { cls := some .island, time := s.fault.timeBase, count := n })
    escalate key hits s
  else if s.island island = .isolated then addRecord key island code .island 5 detail (s.reps island).count nested s
  else if up then
    let l := escalated island
    escalate key [(island, l)] (addRecord key island code .island (levelAction l) detail n (nested + 2) s)
  else
    let s := addRecord key island code .island 2 detail n nested s
    isolate island (s.setReps island { cls := some .island, time := s.fault.timeBase, count := n })

/-- A DEVICE fault (R281): its own reset proceeds. -/
def deviceFault (island code detail : Nat) (own : Level) (s : State) : State :=
  let nested := if inRecovery s then 1 else 0
  let key := recordKey island code
  let (n, up) := repeatAfter s island .device
  let base := match mapField s 15 with | some l => l.deeper own | none => own
  let lvl := match s.rst.release with
    | some r => if r.level ≠ .l2 then Level.deeper .l1 base else base
    | none => base
  if up ∧ lvl = .l2 then
    escalate key [(island, .l1)] (addRecord key island code .device 4 detail n (nested + 2) s)
  else
    let s := addRecord key island code .device (levelAction lvl) detail n nested s
    let s := if up then s.setReps island RepeatState.init
             else s.setReps island { cls := some .device, time := s.fault.timeBase, count := n }
    let s := assertAt 15 lvl 0 s
    -- a faulty EMBER cannot write the marker (R282): the reset waits the whole 1 ms (R241)
    if island = Isl.ember ∧ s.ember.trigger.isSome then s.setIsland Isl.ember .inReset else s

/-- An island reports a detected fault (R34, R280). A CORRECTABLE fault counts, a POINT fault is recorded (its local
action is its source's), an ISLAND or DEVICE fault is decided. No fault is detected in an island in reset, and
AON's and SYS's come with their own island running. -/
def reportFault (island code detail : Nat) (s : State) : State :=
  if s.island island = .inReset ∨ !(s.running Isl.sys) then s else
  match faultClass code with
  | none => s
  | some (.correctable, _) =>
    let s := { s with fault := { s.fault with corr := Tab.upd s.fault.corr island fun n => min (n + 1) (2 ^ 32 - 1) } }
    addRecord (recordKey island code) island code .correctable 0 detail 0 (if inRecovery s then 1 else 0) s
  | some (.point, _) => addRecord (recordKey island code) island code .point 1 detail 0 (if inRecovery s then 1 else 0) s
  | some (.island, _) => islandFault island code detail s
  | some (.device, l) => deviceFault island code detail l s

end Sys2Proof.Machine
end

