-- ==== Sys2Proof/Machine/TrustOps.lean ====
section
/-! DEFINITION. Fuses (R343, R344), the flash with its boot record (R350 to R352), verification of a firmware image
(R353, R354), the measurement registers (R346, R347) and the deterministic CBOR they are reported in (R229). -/

namespace Sys2Proof.Machine

/-! Fuses. -/

def State.fuse (s : State) (w : Nat) : Word := Tab.at s.trust.fuses w 0
def makerHash (s : State) : List Byte := (List.range 12).flatMap fun w => leBytes 4 (s.fuse w).toNat
def fuseLimit (s : State) : Nat :=
  let v := fieldOf (s.fuse 13) 2 0
  if 2 ≤ v then v else 3
def pinEn (s : State) : Bool := bitOf (s.fuse 13) 3
def monEn (s : State) : Bool := bitOf (s.fuse 13) 4
/-- MIN_SVN of a layer: the number of bits set (R343). -/
def minSvn (s : State) (layer : Nat) : Nat :=
  popCount (if layer = 1 then fieldOf (s.fuse 15) 15 0 else fieldOf (s.fuse 15) 31 16)

/-- The seal state (R344). -/
def sealState (s : State) : SealState :=
  if bitOf (s.fuse 18) 0 then .sealed
  else if (makerHash s).all (fun b => b == 0) then .openState else .keyed
def SealState.code : SealState → Nat
  | .openState => 0 | .keyed => 1 | .sealed => 2
def isSealed (s : State) : Bool := sealState s == .sealed

/-! Boot record (R351). -/

def Flash.bytes (s : State) (off n : Nat) : List Byte := Memory.readN s.fw.flash off n
def bootCopy (s : State) (k : Bool) : List Byte := Flash.bytes s (if k then 0x1000 else 0) 4096
def bootValid (s : State) (k : Bool) : Bool :=
  leField (bootCopy s k) 0 4 == 0x424F4F54 && crcOk (bootCopy s k)
def bootGen (s : State) (k : Bool) : Nat := leField (bootCopy s k) 4 8

/-- The copy in force: correct CRC, higher GEN. -/
def bootInForce (s : State) : Option Bool :=
  match bootValid s false, bootValid s true with
  | true, true => some (decide (bootGen s false < bootGen s true))
  | true, false => some false
  | false, true => some true
  | false, false => none
/-- Its bytes; without one, everything reads 0 (slot A active, nothing on trial). -/
def bootBytes (s : State) : List Byte := match bootInForce s with | some k => bootCopy s k | none => zeros 4096
def bootByte (s : State) (i : Nat) : Nat := leField (bootBytes s) i 1

/-- Byte 12 or 13: a layer's ACTIVE slot, TRIAL and slot states (R351, R352). -/
def layerByte (s : State) (layer : Nat) : Nat := bootByte s (11 + layer)
def activeSlot (s : State) (layer : Nat) : Bool := (layerByte s layer).testBit 0
def layerTrial (s : State) (layer : Nat) : Bool := (layerByte s layer).testBit 1
/-- A slot's state: 0 EMPTY, 1 VALID, 2 REJECTED, 3 WRITING. -/
def slotState (s : State) (layer : Nat) (b : Bool) : Nat := layerByte s layer / (if b then 16 else 4) % 4
def imageSlotByte (s : State) : Bool := (bootByte s 14).testBit 0

/-- A layer byte from its parts. -/
def packLayer (active trial : Bool) (a b : Nat) : Nat :=
  (if active then 1 else 0) + (if trial then 2 else 0) + 4 * a + 16 * b

/-- The bytes of the boot record that follows another: GEN + 1; bytes 16 to 19 (the DRAM set-up word) are carried over. -/
def bootBody (cur : List Byte) (l1 l2 img : Nat) : List Byte :=
  leBytes 4 0x424F4F54 ++ leBytes 8 (leField cur 4 8 + 1) ++ leBytes 1 l1 ++ leBytes 1 l2 ++ leBytes 1 img ++ (cur.drop 15).take 4077
/-- The copy a new boot record is written to: the one not in force. -/
def bootTarget (s : State) : Bool := match bootInForce s with | some k => !k | none => false
/-- Write the boot record. -/
def writeBoot (l1 l2 img : Nat) (s : State) : State :=
  { s with fw := { s.fw with
    flash := Memory.writeN s.fw.flash (if bootTarget s then 0x1000 else 0) (withCrc (bootBody (bootBytes s) l1 l2 img)) } }
def writeLayer (layer v : Nat) (s : State) : State :=
  writeBoot (if layer = 1 then v else layerByte s 1) (if layer = 2 then v else layerByte s 2) (bootByte s 14) s

/-- Set one slot's state, or make a slot ACTIVE. -/
def setSlot (layer : Nat) (b : Bool) (st : Nat) (s : State) : State :=
  writeLayer layer (packLayer (activeSlot s layer) (layerTrial s layer) (if b then slotState s layer false else st)
    (if b then st else slotState s layer true)) s
def activateSlot (layer : Nat) (b trial : Bool) (s : State) : State :=
  writeLayer layer (packLayer b trial (slotState s layer false) (slotState s layer true)) s
def setImageSlot (b : Bool) (s : State) : State := writeBoot (layerByte s 1) (layerByte s 2) (if b then 1 else 0) s
/-- TRIAL is cleared in the boot record of whichever layer carries it. -/
def clearTrial (s : State) : State :=
  let s := if layerTrial s 1 then activateSlot 1 (activeSlot s 1) false s else s
  if layerTrial s 2 then activateSlot 2 (activeSlot s 2) false s else s

/-- An accepted START_OK (R319): COUNT and TRIAL clear, the window closes and STARTED sets. -/
def acceptStart (s : State) : State :=
  clearTrial { s with rtc := { s.rtc with starts := 0, trial := false }, rst := { s.rst with window := false, started := true } }

/-! Slots. -/

def slotBase (layer : Nat) (b : Bool) : Nat :=
  match layer with
  | 1 => if b then 0x300000 else 0x100000
  | 2 => if b then 0xF00000 else 0x700000
  | _ => if b then 0x600000 else 0x500000
def slotSize (layer : Nat) : Nat := match layer with | 1 => 0x200000 | 2 => 0x800000 | _ => 0x100000

/-- The firmware image in a slot: as many bytes as its TOTAL_SIZE says, at most the slot. -/
def slotImage (s : State) (layer : Nat) (b : Bool) : List Byte :=
  Flash.bytes s (slotBase layer b) (min (Memory.readLE s.fw.flash (slotBase layer b + 8) 4) (slotSize layer))
def writeSlot (layer : Nat) (b : Bool) (bs : List Byte) (s : State) : State :=
  { s with fw := { s.fw with flash := Memory.writeN s.fw.flash (slotBase layer b) bs } }

/-! Verification (R353, R354). -/

def allZero (bs : List Byte) : Bool := bs.all fun b => b == 0
def Fwh.svn (fw : List Byte) : Nat := leField fw 0x14 1
def Fwh.totalSize (fw : List Byte) : Nat := leField fw 0x08 4
def Fwh.digest (fw : List Byte) : BitVec 384 := of384 (sliceOf fw 0x40 48)
def Fwh.makerSig (fw : List Byte) : List Byte := sliceOf fw 0x100 96
def Fwh.makerKey (fw : List Byte) : List Byte := sliceOf fw 0x160 97
def Fwh.covered (fw : List Byte) : BitVec 384 := sha384 (sliceOf fw 0 0xA0)

def Fwh.step1 (layer : Nat) (fw : List Byte) : Bool :=
  leField fw 0 4 == 0x57464B42 && leField fw 4 1 == layer && leField fw 5 1 == 1 && leField fw 0x10 4 == 0xB160 &&
  [(0x006, 2), (0x015, 11), (0x02C, 4), (0x098, 8), (0x1C1, 63)].all fun r => allZero (sliceOf fw r.1 r.2)
def Fwh.makerOk (s : State) (fw : List Byte) : Bool :=
  let ok := verifyP384 (Fwh.makerKey fw) (Fwh.covered fw) (Fwh.makerSig fw)
  if isSealed s then ok && bytes384 (sha384 (Fwh.makerKey fw)) == makerHash s
  else allZero (Fwh.makerSig fw) || ok
/-- The plaintext, where the key unwraps and the tag verifies. -/
def Fwh.plain (s : State) (fw : List Byte) : Option (List Byte) :=
  if !s.trust.kek then none else
  (unwrapKey Config.keyEncryptionKey (sliceOf fw 0x70 40)).bind fun key =>
    gcmOpen key (sliceOf fw 0x20 12) (sliceOf fw 0 0x30) (sliceOf fw 0x200 (leField fw 0x0C 4)) (sliceOf fw 0x30 16)

/-- The step of R354 at which an image fails for a layer; 0 when it verifies. -/
def verifyStep (s : State) (layer : Nat) (fw : List Byte) : Nat :=
  if !(Fwh.step1 layer fw) then 1
  else if Fwh.svn fw < minSvn s layer then 2
  else if !(verifyP384 Config.creumundKey (Fwh.covered fw) (sliceOf fw 0xA0 96)) then 3
  else if layer = 1 && !(Fwh.makerOk s fw) then 4
  else match Fwh.plain s fw with
    | some p => if sha384 p = Fwh.digest fw then 0 else 5
    | none => 5
def slotVerifies (s : State) (layer : Nat) (b : Bool) : Bool := verifyStep s layer (slotImage s layer b) == 0

/-! Measurement registers (R346, R347). -/

def ext (m d : BitVec 384) : BitVec 384 := sha384 (bytes384 m ++ bytes384 d)
def State.mreg (s : State) (i : Nat) : BitVec 384 := Tab.at s.trust.mreg i 0
/-- The legally relevant digest over MREG0 to MREG2. -/
def legalDigest (s : State) : BitVec 384 :=
  sha384 (bytes384 (s.mreg 0) ++ bytes384 (s.mreg 1) ++ bytes384 (s.mreg 2))
/-- Set a measurement register; the legally relevant digest follows MREG0 to MREG2. -/
def setMreg (i : Nat) (v : BitVec 384) (s : State) : State :=
  let s := { s with trust := { s.trust with mreg := Tab.upd s.trust.mreg i fun _ => v } }
  if i ≤ 2 then { s with trust := { s.trust with legal := legalDigest s } } else s

/-- SHA-384 of the bytes an image's digest covers (R185). -/
def Image.imageDigest (g : Image) : BitVec 384 := sha384 g.signedBytes
def activeDigest (s : State) : Option (BitVec 384) := s.damper.image.map Image.imageDigest

/-- The registers that a release which clears SEAL sets (R346): Z where nothing of the kind runs. -/
def measuredBoot (s : State) : State :=
  let s := setMreg 0 (ext 0 Config.bootRomDigest) s
  let s := setMreg 1 (if s.rst.pilot then 0 else ext 0 s.fw.metDigest) s
  let s := setMreg 2 (match activeDigest s with | some d => ext 0 d | none => 0) s
  let s := setMreg 4 (ext 0 (sha384 ((List.range 19).flatMap fun w => leBytes 4 (s.fuse w).toNat))) s
  setMreg 7 0 (setMreg 6 0 (setMreg 5 0 s))

/-- The first 16 bytes of the SHA-256 of the identity public key (R342). -/
def deviceId : List Byte := (bytes256 (sha256 identityKey)).take 16

/-- The header partition of the ember store, written at manufacturing: a layout version and a copy of the device identifier, at
places that R235 does not give (log entry 114). -/
def headerByte (k : Nat) : Byte :=
  if Config.headerIdAt ≤ k ∧ k < Config.headerIdAt + 16 then deviceId.getD (k - Config.headerIdAt) 0 else Config.headerByte k
/-- Bytes of the whole store as its read window and the auditor port return them. -/
def Ember.readStore (e : Ember) (off n : Nat) : List Byte :=
  (List.range n).map fun i => if off + i < 0x1000 then headerByte (off + i) else Memory.read e.store (off + i)

/-! Deterministic CBOR (R229). -/

/-- A head: major type and argument, in the shortest form. -/
def cborHead (major n : Nat) : List Byte :=
  let b := fun (k : Nat) => BitVec.ofNat 8 (32 * major + k)
  if n < 24 then [b n] else if n < 2 ^ 8 then b 24 :: beBytes 1 n else if n < 2 ^ 16 then b 25 :: beBytes 2 n
  else if n < 2 ^ 32 then b 26 :: beBytes 4 n else b 27 :: beBytes 8 n
def cborUint (n : Nat) : List Byte := cborHead 0 n
def cborBytes (bs : List Byte) : List Byte := cborHead 2 bs.length ++ bs
def cborText (bs : List Byte) : List Byte := cborHead 3 bs.length ++ bs
def cborArray (xs : List (List Byte)) : List Byte := cborHead 4 xs.length ++ xs.flatten
/-- A map of integer keys, given in ascending order (bytewise order for keys below 24). -/
def cborMap (kvs : List (Nat × List Byte)) : List Byte :=
  cborHead 5 kvs.length ++ kvs.flatMap fun kv => cborUint kv.1 ++ kv.2

/-- The protected header {1: -7}. -/
def coseProtected : List Byte := [0x43, 0xA1, 0x01, 0x26]
/-- The Sig_structure of RFC 9052 over a payload: context "Signature1", empty external AAD. -/
def sigStructure (payload : List Byte) : List Byte :=
  [0x84] ++ cborText [0x53, 0x69, 0x67, 0x6E, 0x61, 0x74, 0x75, 0x72, 0x65, 0x31] ++ coseProtected ++ [0x40] ++ cborBytes payload
/-- A tagged COSE_Sign1 (R230) with a signature. -/
def coseSign1 (payload : List Byte) (sig : BitVec 512) : List Byte :=
  [0xD2, 0x84] ++ coseProtected ++ [0xA0] ++ cborBytes payload ++ [0x58, 0x40] ++ beBytes 64 sig.toNat
def signPayload (payload : List Byte) : BitVec 512 := identitySign (sigStructure payload)

/-! Attestation (R349). -/

/-- Key 11: 0 normal, 1 pilot-light, 2 recovery loader in place of control firmware. -/
def modeCode (s : State) : Nat := if s.rst.pilot then 1 else if s.fw.loader then 2 else 0

def runningLayers (s : State) : List Byte :=
  cborArray [
    cborArray [cborUint 1, cborUint (if s.fw.metSlot then 1 else 0), cborUint (if layerTrial s 1 then 1 else 0), cborUint s.fw.metSvn],
    cborArray [cborUint 2, cborUint (if s.fw.ctlSlot then 1 else 0), cborUint (if layerTrial s 2 then 1 else 0), cborUint s.fw.ctlSvn]]

/-- The latch of the newest bank: the beat that its write began in, the one after BEAT, and the RTC of that boundary (R236). -/
def bankLatch (s : State) : Nat × Nat := match s.ember.newestArea with
  | some b => (s.ember.bankBeat + 1, unpackTime (s.ember.bytes (areaBase b + 0x18) 8) 0)
  | none => (0, 0)

/-- The attestation payload over a nonce; `via` 0 host ring, 1 auditor port. In pilot-light mode the metrology keys
are those that the store holds of the last start that ran the metrology plane. -/
def attestPayload (s : State) (nonce : List Byte) (via : Nat) : List Byte :=
  let pilot := s.rst.pilot
  let legal := if pilot then s.ember.heldLegal else s.trust.legal
  let latch := if pilot then bankLatch s else (s.damper.beat, s.damper.rtc)
  let image := if pilot then (if s.ember.cfgCopy.isSome then some s.ember.heldImage else none) else activeDigest s
  cborMap ([(1, cborUint 1), (2, cborBytes deviceId), (3, cborBytes nonce),
    (4, cborArray ((List.range 8).map fun i => cborBytes (bytes384 (s.mreg i)))), (5, cborBytes (bytes384 legal))] ++
    (match image with | some d => [(6, cborBytes (bytes384 d))] | none => []) ++
    (match s.damper.stage, s.damper.staged with
      | .staged, some g => [(7, cborBytes (bytes384 g.imageDigest))] | _, _ => []) ++
    [(8, cborUint (sealState s).code)] ++
    (if sealState s = .openState then [] else [(9, cborBytes (makerHash s))]) ++
    [(10, runningLayers s), (11, cborUint (modeCode s)),
     (12, cborUint (if pilot then s.ember.storedEpoch else s.ember.epoch)), (13, cborUint latch.1),
     (14, cborArray [cborUint (latch.2 / 32768), cborUint (latch.2 % 32768)]),
     (15, cborUint s.ember.nextSeq), (16, cborArray [cborUint s.ember.tamperCount, cborUint s.ember.tamperLast]),
     (17, cborUint via)])
def attestation (s : State) (nonce : List Byte) (via : Nat) : List Byte :=
  let p := attestPayload s nonce via
  coseSign1 p (signPayload p)

/-- KEY_INFO (R349): SELECT 0, 1 and 2. -/
def keyInfoMap (s : State) (sel : Nat) : List Byte :=
  match sel with
  | 0 => cborMap [(1, cborUint 2), (2, cborBytes deviceId), (20, cborBytes identityKey), (21, cborBytes Config.certificate)]
  | 1 => cborMap ([(1, cborUint 3), (2, cborBytes deviceId), (8, cborUint (sealState s).code)] ++
      (if sealState s = .openState then [] else [(9, cborBytes (makerHash s))]) ++
      [(22, cborArray [cborUint (minSvn s 1), cborUint (minSvn s 2)])])
  | _ =>
    let slot := fun (l : Nat) (b : Bool) => cborArray [cborUint l, cborUint (if b then 1 else 0), cborUint (slotState s l b),
      cborBytes (bytes384 (Fwh.digest (slotImage s l b)))]
    cborMap [(1, cborUint 4), (2, cborBytes deviceId), (10, runningLayers s),
      (23, cborArray [slot 1 false, slot 1 true, slot 2 false, slot 2 true])]

end Sys2Proof.Machine
end

