-- ==== Sys2Proof/Machine/EmberOps.lean ====
section
/-! DEFINITION. Operations of the EMBER island shared by several commands: session contexts kept in the store (R239),
banks and the power-loss marker (R236 to R240), the restore of a start (R242, R243) and the beginning of an epoch
(R223, R244, R245). -/

namespace Sys2Proof.Machine

/-! Contexts. -/

/-- Rewrite a session's context in the store. -/
def saveContext (k : Nat) (s : State) : State :=
  let x := s.sessionAt k
  s.updEmber fun e => e.put (ctxOff k) (ctxBytes x)
/-- Change a session and its context: the store has the change before the record that it makes due is issued (log entry 116). -/
def State.setSession (s : State) (k : Nat) (f : Session → Session) : State := saveContext k (s.updSession k f)

/-- Set flags of this beat on a session: they show from its session window on (R220). -/
def flagSession (k bits : Nat) (s : State) : State :=
  s.updSession k fun x => { x with nextFlags := x.nextFlags ||| word bits }

/-! Restore (R242). -/

/-- The highest acknowledged SEQ that the queue shows: an ACKED entry's, or one below the lowest entry held. -/
def Ember.foundAck (e : Ember) : Nat :=
  let held := (List.range 1024).filter e.entryValid
  let acked := held.filter e.ackedEntry
  match acked with
  | [] => (held.foldl (fun m n => min m (e.entrySeq n)) (2 ^ 64)) % 2 ^ 64 - 1
  | _ => acked.foldl (fun m n => max m (e.entrySeq n)) 0

/-- Steps 1, 2 and 6 inside the controller: the bank, the next SEQ, the marker. Records that were due and not issued are lost
(log entry 116). -/
def Ember.restored' (e : Ember) : Ember :=
  let bank := e.newestArea
  let base := match bank with | some b => areaBase b | none => 0
  let word4 := fun (off : Nat) => if bank.isSome then e.le (base + off) 4 else 0
  let word8 := fun (off : Nat) => if bank.isSome then e.le (base + off) 8 else 0
  let found := e.markerValid && bank.isSome && e.le (markerOff + 4) 4 == word4 4 && e.le (markerOff + 8) 8 == word8 8
  let first := bank.isNone && e.highestSeq == 0 && e.counterCopy.isNone
  let r : Restore :=
    { firstStart := first, marker := found, cause := if found then e.le (markerOff + 0x18) 1 else 4,
      source := if found then e.le (markerOff + 0x19) 1 else 0, epoch := word4 4, beat := word8 0x10,
      time := if found then unpackTime (e.bytes (markerOff + 0x1C) 8) 0 else
              if bank.isSome then unpackTime (e.bytes (base + 0x18) 8) 0 else 0 }
  { e with restored := false, markerFound := found, area := bank.getD false, bankSeq := word8 8, bankBeat := word8 0x10,
           bankLen := match bank with | some b => e.areaLen b | none => 0,
           nextSeq := max e.storedSeq e.highestSeq + 1, ackSeq := if e.highestSeq = 0 then e.storedSeq else e.foundAck,
           restore := some r, due := [], epoch := e.storedEpoch }

/-- Steps 3 and 4 for one session. -/
def restoreSession (e : Ember) (k : Nat) : Session :=
  let x := e.ctxSession k
  if !x.state.isOpen then x else
  match e.newestArea.bind fun b => e.bankSession b k with
  | some o => { x with regs := e.regsAt (o + 0x10), segRegs := e.regsAt (o + 0x7C), uncert := e.le (o + 0xE8) 12,
                       elapsed := e.le (o + 0xF4) 8 }
  | none => x

/-- Steps 1 to 4 and 6, with the store errors found on the way (R248). -/
def restoreStore (s : State) : State :=
  let e := s.ember
  let err := fun (b : Bool) (i : Nat) (s : State) => if b then s.setFlag 0x30038 i else s
  let bad := (List.range 160).filter fun k => !(e.ctxValid k) && !(e.ctxBlank k)
  let s := { s with ember := e.restored', session := Vector.ofFn fun k : Fin 160 => restoreSession e k.val }
  let s := err (e.areaBad false) 0 (err (e.areaBad true) 1 (err e.badEntries 2 (err (!bad.isEmpty) 3 s)))
  bad.foldl (fun s k => reportFault Isl.ember 0x53 (e.le (ctxOff k + 1) 1 % 32) s) s

/-- Step 5 for one point: its banked registers, or a held point. -/
def restorePoint (s : State) (p : Nat) : State :=
  match s.ember.newestArea.bind fun b => s.ember.bankPoint b p with
  | none => s
  | some o =>
    let regs := s.ember.regsAt (o + 0x10)
    let type := s.ember.le (o + 1) 1
    let s := s.updPoint p fun q => { q with regs := regs }
    if type ≠ s.img.pType p ∧ regs.toList.any (fun r => r != 0) then
      let first := !(bitOf (s.reg 0x30038) 4)
      let s := s.updPoint p fun q => { q with state := .arming, held := some type }
      let s := s.updEmber fun e => { e with errPoint := if first then p else e.errPoint }
      reportFault Isl.ember 0x54 p (s.setFlag 0x30038 4)
    else s

/-- Step 5: RESTORED sets. -/
def restorePoints (s : State) : State :=
  ((List.range 32).foldl restorePoint s).updEmber fun e => { e with restored := true }

/-! Due records. -/

/-- Place of a record within its beat (R224): device records, then sessions in ascending number. -/
def recordOrder (t : RecType) (session : Option Nat) : Nat :=
  let kind := match t with
    | .powerLoss => 0 | .powerReturn => 1 | .fwChange => 2 | .timeSet => 3
    | .openRec => 0 | .imageSwap => 1 | .tariff => 2 | .event => 3 | .interval => 4 | .pause => 5 | .resume => 6 | .close => 7
  match session with | some k => 16 * (k + 1) + kind | none => kind

/-- The first 8 bytes of a digest as a number. -/
def legal8 (d : BitVec 384) : Nat := d.toNat / 2 ^ 320

/-- A device record of the beat that begins, with its device flags. -/
def deviceRecord (s : State) (t : RecType) (flags : Nat) (detail : List Byte) (ord : Option Nat) : DueRecord :=
  { type := t, session := none, point := 0, time := s.damper.rtc, beat := s.damper.beat, epoch := s.ember.epoch,
    flags := word flags, legal8 := legal8 s.ember.legalNow, token := 0, nreg := 0, regs := Vector.replicate 9 0, uncert := 0,
    comp := 0, cable := 0, seg := 0, tariff := 0, detail := detail, ready := false, fall := s.damper.beat,
    order := recordOrder t none, ord := ord }

/-- A session record with effective beat `b` (the beat that begins, or the one before it for a start on current). Its
flags, registers and SENSE_FB are taken at the publication cycle. -/
def sessionRecord (s : State) (t : RecType) (k b : Nat) (detail : List Byte) (ord : Option Nat) : DueRecord :=
  let x := s.sessionAt k
  let g := s.img
  let now := decide (b = s.damper.beat)
  let dc := g.isDC x.point
  { type := t, session := some k, point := x.point, time := if now then s.damper.rtc else s.damper.rtcBefore, beat := b,
    epoch := s.ember.epoch, flags := 0, legal8 := legal8 (if now then s.ember.legalNow else s.ember.legalPrev), token := x.token,
    nreg := if dc then 5 else 9, regs := Vector.replicate 9 0, uncert := 0,
    comp := g.pComp x.point + (if dc then 0x80 else 0), cable := if dc then g.pCable x.point else 0, seg := x.segNo,
    tariff := x.tariffNow, detail := detail, ready := false,
    fall := s.damper.beat, order := recordOrder t (some k), ord := ord }

/-- Put a record among those due, by the beat in which it falls due and its place there; equals keep the order in which they fell due. -/
def insertDue (r : DueRecord) : List DueRecord → List DueRecord
  | [] => [r]
  | x :: l => if r.fall < x.fall ∨ (r.fall = x.fall ∧ r.order < x.order) then r :: x :: l else x :: insertDue r l
def addDue (r : DueRecord) (s : State) : State := s.updEmber fun e => { e with due := insertDue r e.due }

/-! The first beat of an epoch (R223, R244, R245). -/

/-- The uncertainty bound of a session, canonical units: banked POINT_PMAX in 10 mW, period in beats. -/
def gapBound (pmax period : Nat) : Nat :=
  (roundEven ((12 : Rat) / 10 * ((pmax : Rat) / 100) * ((period + 3 : Nat) : Rat) / 3600000 * (2 ^ 32 : Nat))).toNat

/-- UNBANKED_GAP on a restored session, with its bound where its point was METERING in the banked beat. -/
def gapSession (s : State) (k : Nat) : State :=
  let e := s.ember
  let x := s.sessionAt k
  let rec' := e.newestArea.bind fun b => (e.bankPoint b x.point).map fun o => (b, o)
  let bound := match rec' with
    | some (b, o) => if e.le (o + 2) 1 = 2 then gapBound (e.le (o + 4) 4) (e.le (areaBase b + 0x24) 1) else 0
    | none => 0
  s.setSession k fun x => { x with flags := x.flags ||| putAt 1 6, uncert := x.uncert + bound }

/-- The pair of records of an outage, or its count in EMBER_MISSED while the queue is GATED. -/
def outageRecords (r : Restore) (s : State) : State :=
  if s.ember.gated then s.updEmber fun e => { e with missed := min (e.missed + 1) (2 ^ 32 - 1) }.dropMarker
  else
    let loss := { deviceRecord s .powerLoss 0 (leBytes 1 r.cause ++ leBytes 1 r.source) none with
                  beat := r.beat, epoch := r.epoch, time := r.time, legal8 := legal8 s.ember.heldLegal }
    let secs := (s.damper.rtc - r.time) / 32768
    let ret := deviceRecord s .powerReturn (if r.marker then 0 else 64)
      (leBytes 1 (if r.marker then 1 else 0) ++ leBytes 5 secs ++ leBytes 4 s.ember.missed) none
    addDue ret (addDue loss (s.updEmber fun e => { e with missed := 0 }))

/-- Begin the new epoch in the beat that begins, where a restore waits for it. -/
def beginEpoch (s : State) : State :=
  match s.ember.restore with
  | none => s
  | some r =>
    let s := s.updEmber fun e =>
      { e.putCounter (e.epoch + 1) (e.nextSeq - 1) with epoch := e.epoch + 1, restore := none, firstBeat := s.damper.beat }
    if r.firstStart then s else
    let s := if r.marker then s else (openSessions s).foldl gapSession s
    outageRecords r s

/-- FW_CHANGE falls due in a beat whose legally relevant digest differs from the held one, while the queue is not
GATED and none waits (R234). -/
def checkFwChange (s : State) : State :=
  let e := s.ember
  if e.legalNow = e.heldLegal ∨ e.gated ∨ e.due.any (fun r => r.type == .fwChange) then s
  else addDue (deviceRecord s .fwChange 0 ((bytes384 e.heldLegal).take 16 ++ (bytes384 e.legalNow).take 16) none) s

end Sys2Proof.Machine
end

