-- ==== Sys2Proof/Machine/HostOps.lean ====
section
/-! DEFINITION. Descriptors in flight: their static checks (R258 to R261, R269, R440), the order in which they may
start (R267), the islands they need (R284), and the session mailbox (R22). -/

namespace Sys2Proof.Machine

/-! Opcodes (R260). -/

def Opc.nop : Nat := 0x01
def Opc.readPoint : Nat := 0x02
def Opc.readTotals : Nat := 0x03
def Opc.sessionOpen : Nat := 0x10
def Opc.sessionTariff : Nat := 0x11
def Opc.sessionPause : Nat := 0x12
def Opc.sessionResume : Nat := 0x13
def Opc.sessionClose : Nat := 0x14
def Opc.sessionRelease : Nat := 0x15
def Opc.sessionRead : Nat := 0x16
def Opc.timeSet : Nat := 0x20
def Opc.timeRead : Nat := 0x21
def Opc.attest : Nat := 0x30
def Opc.keyInfo : Nat := 0x31
def Opc.captureStart : Nat := 0x40
def Opc.captureStop : Nat := 0x41
def Opc.displayCompose : Nat := 0x50
def Opc.displayWindow : Nat := 0x51
def Opc.linkPollset : Nat := 0x60
def Opc.linkSend : Nat := 0x61
def Opc.imageStage : Nat := 0x70
def Opc.imageActivate : Nat := 0x71
def Opc.fwStage : Nat := 0x72
def Opc.fwActivate : Nat := 0x73
def Opc.resetRequest : Nat := 0x7F

def Opc.all : List Nat := [0x01, 0x02, 0x03, 0x10, 0x11, 0x12, 0x13, 0x14, 0x15, 0x16, 0x20, 0x21, 0x30, 0x31, 0x40, 0x41,
  0x50, 0x51, 0x60, 0x61, 0x70, 0x71, 0x72, 0x73, 0x7F]

/-- Opcodes that execute in pilot-light mode (R269). -/
def Opc.inPilot (op : Nat) : Bool := [0x01, 0x03, 0x21, 0x30, 0x31, 0x7F].contains op

/-- Opcodes that name a point, a session, a buffer (R260). -/
def Opc.usesPoint (op : Nat) : Bool := op == 0x02 || op == 0x10
def Opc.usesSession (op : Nat) : Bool := 0x11 ≤ op && op ≤ 0x16
def Opc.usesBuffer (op : Nat) : Bool :=
  [0x02, 0x03, 0x10, 0x16, 0x30, 0x31, 0x40, 0x50, 0x60, 0x61, 0x70, 0x72].contains op

/-- The operand bytes an opcode uses (R261), 20 to 63. -/
def Opc.operandBytes (op : Nat) : List Nat :=
  let span := fun (a b : Nat) => (List.range (b + 1 - a)).map (a + ·)
  match op with
  | 0x03 => span 20 23
  | 0x10 => span 20 22 ++ span 24 27
  | 0x11 => span 20 21 ++ span 24 28
  | 0x20 => span 20 26
  | 0x30 => span 20 51
  | 0x31 => [20]
  | 0x40 => span 20 28 ++ span 32 39
  | 0x41 => [20]
  | 0x50 => span 20 22 ++ span 24 35
  | 0x51 => span 20 21 ++ span 24 31
  | 0x60 => [20]
  | 0x61 => span 20 22 ++ span 24 37
  | 0x71 => span 20 51
  | 0x72 => [20]
  | 0x73 => [20]
  | 0x7F => span 20 24
  | _ => []

/-- The offsets whose conditions hold. -/
def offending (l : List (Bool × Nat)) : List Nat := (l.filter Prod.fst).map Prod.snd

/-- Range checks of an opcode's operands (R261): the offsets of the fields outside their range. -/
def operandFaults (d : Inflight) : List Nat :=
  offending <|
  match d.opcode with
  | 0x03 => [(d.op 20 4 == 0, 20)]
  | 0x10 => [(1 < d.op 21 1, 21), (60 < d.op 22 1, 22),
      ((d.op 21 1 == 0 && d.op 24 4 != 0) || (d.op 21 1 == 1 && d.op 24 4 == 0), 24)]
  | 0x11 => [(1 < d.op 21 1, 21), (d.op 21 1 == 0 && d.op 24 5 != 0, 24)]
  | 0x20 => [(0x8000 ≤ d.op 25 2, 25)]
  | 0x31 => [(2 < d.op 20 1, 20)]
  | 0x40 => [(2 < d.op 20 1, 20), (127 < d.op 21 1, 21),
      (if d.op 20 1 == 1 then d.op 22 1 == 0 || 3 < d.op 22 1 else d.op 22 1 != 0, 22),
      (10 < d.op 23 1, 23), (d.op 24 4 == 0 || 2 ^ 28 < d.op 24 4, 24), (1 < d.op 28 1, 28)]
  | 0x41 => [(3 < d.op 20 1, 20)]
  | 0x50 => [(3 < d.op 20 1, 20), (1 < d.op 21 1, 21), (1 < d.op 22 1, 22), (800 ≤ d.op 24 2, 24), (600 ≤ d.op 26 2, 26),
      (d.op 28 2 == 0 || (d.op 24 2 < 800 && 800 < d.op 24 2 + d.op 28 2), 28),
      (d.op 30 2 == 0 || (d.op 26 2 < 600 && 600 < d.op 26 2 + d.op 30 2), 30)]
  | 0x51 => [(3 < d.op 20 1, 20), (1 < d.op 21 1, 21), (256 < d.op 28 2, 28), (64 < d.op 30 2, 30)]
  | 0x60 => [(d.op 20 1 == 0 || 64 < d.op 20 1, 20)]
  | 0x61 => [(d.op 20 1 == 0 || 31 < d.op 20 1, 20), (1 < d.op 21 1, 21), (3 < d.op 22 1, 22), (472 < d.op 32 4, 32),
      (d.op 36 2 != 0 && (d.op 36 2 < 30 || 250 < d.op 36 2), 36)]
  | 0x72 => [(d.op 20 1 == 0 || 2 < d.op 20 1, 20)]
  | 0x73 => [(d.op 20 1 == 0 || 2 < d.op 20 1, 20)]
  | 0x7F => [(d.op 20 4 != 0xB1607F00, 20), (d.op 24 1 != 1 && d.op 24 1 != 2, 24)]
  | _ => []

/-- Is BUF_LEN wrong by the lengths that the opcode alone fixes (R260, R261)? A required BUF_LEN of 0 is missing (R258). -/
def bufferFault (d : Inflight) : Bool :=
  let n := d.bufLen
  n == 0 || match d.opcode with
  | 0x02 => n < 256
  | 0x03 => n < 128 * popCount (d.op 20 4)
  | 0x10 => 1024 < n
  | 0x16 => n < 192
  | 0x40 => n < 4 * d.op 24 4
  | 0x50 => n != d.op 30 2 * ((d.op 28 2 * (if d.op 21 1 == 0 then 4 else 2) + 7) / 8)
  | 0x60 => n != 64 * d.op 20 1
  | 0x61 => (if d.op 21 1 == 1 then 236 else 472) < n
  | _ => false

/-- The checks of the fields that every descriptor has (R258, R259). A required BUF_ADDR of 0 is missing. -/
def commonFaults (d : Inflight) : List Nat :=
  let op := d.opcode
  offending [(8 ≤ d.flagBits, 3), (if Opc.usesPoint op then 31 < d.pointNo else d.pointNo != 0xFFFF, 4),
    (if Opc.usesSession op then 159 < d.sessionNo else d.sessionNo != 0xFFFF, 6),
    (Opc.usesBuffer op == (d.bufAddr == 0), 8), (if Opc.usesBuffer op then bufferFault d else d.bufLen != 0, 16)]
/-- Operand bytes that the opcode does not use and that are not 0 (R258). -/
def unusedFaults (d : Inflight) : List Nat :=
  offending ((List.range 44).map fun i => (!((Opc.operandBytes d.opcode).contains (20 + i)) && d.op (20 + i) 1 != 0, 20 + i))

/-- The field checks of R258, R259 and R261: the offset of the first offending field. -/
def fieldFault (d : Inflight) : Option Nat := (commonFaults d ++ operandFaults d ++ unusedFaults d).min?

/-- The checks 1 to 3 of R440: status and detail of the first that fails. -/
def staticFault (s : State) (d : Inflight) : Option (Nat × Nat) :=
  if !(Opc.all.contains d.opcode) then some (0x01, 0)
  else if s.rst.pilot && !(Opc.inPilot d.opcode) then some (0x0E, 0)
  else (fieldFault d).map fun off => (0x02, off)

/-- The response that ATTEST or KEY_INFO asks for (R349); none where SELECT names none. -/
def response (s : State) (d : Inflight) : Option (List Byte) :=
  if d.opcode = Opc.attest then some (attestation s (sliceOf d.bytes 20 32) 0)
  else if d.opcode = Opc.keyInfo ∧ d.op 20 1 ≤ 2 then some (keyInfoMap s (d.op 20 1)) else none
/-- RESULT of a descriptor that fails a check: the bytes needed, where an ATTEST or KEY_INFO fails with BAD_FIELD (R264). -/
def failResult (s : State) (d : Inflight) (status : Nat) : List Byte :=
  match response s d with
  | some r => if status = 0x02 then leBytes 4 r.length else []
  | none => []
/-- Complete a descriptor with the first check that it fails. -/
def State.finishStatic (s : State) (d : Inflight) (x : Nat × Nat) : State := s.finish d.ord x.1 x.2 (failResult s d x.1)

/-! Who runs in CTRL. -/

/-- With host load, the boot ROM loader runs in CTRL until the host's items are there (R315). -/
def State.bootLoading (s : State) : Bool := s.rst.release.any fun r => r.hostLoad && (r.step == 12 || r.step == 5)
/-- The cores run firmware that serves the rings: control firmware, or the recovery loader in pilot-light mode. -/
def State.ctrlServes (s : State) : Bool := s.running Isl.ctrl && !s.fw.loader && !s.bootLoading

/-! Order (R267). -/

def Inflight.namesSession (d : Inflight) : Bool := d.sessionNo != 0xFFFF
def Opc.posts (op : Nat) : Bool := 0x10 ≤ op && op ≤ 0x15

/-- The point that a mailbox-posting descriptor concerns. -/
def Inflight.concerns (s : State) (d : Inflight) : Option Nat :=
  if d.opcode = 0x10 then some d.pointNo
  else if Opc.posts d.opcode then some (s.sessionAt d.sessionNo).point else none

/-- An earlier descriptor that the device has not fetched yet: its content is not known (log entry 20). -/
def earlierUnfetched (s : State) (ord : Nat) : Bool := s.host.sq.toList.any fun q => q.vis.any fun o => o < ord

/-- May a descriptor in flight start? -/
def mayStart (s : State) (d : Inflight) : Bool :=
  d.phase == .waiting &&
  -- 1: after every earlier descriptor that names the same session
  !(d.namesSession && s.host.inflight.any fun e => e.ord < d.ord && e.sessionNo == d.sessionNo) &&
  -- 2: posted after every earlier posting descriptor of the same point
  !((d.concerns s).isSome && s.host.inflight.any fun e =>
      e.ord < d.ord && e.phase == .waiting && e.concerns s == d.concerns s) &&
  !((d.namesSession || Opc.posts d.opcode) && earlierUnfetched s d.ord) &&
  -- 3: FENCE
  !(d.flagBits.testBit 1 && s.host.inflight.any fun e => e.ord < d.ord && e.sq == d.sq)

/-- The islands whose isolation fails an opcode (R284). -/
def Opc.needs (op : Nat) : List Nat :=
  [6] ++ (if [0x70, 0x72, 0x50, 0x40, 0x41].contains op then [8] else []) ++
  (if [0x30, 0x31, 0x72, 0x73, 0x10].contains op then [9] else []) ++
  (if op == 0x60 || op == 0x61 then [10] else []) ++ (if op == 0x50 || op == 0x51 then [11] else [])

/-- Start a descriptor: where it is in flight, has the row's opcode and may start, it executes; where an island it
needs is isolated, it completes with INTERNAL_FAULT, a failed field check (R440) before that; otherwise it stays as it is. -/
def withDescriptor (ops : List Nat) (ord : Nat) (s : State) (f : Inflight → State) : Host.Outcome State Fault Refusal :=
  match s.flight ord with
  | some d =>
    if ops.contains d.opcode && mayStart s d then
      match staticFault s d, (Opc.needs d.opcode).find? fun i => s.island i == .isolated with
      | some x, _ => .next (s.finishStatic d x)
      | none, some i => .next (s.finishFail ord 0x0B i)
      | none, none => .next (f d)
    else .next s
  | none => .next s

/-- May the device reach host memory: HOST running, the link up, Bus Master Enable set (R250)? -/
def canDma (s : State) : Bool := s.running Isl.host && s.host.linkUp && s.host.busMaster

/-- As `withDescriptor`, for an opcode that moves a buffer. -/
def withBuffer (ops : List Nat) (ord : Nat) (s : State) (f : Inflight → State) : Host.Outcome State Fault Refusal :=
  if canDma s then withDescriptor ops ord s f else .next s

/-- A transfer failed (R275): HOST_ERR with its ring, AER, and the report to the fault collector as CORRECTABLE. -/
def transferError (bit ring : Nat) (s : State) : State := reportFault Isl.host 0x71 0 (s.hostErr bit ring).aerError

/-- A buffer transfer failed (R275): DMA_ERROR, detail 1 for a read and 2 for a write. -/
def bufferError (ord detail : Nat) (s : State) : State :=
  (transferError 4 ((s.flight ord).map Inflight.sq |>.getD 0) s).finishFail ord 0x0A detail

/-- Write a descriptor's buffer and finish it, or fail it where the transfer fails. -/
def writeBuffer (d : Inflight) (ok : Bool) (data result : List Byte) (s : State) : State :=
  if ok then (s.dmaWrite d.bufAddr data).finishOk d.ord result else bufferError d.ord 2 s

/-- Replies that waited while the device could issue no request are written, and their descriptors complete (R250). -/
def payReply (s : State) (w : OwedReply) : State :=
  if (s.flight w.ord).isNone then s else
  let t := { s with rst := { s.rst with nDraws := s.rst.nDraws + 1 } }
  if Config.owedWrite s.rst.nDraws then (t.dmaWrite w.addr w.data).finishOk w.ord w.result else bufferError w.ord 2 t
def payOwed (s : State) : State :=
  if canDma s then s.link.owed.foldl payReply { s with link := { s.link with owed := [] } } else s

/-! The session mailbox (R22, R23). -/

/-- Post an entry, where the mailbox has room. -/
def post (cmd : MailCmd) (ord : Option Nat) (s : State) : Option State :=
  if s.damper.mailbox.length < 64 && s.running Isl.conv then
    some (s.updDamper fun d => { d with mailbox := d.mailbox ++ [{ cmd := cmd, ord := ord }] })
  else none

/-- Post a descriptor's command: it is posted, or it waits for room in the mailbox. -/
def postFor (d : Inflight) (cmd : MailCmd) (s : State) : State :=
  match post cmd (some d.ord) s with
  | some t => t.setPhase d.ord .posted
  | none => s

end Sys2Proof.Machine
end

