-- ==== Sys2Proof/Machine/Render.lean ====
section
/-! DEFINITION. Pixels: rectangles, the legal fields of an image rendered from the published windows (R198, R399,
R400), and waveform tables and uniformity maps (R395 to R397). Pixel (x, y) of a panel is number y * 1024 + x. -/

namespace Sys2Proof.Machine

/-! Rectangles. -/

def Rect.has (r : Rect) (px : Nat) : Bool :=
  r.x ≤ px % 1024 && px % 1024 < r.x + r.w && r.y ≤ px / 1024 && px / 1024 < r.y + r.h
def Rect.pixels (r : Rect) : List Nat :=
  (List.range r.h).flatMap fun y => (List.range r.w).map fun x => (r.y + y) * 1024 + (r.x + x)
def Rect.isEmpty (r : Rect) : Bool := r.w == 0 || r.h == 0
/-- Does `r` contain `q`? -/
def Rect.contains (r q : Rect) : Bool := r.x ≤ q.x && q.x + q.w ≤ r.x + r.w && r.y ≤ q.y && q.y + q.h ≤ r.y + r.h
def Rect.meet (r q : Rect) : Rect :=
  let x := max r.x q.x
  let y := max r.y q.y
  ⟨x, y, min (r.x + r.w) (q.x + q.w) - x, min (r.y + r.h) (q.y + q.h) - y⟩
/-- The bounding rectangle of two; an empty one adds nothing. -/
def Rect.join (r q : Rect) : Rect :=
  if r.isEmpty then q else if q.isEmpty then r else
  let x := min r.x q.x
  let y := min r.y q.y
  ⟨x, y, max (r.x + r.w) (q.x + q.w) - x, max (r.y + r.h) (q.y + q.h) - y⟩
def Rect.ofPixel (px : Nat) : Rect := ⟨px % 1024, px / 1024, 1, 1⟩
def Rect.bounding (l : List Rect) : Rect := l.foldl Rect.join Rect.none

/-! Levels: an unlisted pixel has level 15. -/

def Px.get (m : List (Nat × Nat)) (px : Nat) : Nat := Sparse.get (fun _ => 15) m px
def Px.set (m : List (Nat × Nat)) (px l : Nat) : List (Nat × Nat) := Sparse.set (fun _ => 15) m px l
/-- Set every pixel of a list. -/
def Px.setAll (m : List (Nat × Nat)) (l : List (Nat × Nat)) : List (Nat × Nat) := l.foldl (fun m c => Px.set m c.1 c.2) m

/-! Legal fields (R198, R399). -/

def Image.fieldRect (g : Image) (n : Nat) : Rect := ⟨g.fldX n, g.fldY n, g.fldW n, g.fldH n⟩
def Image.portFields (g : Image) (p : Nat) : List Nat := (List.range g.nField).filter fun n => g.fldPort n == p
def Image.isLegal (g : Image) (p px : Nat) : Bool := (g.portFields p).any fun n => (g.fieldRect n).has px
def Image.onRequest (g : Image) (n : Nat) : Bool := (g.fldFlags n).testBit 0
def Image.inverted (g : Image) (n : Nat) : Bool := (g.fldFlags n).testBit 1
/-- Fields shown only during a request span. -/
def Image.hidden (g : Image) (n : Nat) : Bool := g.onRequest n || g.fldCode n == 0x02

/-- The number of glyphs a field shows (R399, R400). -/
def Image.fieldGlyphCount (g : Image) (n : Nat) : Nat :=
  match g.fldCode n with
  | 1 => 1 | 4 => 3 | 2 => g.fldDigits n | 3 => g.fldDigits n
  | _ => g.fldDigits n + if g.fldDecimals n = 0 then 0 else 1

/-- The published windows. -/
def State.sessView (s : State) : SessView := if s.ember.half then s.ember.half1 else s.ember.half0
def Point.window (p : Point) : PointWindow := if p.half then p.half1 else p.half0

/-- The shown session of a point (R400). -/
def shownSession (v : SessView) (p : Nat) : Option Session :=
  let of := fun (ok : SessState → Bool) => v.sessions.toList.filter fun k => k.point == p && ok k.state
  match of (fun st => st == .armed || st == .active || st == .paused) with
  | k :: _ => some k
  | [] => (of fun st => st == .closing || st == .sealed).foldl (fun best k =>
      match best with | some b => if b.closeSeq < k.closeSeq then some k else some b | none => some k) none

def stateGlyph : SessState → Nat
  | .free => 19 | .armed => 20 | .active => 21 | .paused => 22 | .closing => 23 | .sealed => 24

/-- The glyphs of a number already scaled by 10^decimals: blanks for leading zeros but the digit before the mark, the
overflow glyph where it does not fit. -/
def numberGlyphs (n digits decimals : Nat) : List Nat :=
  let tooBig := 10 ^ digits ≤ n
  (List.range digits).flatMap fun i =>
    let k := digits - 1 - i
    let g := if tooBig ∧ i = 0 then 18
             else if !tooBig ∧ decimals < k ∧ n < 10 ^ k then 17 else n / 10 ^ k % 10
    if decimals ≠ 0 ∧ k = decimals then [g, 16] else [g]

/-- A register in kWh with decimals, truncated: 2^-32 Wh to 10^-D kWh. -/
def kwhScaled (v decimals : Nat) : Nat := v * 10 ^ decimals / (1000 * 2 ^ 32)

/-- The glyphs of field `n` (R399, R400); none while it is hidden. -/
def fieldGlyphs (s : State) (g : Image) (n : Nat) (showReq : Bool) : List Nat :=
  let p := g.fldPoint n
  let d := g.fldDigits n
  let dec := g.fldDecimals n
  let ofSession := fun (f : Session → List Nat) => match shownSession s.sessView p with
    | some k => f k
    | none => 19 :: List.replicate (g.fieldGlyphCount n - 1) 17
  let mark := fun (k : Session) (bit glyph : Nat) => if bitOf k.flags bit then glyph else 17
  if g.hidden n && !showReq then [] else
  match g.fldCode n with
  | 0x01 => ofSession fun k => [stateGlyph k.state]
  | 0x02 => (List.range d).map fun j => s.trust.legal.toNat / 2 ^ (380 - 4 * j) % 16
  | 0x03 => ofSession fun k => numberGlyphs k.tariffNow d 0
  | 0x04 => ofSession fun k => [mark k 0 25, mark k 1 26, mark k 6 27]
  | c =>
    if 0x20 ≤ c then numberGlyphs (kwhScaled ((s.point.toList.getD p .init).window.regs.getD (c - 0x20) 0) dec) d dec
    else ofSession fun k => numberGlyphs (kwhScaled (k.regs.toList.getD (c - 0x10) 0) dec) d dec

/-- The level of the pixel at (x, y) within field `n`. -/
def Image.fieldLevel (g : Image) (n : Nat) (glyphs : List Nat) (x y : Nat) : Nat :=
  let ink := match glyphs[x / (max 1 g.glyphW)]? with
    | some k => y < g.glyphH && g.glyphInk k (x % (max 1 g.glyphW)) y
    | none => false
  if ink != g.inverted n then 0 else 15

/-- Every pixel of a field with its level. -/
def renderField (s : State) (g : Image) (showReq : Bool) (n : Nat) : List (Nat × Nat) :=
  let gl := fieldGlyphs s g n showReq
  (g.fieldRect n).pixels.map fun px => (px, g.fieldLevel n gl (px % 1024 - g.fldX n) (px / 1024 - g.fldY n))

/-! Waveform tables and maps (R395 to R397). -/

def waveMagic : Nat := 0x4D415657
def mapMagic : Nat := 0x50554D4D

def Wave.size (t : List Host.Cell) : Nat := Memory.readLE t 4 4
def Wave.gen (t : List Host.Cell) : Nat := Memory.readLE t 8 4
def Wave.bound (t : List Host.Cell) (r : Nat) : Int := signed (Memory.readLE t (0x0C + 2 * (r - 1)) 2) 16
def Wave.clearLevel (t : List Host.Cell) : Nat := (Memory.read t 0x1A).toNat % 16
def Wave.offset (t : List Host.Cell) (m r : Nat) : Nat := Memory.readLE t (0x40 + 64 * m + 8 * r) 4
def Wave.frames (t : List Host.Cell) (m r : Nat) : Nat := Memory.readLE t (0x44 + 64 * m + 8 * r) 2

/-- MAGIC and SIZE of a waveform table: a header, blocks and a CRC within 512 KiB. -/
def Wave.headOk (t : List Host.Cell) : Bool :=
  Memory.readLE t 0 4 == waveMagic && 0x104 ≤ Wave.size t && Wave.size t ≤ 0x80000
def Wave.crcOk (t : List Host.Cell) : Bool := Sys2Proof.Machine.crcOk (Memory.readN t 0 (Wave.size t))
def Wave.valid (t : List Host.Cell) : Bool := Wave.headOk t && Wave.crcOk t

/-- The range of a temperature in units of 0.5 °C. -/
def Wave.range (t : List Host.Cell) (temp : Int) : Nat :=
  (List.range 8).foldl (fun m r => if r ≠ 0 ∧ Wave.bound t r ≤ temp then r else m) 0

/-- The 2-bit code in the blocks: transition from level `a` to level `b` in frame `f`; a clear block has one code. -/
def Wave.code (t : List Host.Cell) (m r f a b : Nat) : Nat :=
  let base := Wave.offset t m r
  if m = 2 then (Memory.read t (base + f)).toNat % 4
  else (Memory.read t (base + 64 * f + (16 * a + b) / 4)).toNat / 2 ^ (2 * (b % 4)) % 4

def Map.gen (t : List Host.Cell) : Nat := Memory.readLE t 4 4
def Map.w (t : List Host.Cell) : Nat := Memory.readLE t 8 2
def Map.h (t : List Host.Cell) : Nat := Memory.readLE t 10 2
def Map.size (t : List Host.Cell) : Nat := 0x24 + Map.h t * (Map.w t / 2)
def Map.headOk (t : List Host.Cell) : Bool := Memory.readLE t 0 4 == mapMagic
def Map.crcOk (t : List Host.Cell) : Bool := Sys2Proof.Machine.crcOk (Memory.readN t 0 (Map.size t))
def Map.valid (t : List Host.Cell) : Bool := Map.headOk t && Map.size t ≤ 0x40000 && Map.crcOk t
/-- The class of a pixel and the frames it trims. -/
def Map.cls (t : List Host.Cell) (x y : Nat) : Nat :=
  let b := (Memory.read t (0x20 + y * (Map.w t / 2) + x / 2)).toNat
  if x % 2 = 0 then b % 16 else b / 16
def Map.trim (t : List Host.Cell) (k : Nat) : Nat := (Memory.read t (0x0C + k)).toNat

end Sys2Proof.Machine
end

