-- ==== Sys2Proof/Machine/Views.lean ====
section
/-! DEFINITION. The published result windows as register words: point windows (R134, R142, R143) and the SESSION view
(R247). -/

namespace Sys2Proof.Machine

/-- Word `i` (0 fraction, 1 and 2 integer) of a register of 2^-32 units. -/
def canonWord (v i : Nat) : Word := word (v / 2 ^ (32 * i))

/-- The short view of a register: floor(v * 1000) mod 2^32 (R134). -/
def shortView (v : Nat) : Word := word (v * 1000 / 2 ^ 32)

/-- A word of a point window by its offset in the POINT block. -/
def PointWindow.view (w : PointWindow) (off : Nat) : Word :=
  if off = 0x000 ∨ off = 0x0FC then loWord w.beat
  else if off = 0x004 then hiWord w.beat
  else if off = 0x008 then w.status
  else if 0x00C ≤ off ∧ off < 0x01C then w.image.getD ((off - 0x00C) / 4) 0
  else if 0x020 ≤ off ∧ off < 0x08C then canonWord (w.regs.getD ((off - 0x020) / 12) 0) ((off - 0x020) / 4 % 3)
  else if 0x08C ≤ off ∧ off < 0x0B0 then shortView (w.regs.getD ((off - 0x08C) / 4) 0)
  else if 0x0C8 ≤ off ∧ off < 0x0D4 then w.volts.getD ((off - 0x0C8) / 4) 0
  else if 0x0D4 ≤ off ∧ off < 0x0E4 then w.amps.getD ((off - 0x0D4) / 4) 0
  else match off with
    | 0x0B0 => w.nsamp | 0x0B4 => w.p | 0x0B8 => w.q | 0x0BC => w.s | 0x0C0 => w.pf | 0x0C4 => w.freq
    | 0x0E4 => w.pmax | 0x0E8 => w.incP | 0x0EC => w.incQ | 0x0F0 => w.p1 | _ => 0

/-- Bytes of consecutive words. -/
def wordsBytes (f : Nat → Word) (n : Nat) : List Byte := (List.range n).flatMap fun i => leBytes 4 (f (4 * i)).toNat

/-- SESS_STATE of a context, and SESS_SUM. -/
def Session.sumWord (x : Session) : Word := if x.state = .free then 0 else putAt x.state.code 0 ||| putAt x.point 8
def Session.stateWord (x : Session) : Word :=
  if x.state = .free then 0 else x.sumWord ||| putAt x.segNo 16 ||| putAt x.tariffNow 24

def SessView.session (v : SessView) (k : Nat) : Session := v.sessions.toList.getD k .init
def SessView.count (v : SessView) (f : SessState → Bool) : Nat := (v.sessions.toList.filter fun x => f x.state).length

/-- A word of the SESSION view with session `sel` in the aperture, by its offset in the block; a session above 159
shows zeros. SESS_SEL itself is a register of the host. -/
def SessView.view (v : SessView) (sel off : Nat) : Word :=
  let x := v.session sel
  if off = 0x000 ∨ off = 0xFFC then loWord v.beat
  else if off = 0x004 then hiWord v.beat
  else if off = 0x008 then
    putAt (v.count fun st => st == .free) 0 ||| putAt (v.count SessState.isOpen) 8 |||
      putAt (v.count fun st => st == .closing || st == .sealed) 16
  else if off = 0x00C then putAt (v.queue % 2048) 0 ||| putAt (queueState v.queue) 11
  else if off = 0x020 then x.stateWord
  else if off = 0x024 then x.flags
  else if off = 0x028 then loWord x.startBeat
  else if off = 0x02C then hiWord x.startBeat
  else if off = 0x030 then word x.startEpoch
  else if off = 0x034 then loWord x.openSeq
  else if off = 0x038 then hiWord x.openSeq
  else if 0x040 ≤ off ∧ off < 0x0AC then canonWord (x.regs.toList.getD ((off - 0x040) / 12) 0) ((off - 0x040) / 4 % 3)
  else if 0x0AC ≤ off ∧ off < 0x0B8 then canonWord x.uncert ((off - 0x0AC) / 4)
  else if 0x400 ≤ off ∧ off < 0x680 then (v.session ((off - 0x400) / 4)).sumWord
  else 0

/-! The windows as they are read. -/

/-- A word of a POINT block: the published window (R142). Before the first publication its IMAGE words show the active
definition. -/
def State.pointWord (s : State) (p off : Nat) : Word :=
  if s.ember.lastPub.isNone && decide (0x00C ≤ off) && decide (off < 0x01C) then
    [s.img.pDef p, s.img.pInA p, s.img.pInB p, word (s.img.pCable p)].getD ((off - 0x00C) / 4) 0
  else (s.pointAt p).window.view off

/-- A word of the SESSION view with session `k` in the aperture; it reads 0 until a window has been published. -/
def State.sessWord (s : State) (k off : Nat) : Word := if s.ember.lastPub.isNone then 0 else s.sessView.view k off

end Sys2Proof.Machine
end

