-- ==== Sys2Proof/Machine/Sessions.lean ====
section
/-! DEFINITION. Sessions (chapter "Sessions, Billing Records and the Ember Store"): the descriptors that post to the
session mailbox, its latch, the judging of its entries at a beat boundary (R22 to R24, R215 to R219, R357), and the
sessions' own boundary and publication steps. -/

namespace Sys2Proof.Machine

/-! Descriptors: SEAL hashes the identification of a SESSION_OPEN; every other command is posted as it stands. -/

def execSessionOpen (ord : Nat) (buf : HostRead) (s : State) : Host.Outcome State Fault Refusal :=
  withBuffer [Opc.sessionOpen] ord s fun d =>
    match buf with
    | none => bufferError ord 1 s
    | some id =>
      postFor d (.openSess d.pointNo (d.op 21 1 == 1) (d.op 24 4) (d.op 22 1) (d.op 20 1) (sha256 (padTo d.bufLen id))) s
def execSessionTariff (ord : Nat) (s : State) : Host.Outcome State Fault Refusal :=
  withDescriptor [Opc.sessionTariff] ord s fun d =>
    postFor d (.tariff d.sessionNo (d.op 21 1 == 1) (d.op 24 5) (d.op 20 1)) s
def execSessionPause (ord : Nat) (s : State) : Host.Outcome State Fault Refusal :=
  withDescriptor [Opc.sessionPause] ord s fun d => postFor d (.pause d.sessionNo) s
def execSessionResume (ord : Nat) (s : State) : Host.Outcome State Fault Refusal :=
  withDescriptor [Opc.sessionResume] ord s fun d => postFor d (.resume d.sessionNo) s
def execSessionClose (ord : Nat) (s : State) : Host.Outcome State Fault Refusal :=
  withDescriptor [Opc.sessionClose] ord s fun d => postFor d (.close d.sessionNo) s
def execSessionRelease (ord : Nat) (s : State) : Host.Outcome State Fault Refusal :=
  withDescriptor [Opc.sessionRelease] ord s fun d => postFor d (.release d.sessionNo) s

/-- SESSION_READ (R264): 192 bytes of the view as it shows the named session. -/
def execSessionRead (ord : Nat) (ok : Bool) (s : State) : Host.Outcome State Fault Refusal :=
  withBuffer [Opc.sessionRead] ord s fun d =>
    let v := s.sessView
    let k := d.sessionNo
    let words := fun (off : Nat) => if off = 0x010 then word k else s.sessWord k off
    let state := (s.sessWord k 0x020).toNat % 8
    writeBuffer d ok (wordsBytes words 48) (leBytes 8 (if s.ember.lastPub.isNone then 0 else v.beat) ++ leBytes 1 state) s

/-! The mailbox latch (R22). -/

/-- Start of frame 9 999: the entries posted so far, and a pending activation in the last beat of a round, are
latched. -/
def execMailboxLatch (s : State) : Host.Outcome State Fault Refusal :=
  if s.active ∧ s.damper.frame = 9999 then
    let last := s.damper.beat % 1000 = 999
    .next (s.updDamper fun d => { d with latched := d.mailbox.length, latchedAct := d.latchedAct || (d.pending && last) })
  else .next s

/-! Tariff segments (R218). -/

/-- Programmed changes due at a latch, in ascending T, and those still pending. -/
def insertSeg (g : Segment) : List Segment → List Segment
  | [] => [g]
  | x :: l => if g.dueAt < x.dueAt then g :: x :: l else x :: insertSeg g l
def isDue (rtc : Nat) (g : Segment) : Bool := !g.started && g.dueAt * 32768 ≤ rtc
def dueSegs (x : Session) (rtc : Nat) : List Segment := (x.segs.filter (isDue rtc)).foldl (fun l g => insertSeg g l) []

/-- Replace the tariff of segment 0 by a change that falls due, which leaves the list. -/
def replaceFirst (x : Session) (g : Segment) : Session :=
  { x with segs := match x.segs.filter (fun y => y.started || y.dueAt != g.dueAt) with
                   | z :: l => { z with tariff := g.tariff } :: l
                   | [] => [] }
/-- Start a new segment with a change that falls due. -/
def startSegment (x : Session) (tariff : Nat) (rest : List Segment) : Session :=
  { x with segs := x.segs.filter Segment.started ++ [{ tariff := tariff, started := true, dueAt := 0 }] ++ rest, segNew := true }

/-- The detail of a TARIFF record: previous segment and index, cause. -/
def tariffDetail (x : Session) (cause : Nat) : List Byte := leBytes 1 x.segNo ++ leBytes 1 x.tariffNow ++ leBytes 1 cause

/-- A programmed change of session `k` falls due at the boundary of this beat: a new segment with its record, or the
replaced tariff of segment 0. -/
def fallDue (k : Nat) (g : Segment) (replace : Bool) (s : State) : State :=
  let x := s.sessionAt k
  if replace then s.setSession k fun x => replaceFirst x g
  else
    let detail := tariffDetail x 1
    let rest := x.segs.filter fun y => !y.started && y.dueAt != g.dueAt
    let s := s.setSession k fun x => startSegment x g.tariff rest
    addDue (sessionRecord s .tariff k s.damper.beat detail none) s

/-- The programmed changes of an open session at a boundary, before a session with IMMEDIATE starts there (R218): those of an
ARMED session replace segment 0. An ARMED session with ON_CURRENT waits for the judging of
the beat that has ended. -/
def dueChanges (s : State) (k : Nat) : State :=
  let x := s.sessionAt k
  if !x.state.isOpen || (x.state == .armed && x.onCurrent) then s
  else
    (dueSegs x s.damper.rtc).foldl (fun s g => fallDue k g (x.state == .armed) s) s

/-! Judging of a mailbox entry at the boundary that begins beat b (R219). -/

def failEntry (m : MailEntry) (status detail : Nat) (s : State) : State := s.finishOpt m.ord status detail []
/-- A descriptor whose command has been applied and whose record is due. -/
def awaitRecord (m : MailEntry) (signed : Bool) (k : Nat) (s : State) : State :=
  match m.ord with
  | some o => s.setPhase o (if signed then .signing k s.damper.beat 0 else .applied k s.damper.beat)
  | none => s

/-- The session flag of an event code, by its bit (R161, R220). -/
def eventFlag (code : Nat) : Word :=
  if 1 ≤ code ∧ code ≤ 6 then putAt 1 2 else if code = 7 then putAt 1 3 else if code = 8 then putAt 1 4
  else if code = 9 then putAt 1 5 else 0

/-- The flags of the events open on a point, which a session opened now receives in its first beat (R169). -/
def openFlags (s : State) (p : Nat) : Word :=
  let x := Tab.at s.events.point p .init
  (List.range 10).foldl (fun m k => if (Tab.at x.det k .init).isOpen then m ||| eventFlag (k + 1) else m) 0

/-- SESSION_OPEN. -/
def applyOpen (m : MailEntry) (p : Nat) (onCur : Bool) (iStart interval tariff : Nat) (token : BitVec 256) (s : State) : State :=
  if (s.pointAt p).state == .unused || (s.pointAt p).held.isSome || (openOf s p).isSome then failEntry m 0x05 0 s
  else match (List.range 160).find? fun k => (s.sessionAt k).state == .free with
  | none => failEntry m 0x0D 0 s
  | some k =>
    if s.ember.low then failEntry m 0x06 1 s
    else
      let b := s.damper.beat
      let s := s.setSession k fun _ =>
        { Session.init with state := .armed, point := p, onCurrent := onCur, iStart := iStart, interval := interval, token := token,
                            segs := [{ tariff := tariff, started := true, dueAt := 0 }], appliedBeat := b,
                            nextFlags := openFlags s p }
      match m.ord with
      | some o => s.setPhase o (.applied k b)
      | none => s

/-- The number that a programmed change for T gets: it starts after the segments that have started and the pending changes with
an earlier T (log entry 118). -/
def Session.segFor (x : Session) (t : Nat) : Nat := x.started'.length + (x.segs.filter fun g => !g.started && g.dueAt < t).length

/-- SESSION_TARIFF. A change of an ARMED session that is due at once replaces segment 0 (R218). -/
def applyTariff (m : MailEntry) (k : Nat) (programmed : Bool) (t tariff : Nat) (s : State) : State :=
  let x := s.sessionAt k
  let b := s.damper.beat
  if x.state == .free then failEntry m 0x03 0 s
  else if !(x.state == .active || x.state == .paused || (programmed && x.state == .armed)) then failEntry m 0x04 x.state.code s
  else if 8 ≤ x.segs.length then failEntry m 0x02 21 s
  else if programmed && x.segs.any (fun g => !g.started && g.dueAt == t) then failEntry m 0x02 24 s
  else if s.ember.low then failEntry m 0x06 1 s
  else if programmed then
    let s := s.setSession k fun x => { x with segs := x.segs ++ [{ tariff := tariff, started := false, dueAt := t }] }
    let now := decide (t * 32768 ≤ s.damper.rtc)
    let seg := if x.state == .armed && now then 0 else x.segFor t
    s.finishOpt m.ord 0 0 (leBytes 8 (if now then b else 0) ++ leBytes 1 seg)
  else
    let detail := tariffDetail x 0
    let s := s.setSession k fun x => startSegment x tariff (x.segs.filter fun g => !g.started)
    let s := addDue (sessionRecord s .tariff k b detail none) s
    s.finishOpt m.ord 0 0 (leBytes 8 b ++ leBytes 1 (s.sessionAt k).segNo)

/-- SESSION_PAUSE and SESSION_RESUME. A RESUME succeeds also where the point is held in ARMING by a hearth that is RUNNING or FAIL
(R69): the session is ACTIVE and receives nothing (log entry 117). -/
def applyMove (m : MailEntry) (k : Nat) (src dst : SessState) (t : RecType) (gate : Bool) (s : State) : State :=
  let x := s.sessionAt k
  if x.state == .free then failEntry m 0x03 0 s
  else if x.state != src then failEntry m 0x04 x.state.code s
  else if gate && s.ember.low then failEntry m 0x06 1 s
  else
    let s := s.setSession k fun x => { x with state := dst }
    awaitRecord m false k (addDue (sessionRecord s t k s.damper.beat [] m.ord) s)

/-- SESSION_CLOSE: reason 1 CANCELLED for a session that never started. -/
def applyClose (m : MailEntry) (k : Nat) (s : State) : State :=
  let x := s.sessionAt k
  if x.state == .free then failEntry m 0x03 0 s
  else if !x.state.isOpen then failEntry m 0x04 x.state.code s
  else
    let detail := leBytes 1 (if x.state == .armed then 1 else 0) ++ leBytes 8 x.openSeq ++ leBytes 4 x.startEpoch ++
      leBytes 8 x.startBeat
    let s := s.setSession k fun x => { x with state := .closing }
    awaitRecord m true k (addDue (sessionRecord s .close k s.damper.beat detail m.ord) s)

/-- SESSION_RELEASE. -/
def applyRelease (m : MailEntry) (k : Nat) (s : State) : State :=
  let x := s.sessionAt k
  if x.state == .free then failEntry m 0x03 0 s
  else if x.state != .sealed || s.ember.ackSeq < x.closeSeq then failEntry m 0x04 x.state.code s
  else (s.setSession k fun _ => Session.init).finishOpt m.ord 0 0 []

/-- A descriptor that waits for the signature of a record completes once it is stored (R260). -/
def signedDone (seq : Nat) (s : State) : State :=
  s.host.inflight.foldl (fun s d =>
    match d.phase with
    | .signing k b q =>
      if q = seq then
        let r := if d.opcode = Opc.sessionOpen then
            leBytes 2 k ++ leBytes 1 (s.sessionAt k).state.code ++ zeros 1 ++ leBytes 8 b ++ leBytes 8 seq
          else leBytes 8 b ++ leBytes 8 seq
        s.finishOk d.ord r
      else s
    | _ => s) s

/-- A SIGN entry (R225, R226): a signature is stored once; REPLACE overwrites it. A CLOSE record's signature seals its
session. -/
def applySign (seq : Nat) (sig : BitVec 512) (replace : Bool) (s : State) : State :=
  if !(s.ember.holds seq) || (s.ember.signedEntry seq && !replace) then s
  else
    let s := s.updEmber fun e => e.storeSig seq sig
    let sealing := (List.range 160).filter fun k => (s.sessionAt k).state == .closing && (s.sessionAt k).closeSeq == seq
    signedDone seq (sealing.foldl (fun s k => s.setSession k fun x => { x with state := .sealed }) s)

/-- An ACK entry (R227): inclusive. -/
def applyAck (seq : Nat) (s : State) : State :=
  if seq ≤ s.ember.ackSeq ∨ s.ember.nextSeq ≤ seq then s
  else s.updEmber fun e =>
    let news := (List.range (seq - e.ackSeq)).map fun i => e.ackSeq + 1 + i
    { news.foldl (fun e q => if e.holds q then e.markEntry q 1 else e) e with ackSeq := seq }

/-! Metrology activation (R357). -/

/-- The first condition that fails, with status and detail. -/
def activateRefusal (s : State) : Option (Nat × Nat) :=
  let slot := !(activeSlot s 1)
  let fw := slotImage s 1 slot
  if slotState s 1 slot ≠ 1 then some (0x0E, 0)
  else if isSealed s && !(Fwh.makerOk s fw) then some (0x08, 0)
  else match (openSessions s).foldl (fun m k => min m (s.sessionAt k).point) 32 with
  | 32 =>
    if s.ember.gated then some (0x06, 1)
    else if s.damper.stage == .loading || s.damper.stage == .admitting || s.damper.pending then some (0x06, 2)
    else none
  | p => some (0x05, 0x100 + p)

/-- The sequence of R357 from 0 ms with a slot's layer: freeze and final bank with cause 3, the boot record, the hold. -/
def beginHold (slot fallback : Bool) (ord : Option Nat) (s : State) : State :=
  let s := triggerBank 3 0 s
  let s := activateSlot 1 slot (!fallback) s
  -- the detectors are cleared, and entries not yet in the queue discarded (R170)
  let s := { s with events := { s.events with point := Vector.replicate 32 .init, batch := [] } }
  { s with fw := { s.fw with hold := some { slot := slot, ord := ord, fallback := fallback, ready := false } },
           rtc := { s.rtc with trial := !fallback } }

def applyActivate (m : MailEntry) (s : State) : State :=
  match activateRefusal s with
  | some (st, d) => { s.finishOpt m.ord st d [] with fw := { s.fw with staging := none } }
  | none => beginHold (!(activeSlot s 1)) false m.ord s

/-- One entry. -/
def applyEntry (s : State) (m : MailEntry) : State :=
  match m.cmd with
  | .openSess p oc i iv t tok => applyOpen m p oc i iv t tok s
  | .tariff k pr t idx => applyTariff m k pr t idx s
  | .pause k => applyMove m k .active .paused .pause false s
  | .resume k => applyMove m k .paused .active .resume true s
  | .close k => applyClose m k s
  | .release k => applyRelease m k s
  | .sign q sig r => applySign q sig r s
  | .ack q => applyAck q s
  | .fwActivate => applyActivate m s

/-- At most 32 latched entries, in posting order (R23). A metrology activation that begins freezes the mailbox: the
entries behind it wait for the next epoch. -/
def applyMailbox : Nat → State → State
  | 0, s => s
  | n + 1, s =>
    match s.damper.mailbox with
    | [] => s
    | m :: rest =>
      if s.damper.latched = 0 ∨ s.ember.trigger.isSome ∨ s.fw.hold.isSome then s
      else
        let s := s.updDamper fun d =>
          { d with mailbox := rest, latched := d.latched - 1, applied := (d.applied + 1) % 65536 }
        applyMailbox n (applyEntry s m)

/-! The sessions at a beat boundary. -/

/-- What a session carries over from the beat that has ended: its state then, the flags of that beat, and one beat of
E while it was ACTIVE or PAUSED (R220, R232). -/
def rollSession (x : Session) : Session :=
  let ran := x.state == .active || x.state == .paused
  { x with prior := x.state, flags := if x.state.isOpen then x.flags ||| x.nextFlags else x.flags, nextFlags := 0,
           flagsBefore := x.flags,
           segNew := false, elapsed := if ran then x.elapsed + 1 else x.elapsed }
/-- Sessions roll over; a context whose flags changed is rewritten. -/
def rollSessions (s : State) : State :=
  let changed := (List.range 160).filter fun k => (s.sessionAt k).state.isOpen && (s.sessionAt k).nextFlags != 0
  let s := { s with session := s.session.map rollSession }
  changed.foldl (fun s k => saveContext k s) s

/-- The OPEN record of a start on current, which is judged one beat after its effective beat `b`: flags and SENSE_FB up to
beat b - 1, and no increment of beat b (R222). -/
def openOnCurrent (x : Session) (pt : Point) (r : DueRecord) : DueRecord :=
  { r with flags := x.flagsBefore, uncert := x.uncert, comp := r.comp + (if bitOf (if pt.half then pt.half1 else pt.half0).status 5 then 4 else 0), ready := true }

/-- A session starts with effective beat `b` (R217): its OPEN record falls due. -/
def startSession (k b : Nat) (s : State) : State :=
  let old := s.sessionAt k
  let s := s.setSession k fun x =>
    { x with state := .active, started := true, startBeat := b, startEpoch := s.ember.epoch,
             flags := if x.onCurrent then x.flags ||| putAt 1 10 else x.flags }
  let x := s.sessionAt k
  let detail := leBytes 1 (if x.onCurrent then 1 else 0) ++ leBytes 4 x.iStart ++ leBytes 1 x.interval ++ leBytes 8 x.appliedBeat
  let r := sessionRecord s .openRec k b detail none
  addDue (if x.onCurrent then openOnCurrent old (s.pointAt x.point) r else r) s

/-- IMMEDIATE sessions whose point is METERING start at this boundary. -/
def startImmediate (s : State) (k : Nat) : State :=
  let x := s.sessionAt k
  if x.state == .armed && !x.onCurrent && (s.pointAt x.point).state == .metering then startSession k s.damper.beat s else s

/-- INTERVAL record k falls due in the first beat with E = k * I * 60 000, each number once (R232). -/
def intervalDue (s : State) (k : Nat) : State :=
  let x := s.sessionAt k
  let span := x.interval * 60000
  if (x.state == .active || x.state == .paused) && x.interval != 0 && x.elapsed != 0 && x.elapsed % span == 0 then
    let n := x.elapsed / span
    if n ≤ x.lastInterval then s
    else
      let s := s.setSession k fun x => { x with lastInterval := n }
      addDue (sessionRecord s .interval k s.damper.beat (leBytes 4 n) none) s
  else s

/-- SESSION_OPEN completes: ARMED at once; ACTIVE with its OPEN record signed. -/
def openDone (s : State) : State :=
  s.host.inflight.foldl (fun s d =>
    match d.phase with
    | .applied k b =>
      if d.opcode ≠ Opc.sessionOpen then s
      else if (s.sessionAt k).state == .active then s.setPhase d.ord (.signing k b 0)
      else s.finishOk d.ord (leBytes 2 k ++ leBytes 1 (s.sessionAt k).state.code ++ zeros 1 ++ leBytes 8 b)
    | _ => s) s

/-- After the mailbox and the points: programmed changes, starts, intervals. -/
def sessionBoundary (s : State) : State :=
  let s := (List.range 160).foldl dueChanges s
  let s := (List.range 160).foldl startImmediate s
  openDone ((List.range 160).foldl intervalDue s)

/-! The sessions at the publication cycle. -/

/-- Add the increments of the beat that has ended to a session that was ACTIVE in it (R129), and take the registers at
the start of a segment that began at this boundary. -/
def addIncrements (inc : Vector Nat 9) (x : Session) : Session :=
  let regs := if x.prior == .active then Vector.zipWith (fun a b => (a + b) % 2 ^ 96) x.regs inc else x.regs
  { x with regs := regs, segRegs := if x.segNew then regs else x.segRegs }

/-- ON_CURRENT (R217): the beat that has ended reached I_START while the point was METERING; it is included. Changes
due at this boundary then begin segments; otherwise they replace segment 0. -/
def judgeCurrent (reading : Nat → Nat) (metered : Nat → Bool) (s : State) (k : Nat) : State :=
  let x := s.sessionAt k
  if !(x.state == .armed && x.onCurrent) then s
  else
    let hit := x.prior == .armed && metered x.point && x.iStart ≤ reading x.point
    let s := if hit then (startSession k (s.damper.beat - 1) s).updSession k fun x => { x with prior := .active, elapsed := 1 } else s
    (dueSegs (s.sessionAt k) s.damper.rtc).foldl (fun s g => fallDue k g (!hit) s) s

/-- Fill in the registers, flags and UNCERT of the records due in this beat (R222, R224). -/
def fillRecord (s : State) (senseFb : Nat → Bool) (r : DueRecord) : DueRecord :=
  match r.session with
  | some k =>
    if r.ready then r else
    let x := s.sessionAt k
    let zero := !x.started
    { r with regs := if zero then Vector.replicate 9 0 else x.regs, uncert := x.uncert, flags := x.flags,
             comp := r.comp + (if senseFb x.point then 4 else 0), ready := true }
  | none => { r with ready := true }
def fillRecords (senseFb : Nat → Bool) (s : State) : State :=
  s.updEmber fun e => { e with due := e.due.map (fillRecord s senseFb) }

end Sys2Proof.Machine
end

