-- ==== Sys2Proof/Machine/Dsp.lean ====
section
/-! DEFINITION. The arithmetic of the filter chain (R55, R66, R81 to R97): converter codes, linearity
correction, CIC, compensation FIR with fractional delay, integrator, preset FIRs and resampler, each on
plain values. -/

namespace Sys2Proof.Machine

/-! Converter codes (R55). -/

/-- The clamped code of an unclamped converter value, and whether it was clamped. -/
def clampCode (v : Int) : Int × Bool :=
  if v > 8191 then (8191, true) else if v < -8192 then (-8192, true) else (v, false)

/-- The code of a differential input voltage in units of V times 8192 G (R55): rounded half to even. -/
def idealCode (lsb : Rat) : Int × Bool := clampCode (roundEven lsb)

/-! Linearity correction and normalisation (R66, R81). -/

/-- The corrected sample in 1/16 LSB. -/
def linearise (t : LinTable) (code : Int) : Int :=
  let u := (code + 8192).toNat
  let i := u / 64
  let r := u - 64 * i
  let lo := t.corr.getD i 0
  let hi := t.corr.getD (i + 1) 0
  16 * code + (lo + roundShift ((hi - lo) * r) 6)

/-- The normalised sample, unit 2^-22 V. -/
def normalise (gain : Nat) (corrected : Int) : Int := corrected * (32 / gain : Nat)

/-! CIC decimator (R83). -/

/-- One frame through the integrators: each adds the one before it. -/
def cicIntegrate : Int → List Int → List Int
  | _, [] => []
  | x, r :: rs => let r' := r + x; r' :: cicIntegrate r' rs

/-- One output through the combs: the difference with the value before it, stage by stage. -/
def cicComb : Int → List Int → Int × List Int
  | x, [] => (x, [])
  | x, r :: rs => let (y, rest) := cicComb (x - r) rs; (y, x :: rest)

/-- The last register of a list. -/
def lastReg (l : List Int) : Int := l.getLastD 0

/-- The CIC output in the 28-bit format: `round_shift(sum, 4 N - 4)`. -/
def cicRound (order : Nat) (sum : Int) : Int := (saturate (roundShift sum (4 * order - 4)) 28).1

/-! Coefficient banks (R100). A bank lists words by offset. -/

def bankWord (b : List (Nat × BitVec 24)) (k : Nat) : BitVec 24 := Sparse.get (fun _ => 0) b k
def bankCoef (b : List (Nat × BitVec 24)) (k : Nat) : Int := (bankWord b k).toInt

/-- Tap j of the STEADY FIR (225 taps), the BANKED FIR (977 taps) and the resampler prototype (6 144 taps). -/
def steadyTap (b : List (Nat × BitVec 24)) (j : Nat) : Int := bankCoef b (0x060 + min j (224 - j))
def bankedTap (b : List (Nat × BitVec 24)) (j : Nat) : Int := bankCoef b (0x100 + min j (976 - j))
def protoTap (b : List (Nat × BitVec 24)) (i : Nat) : Int :=
  if i < 3072 then bankCoef b (0x400 + i) else if i < 6144 then bankCoef b (0x400 + (6143 - i)) else 0

/-- A bank as the 16 KiB the digest of R32 covers: each word little-endian, reserved words included. -/
def bankBytes (b : List (Nat × BitVec 24)) : List Byte :=
  (List.range 4096).flatMap fun k => leBytes 4 (bankWord b k).toNat

/-- The initial contents of a bank in the flue programme (R189). -/
def loadBank (g : Image) (h : Nat) (which : Bool) : List (Nat × BitVec 24) :=
  let base := Image.bankOffset h which
  (g.span base 16384).foldl (fun b c =>
    if c.1 % 4 = 3 then b else
    let k := c.1 / 4
    Sparse.set (fun _ => 0) b k (bankWord b k ||| BitVec.ofNat 24 (c.2.toNat <<< (8 * (c.1 % 4))))) []

/-! Compensation FIR with fractional delay (R86). -/

/-- The fractional delay of position `k` with timing term `t` (units of 5 ps), in units of 2^-20 CIC
period; bits below that unit are dropped (R82). -/
def fracDelay (k : Nat) (t : Int) : Int := (((k * 5000 : Nat) : Int) + 5 * t) * (2 ^ 20 : Nat) / 1600000

/-- A sum of products of coefficients and a history, newest first. -/
def firSum (coef : Nat → Int) (hist : List Int) (n : Nat) : Int :=
  (List.range n).foldl (fun acc j => acc + coef j * hist.getD j 0) 0

/-- The compensated value before the fade and whether it saturated. -/
def compensate (b : List (Nat × BitVec 24)) (d : Int) (cic : List Int) : Int × Bool :=
  let y0 := firSum (fun j => bankCoef b j) cic 32
  let y1 := firSum (fun j => bankCoef b (0x20 + j)) cic 32
  let y2 := firSum (fun j => bankCoef b (0x40 + j)) cic 32
  saturate (roundShift (y0 * (2 ^ 40 : Nat) + d * (y1 * (2 ^ 20 : Nat) + d * y2)) 62) 28

/-- The cross-fade of R102: output `j` after the switch, over 2^f outputs. -/
def crossFade (f j : Nat) (old new : Int) : Int :=
  if j + 1 ≥ 2 ^ f then new else old + roundShift ((new - old) * ((j + 1 : Nat) : Int)) f

/-! Integrator (R94): accumulator in half units. -/

def integrate (leak : Nat) (acc x prev : Int) : Int := acc - roundShift acc leak + x + prev
def integratorOut (shift : Nat) (acc : Int) : Int × Bool := saturate (roundShift acc (shift + 1)) 28

/-! Preset FIRs (R90): over the wide stream, newest first. -/

def presetFir (coef : Nat → Int) (wide : List Samp) (taps : Nat) : Int × Bool :=
  saturate (roundShift (firSum coef (wide.map Samp.val) taps) 22) 28

/-- INVALID of a filtered sample: some wide-stream sample of its support is INVALID (R92), by an overrange or by a
filter fill. -/
def supportInvalid (wide : List Samp) (taps : Nat) : Bool := (wide.take taps).any Samp.invalid
def supportFill (wide : List Samp) (taps : Nat) : Bool := (wide.take taps).any Samp.fill

/-! Resampler (R97). Positions are in units of 2^-42 wide-stream sample. -/

def resampleBase (p : Nat) : Nat := p / 2 ^ 42
def resamplePhase (p : Nat) : Nat := p / 2 ^ 34 % 256
def resampleWeight (p : Nat) : Nat := p / 2 ^ 18 % 2 ^ 16

/-- Coefficient of tap `m = j + 11` (0 to 23) at a phase; phase 256 is phase 0 one sample later. -/
def resampleCoef (b : List (Nat × BitVec 24)) (phase m : Nat) : Int := protoTap b (256 * m + phase)

/-- The output at position `p`, from a wide stream whose newest sample is `base + 12`. -/
def resample (b : List (Nat × BitVec 24)) (p : Nat) (wide : List Samp) : Int × Bool :=
  let ph := resamplePhase p
  let w : Int := (resampleWeight p : Nat)
  let h := fun m => resampleCoef b ph m + roundShift (w * (resampleCoef b (ph + 1) m - resampleCoef b ph m)) 16
  saturate (roundShift (firSum (fun j => h (23 - j)) (wide.map Samp.val) 24) 22) 28

/-- The INVALID bit of a sample: an overrange, or a filter fill of it or of its support (R87, R92, R104). -/
def Samp.isInvalid (x : Samp) : Bool := x.invalid || x.fill || x.tail

/-- A flue sample word (R87). -/
def Samp.toWord (x : Samp) : Word :=
  putAt (x.val % (2 ^ 28 : Nat)).toNat 4 ||| flagAt x.isInvalid 3 ||| flagAt x.sat 2 ||| flagAt x.fade 1

/-! Trackers (R96, R436); lengths in units of 2^-32 wide-stream sample. -/

/-- Is a length within 4 464 to 7 813 samples? -/
def lengthInBand (len : Nat) : Bool := 4464 * 2 ^ 32 ≤ len && len ≤ 7813 * 2 ^ 32

/-- The nominal cycle length: 6 250 samples at 50 Hz, 5 208.333… (held to 2^-32) at 60 Hz. -/
def nominalLength (nom60 : Bool) : Nat := if nom60 then 15625 * 2 ^ 32 / 3 else 6250 * 2 ^ 32

/-- The prediction for the next cycle (R96). -/
def predictedLength (nom60 : Bool) (t : Tracker) : Nat := t.lastGood.getD (nominalLength nom60)

/-- The frequency of a length in mHz: 312 500 Hz divided by it, convergently rounded (R436). -/
def lengthFreq (len : Nat) : Nat :=
  if len = 0 then 0 else min (roundEven ((312500000 * 2 ^ 32 : Nat) / (len : Rat))).toNat 131071

/-- A measured length: lock after 5 consecutive lengths in the band, unlock on the first outside it. -/
def Tracker.measure (t : Tracker) (len : Nat) : Tracker :=
  let ok := lengthInBand len
  let good := if ok then min (t.good + 1) 5 else 0
  let locked := good = 5 ∨ (t.locked ∧ ok)
  { t with measured := some len, cycles := (t.cycles + 1) % 65536, good := good, locked := locked,
           lastGood := if locked then some len else t.lastGood }

/-- Place a positive-going crossing between the outputs `a < 0 ≤ b` of samples `w - 1` and `w` by linear interpolation, to
2^-32 of a period, and take the section's group delay off (R96). -/
def crossingAt (w : Nat) (a b : Rat) : Nat :=
  (((w : Rat) - 1 - a / (b - a)) * (2 ^ 32 : Nat)).floor.toNat - Config.trackerDelay

/-- Wide-stream sample `w` of the tracker's source goes through its section; a crossing it completes is placed (R96). -/
def Tracker.sample (t : Tracker) (w : Nat) (x : Int) : Tracker :=
  let r := Config.trackerStep t.lp x
  let found := match t.out with
    | some a => if a < 0 ∧ 0 ≤ r.2 then t.found ++ [crossingAt w a r.2] else t.found
    | none => t.found
  { t with lp := r.1, out := some r.2, found := found }

/-- A positive-going crossing at a position: the length since the one before it. -/
def Tracker.cross (t : Tracker) (pos : Nat) : Tracker :=
  match t.last with
  | some p => { t.measure (pos - p) with last := some pos }
  | none => { t with last := some pos }

/-! The grid (R85, R89): frame numbers count from frame 0 of beat 0. A wide-stream sample `n` forms
30.200 µs after the start of frame 32 n; billing samples are delivered 44 µs, 410 µs and 1 620 µs after the
instant they represent. -/

/-- Does the CIC form an output at the boundary that starts grid frame `f`? The outputs of order N whose newest code is
that of frame 32 n + 248 + 7.5 N, rounded down, serve wide-stream sample n: the group delays of the CIC and of the
compensation FIR, with lower orders padded by 7.5 frames each (R84, R85, R89; log entry 76). -/
def cicFormsAt (order f : Nat) : Bool := (f + 55 - 15 * order / 2) % 16 == 0

/-- The wide-stream sample formed at the boundary that starts grid frame `f`, if one is. -/
def wideFormedAt (f : Nat) : Option Nat := if 302 ≤ f ∧ (f - 302) % 32 = 0 then some ((f - 302) / 32) else none

/-- The billing sample of a preset formed with wide-stream sample `w`, and the frame of its delivery. -/
def Preset.formed (p : Preset) (w : Nat) : Option Nat :=
  match p with
  | .roaring => some (32 * w + 440)
  | .steady => if 112 ≤ w ∧ (w - 112) % 10 = 0 then some (320 * ((w - 112) / 10) + 4100) else none
  | .banked => if 488 ≤ w ∧ (w - 488) % 40 = 0 then some (1280 * ((w - 488) / 40) + 16200) else none

/-- Is a sample of a preset due for delivery in grid frame `f`? -/
def Preset.dueIn (p : Preset) (f : Nat) : Bool :=
  match p with
  | .roaring => 440 ≤ f && (f - 440) % 32 == 0
  | .steady => 4100 ≤ f && (f - 4100) % 320 == 0
  | .banked => 16200 ≤ f && (f - 16200) % 1280 == 0

/-- The billing period T_s in frames of 100 ns, and in hours (for Wh). -/
def Preset.frames : Preset → Nat
  | .roaring => 32 | .steady => 320 | .banked => 1280
def Preset.hours (p : Preset) : Rat := (p.frames : Nat) / (36000000000 : Rat)

/-- The preset a POINT_DEF.PRESET code names. -/
def Preset.ofCode : Nat → Option Preset
  | 1 => some .banked | 2 => some .steady | 3 => some .roaring | _ => none

/-- The stream-set bit of a preset (R91). -/
def Preset.streamBit : Preset → Nat
  | .roaring => 0 | .steady => 1 | .banked => 2

/-- The network set of a preset (R191). -/
def Preset.netSet : Preset → Nat
  | .banked => 0 | .steady => 1 | .roaring => 2

end Sys2Proof.Machine
end

