-- ==== Sys2Proof/Machine/RegOps.lean ====
section
/-! DEFINITION. A write to a register, judged field by field (R5, R9 to R14), and when a block counts as stopped for
its STOP-class fields. Fields that a command of their own writes are left to it. -/

namespace Sys2Proof.Machine

/-! Rings as configured (R277). -/

def sqCfg (n : Nat) : Nat := 0x4108 + 0x20 * n
def oqCfg (m : Nat) : Nat := 0x4208 + 0x20 * m
def State.sqEnabled (s : State) (n : Nat) : Bool := bitOf (s.reg (sqCfg n)) 31
def State.oqEnabled (s : State) (m : Nat) : Bool := bitOf (s.reg (oqCfg m)) 31
def State.sqInflight (s : State) (n : Nat) : Nat := (s.host.inflight.filter fun d => d.sq == n).length
def State.sqIdle (s : State) (n : Nat) : Bool := !(s.sqEnabled n) && s.sqInflight n == 0

/-! Stopped blocks. -/

/-- A port between updates (R394). -/
def Port.isIdle (p : Port) : Bool := match p.phase with
  | .rising _ => false
  | .scanning _ => false
  | _ => true
/-- MANTEL_STATUS.IDLE (R390). -/
def State.mantelIdle (s : State) : Bool := !s.mantel.run && s.mantel.ports.toList.all Port.isIdle
/-- LINK_STATUS.IDLE: EN is 0 and no frame is in transmission or reception (R389). -/
def State.linkIdle (s : State) : Bool := !s.link.en && s.link.frame.isNone && s.link.rx.frame.isNone
/-- HEARTH_STATUS.RUNNING (R74). -/
def State.hearthRunning (s : State) : Bool := s.active && s.running Isl.conv && !s.rst.pilot

/-- Does the block of a register run, for its STOP-class fields? -/
def blockRuns (s : State) (a : Nat) : Bool :=
  let b := a / 0x1000
  if b = 0x2 ∨ b = 0x35 then !s.mantelIdle
  else if b = 0x3 then !s.rtc.halted
  else if b = 0x4 then
    if 0x4100 ≤ a ∧ a < 0x4200 then !(s.sqIdle ((a - 0x4100) / 0x20))
    else if 0x4200 ≤ a ∧ a < 0x4360 then s.oqEnabled ((a - 0x4200) / 0x20) else false
  else if 0x10 ≤ b ∧ b < 0x18 then s.hearthRunning
  else if b = 0x34 then !s.linkIdle
  else false

/-- Does the island of a block take writes? The AON registers are reached through SYS. CONV, FLUE and METRO take them while
they are stopped too (R74, R320). -/
def blockUp (s : State) (isl : Nat) : Bool :=
  if isl = Isl.aon then s.running Isl.sys
  else s.running isl || (s.running Isl.sys && s.island isl == .inReset && [Isl.conv, Isl.flue, Isl.metro].contains isl)

/-- The count with one of the time registers replaced (R330). -/
def rtcReplace (count a : Nat) (v : Word) : Nat :=
  let sec := count / 32768
  if a = 0x3008 then sec * 32768 + fieldOf v 14 0
  else if a = 0x300C then (sec / 2 ^ 32 * 2 ^ 32 + v.toNat) * 32768 + count % 32768
  else (fieldOf v 7 0 * 2 ^ 32 + sec % 2 ^ 32) * 32768 + count % 32768
/-- The count that the time registers hold: while halted, the one written (R330). -/
def Rtc.shown (r : Rtc) : Nat := if r.halted then r.written else r.count
def rtcReg (count a : Nat) : Word :=
  if a = 0x3008 then word (count % 32768) else if a = 0x300C then word (count / 32768)
  else word (count / 32768 / 2 ^ 32 % 256)

/-- Is a ring size outside 4 to 12 (R277)? -/
def badSize (a : Nat) (v : Word) : Bool :=
  ((0x4100 ≤ a && a < 0x4200) || (0x4200 ≤ a && a < 0x4360)) && a % 0x20 == 8 &&
    (fieldOf v 3 0 < 4 || 12 < fieldOf v 3 0)

/-- A full write of a register's plain fields. -/
def writeReg (a : Nat) (v : Word) (s : State) : State :=
  match RegMap.find a with
  | none => s
  | some (b, r, _) =>
    if !(blockUp s b.island) then s else
    let isTime := a = 0x3008 ∨ a = 0x300C ∨ a = 0x3010
    let cur := if isTime then rtcReg s.rtc.shown a else s.reg a
    let v' := if badSize a v then mergeMask (maskOf 3 0) v cur else v
    let (new, rej) := r.write (blockRuns s a) cur v'
    let s := if rej || badSize a v then { s with regs := Regs.reject s.regs b a } else s
    if isTime then
      (if s.rtc.halted then { s with rtc := { s.rtc with written := rtcReplace s.rtc.written a v } } else s)
    else s.setReg a new

end Sys2Proof.Machine
end

