-- ==== Sys2Proof/Machine/Hearths.lean ====
section
/-! DEFINITION. The hearths (R45 to R79): overrange marks, reference monitor, witness, kindling and raw tap, with the
meanings of their commands. -/

namespace Sys2Proof.Machine

/-! Where a hearth's registers stand, and the points that use it. -/

def hearthReg (h off : Nat) : Nat := 0x10000 + 0x1000 * h + off
def State.hearthPoints (s : State) (h : Nat) : List Nat := (List.range 32).filter fun p => s.img.usesHearth p h
def State.inputPoints (s : State) (i : Nat) : List Nat := (List.range 32).filter fun p => s.img.usesInput p i

/-- DETAIL of a POINT fault that marks these points (R289): 0 where there is none. -/
def faultDetail (ps : List Nat) : Nat := ps.getD (Config.faultPoint ps.length % ps.length) 0

/-! Overrange (R56, R57). -/

/-- The enabled inputs that follow a marked input in the next slot of the hearth. -/
def nextMarked (g : Image) (h mask : Nat) : Nat :=
  (g.scanList h).foldl (fun m i => if mask.testBit i then
    (match g.nextInSlot h i with | some j => setBitN m j true | none => m) else m) 0

/-- Inputs whose sample of the current frame is NSUSP: a clamp of the input before it in this frame or the last. -/
def Hearth.nsusp (x : Hearth) (g : Image) (h : Nat) : Nat := nextMarked g h (x.ovrNow ||| x.ovrBefore)

/-- An input is clamped in the current frame: sticky OVR, and NSUSP of the input in the following slot. -/
def markOver (h i : Nat) (s : State) : State :=
  let s := (s.updHearth h fun x => { x with ovrNow := setBitN x.ovrNow i true }).setFlag (hearthReg h 0x020) i
  match s.img.nextInSlot h i with
  | some j => s.setFlag (hearthReg h 0x024) j
  | none => s

/-- At the end of a frame the clamps become those of the frame before; the inputs after them are NSUSP in the new
frame too. -/
def overFrame (h : Nat) (s : State) : State :=
  let x := s.hearthAt h
  let s := s.updHearth h fun x => { x with ovrBefore := x.ovrNow, ovrNow := 0 }
  let m := nextMarked s.img h x.ovrNow
  if m = 0 then s else s.setBits (hearthReg h 0x024) (word m)

/-! References (R50, R51). -/

/-- Is the measured reference outside ±2 % of its nominal value (in ppm of it)? -/
def refBad (m : Nat) : Bool := m < 980000 || 1020000 < m

/-- Difference of two measurements. -/
def refMove (a b : Nat) : Nat := max a b - min a b

/-- The monitor's measurement of the beat that ends: the new hearth, and whether a reference fault is found. REF_SETTLED
that rises at the end of beat b keeps `refMark` to the end of beat b + 1: R51 speaks of point windows alone, and
DOUBTFUL_ANY shows the mark through b + 1 (DESIGN CHOICE, log entry 106). -/
def Hearth.monitor (x : Hearth) (m : Nat) : Hearth × Bool :=
  let x := if x.refRelease then { x with refMark := false, refRelease := false } else x
  let before := x.refPrev
  let x := { x with refPrev := some m }
  if x.refSettled then
    if refBad m then ({ x with refSettled := false, refMark := true }, true) else (x, false)
  else if (before.any fun p => refMove p m < 10) then ({ x with refSettled := true, refRelease := x.refMark }, false)
  else (x, false)

/-! Kindling (R64 to R70). -/

/-- KINDLE_STATUS codes (R78). -/
def KindleState.code : KindleState → Nat
  | .off => 0 | .running => 1 | .pass => 2 | .fail => 3

def Converter.table (c : Converter) : LinTable := if c.active then c.bank1 else c.bank0
def Converter.setBank (c : Converter) (b : Bool) (t : LinTable) : Converter :=
  if b then { c with bank1 := t } else { c with bank0 := t }

/-- The corrected transfer increases strictly from breakpoint to breakpoint (64 codes are 1024 steps of 1/16 LSB). -/
def increasing : List Int → Bool
  | a :: b :: r => decide (0 < 1024 + b - a) && increasing (b :: r)
  | _ => true

/-- Every stage term has converged: it changed by less than 1/64 LSB between the last two iterations (R67). -/
def Rebuilt.converged (a : Rebuilt) : Bool :=
  a.table.stages.length == a.before.length && (a.table.stages.zip a.before).all fun x => decide ((x.1 - x.2).natAbs < 1024)

/-- The conditions of R67, one by one, with the cause of R79 that each one's failure has: corrections within ±64 LSB,
timing within ±500 ps, strictly increasing, check word, stage terms converged. -/
def Rebuilt.faults (a : Rebuilt) : List Nat :=
  (if a.table.corr.all fun c => -1024 ≤ c && c ≤ 1024 then [] else [3]) ++
  (if a.table.timing.all fun t => -100 ≤ t && t ≤ 100 then [] else [4]) ++
  (if increasing a.table.corr then [] else [5]) ++
  (if a.check then [] else [6]) ++
  (if a.converged then [] else [2])

/-- Does a rebuilt bank meet R67? -/
def Rebuilt.good (a : Rebuilt) : Bool := a.faults.isEmpty

/-- The cause of a rebuild that ends as failed: the most specific one, else NO_CONVERGE (R68, R79; log entry 71). -/
def Rebuilt.cause (a : Rebuilt) : Nat := a.faults.headD 2

/-- Step 1 and 2 of R68: the state is RUNNING, and the rebuilds begin at once or with REF_SETTLED. -/
def Hearth.kindle1 (x : Hearth) : Hearth :=
  let go := if x.refSettled then Rebuild.startup false else Rebuild.none
  { x with kindle := .running, waitRef := !x.refSettled, cause := 0, anchor := none, dwell := ⟨0, 0, 0⟩,
           main := { x.main with met := false, rebuild := go, bgFails := 0, doubtful := false },
           wit := { x.wit with met := false, rebuild := go, bgFails := 0, doubtful := false } }

/-- REF_SETTLED has risen: the rebuilds begin (R68 step 3). -/
def Hearth.refRose (x : Hearth) : Hearth :=
  if x.kindle = .running ∧ x.waitRef then
    { x with waitRef := false, main := { x.main with rebuild := .startup false },
             wit := { x.wit with rebuild := .startup false } }
  else x

/-- Start-up kindling fails with a cause. -/
def Hearth.kindleFail (x : Hearth) (cause : Nat) : Hearth :=
  { x with kindle := .fail, waitRef := false, cause := cause, main := { x.main with rebuild := .none },
           wit := { x.wit with rebuild := .none } }

/-- Start-up kindling passes when both converters have finished and met R67 (R68 step 4). -/
def Hearth.kindleCheck (x : Hearth) : Hearth :=
  if x.kindle = .running ∧ !x.waitRef ∧ x.main.rebuild = .none ∧ x.wit.rebuild = .none ∧ x.main.met ∧ x.wit.met then
    { x with kindle := .pass, bgCount := 0 }
  else x

/-- The converter a rebuild is for. -/
def Hearth.conv (x : Hearth) (wit : Bool) : Converter := if wit then x.wit else x.main
def Hearth.setConv (x : Hearth) (wit : Bool) (c : Converter) : Hearth :=
  if wit then { x with wit := c } else { x with main := c }

/-- A rebuild that meets R67 is made active; the next bank follows at start-up. -/
def Hearth.rebuilt (x : Hearth) (wit : Bool) (t : LinTable) : Hearth :=
  let c := x.conv wit
  match c.rebuild with
  | .none => x
  | .startup b =>
    let c := { c.setBank b t with active := b, met := true, rebuild := if b then .none else .startup true }
    (x.setConv wit c).kindleCheck
  | .background =>
    let b := !c.active
    let c := { c.setBank b t with active := b, rebuild := .none, bgFails := 0, doubtful := false }
    { x.setConv wit c with swaps := (x.swaps + 1) % 65536 }

/-- A rebuild that has not met R67 in its 250 ms: the new hearth and the fault code reported. -/
def Hearth.rebuildFail (x : Hearth) (wit : Bool) (cause : Nat) : Hearth × Option Nat :=
  let c := x.conv wit
  match c.rebuild with
  | .none => (x, none)
  | .startup _ =>
    if c.met then ((x.setConv wit { c with rebuild := .none }).kindleCheck, none)
    else (x.kindleFail cause, some 0x23)
  | .background =>
    let n := min (c.bgFails + 1) 3
    let x := { x.setConv wit { c with rebuild := .none, bgFails := n, doubtful := c.doubtful || n == 3 } with
                cause := cause, doubtNow := x.doubtNow || n == 3 }
    (x, some (if n = 3 then 0x25 else 0x24))

/-! Witness (R59 to R63). -/

/-- The witness input of a beat: position in the enabled list and input. -/
def Hearth.witInput (x : Hearth) (g : Image) (h beat : Nat) : Option (Nat × Nat) :=
  let l := g.scanList h
  match x.anchor with
  | some b0 =>
    if x.kindle = .pass ∧ b0 ≤ beat ∧ l ≠ [] then
      let pos := (beat - b0) % l.length
      some (pos, l.getD pos 0)
    else none
  | none => none

/-- HEARTH_WIT_STATE (R76). -/
def witState (x : Hearth) (g : Image) (h beat : Nat) : Word :=
  (match x.witInput g h beat with
   | some (pos, i) => putAt i 0 ||| putAt pos 4 ||| putAt 1 8
   | none => 0) ||| putAt x.dwells 16

/-- One frame of the dwell (R60): the pair of codes of the witness input. -/
def Hearth.compare (x : Hearth) (i : Nat) (nsusp : Bool) (main wit : Int) : Hearth :=
  let (m, cm) := clampCode main
  let (w, cw) := clampCode wit
  if cm || cw || nsusp || x.ovrNow.testBit i then x else
  let d := linearise x.main.table m - linearise x.wit.table w
  { x with dwell := { s := x.dwell.s + d, a := x.dwell.a + d.natAbs, k := x.dwell.k + 1 } }

/-- The result code of a dwell (R60): 1 pass, 2 fail, 3 inconclusive. -/
def Dwell.verdict (d : Dwell) (thOfs thAbs : Nat) : Nat :=
  if d.k < 5000 then 3
  else if d.s.natAbs > d.k * thOfs ∨ d.a > d.k * thAbs then 2 else 1

/-- HEARTH_WIT_DIFF's means, 0 where the dwell is inconclusive. -/
def Dwell.meanDiff (d : Dwell) : Int := (saturate (roundEven ((d.s : Rat) / (d.k : Nat))) 16).1
def Dwell.meanAbs (d : Dwell) : Nat := min (roundEven ((d.a : Nat) / (d.k : Nat) : Rat)).toNat 65535

/-- The verdict at the end of a beat (R61): the new hearth, and the input that failed. -/
def Hearth.judge (x : Hearth) (g : Image) (h beat : Nat) : Hearth × Option Nat :=
  match x.witInput g h beat with
  | none => ({ x with dwell := ⟨0, 0, 0⟩ }, none)
  | some (_, i) =>
    let d := x.dwell
    let v := d.verdict (g.thOfs h) (g.thAbs h)
    let last : WitResult :=
      { input := i, result := v, count := d.k, meanDiff := if v = 3 then 0 else d.meanDiff,
        meanAbs := if v = 3 then 0 else d.meanAbs }
    let fails := if v = 2 then setBitN x.witFail i true else if v = 1 then setBitN x.witFail i false else x.witFail
    ({ x with dwell := ⟨0, 0, 0⟩, dwells := (x.dwells + 1) % 65536, last := last, witFail := fails },
      if v = 2 then some i else none)

/-! Doubtful (R62). -/

/-- An input fails by its verdict or its reference, or its hearth is held doubtful. -/
def Hearth.inputBad (x : Hearth) (i : Nat) : Bool := x.witFail.testBit i || x.refMark
def State.pointDoubt (s : State) (g : Image) (p : Nat) : Bool :=
  g.isUsed p && (g.inputsOf p).any fun i =>
    let x := s.hearthAt (i / 16)
    x.inputBad (i % 16) || x.doubtNow || x.main.doubtful || x.wit.doubtful

/-! Raw tap (R72, R73). -/

/-- A frame boundary takes a written selection: SEQ restarts and NEW clears. -/
def Tap.frame (t : Tap) (ctl : Word) : Tap :=
  if t.pend then { ctl := ctl, data := t.data &&& 0x7F00FFFF, seq := 0, count := 0, pend := false } else t

/-- TAP_DEC: every 2^n-th code is kept; values above 16 act as 16 (R72, R76). -/
def Tap.decim (t : Tap) : Nat := min (fieldOf t.ctl 12 8) 16
/-- Is the next code of the tapped input the 2^n-th since the last one kept (log entry 74)? -/
def Tap.keeps (t : Tap) : Bool := t.count + 1 == 2 ^ t.decim

/-! Meanings. -/

/-- REBUILD_COMPLETE: a rebuilt bank that meets R67 becomes active at a frame boundary; one that does not meet it
changes nothing, and its rebuild goes on to its end (R67, R68, R70). -/
def execRebuildComplete (h : Fin 8) (wit : Bool) (a : Rebuilt) (s : State) : Host.Outcome State Fault Refusal :=
  if s.hearthRunning && a.good then .next (s.updHearth h fun x => x.rebuilt wit a.table) else .next s

/-- A failed rebuild with its fault (R68 to R70, R75). -/
def rebuildEnd (h : Nat) (wit : Bool) (cause : Nat) (s : State) : State :=
  let (x, code) := (s.hearthAt h).rebuildFail wit cause
  let s := s.updHearth h fun _ => x
  match code with
  | some c => reportFault Isl.conv c (if c = 0x24 then 0 else faultDetail (s.hearthPoints h)) s
  | none => s

/-- REBUILD_TIMEOUT: 250 ms have passed for a converter's rebuild. -/
def execRebuildTimeout (h : Fin 8) (wit : Bool) (a : Rebuilt) (s : State) : Host.Outcome State Fault Refusal :=
  if s.hearthRunning then .next (rebuildEnd h wit a.cause s) else .next s

/-- REF_TIMEOUT: 100 ms without REF_SETTLED (R68 step 2). -/
def execRefTimeout (h : Fin 8) (s : State) : Host.Outcome State Fault Refusal :=
  let x := s.hearthAt h
  if s.hearthRunning && x.kindle == .running && x.waitRef then
    .next (reportFault Isl.conv 0x23 (faultDetail (s.hearthPoints h)) (s.updHearth h fun x => x.kindleFail 1))
  else .next s

/-- BACKGROUND_REKINDLE: a rebuild of each converter's inactive bank starts (R70). -/
def execBackgroundRekindle (h : Fin 8) (s : State) : Host.Outcome State Fault Refusal :=
  let x := s.hearthAt h
  if s.hearthRunning && x.kindle == .pass && s.img.bgPeriod != 0 then
    let start := fun (c : Converter) => { c with rebuild := .background }
    .next (s.updHearth h fun x => { x with main := start x.main, wit := start x.wit, bgCount := x.bgCount + 1 })
  else .next s

/-- RETRY: start-up kindling again for each named hearth that is in FAIL (R68, R69, R78, R79). -/
def execRetry (mask : BitVec 8) (s : State) : Host.Outcome State Fault Refusal :=
  if s.hearthRunning then
    .next ((List.range 8).foldl (fun s h =>
      if mask.toNat.testBit h ∧ (s.hearthAt h).kindle = .fail then s.updHearth h Hearth.kindle1 else s) s)
  else .next s

/-- Does a tap latch the codes of its input: enabled, the input sampled, and for the witness within a dwell on it? -/
def tapLive (s : State) (h : Nat) : Bool :=
  let x := s.hearthAt h
  let i := fieldOf x.tap.ctl 7 4
  s.hearthRunning && bitOf x.tap.ctl 0 && (s.img.mask h).testBit i &&
    (!(bitOf x.tap.ctl 1) || (x.witInput s.img h s.damper.beat).any fun w => w.2 == i)

/-- TAP_LATCH: a code of the tapped input, unclamped, reaches the tap; every 2^n-th is latched (R72, R73). -/
def execTapLatch (h : Fin 8) (code : Int) (s : State) : Host.Outcome State Fault Refusal :=
  if !(tapLive s h) then .next s
  else if !(s.hearthAt h).tap.keeps then
    .next (s.updHearth h fun x => { x with tap := { x.tap with count := x.tap.count + 1 } })
  else
    let x := s.hearthAt h
    let i := fieldOf x.tap.ctl 7 4
    let (c, clamp) := clampCode code
    let seq := (x.tap.seq + 1) % 256
    let data := putAt (c % 16384).toNat 0 ||| flagAt clamp 14 ||| flagAt ((x.nsusp s.img h).testBit i) 15 |||
      putAt seq 16 ||| putAt 1 31
    let s := if bitOf x.tap.data 31 then s.setFlag (hearthReg h 0x048) 0 else s
    .next (s.updHearth h fun x => { x with tap := { x.tap with data := data, seq := seq, count := 0 } })

/-- TAP_DATA_READ: the register is answered and cleared (R73). -/
def execTapDataRead (h : Fin 8) (s : State) : Host.Outcome State Fault Refusal :=
  .next (readRow Isl.conv s fun s =>
    (s.readBack (s.hearthAt h).tap.data).updHearth h fun x => { x with tap := { x.tap with data := 0 } })

end Sys2Proof.Machine
end

