-- ==== Sys2Proof/Machine/Flue.lean ====
section
/-! DEFINITION. The flue (R80 to R107): the chain of one input through a frame, coefficient banks and swaps, engine
starts, and the meanings of the FLUE commands. -/

namespace Sys2Proof.Machine

def flueReg (h off : Nat) : Nat := 0x18000 + 0x1000 * h + off

/-- FLUE_STATUS.RUNNING: the engine runs with its hearth (R106). From the marker of a metrology firmware activation to the first
beat of the new epoch FLUE is held (R357). -/
def State.engineRunning (s : State) : Bool :=
  s.hearthRunning && s.running Isl.flue && !(s.fw.hold.isSome && s.ember.trigger.isNone)

/-! Banks and swaps (R100 to R103). -/

def Flue.bank (f : Flue) (b : Bool) : List (Nat × BitVec 24) := if b then f.bankB else f.bankA
def Flue.setBank (f : Flue) (b : Bool) (m : List (Nat × BitVec 24)) : Flue :=
  if b then { f with bankB := m } else { f with bankA := m }

/-- The entry of the image's digest list that a bank's digest equals. -/
def Flue.bankMatch (f : Flue) (g : Image) (h : Nat) (b : Bool) : Option Nat :=
  let d := sha384 (bankBytes (f.bank b))
  (List.range (min (g.nDigest h) 8)).find? fun k => of384 (g.digest h k) == d

/-- May the bank other than the active one be written (R101)? -/
def Flue.writable (f : Flue) : Bool := f.swap.isNone && !f.queued

/-- A swap starts: the hash of the target bank runs, with the fade length as it stands (R102). -/
def Flue.startSwap (f : Flue) : Flue :=
  { f with queued := false,
           swap := some { target := !f.active, hashed := false, fade := min f.fadeN 10, jComp := 0, jSteady := 0, jBanked := 0 } }

/-- The swap in progress has ended; a queued one starts (R103). -/
def Flue.endSwap (f : Flue) : Flue :=
  let f := { f with swap := none }
  if f.queued then f.startSwap else f

/-- A requested swap at a frame boundary (R102, R103): the new engine, and whether a queued request was replaced. -/
def Flue.accept (f : Flue) (running : Bool) : Flue × Bool :=
  if !f.swapReq then (f, false) else
  let f := { f with swapReq := false }
  if !running then ({ f with active := !f.active, swaps := (f.swaps + 1) % 65536 }, false)
  else if f.swap.isNone then (f.startSwap, false)
  else if f.queued then (f, true) else ({ f with queued := true }, false)

/-- FRAME-class fields and the swap request at a frame boundary (R12). -/
def flueFrame (h : Nat) (s : State) : State :=
  let f := { s.flueAt h with fadeN := min (s.fld (flueReg h 0x030) 11 8) 10 }
  let (f, dropped) := f.accept s.engineRunning
  let s := s.updFlue h fun _ => f
  if dropped then s.setFlag (flueReg h 0x034) 4 else s

/-- An output under the banks in use (R102): before a stream's switch and after its fade under one bank, in between
blended. Answers the value, whether a reduction saturated, and FADE. -/
def Flue.blend (f : Flue) (j : Nat) (out : List (Nat × BitVec 24) → Int × Bool) : Int × Bool × Bool :=
  match f.swap with
  | some sw =>
    if !sw.hashed then let (v, t) := out (f.bank f.active); (v, t, false)
    else if j + 1 ≥ 2 ^ sw.fade then let (v, t) := out (f.bank sw.target); (v, t, false)
    else
      let (a, t) := out (f.bank f.active)
      let (b, u) := out (f.bank sw.target)
      (crossFade sw.fade j a b, t || u, true)
  | none => let (v, t) := out (f.bank f.active); (v, t, false)

def Swap.jOf (sw : Swap) : Preset → Nat
  | .roaring => sw.jComp | .steady => sw.jSteady | .banked => sw.jBanked
def Flue.jOf (f : Flue) (p : Preset) : Nat := (f.swap.map fun sw => sw.jOf p).getD 0

/-- The streams' counters after the outputs of wide-stream sample `w` have been formed. -/
def Swap.step (sw : Swap) (w : Nat) : Swap :=
  if !sw.hashed then sw else
  { sw with jComp := sw.jComp + 1,
            jSteady := if (Preset.steady.formed w).isSome then sw.jSteady + 1 else sw.jSteady,
            jBanked := if (Preset.banked.formed w).isSome then sw.jBanked + 1 else sw.jBanked }
def Flue.stepSwap (f : Flue) (w : Nat) : Flue := { f with swap := f.swap.map fun sw => sw.step w }

/-! The chain of one input. -/

/-- A list of registers of a given number, missing ones 0. -/
def regsOf (n : Nat) (l : List Int) : List Int := (l ++ List.replicate (n - l.length) 0).take n

/-- One code, already corrected and normalised (R80 stages 1 to 3): the CIC integrators; a clamped code marks the next
24 wide-stream samples (R92). -/
def Chain.code (c : Chain) (order : Nat) (norm : Int) (clamp : Bool) : Chain :=
  { c with integ := cicIntegrate norm (regsOf order c.integ), clampLeft := if clamp then 24 else c.clampLeft }

/-- One CIC output (R83); the last 33 are kept. -/
def Chain.decimate (c : Chain) (order : Nat) : Chain :=
  let (y, comb) := cicComb (lastReg c.integ) (regsOf order c.comb)
  { c with comb := comb, cic := (cicRound order y :: c.cic).take 33 }

/-- How one input is processed: what the image and its engine set for it. -/
def Chain.filling (c : Chain) (f : Flue) : Bool := f.filling || c.newFill

/-- One wide-stream sample (R86, R92, R94, R102): compensation FIR with the delay `d`, then the integrator where
enabled. The FIR's newest CIC output is the one before the last (`cicFormsAt`). Answers the chain, SAT and INVALID of
the sample. -/
def Chain.formWide (c : Chain) (f : Flue) (g : Image) (i : Nat) (d : Int) : Chain × Bool × Bool :=
  let (y, sat, fade) := f.blend (f.jOf .roaring) fun b => compensate b d (c.cic.drop 1)
  let integ := g.integrated i
  let acc := if integ then integrate (g.leak i) c.acc y c.prevX else c.acc
  let (v, sat2) := if integ then integratorOut (g.intShift i) acc else (y, false)
  let x : Samp := { val := v, invalid := decide (0 < c.clampLeft), fill := c.filling f || (integ && c.intFill),
                    sat := sat || sat2, fade := fade, tail := false }
  ({ c with wide := (x :: c.wide).take 8192, prevX := y, acc := acc, clampLeft := c.clampLeft - 1 },
    x.sat, x.invalid || x.fill)

/-- The billing sample of a preset formed with wide-stream sample `w` (R90, R91). -/
def Chain.formPreset (c : Chain) (f : Flue) (fill : Bool) (p : Preset) : Samp :=
  match p with
  | .roaring => c.wide.headD { val := 0, invalid := false, fill := false, sat := false, fade := false, tail := false }
  | .steady =>
    let (v, sat, fade) := f.blend (f.jOf .steady) fun b => presetFir (steadyTap b) c.wide 225
    { val := v, invalid := supportInvalid c.wide 225, fill := fill, sat := sat, fade := fade, tail := supportFill c.wide 225 }
  | .banked =>
    let (v, sat, fade) := f.blend (f.jOf .banked) fun b => presetFir (bankedTap b) c.wide 977
    { val := v, invalid := supportInvalid c.wide 977, fill := fill, sat := sat, fade := fade, tail := supportFill c.wide 977 }

/-- The billing samples of an input's stream set formed with wide-stream sample `w`, and whether one saturated. -/
def Chain.formBilling (c : Chain) (f : Flue) (g : Image) (i w : Nat) : Chain × Bool :=
  let fill := c.filling f || (g.integrated i && c.intFill)
  [Preset.roaring, .steady, .banked].foldl (fun (acc : Chain × Bool) p =>
    if (g.streams i).testBit p.streamBit then
      match p.formed w with
      | some due =>
        let x := acc.1.formPreset f fill p
        ({ acc.1 with due := acc.1.due ++ [{ preset := p, due := due, samp := x }] }, acc.2 || x.sat)
      | none => acc
    else acc) (c, false)

/-! The resampler (R97, R98). Positions in units of 2^-32 wide-stream sample. -/

/-- One power-quality sample at `p` (units of 2^-42), from a wide stream whose sample `base + 12` is its newest but
`late`. -/
def pqAt (f : Flue) (wide : List Samp) (j p late : Nat) : Samp :=
  let wide := wide.drop late
  let (v, sat, fade) := f.blend j fun b => resample b p wide
  { val := v, invalid := supportInvalid wide 24, fill := (wide.head?.map Samp.fill).getD false, sat := sat, fade := fade,
    tail := supportFill wide 24 }

/-- The next output of the cycle in progress, where its support is complete at wide-stream sample `w`. -/
def Chain.pqNext (c : Chain) (f : Flue) (w : Nat) : Option Chain :=
  let r := c.rs
  let p := r.start * 1024 + r.k * r.len
  if r.len ≠ 0 ∧ r.k < 1024 ∧ resampleBase p + 12 ≤ w then
    let x := pqAt f c.wide r.switchJ p (w - resampleBase p - 12)
    let hashed := f.swap.any fun sw => sw.hashed
    some { c with pq := x :: c.pq, rs := { r with k := r.k + 1, switchJ := if hashed then r.switchJ + 1 else 0 } }
  else none

/-- All outputs of the cycle whose support is complete (one per wide-stream sample at most, but after a restart in the
past). -/
def Chain.pqFill (f : Flue) (w : Nat) : Nat → Chain → Chain
  | 0, c => c
  | n + 1, c => match c.pqNext f w with
    | some c => Chain.pqFill f w n c
    | none => c

/-- The resampler begins with the first wide-stream sample formed after the engine's start. -/
def Chain.pqBegin (c : Chain) (w : Nat) : Chain :=
  if c.rs.running then c
  else { c with rs := { running := true, start := w * 2 ^ 32, len := 0, k := 0, switchJ := 0 }, pq := [] }

/-- Does the next cycle start with wide-stream sample `w`: no length taken yet, and its first output can be formed? -/
def Chain.pqStarts (c : Chain) (w : Nat) : Bool :=
  c.rs.running && c.rs.len == 0 && decide (resampleBase (c.rs.start * 1024) + 12 ≤ w)

/-- A complete cycle is taken off the resampler: start, length, samples oldest first; the next one starts where it
ends. -/
def Chain.pqTake (c : Chain) : Option (Chain × Nat × Nat × List Samp) :=
  if c.rs.running ∧ c.rs.k = 1024 then
    some ({ c with rs := { c.rs with start := c.rs.start + c.rs.len, len := 0, k := 0 }, pq := [] },
          c.rs.start, c.rs.len, c.pq.reverse)
  else none

/-! One frame of one input. -/

/-- Input `i` at position `k` through a frame: its code, then what is formed at the boundary that starts grid frame
`f`. Answers the chain and its SAT and INVALID. -/
def Chain.frame (c : Chain) (e : Flue) (g : Image) (i k : Nat) (t : LinTable) (code : Int) (clamp : Bool) (f : Nat) :
    Chain × Bool × Bool :=
  let order := g.cicOrder (i / 16)
  let c := c.code order (normalise (g.gain i) (linearise t (clampCode code).1)) clamp
  let c := if cicFormsAt order f then c.decimate order else c
  match wideFormedAt f with
  | none => (c, false, false)
  | some w =>
    let (c, sat, inv) := c.formWide e g i (fracDelay k (t.timing.getD (i % 16) 0))
    let (c, sat2) := c.formBilling e g i w
    (c, sat || sat2, inv)

/-! Engine starts (R104). -/

/-- A chain from empty state. -/
def Chain.start (integrated : Bool) : Chain := { Chain.init with intFill := integrated }

/-- A start of engine `h`: banks from the image, A active, every input of the engine from empty state. -/
def engineStart (h : Nat) (s : State) : State :=
  let g := s.img
  let s := s.updFlue h fun f =>
    { f with filling := true, bankA := loadBank g h false, bankB := loadBank g h true, active := false, swapReq := false,
             swap := none, queued := false, swaps := 0, tracker := .init }
  (List.range 16).foldl (fun s i => s.updChain (16 * h + i) fun _ => Chain.start (g.integrated (16 * h + i))) s

/-- An input that an activation newly enables (R104): its stages start empty and its streams fill. -/
def chainStart (i : Nat) (s : State) : State :=
  s.updChain i fun _ => { Chain.start (s.img.integrated i) with newFill := true }

/-! Meanings. -/

/-- FLUE_BANK_DATA: a coefficient goes to the writable bank at ADDR, which advances; else the write is ignored (R101). -/
def execFlueBankData (h : Fin 8) (v : Word) (s : State) : Host.Outcome State Fault Refusal :=
  if !s.running Isl.flue then .next s else
  let f := s.flueAt h
  if f.writable then
    let a := s.fld (flueReg h 0x038) 11 0
    let m := Sparse.set (fun _ => 0) (f.bank !f.active) a (BitVec.ofNat 24 v.toNat)
    .next ((s.updFlue h fun f => f.setBank (!f.active) m).putField (flueReg h 0x038) 11 0 ((a + 1) % 4096))
  else .next (s.setFlag (flueReg h 0x034) 5)

/-- SWAP: FLUE_BANK_CTL is written with SWAP set or clear (R102, R106); it takes effect at the next frame boundary. -/
def execSwap (h : Fin 8) (v : Word) (s : State) : Host.Outcome State Fault Refusal :=
  if !s.running Isl.flue then .next s else
  let s := writeReg (flueReg h 0x030) v s
  .next (if bitOf v 0 then s.updFlue h fun f => { f with swapReq := true } else s)

/-- BANK_HASH_COMPLETE: 60 µs after the swap's start. A bank that feeds a billing stream must be in the image's list
(R32, R102). -/
def execBankHashComplete (h : Fin 8) (s : State) : Host.Outcome State Fault Refusal :=
  let f := s.flueAt h
  match f.swap with
  | some sw =>
    if sw.hashed || !s.running Isl.flue then .next s
    else if s.img.feedsBilling h && (f.bankMatch s.img h sw.target).isNone then
      .next ((s.updFlue h fun f => f.endSwap).setFlag (flueReg h 0x034) 6)
    else
      let s := s.updFlue h fun f => { f with swap := some { sw with hashed := true } }
      .next ((List.range 16).foldl (fun s i => s.updChain (16 * h + i) fun c => { c with rs := { c.rs with switchJ := 0 } }) s)
  | none => .next s

/-- Has every stream that the engine's inputs produce formed its output j = 2^F - 1? -/
def swapDone (s : State) (h : Nat) (sw : Swap) : Bool :=
  let g := s.img
  let ins := (g.scanList h).map fun i => 16 * h + i
  let has := fun b => ins.any fun i => (g.streams i).testBit b
  let n := 2 ^ sw.fade
  sw.hashed && (ins.isEmpty || n ≤ sw.jComp) && (!has 1 || n ≤ sw.jSteady) && (!has 2 || n ≤ sw.jBanked) &&
    ins.all fun i => !(g.hasPQ i) || n ≤ (s.chainAt i).rs.switchJ

/-- SWAP_COMPLETE: the last stream has switched; the target is active and a queued swap starts (R102, R103). -/
def execSwapComplete (h : Fin 8) (s : State) : Host.Outcome State Fault Refusal :=
  match (s.flueAt h).swap with
  | some sw =>
    if s.running Isl.flue && swapDone s h sw then
      .next (s.updFlue h fun f => { f with active := sw.target, swaps := (f.swaps + 1) % 65536 }.endSwap)
    else .next s
  | none => .next s

/-- FILL_END: 4.000 ms after a start of the engine, or after inputs were newly enabled (R104). -/
def execFillEnd (h : Fin 8) (s : State) : Host.Outcome State Fault Refusal :=
  if s.running Isl.flue then
    let s := s.updFlue h fun f => { f with filling := false }
    .next ((List.range 16).foldl (fun s i => s.updChain (16 * h + i) fun c => { c with newFill := false }) s)
  else .next s

/-- INTEGRATOR_FILL_END: 5 τ, or 4 ms where that is longer, after the integrator was cleared (R95). -/
def execIntegratorFillEnd (i : Fin 128) (s : State) : Host.Outcome State Fault Refusal :=
  if s.running Isl.flue then .next (s.updChain i fun c => { c with intFill := false }) else .next s

/-- FLUE_TRK_LEN_LO, FLUE_TRK_LEN_HI and FLUE_TRK_FREQ (R436). -/
def trkLenLo (t : Tracker) : Word :=
  match t.measured with
  | some l => if 8191 < l / 2 ^ 32 then 0xFFFFFFFF else word l
  | none => 0
def trkLenHi (t : Tracker) : Word :=
  putAt (match t.measured with | some l => min (l / 2 ^ 32) 8191 | none => 0) 0 ||| flagAt t.locked 13 ||| putAt t.cycles 16
def trkFreq (t : Tracker) : Word := word (match t.measured with | some l => lengthFreq l | none => 0)

/-- FLUE_TRK_LEN_LO_READ freezes the other two; with `hi`, the read of FLUE_TRK_LEN_HI that releases them (R107). -/
def execFlueTrkLenLoRead (h : Fin 8) (hi : Bool) (s : State) : Host.Outcome State Fault Refusal :=
  .next (readRow Isl.flue s fun s =>
    let f := s.flueAt h
    if hi then
      (s.readBack ((f.shadow.map fun x => x.1).getD (trkLenHi f.tracker))).updFlue h fun f => { f with shadow := none }
    else
      (s.readBack (trkLenLo f.tracker)).updFlue h fun f => { f with shadow := some (trkLenHi f.tracker, trkFreq f.tracker) })

end Sys2Proof.Machine
end

