-- ==== Sys2Proof/Machine/Trig.lean ====
section
/-! DEFINITION. Sines and cosines of fractions of a turn, and logarithms, by their power series in units of 2^-96: what the
definitions of the fundamental filter (R123), of the discrete Fourier transforms (R150, R158) and of a thermistor (R396) need. A value is within 2^-88 of the real one
(log entry 11). -/

namespace Sys2Proof.Machine

/-- π in units of 2^-96. -/
def piFix : Int := 248902613312231085230521944622

/-- A product in units of 2^-96. -/
def mulFix (a b : Int) : Int := roundShift (a * b) 96

/-- The terms of a power series: `t` is the term of order `n`, `x2` the square of the argument; `k` more of them. -/
def seriesFix (x2 : Int) : Nat → Nat → Int → Int
  | 0, _, t => t
  | k + 1, n, t => t + seriesFix x2 k (n + 2) (-(mulFix t x2) / ((n + 1 : Nat) * (n + 2 : Nat) : Int))

/-- The angle of a fraction of a turn, brought into [-π, π), in units of 2^-96. -/
def angleFix (turn : Rat) : Int :=
  let t := turn - (turn + 1 / 2).floor
  (2 * piFix * t).floor

def sinFix (turn : Rat) : Int := let x := angleFix turn; seriesFix (mulFix x x) 40 1 x
def cosFix (turn : Rat) : Int := let x := angleFix turn; seriesFix (mulFix x x) 40 0 (2 ^ 96 : Nat)

/-- Sine, cosine and tangent of a fraction of a turn. -/
def sinTurn (turn : Rat) : Rat := (sinFix turn : Rat) / (2 ^ 96 : Nat)
def cosTurn (turn : Rat) : Rat := (cosFix turn : Rat) / (2 ^ 96 : Nat)
def tanTurn (turn : Rat) : Rat := (sinFix turn : Rat) / (cosFix turn : Rat)

/-! The natural logarithm, for the thermistors of R396. -/

/-- The exponent of a positive rational: the largest e with 2^e ≤ x. -/
def log2Rat (x : Rat) : Int :=
  let e : Int := (Nat.log2 x.num.natAbs : Int) - (Nat.log2 x.den : Int)
  if x < pow2 e then e - 1 else if pow2 (e + 1) ≤ x then e + 1 else e

/-- The terms of artanh from order `n` on: `t` is the power of that order, `z2` the square of the argument; `k` more of them. -/
def artanhFix (z2 : Int) : Nat → Nat → Int → Int
  | 0, n, t => t / (n : Nat)
  | k + 1, n, t => t / (n : Nat) + artanhFix z2 k (n + 2) (mulFix t z2)

/-- ln 2 in units of 2^-96. -/
def ln2Fix : Int := 54916777467707473351141471128

/-- ln of a positive rational: ln (m 2^e) = e ln 2 + 2 artanh ((m - 1) / (m + 1)). -/
def lnRat (x : Rat) : Rat :=
  let e := log2Rat x
  let m := x * pow2 (-e)
  let z := (((m - 1) / (m + 1)) * (2 ^ 96 : Nat) : Rat).floor
  ((e * ln2Fix + 2 * artanhFix (mulFix z z) 40 1 z : Int) : Rat) / (2 ^ 96 : Nat)

end Sys2Proof.Machine
end

