-- ==== Sys2Proof/Machine/Energy.lean ====
section
/-! DEFINITION. The energy engine (R108 to R134) and the pulse generators (R135 to R139): evaluated inputs, the sums
of a beat, increments with their residues, the point window, and the pulse channels' meanings. -/

namespace Sys2Proof.Machine

/-! Scaling and evaluation (R113, R115, R128). -/

/-- Full scale of an input in volts or amperes: the value of the input full scale 1 V / G after R113 (log entry 72). -/
def Image.fullScale (g : Image) (i : Nat) : Rat :=
  (1 / (g.gain i : Nat) : Rat) * ((g.inScale i : Nat) / (2 ^ 31 : Nat) : Rat) * pow2 (g.inExp i) *
    (1 + (g.inGain i : Rat) / (2 ^ 34 : Nat))

/-- A value reduced to a fraction 2^-n of an input's full scale. -/
def Image.quantise (g : Image) (i n : Nat) (x : Rat) : Rat :=
  let q := g.fullScale i / (2 ^ n : Nat)
  if q = 0 then 0 else q * (roundEven (x / q) : Rat)

/-- The value of an input between four samples (R115): `hist` newest first, `b` periods before the newest. -/
def interpolate (hist : List Int) (b : Rat) : Rat :=
  let k := b.ceil.toNat
  let f : Rat := (k : Nat) - b
  let x := fun (n : Nat) => (hist.getD n 0 : Rat)
  let newest : Rat := if k ≥ 2 then x (k - 2) else 0
  x (k + 1) * (-f * (f - 1) * (f - 2) / 6) + x k * ((f + 1) * (f - 1) * (f - 2) / 2) +
    x (k - 1) * (-(f + 1) * f * (f - 2) / 2) + newest * ((f + 1) * f * (f - 1) / 6)

/-- The evaluated, scaled value of an input (R113, R115), of 2^-40 of its full scale. -/
def Image.evaluate (g : Image) (i : Nat) (p : Preset) (hist : List Int) : Rat :=
  let b : Rat := 1 + ((10 * g.inDelay i : Nat) : Rat) / (1024 * p.frames : Nat)
  let v := interpolate hist b / (2 ^ 26 : Nat) * ((g.inScale i : Nat) / (2 ^ 31 : Nat) : Rat) * pow2 (g.inExp i) *
    (1 + (g.inGain i : Rat) / (2 ^ 34 : Nat))
  let x := g.quantise i 40 v
  if g.inNeg i then -x else x

/-- A phase-split path (R120): each section `y[n] = a x[n] + x[n-1] - a y[n-1]`, its state of 2^-44 of full scale. -/
def splitPath (quant : Rat → Rat) : List Rat → List Pair → Rat → List Pair × Rat
  | [], _, x => ([], x)
  | a :: as, ps, x =>
    let p := ps.headD ⟨0, 0⟩
    let y := quant (a * x + p.a - a * p.b)
    let (rest, out) := splitPath quant as ps.tail y
    (⟨x, y⟩ :: rest, out)

def EvalState.init : EvalState := { hist := [], x := 0, pathI := [], pathQ := [], outI := 0, outQ := 0 }
def evalKey (i : Nat) (p : Preset) : Nat := 4 * i + p.streamBit
def State.evalAt (s : State) (i : Nat) (p : Preset) : EvalState := Sparse.get (fun _ => EvalState.init) s.evals (evalKey i p)

/-- The coefficients of a preset's network set (R120), unit 2^-31. -/
def netCoefs (g : Image) (p : Preset) (isQ : Bool) : List Rat :=
  (List.range (g.netK p.netSet)).map fun k =>
    ((if isQ then g.netB p.netSet k else g.netA p.netSet k) : Rat) / (2 ^ 31 : Nat)

/-- An input takes a delivered sample of a preset. -/
def EvalState.take (e : EvalState) (g : Image) (i : Nat) (p : Preset) (v : Int) : EvalState :=
  let hist := (v :: e.hist).take 84
  let x := g.evaluate i p hist
  let (pi, oi) := splitPath (g.quantise i 44) (netCoefs g p false) e.pathI x
  let (pq, oq) := splitPath (g.quantise i 44) (netCoefs g p true) e.pathQ x
  { hist := hist, x := x, pathI := pi, pathQ := pq, outI := oi, outQ := oq }

/-! Samples (R118, R130, R131). -/

/-- What reached the engine for an input at a sample instant: none where the crossing delivered nothing. -/
def Chain.delivered (c : Chain) (p : Preset) (f : Nat) : Option Samp :=
  (c.due.find? fun d => d.preset == p && d.due == f).map DueSample.samp

/-- Does a METERING point use an input? -/
def State.feedsMetering (s : State) (i : Nat) : Bool :=
  (List.range 32).any fun p => s.img.usesInput p i && (s.pointAt p).state == .metering
/-- Does the crossing deliver no sample of an input at this sample instant of a preset: a point that uses it has been reported
(fault 0x43, R131)? -/
def State.crossMiss (s : State) (i : Nat) (p : Preset) : Bool :=
  (List.range 32).any fun q => (s.pointAt q).missNext && Preset.ofCode (s.img.pPreset q) == some p && s.img.usesInput q i
/-- What an input brings to the engine at a sample instant: none where the crossing delivers nothing. -/
def State.arrives (s : State) (i : Nat) (p : Preset) (f : Nat) : Option Samp :=
  if s.crossMiss i p then none else (s.chainAt i).delivered p f
/-- A missing sample of an input counts as value 0 in its stream, and so does one formed in a fill for a METERING point (R131);
for points that are ARMING a fill sample has its value (R130). -/
def State.sampleValue (s : State) (i : Nat) : Option Samp → Int
  | some x => if x.fill && s.feedsMetering i then 0 else x.val
  | none => 0
def sampleGap : Option Samp → Bool
  | some x => x.fill
  | none => true
/-- Does a sample set RANGE for a point (R130): INVALID by an overrange, or SAT? A refill sample of a METERING point sets
neither (R131); a fill sample with SAT of an ARMING point does, by the words of R130 (log entry 109). -/
def sampleRange (metering : Bool) : Option Samp → Bool
  | some x => (x.invalid && !x.fill) || (x.sat && !(x.fill && metering))
  | none => false
/-- Does a sample count in NINVALID: INVALID, SAT or missing (R142)? -/
def sampleBad : Option Samp → Bool
  | some x => x.isInvalid || x.sat
  | none => true

/-- Every enabled input takes the samples that are due in grid frame `f`. -/
def takeSamples (f : Nat) (s : State) : State :=
  [Preset.roaring, .steady, .banked].foldl (fun s p =>
    if !p.dueIn f then s else
    (List.range 128).foldl (fun s i =>
      if s.img.enabled i && (s.img.streams i).testBit p.streamBit then
        let e := (s.evalAt i p).take s.img i p (s.sampleValue i (s.arrives i p f))
        { s with evals := Sparse.set (fun _ => EvalState.init) s.evals (evalKey i p) e }
      else s) s) s

/-- Samples that have been delivered leave the chains. -/
def dropDelivered (f : Nat) (s : State) : State :=
  { s with chain := s.chain.map fun c => { c with due := c.due.filter fun d => decide (f < d.due) } }

/-! One sample of one point (R119 to R125). -/

/-- The tracker of an AC point: cycle length of the fundamental filter's centre, its frequency in mHz, and whether it
is the nominal one (R123). -/
def State.centre (s : State) (p : Nat) : Nat × Nat × Bool :=
  let t := (s.flueAt (s.img.pTrk p)).tracker
  let nom60 := s.img.nom60 (s.img.pTrk p)
  if t.locked then let l := t.lastGood.getD 0; (l, lengthFreq l, false)
  else (nominalLength nom60, if nom60 then 60000 else 50000, true)

/-- The represented instant of the sample of a preset delivered in grid frame `f`, as a wide-stream index (R85, R89). -/
def Preset.instant (p : Preset) (f : Nat) : Nat :=
  match p with
  | .roaring => (f - 440) / 32
  | .steady => 10 * ((f - 4100) / 320)
  | .banked => 40 * ((f - 16200) / 1280)

/-- What a sample adds: the evaluated values by position, the path outputs and the fundamental outputs. -/
structure PointSample where
  x  : Nat → Rat
  vi : Nat → Rat
  vq : Nat → Rat
  f  : Nat → Rat

def sumOver (l : List (Nat × Nat)) (f : Nat → Nat → Rat) : Rat := l.foldl (fun acc e => acc + f e.1 e.2) 0

/-- The sums of a beat after one sample. -/
def BeatAcc.add (a : BeatAcc) (g : Image) (p : Nat) (w : PointSample) : BeatAcc :=
  let els := g.elements p
  let inst := sumOver els fun v i => w.x v * w.x i
  let abs : Rat := if inst < 0 then -inst else inst
  let dc := g.isDC p
  let sq := Vector.ofFn fun (q : Fin 8) =>
    let add : Rat :=
      if dc then w.x q * w.x q
      else if q.val = 7 then
        let ci := w.vi 0 + w.vi 1; let cq := w.vq 0 + w.vq 1
        if g.pType p = 2 then ci * ci + cq * cq else 0
      else w.vi q * w.vi q + w.vq q * w.vq q
    a.sq[q] + add
  { a with n := a.n + 1, pSum := a.pSum + inst, pMax := if a.pMax < abs then abs else a.pMax, sq := sq,
           qSum := if dc then a.qSum else a.qSum + sumOver els fun v i => (w.vq v * w.vi i - w.vi v * w.vq i) / 2,
           paSum := if dc then a.paSum else a.paSum + sumOver els fun v i => (w.vi v * w.vi i + w.vq v * w.vq i) / 2,
           a1Sum := if dc then a.a1Sum else a.a1Sum + sumOver els fun v i => w.f v * w.f i,
           vSum := a.vSum + w.x 4, iSum := a.iSum + w.x 0, vsSum := if dc then a.vsSum + w.x 5 else a.vsSum,
           vsISum := if dc then a.vsISum + w.x 5 * w.x 0 else a.vsISum }

/-- One step of the fundamental filter (R123): the second-order band-pass section with zeros at 0 and at half the sample rate
whose gain is 1 at zero phase at the centre and whose bandwidth is 1/20 of it. `turn` is the phase advance of the centre
frequency in a sample period, `x` the input; the two states of the transposed form are reduced by `quant` (R128; log entry
11). -/
def fundStep (quant : Rat → Rat) (turn : Rat) (p : Pair) (x : Rat) : Pair × Rat :=
  let c := cosTurn turn
  let α := tanTurn (turn / 40)
  let b := α / (1 + α)
  let y := b * x + p.a
  (⟨quant (2 * c / (1 + α) * y + p.b), quant (-(b * x) - (1 - α) / (1 + α) * y)⟩, y)

/-- The phase advance, in turns, of a cycle of length `len` (units of 2^-32 wide-stream sample) in a sample period. -/
def centreTurn (len frames : Nat) : Rat := ((frames * 2 ^ 32 : Nat) : Rat) / ((32 * len : Nat) : Rat)

/-- The fundamental filters of an AC point take a sample, their states of 2^-44 of the inputs' full scale (R128). -/
def Point.filter (pt : Point) (g : Image) (p len frames : Nat) (x : Nat → Rat) : Point :=
  if !g.isAC p then pt else
  let quant := fun (q : Nat) => match g.posIn p q with | some i => g.quantise i 44 | none => id
  let r := fun (q : Nat) => fundStep (quant q) (centreTurn len frames) (Tab.at pt.fund q .init) (x q)
  { pt with fund := Vector.ofFn fun q => (r q).1, fundOut := Vector.ofFn fun q => (r q).2 }

/-- A point takes the samples due in grid frame `f`. -/
def pointSample (f : Nat) (s : State) (p : Nat) : State :=
  let g := s.img
  match Preset.ofCode (g.pPreset p) with
  | none => s
  | some pr =>
    if !(g.isUsed p && pr.dueIn f) then s else
    let pt := s.pointAt p
    let got := fun (q : Nat) => (g.posIn p q).bind fun i => s.arrives i pr f
    let roles := (List.range 7).filter fun q => (g.posIn p q).isSome
    let ev := fun (q : Nat) (sel : EvalState → Rat) =>
      match g.posIn p q with
      | some i => sel (s.evalAt i pr)
      | none => 0
    let (len, freq, unlocked) := s.centre p
    let pt := pt.filter g p len pr.frames fun q => ev q EvalState.x
    let w : PointSample :=
      { x := fun q => ev q EvalState.x, vi := fun q => ev q EvalState.outI, vq := fun q => ev q EvalState.outQ,
        f := fun q => Tab.at pt.fundOut q 0 }
    let gap := roles.any fun q => sampleGap (got q)
    let range := roles.any fun q => sampleRange (pt.state == .metering) (got q)
    let vsBad := (g.posIn p 5).isSome && g.isDC p && sampleBad (got 5)
    let a := pt.acc.add g p w
    let t := pr.instant f
    let a := { a with nInvalid := if roles.any fun q => sampleBad (got q) then a.nInvalid + 1 else a.nInvalid, range := a.range || range,
                      gap := a.gap || gap, vsBad := a.vsBad || vsBad, freq := if g.isAC p then freq else 0,
                      unlocked := g.isAC p && unlocked, lastTs := t, firstTs := if a.n = 1 then t else a.firstTs }
    s.updPoint p fun _ => { pt with acc := a }

/-- The sample instant of a reported miss has passed. -/
def missTaken (f : Nat) (s : State) (p : Nat) : State :=
  if (Preset.ofCode (s.img.pPreset p)).any fun pr => pr.dueIn f then s.updPoint p fun pt => { pt with missNext := false } else s

/-! Conditions of METERING (R111). -/

/-- The conditions on an input's hearth and engine, with its own fill (R104). -/
def inputOk (s : State) (i : Nat) : Bool :=
  let x := s.hearthAt (i / 16)
  x.kindle == .pass && x.refSettled && s.running Isl.flue && !((s.chainAt i).filling (s.flueAt (i / 16)))

/-- One more frame for which they hold, and for which the input's integrator is not in its fill time. -/
def countInput (s : State) (i : Nat) : State :=
  let ok := inputOk s i
  s.updChain i fun c => { c with okFor := if ok then min (c.okFor + 1) 410000 else 0,
                                 intFor := if c.intFill then 0 else min (c.intFor + 1) 410000 }

/-- Frames for which the three conditions have held together for a point's inputs. -/
def State.okFrames (s : State) (p : Nat) : Nat :=
  (s.img.inputsOf p).foldl (fun n i =>
    let c := s.chainAt i
    min n (if s.img.inKind i = 4 then min c.okFor c.intFor else c.okFor)) 410000

/-- Frames needed at a beat boundary: the preceding beat, and for AC points 40 ms before it. -/
def Image.okNeed (g : Image) (p : Nat) : Nat := if g.isAC p then 410000 else 10000

/-! Increments of a beat (R119 to R126). -/

/-- The energies of a beat: net active, reactive, analytic active, fundamental, delivered, loss, in Wh or varh. -/
structure Energies where
  p    : Rat
  q    : Rat
  pa   : Rat
  a1   : Rat
  del  : Rat
  loss : Rat

/-- How a DC beat forms the vehicle-side voltage (R125, R126): 0 the meter's, 1 the sense input, 2 over the cable. -/
def Image.compOf (g : Image) (p : Nat) (fallback : Bool) : Nat :=
  if g.pComp p = 2 then 2
  else if g.pComp p = 1 then (if !fallback then 1 else if g.pSenseFb p && 0 < g.pCable p then 2 else 0)
  else 0

def Image.cableOhm (g : Image) (p : Nat) : Rat := ((g.pCable p : Nat) : Rat) / 1000000000

def BeatAcc.energies (a : BeatAcc) (g : Image) (p : Nat) : Energies :=
  let h := ((Preset.ofCode (g.pPreset p)).map Preset.hours).getD 0
  let loss := match g.compOf p a.senseFb with
    | 1 => a.pSum - a.vsISum
    | 2 => a.sq[0] * g.cableOhm p
    | _ => 0
  { p := a.pSum * h, q := a.qSum * h, pa := a.paSum * h, a1 := a.a1Sum * h, del := (a.pSum - loss) * h, loss := loss * h }

/-- The root of a rational, to 2^-64 (log entry 73). -/
def ratRoot (x : Rat) : Rat := (roundSqrt (x * (2 ^ 128 : Nat)) : Rat) / (2 ^ 64 : Nat)

def posPart (x : Rat) : Rat := if x < 0 then 0 else x
def negPart (x : Rat) : Rat := if x < 0 then -x else 0

/-- The reactive quadrant of a beat (R121). -/
def Energies.quadrant (e : Energies) : Nat :=
  if 0 ≤ e.p then (if 0 ≤ e.q then 1 else 4) else (if 0 ≤ e.q then 2 else 3)

/-- The exact increments of the nine registers (R133). -/
def Energies.increments (e : Energies) (dc : Bool) : Vector Rat 9 :=
  if dc then #v[posPart e.p, negPart e.p, posPart e.del, negPart e.del, if e.loss < 0 then -e.loss else e.loss, 0, 0, 0, 0]
  else
    let q : Rat := if e.q < 0 then -e.q else e.q
    let at_ := fun k => if e.quadrant = k then q else 0
    #v[posPart e.p, negPart e.p, at_ 1, at_ 2, at_ 3, at_ 4, ratRoot (e.pa * e.pa + e.q * e.q), posPart e.a1, negPart e.a1]

/-- Increments rounded with the residues of a point (R128): rounded parts in 2^-32, and the new residues. -/
def Point.round (pt : Point) (inc : Vector Rat 9) : Vector Nat 9 × Vector Rat 9 :=
  let r := fun (k : Fin 9) => roundEven ((pt.residue[k] + inc[k]) * (2 ^ 32 : Nat))
  (Vector.ofFn fun k => (r k).toNat, Vector.ofFn fun k => pt.residue[k] + inc[k] - (r k : Rat) / (2 ^ 32 : Nat))

/-! Readings (R127, R142). -/

/-- A reading in its register's format; the spec states no result for one that does not fit. -/
def readingS (q : Int) : Word := if (saturate q 32).2 then Config.readingOver q else iword q
def readingU (q : Int) : Word := if 0 ≤ q ∧ q < (2 ^ 32 : Nat) then word q.toNat else Config.readingOver q

def readS (x : Rat) : Word := readingS (roundEven x)
def readU (x : Rat) : Word := readingU (roundEven x)
def rmsWord (x : Rat) : Word := readingS (roundSqrt (x * 1000000))

/-- The window of a beat's sums. A point that the image leaves UNUSED shows zeros (R143), unless it is held: then ARMING and the
registers kept for it (R243). -/
def pointWindow (g : Image) (p beat : Nat) (state : PointState) (doubt : Bool) (a : BeatAcc) (regs : Vector Nat 9) :
    PointWindow :=
  let image := [g.pDef p, g.pInA p, g.pInB p, word (g.pCable p)]
  if !g.isUsed p then
    (if state = .arming then { PointWindow.init with beat := beat, image := image, status := putAt 1 0, regs := regs.toList }
     else { PointWindow.init with beat := beat, image := image }) else
  let e := a.energies g p
  let dc := g.isDC p
  let met := state == .metering
  let h := ((Preset.ofCode (g.pPreset p)).map Preset.hours).getD 0
  let n : Rat := (a.n : Nat)
  let span := n * h
  let power := fun (x : Rat) => x / span * 100
  let app := ratRoot (e.pa * e.pa + e.q * e.q)
  let rms := fun (q : Fin 8) => rmsWord (a.sq[q] / (2 * n))
  let mean := fun (x : Rat) => readS (x / n * 1000)
  let ripple := fun (q : Fin 8) (sum : Rat) => rmsWord (a.sq[q] / n - (sum / n) * (sum / n))
  let vd : Rat := match g.compOf p a.senseFb with
    | 1 => a.vsSum
    | 2 => a.vSum - g.cableOhm p * a.iSum
    | _ => a.vSum
  let has := fun q => (g.posIn p q).isSome
  let status := putAt (match state with | .unused => 0 | .arming => 1 | .metering => 2) 0 |||
    flagAt (doubt || (met && a.gap)) 2 ||| flagAt a.range 3 ||| flagAt (met && a.gap) 4 ||| flagAt a.senseFb 5 |||
    flagAt a.unlocked 6 ||| flagAt (met && decide (e.p < 0)) 7 ||| putAt (if dc || !met then 0 else e.quadrant) 8
  { beat := beat, status := status, image := image, regs := regs.toList,
    nsamp := putAt a.n 0 ||| putAt a.nInvalid 16,
    p := readS (power (if dc then e.p else e.pa)), q := if dc then 0 else readS (power e.q),
    s := if dc then 0 else readU (power app),
    pf := if dc ∨ app = 0 then 0 else readS (e.pa / app * (2 ^ 30 : Nat)),
    freq := if dc then 0 else word a.freq,
    volts := if dc then [mean a.vSum, ripple 4 a.vSum, mean vd]
             else [rms 4, if has 5 then rms 5 else 0, if has 6 then rms 6 else 0],
    amps := if dc then [mean a.iSum, ripple 0 a.iSum, 0, 0]
            else if g.pType p = 2 then [rms 0, rms 7, rms 1, 0]
            else [rms 0, if has 1 then rms 1 else 0, if has 2 then rms 2 else 0, if has 3 then rms 3 else 0],
    pmax := if met then readU (a.pMax * 100) else 0,
    incP := if met then readS (e.p * (2 ^ 24 : Nat)) else 0,
    incQ := if met then readS ((if dc then e.del else e.q) * (2 ^ 24 : Nat)) else 0,
    p1 := readS (power (if dc then e.del else e.a1)), pmaxWh := if met then a.pMax else 0 }

/-- A window goes to the half that is not published. -/
def Point.stage (pt : Point) (w : PointWindow) : Point := if pt.half then { pt with half0 := w } else { pt with half1 := w }
def Point.flip (pt : Point) : Point := { pt with half := !pt.half }

/-- One point at a publication cycle (R128, R129): increments to the totals, residues, the new window. The outgoing
image's definition applies to the beat that has ended (R211). Answers the rounded increments. -/
def publishPoint (g : Image) (beat p : Nat) (s : State) : State × Vector Nat 9 :=
  let pt := s.pointAt p
  let a := pt.closing
  if a.state = .metering ∧ g.isUsed p then
    let (inc, res) := pt.round ((a.energies g p).increments (g.isDC p))
    let regs := Vector.ofFn fun (k : Fin 9) => pt.regs[k] + inc[k]
    let w := pointWindow g p beat a.state a.doubt a regs
    -- the residues are cleared where the point has entered ARMING with this beat
    let res := if pt.state = .metering then res else Vector.replicate 9 0
    (s.updPoint p fun pt => { pt with regs := regs, residue := res }.stage w, inc)
  else
    let w := pointWindow g p beat a.state a.doubt a pt.regs
    (s.updPoint p fun pt => pt.stage w, Vector.replicate 9 0)

/-! Pulse outputs (R135 to R139). -/

/-- Wide-stream samples formed in a beat of the grid. -/
def formedBefore (f : Nat) : Nat := if f ≤ 302 then 0 else (f - 303) / 32 + 1
def formedIn (beat : Nat) : Nat := formedBefore (10000 * beat + 10000) - formedBefore (10000 * beat)

/-- A channel receives the rounded increment of its register (R136). -/
def Pulse.receive (c : Pulse) (g : Image) (ch inc : Nat) : Pulse :=
  let q : Rat := ((inc : Nat) : Rat) / (2 ^ 32 : Nat) * (((g.pulseConst ch : Nat) : Rat) / 65536) / 1000 + c.carry
  let u := roundEven (q * (2 ^ 40 : Nat))
  { c with queue := c.queue ++ [u.toNat], carry := q - (u : Rat) / (2 ^ 40 : Nat) }

/-- The first wide-stream sample formed in a beat begins the spread of the oldest increment received. -/
def Pulse.beginSpread (c : Pulse) (beat : Nat) : Pulse :=
  { c with spreadU := c.queue.headD 0, queue := c.queue.tail, spreadM := 32 * formedIn beat, spreadF := 0 }

/-- One frame of the spread: its part, and the impulses it makes due. -/
def Pulse.frame (c : Pulse) : Pulse × Bool :=
  if c.spreadF < c.spreadM then
    let part := c.spreadU * (c.spreadF + 1) / c.spreadM - c.spreadU * c.spreadF / c.spreadM
    let acc := c.acc + part
    let due := acc / 2 ^ 40
    let room := 65535 - c.pending
    ({ c with spreadF := c.spreadF + 1, acc := acc % 2 ^ 40, pending := c.pending + min due room, dueNow := min due room },
      decide (room < due))
  else ({ c with dueNow := 0 }, false)

def pulseReg (c off : Nat) : Nat := 0x2A000 + 0x10 * c + off

/-- A channel through the frame that grid frame `f` starts. -/
def pulseFrame (f : Nat) (s : State) (c : Nat) : State :=
  if !s.img.pulseEn c then s else
  let beat := f / 10000
  let x := s.pulseAt c
  let x := if f % 10000 < 32 ∧ (wideFormedAt f).isSome then x.beginSpread beat else x
  let (x, dropped) := x.frame
  let s := s.updPulse c fun _ => x
  if dropped then s.setFlag (pulseReg c 0x00C) 17 else s

/-- An activation that changes a channel's settings (`set`) or its point's definition (R137, R139). An impulse in progress keeps
the pin low until it ends, and COUNT goes on: a channel counts as started with METRO (DESIGN CHOICE, log entry 110). -/
def Pulse.restart (set : Bool) (c : Pulse) : Pulse :=
  { c with carry := 0, queue := [], spreadU := 0, spreadM := 0, spreadF := 0, acc := 0, pending := 0, dueNow := 0,
           fresh := c.fresh || set }

/-- The minimum spacing of a channel in frames (R137). -/
def Image.pulseSpacing (g : Image) (c : Nat) : Nat := if g.pulseCal c then 10 else 100

/-- May an impulse start in grid frame `f` (R137, R139)? -/
def pulseReady (s : State) (c f : Nat) : Bool :=
  let x := s.pulseAt c
  let sp := s.img.pulseSpacing c
  s.running Isl.metro && s.img.pulseEn c && (s.pointAt (s.img.pulsePoint c)).state == .metering && 0 < x.pending && !x.low &&
    (match x.lastAt with | some t => decide (t + sp ≤ f) | none => true) &&
    (match x.freeAt with | some t => decide (2 * t + sp ≤ 2 * f) | none => true)

/-- IMPULSE_START: the oldest pending impulse starts (R137, R138). -/
def execImpulseStart (c : Fin 8) (s : State) : Host.Outcome State Fault Refusal :=
  let f := s.gridFrame
  if pulseReady s c f then
    let x := s.pulseAt c
    let low := if x.fresh then 100000 else match x.lastAt with | some t => min 100000 ((f - t) / 2) | none => 100000
    let s := if x.dueNow < x.pending then s.setFlag (pulseReg c 0x00C) 16 else s
    .next (s.updPulse c fun x => { x with pending := x.pending - 1, dueNow := min x.dueNow (x.pending - 1), low := true, fresh := false,
                                          lowFor := low, lastAt := some f, count := (x.count + 1) % 2 ^ 32 })
  else .next s

/-- IMPULSE_END: the low time has passed and the pin is released (R137, R139). -/
def execImpulseEnd (c : Fin 8) (s : State) : Host.Outcome State Fault Refusal :=
  let x := s.pulseAt c
  let f := s.gridFrame
  if s.running Isl.metro && x.low && (match x.lastAt with | some t => decide (t + x.lowFor ≤ f) | none => true) then
    .next (s.updPulse c fun x => { x with low := false, freeAt := some f })
  else .next s

/-! Reads (R141). -/

/-- The beat of the latest published point windows. -/
def State.energyBeat (s : State) : Nat := (s.pointAt 0).window.beat

/-- ENERGY_BEAT_LO_READ freezes the high word; with `hi`, the read of ENERGY_BEAT_HI that releases it. -/
def execEnergyBeatLoRead (hi : Bool) (s : State) : Host.Outcome State Fault Refusal :=
  .next (readRow Isl.metro s fun s =>
    if hi then { s.readBack (s.energyHi.getD (hiWord s.energyBeat)) with energyHi := none }
    else { s.readBack (loWord s.energyBeat) with energyHi := some (hiWord s.energyBeat) })

end Sys2Proof.Machine
end

