-- ==== Sys2Proof/Machine/Spectra.lean ====
section
/-! DEFINITION. The arithmetic of the spectral readings: IEEE 754 binary32, the discrete Fourier transform, the harmonic groups
(R150) and the band power of the supraharmonic channels (R157 to R159). -/

namespace Sys2Proof.Machine

/-! IEEE 754 binary32, rounded half to even. -/

def toF32 (x : Rat) : BitVec 32 :=
  if x = 0 then 0 else
  let sign : Nat := if x < 0 then 2 ^ 31 else 0
  let a : Rat := if x < 0 then -x else x
  let e := log2Rat a
  if e < -126 then BitVec.ofNat 32 (sign + (roundEven (a * pow2 149)).toNat)
  else
    let m := (roundEven (a * pow2 (23 - e))).toNat
    let (e, m) := if m = 2 ^ 24 then (e + 1, 2 ^ 23) else (e, m)
    if 127 < e then BitVec.ofNat 32 (sign + 0x7F800000)
    else BitVec.ofNat 32 (sign + (e + 127).toNat * 2 ^ 23 + (m - 2 ^ 23))

/-- The binary32 value nearest to a rational of its range, and to the root of one. -/
def f32 (x : Rat) : Rat :=
  if x = 0 then 0 else
  let e := max (log2Rat (if x < 0 then -x else x)) (-126)
  (roundEven (x * pow2 (23 - e)) : Rat) * pow2 (e - 23)
def f32Root (x : Rat) : Rat :=
  if x ≤ 0 then 0 else
  let e := max (log2Rat x / 2) (-126)
  (roundSqrt (x * pow2 (2 * (23 - e))) : Rat) * pow2 (e - 23)

def sumRat (l : List Rat) : Rat := l.foldl (· + ·) 0

/-! The discrete Fourier transform. -/

/-- Real and imaginary part of bin `k` of the transform of a list, over its length. -/
def dftBin (s : List Rat) (k : Nat) : Rat × Rat :=
  let n := s.length
  let turn := fun j => (((k * j % n : Nat) : Rat) / (n : Nat))
  let at_ := s.zip (List.range n)
  (sumRat (at_.map fun x => x.1 * cosTurn (turn x.2)), -sumRat (at_.map fun x => x.1 * sinTurn (turn x.2)))
def normSq (x : Rat × Rat) : Rat := x.1 * x.1 + x.2 * x.2

/-! Harmonic groups (R150). Each line of the rule's formulas is a stage, and its results are binary32; the sum inside a stage is
exact (log entry 12). -/

/-- c_k, the rms of the component in bin `k`, from a window's samples. -/
def binRms (s : List Rat) (k : Nat) : Rat :=
  let x := dftBin s k
  let n : Rat := (s.length : Nat)
  f32Root (2 * normSq (f32 x.1, f32 x.2) / (n * n))

/-- Squares of grp(n), sub(n) and ihg(n) from the squares of the bins. -/
def grpSq (c : Nat → Rat) (m n : Nat) : Rat :=
  let h := m / 2
  c (m * n - h) / 2 + sumRat ((List.range (2 * h - 1)).map fun i => c (m * n - h + 1 + i)) + c (m * n + h) / 2
def subSq (c : Nat → Rat) (m n : Nat) : Rat := c (m * n - 1) + c (m * n) + c (m * n + 1)
def ihgSq (c : Nat → Rat) (m n : Nat) : Rat := sumRat ((List.range (m - 1)).map fun i => c (m * n + 1 + i))

/-- thd40, thd127, the groups, subgroups and interharmonic groups of a window's samples. thd40 is 0 where grp(1) is 0; the rule
states no thd127 there (log entry 113). -/
def spectrumWords (s : List Rat) (m : Nat) : List Word :=
  let rms := (List.range (128 * m)).map (binRms s)
  let c := fun k => let x := rms.getD k 0; x * x
  let grps := (List.range 127).map fun n => f32Root (grpSq c m (n + 1))
  let grp1 := grps.getD 0 0
  let tops := fun top => sumRat (((grps.take top).drop 1).map fun x => x * x)
  let thd := fun top => toF32 (f32Root (tops top / (grp1 * grp1)))
  [if grp1 = 0 then 0 else thd 40, if grp1 = 0 then Config.thdAtZero (tops 127) else thd 127] ++ grps.map toF32 ++
    ((List.range 127).map fun n => toF32 (f32Root (subSq c m (n + 1)))) ++
    (List.range 127).map fun n => toF32 (f32Root (ihgSq c m n))

/-! Supraharmonic bands. -/

/-- The newest wide-stream sample that output `q` of the 320 kS/s stream needs: position q * 125 / 128, 16 taps about it
(R157; log entry 13). -/
def supraNeeds (q : Nat) : Nat := 125 * q / 128 + 8
/-- Output sample `q` from the wide-stream values by their index. -/
def supraSample (wide : Nat → Rat) (q : Nat) : Rat :=
  sumRat ((List.range 16).map fun j =>
    if supraNeeds q < j then 0 else Config.supraTap (125 * q % 128) j * wide (supraNeeds q - j))

/-- The Hann window over 1600 samples. -/
def hann (n : Nat) : Rat := (1 - cosTurn (((n : Nat) : Rat) / 1600)) / 2

/-- p_k(t): the power of band `k` from the 1600 output samples that end with block `t` (R158, R159). -/
def bandPower (samples : List Rat) (k : Nat) : Rat :=
  2 * normSq (dftBin ((samples.zip (List.range 1600)).map fun x => x.1 * hann x.2) (11 + k)) / (1600 * 1600 * (3 / 8))

end Sys2Proof.Machine
end

