-- ==== Sys2Proof/Machine/Spectral.lean ====
section
/-! DEFINITION. The spectral engine (R145 to R160): cycles and windows of the harmonic channels with run-ahead, squash
and redo, supraharmonic blocks and intervals, their publication, and the meanings of their commands. -/

namespace Sys2Proof.Machine

def State.harmAt (s : State) (j : Nat) : HarmChan := Tab.at s.spectral.harm j .init
def State.updHarm (s : State) (j : Nat) (f : HarmChan → HarmChan) : State :=
  { s with spectral := { s.spectral with harm := Tab.upd s.spectral.harm j f } }
def State.supraAt (s : State) (j : Nat) : SupraChan := Tab.at s.spectral.supra j .init
def State.updSupra (s : State) (j : Nat) (f : SupraChan → SupraChan) : State :=
  { s with spectral := { s.spectral with supra := Tab.upd s.spectral.supra j f } }

/-- Defined channels of the active image (R147). -/
def Image.harmChans (g : Image) : List Nat := (List.range (min g.nH 48)).filter g.harmValid
def Image.supraChans (g : Image) : List Nat := (List.range (min g.nS 24)).filter g.supraValid
/-- Cycles per window (R149). -/
def Image.harmM (g : Image) (j : Nat) : Nat := if g.nom60 (g.harmInput j / 16) then 12 else 10

/-- SPECTRAL_STATUS.RUNNING. -/
def State.spectralRuns (s : State) : Bool := s.active && s.running Isl.metro && s.fw.hold.isNone

/-! Windows of a harmonic channel (R149). -/

/-- Insert a cycle by its number. -/
def insertCycle (c : Cycle) : List Cycle → List Cycle
  | [] => [c]
  | x :: l => if c.num < x.num then c :: x :: l else x :: insertCycle c l

def Window.begin (w : Nat) : Window :=
  { num := w, cycles := [], redos := 0, mispred := 0, budget := false, timeout := false, dramErr := false, restart := false,
    beatC := 0, result := none }

/-- The window of a number, begun where there is none yet. -/
def HarmChan.window (x : HarmChan) (w : Nat) : Window := (x.windows.find? fun v => v.num == w).getD (Window.begin w)
def HarmChan.setWindow (x : HarmChan) (v : Window) : HarmChan :=
  if x.windows.any fun u => u.num == v.num then { x with windows := x.windows.map fun u => if u.num = v.num then v else u }
  else { x with windows := x.windows ++ [v] }

/-- All cycles have closed: the spectrum can be computed. -/
def Window.isClosed (v : Window) (m : Nat) : Bool := decide (m ≤ v.cycles.length)
/-- The last cycle has closed: the publication beat is fixed (R151), even where an earlier cycle is still open. -/
def Window.lastClosed (v : Window) (m : Nat) : Bool := v.cycles.any fun c => c.num % m + 1 == m
def Window.length (v : Window) : Nat := v.cycles.foldl (fun n c => n + c.len) 0
def Window.samples (v : Window) : List Samp := v.cycles.flatMap Cycle.samples
def Window.start (v : Window) : Nat := (v.cycles.head?.map Cycle.start).getD 0

/-- Has a window been published: its last cycle has been started and closed, and the window is gone (log entry 79)? -/
def HarmChan.published (x : HarmChan) (m w : Nat) : Bool :=
  decide (m * w + m ≤ x.next) && !(x.opened.any fun c => c.num + 1 == m * w + m) && !(x.windows.any fun v => v.num == w)

/-- A cycle is closed in a beat: it leaves the open ones and enters its window, b_c being the beat in which the last one
closes (R151). The window that this ends is marked where a DRAM restart lies within the last 2 s (R156). -/
def HarmChan.closeCycle (x : HarmChan) (m : Nat) (c : Cycle) (beat : Nat) (restart : Bool) : HarmChan :=
  let gone := x.published m (c.num / m)
  let x := { x with opened := x.opened.filter fun d => d.num != c.num }
  if gone then x else
  let v := x.window (c.num / m)
  let last := c.num % m + 1 == m
  let v := { v with cycles := insertCycle c v.cycles, beatC := if last then beat else v.beatC }
  x.setWindow { v with restart := v.restart || (restart && (last || v.isClosed m)) }

/-- Mark the window of a cycle, where it is not published yet. -/
def HarmChan.mark (x : HarmChan) (m num : Nat) (f : Window → Window) : HarmChan :=
  if x.published m (num / m) then x else x.setWindow (f (x.window (num / m)))

/-- A squash discards the cycles from number `n` on, and what was computed from them, in every window (R154). -/
def HarmChan.discardFrom (x : HarmChan) (m n : Nat) : HarmChan :=
  { x with opened := x.opened.filter fun d => decide (d.num < n),
           windows := (x.windows.filter fun v => decide (m * v.num ≤ n)).map fun v =>
             if m * v.num + m ≤ n then v else { v with cycles := v.cycles.filter fun d => decide (d.num < n), result := none } }

/-- A cycle closed by timeout, at its predicted length (R153). -/
def HarmChan.timeoutOldest (x : HarmChan) (m beat : Nat) (restart : Bool) : HarmChan :=
  match x.opened with
  | c :: _ =>
    ({ x.mark m c.num fun v => { v with timeout := true } with offset := 0 }).closeCycle m c beat restart
  | [] => x

/-! The resampler's cycles (R149, R153). -/

/-- The channel that analyses an input. -/
def Image.chanOf (g : Image) (i : Nat) : Option Nat := g.harmChans.find? fun j => g.harmInput j == i

/-- A cycle starts: the thirteenth closes the oldest by timeout. -/
def HarmChan.startCycle (x : HarmChan) (m start len beat : Nat) (fill restart : Bool) : HarmChan :=
  if !x.started && fill then x else
  let x := if 12 ≤ x.opened.length then x.timeoutOldest m beat restart else x
  { x with started := true, next := x.next + 1,
           opened := x.opened ++ [{ num := x.next, start := start, len := len, samples := [], shut := none }] }

/-- A cycle's 1024 samples are complete; one that was confirmed in the meantime is closed. -/
def HarmChan.formed (x : HarmChan) (m start : Nat) (samples : List Samp) (restart : Bool) : HarmChan :=
  match x.opened.find? fun c => c.start == start && c.samples.isEmpty with
  | some c =>
    let c' := { c with samples := samples }
    match c.shut with
    | some b => x.closeCycle m c' b restart
    | none => { x with opened := x.opened.map fun d => if d.num = c.num then c' else d }
  | none => x

/-- Is the ash buffer readable and written (R155)? -/
def State.ashUp (s : State) : Bool := s.running Isl.dram && s.dram.trained

/-- One PQ input at wide-stream sample `w`. -/
def pqInput (w : Nat) (s : State) (i : Nat) : State :=
  let g := s.img
  let f := s.flueAt (i / 16)
  let t := g.trkSel i
  let pred := predictedLength (g.nom60 t) (s.flueAt t).tracker
  let beat := s.damper.beat
  let restart := s.spectral.restart
  let c := (s.chainAt i).pqBegin w
  let starts := c.pqStarts w
  let fill := c.filling f
  let c := if starts then { c with rs := { c.rs with len := pred } } else c
  let s := if starts then (match g.chanOf i with
      | some j => s.updHarm j fun x => x.startCycle (g.harmM j) c.rs.start pred beat fill restart
      | none => s) else s
  let n := c.pq.length
  let c := Chain.pqFill f w 2048 c
  let s := if (c.pq.take (c.pq.length - n)).any Samp.sat then s.setFlag (flueReg (i / 16) 0x028) (i % 16) else s
  match c.pqTake with
  | some (c, start, _, samples) =>
    let s := s.updChain i fun _ => c
    match g.chanOf i with
    | some j => s.updHarm j fun x => x.formed (g.harmM j) start samples restart
    | none => s
  | none => s.updChain i fun _ => c

/-- The wide-stream sample of an input goes to the ash buffer of its channel: the last 2 s, 625 000 samples. -/
def ashInput (s : State) (j : Nat) : State :=
  match (s.chainAt (s.img.harmInput j)).wide with
  | x :: _ => s.updHarm j fun h => { h with ash := (x :: h.ash).take 625000 }
  | [] => s

/-- The spectral engine at wide-stream sample `w`. -/
def spectralFrame (w : Nat) (s : State) : State :=
  let g := s.img
  let s := ((List.range 128).filter fun i => g.enabled i && g.hasPQ i).foldl (pqInput w) s
  if s.ashUp then g.harmChans.foldl ashInput s else s

/-! Closing by measurement (R153, R154). -/

/-- Distance of a cycle's predicted end from a position. -/
def Cycle.distance (c : Cycle) (pos : Nat) : Nat := ((c.start + c.len : Nat) - (pos : Int) : Int).natAbs

/-- The open cycle whose predicted end lies nearest to a crossing, at under half its predicted length. -/
def HarmChan.nearest (x : HarmChan) (pos : Nat) : Option Cycle :=
  let l := x.opened.filter fun c => c.shut.isNone
  match l with
  | [] => none
  | c :: r =>
    let best := r.foldl (fun b d => if d.distance pos < b.distance pos then d else b) c
    if 2 * best.distance pos < best.len then some best else none

/-- The 1024 samples of a cycle resampled from the ash buffer (R154, R155). -/
def redoSamples (f : Flue) (ash : List Samp) (newest start len switchJ : Nat) (ecc : Option Word) : List Samp :=
  (List.range 1024).map fun k =>
    let p := start * 1024 + k * len
    let x := pqAt f ash switchJ p (newest - resampleBase p - 12)
    match ecc with
    | some a => { x with val := Config.ashError a k }
    | none => x

/-- The newest wide-stream sample formed by grid frame `f`. -/
def newestWide (f : Nat) : Nat := formedBefore (f + 1) - 1

/-- An uncorrectable error of the ash buffer: counted with its address, and reported (R36, R282). -/
def ashEcc (a : Word) (s : State) : State :=
  reportFault Isl.dram 0x82 0 { s with dram := { s.dram with uncorr := min (s.dram.uncorr + 1) (2 ^ 32 - 1), eccAddr := a } }

/-- Confirm a cycle as run, with the offset `e` (R154); one still being formed is closed when it is complete. -/
def HarmChan.confirm (x : HarmChan) (m : Nat) (c : Cycle) (e : Int) (beat : Nat) (restart : Bool) : HarmChan :=
  let x := { x with offset := e }
  if c.samples.isEmpty then
    { x with opened := x.opened.map fun d => if d.num = c.num then { d with shut := some beat } else d }
  else x.closeCycle m c beat restart

/-- Close cycle `c` of channel `j` by the crossing at `pos`, with measured length `lm` (R154). -/
def closeMeasured (j : Nat) (c : Cycle) (pos lm : Nat) (ecc : Option Word) (s : State) : State :=
  let g := s.img
  let i := g.harmInput j
  let m := g.harmM j
  let x := s.harmAt j
  let beat := s.damper.beat
  let restart := s.spectral.restart
  let e : Int := (c.start + c.len : Nat) - (pos : Int)
  if 5000 * e.natAbs ≤ lm then s.updHarm j fun x => x.confirm m c e beat restart
  else
    let s := { s with spectral := { s.spectral with squashes := (s.spectral.squashes + 1) % 2 ^ 32 } }
    let v := x.window (c.num / m)
    let v := { v with mispred := min (v.mispred + 1) 15 }
    let ms := pos - lm
    let newest := newestWide s.gridFrame
    let last := ms * 1024 + 1023 * lm
    let held := newest + 1 - (resampleBase (ms * 1024) - 11)
    let can := s.ashUp && !restart && decide (resampleBase last + 12 ≤ newest) && decide (held ≤ x.ash.length)
    if v.redos < 2 ∧ can ∧ x.published m (c.num / m) = false then
      let f := s.flueAt (i / 16)
      let ch := s.chainAt i
      let done : Cycle := { num := c.num, start := ms, len := lm,
                            samples := redoSamples f x.ash newest ms lm ch.rs.switchJ ecc, shut := none }
      let v := { v with redos := v.redos + 1, dramErr := v.dramErr || ecc.isSome }
      -- cycle c + 1 restarts at the measured end
      let again : Cycle := { num := c.num + 1, start := pos, len := lm, samples := [], shut := none }
      let x := (x.setWindow v).discardFrom m c.num
      let x := { x with offset := 0, next := c.num + 2, opened := x.opened ++ [again] }
      let x := x.closeCycle m done beat restart
      let s := (s.updHarm j fun _ => x).updChain i fun c =>
        { c with pq := [], rs := { c.rs with running := true, start := pos, len := lm, k := 0 } }
      let s := { s with spectral := { s.spectral with redos := (s.spectral.redos + 1) % 2 ^ 32 } }
      match ecc with | some a => ashEcc a s | none => s
    else
      let mark := fun v : Window => { v with mispred := min (v.mispred + 1) 15, budget := v.budget || v.redos == 2,
                                             restart := v.restart || (v.redos != 2 && !can) }
      s.updHarm j fun x => (x.mark m c.num mark).confirm m c e beat restart

/-- CYCLE_CLOSE: a measured crossing at `pos` has been delivered (R152 to R154). `ecc` is the address of an
uncorrectable error found in the ash buffer, if a redo reads it. -/
def execCycleClose (ch : Fin 48) (pos : Nat) (ecc : Option Word) (s : State) : Host.Outcome State Fault Refusal :=
  let g := s.img
  let t := (s.flueAt (g.trkSel (g.harmInput ch))).tracker
  if s.spectralRuns && g.harmChans.contains ch.val && t.locked && t.last == some pos then
    match (s.harmAt ch).nearest pos, t.measured with
    | some c, some lm => .next (closeMeasured ch c pos lm ecc s)
    | _, _ => .next s
  else .next s

/-- CYCLE_TIMEOUT: the resampler is about to start a thirteenth cycle (R153). -/
def execCycleTimeout (ch : Fin 48) (s : State) : Host.Outcome State Fault Refusal :=
  let x := s.harmAt ch
  if s.spectralRuns && s.img.harmChans.contains ch.val && decide (12 ≤ x.opened.length) &&
      (s.chainAt (s.img.harmInput ch)).rs.len == 0 then
    .next (s.updHarm ch fun x => x.timeoutOldest (s.img.harmM ch) s.damper.beat s.spectral.restart)
  else .next s

/-! Results (R148, R150). -/

/-- A sample in the physical unit of its input: scaled, NEG ignored; volts at the balls for KIND 0 (R148). -/
def Image.spectralValue (g : Image) (i : Nat) (v : Int) : Rat :=
  let x : Rat := (v : Rat) / (2 ^ 26 : Nat)
  if g.inKind i = 0 then x
  else x * ((g.inScale i : Nat) / (2 ^ 31 : Nat) : Rat) * pow2 (g.inExp i) * (1 + (g.inGain i : Rat) / (2 ^ 34 : Nat))

/-- The words of a window's result: frequency, length, thd40, thd127, groups, subgroups, interharmonic groups. -/
def Window.compute (v : Window) (g : Image) (j : Nat) : List Word :=
  let m := g.harmM j
  let i := g.harmInput j
  [toF32 (((m * 312500 * 2 ^ 32 : Nat) : Rat) / (v.length : Nat)), word (v.length / 2 ^ 24)] ++
    spectrumWords (v.samples.map fun x => f32 (g.spectralValue i x.val)) m

/-- HARMONIC_WINDOW_CLOSE: the spectrum of the oldest closed window is computed (R150). -/
def execHarmonicWindowClose (ch : Fin 48) (s : State) : Host.Outcome State Fault Refusal :=
  let m := s.img.harmM ch
  if s.spectralRuns && s.img.harmChans.contains ch.val then
    match (s.harmAt ch).windows.find? fun v => v.isClosed m && v.result.isNone with
    | some v => .next (s.updHarm ch fun x => x.setWindow { v with result := some (v.compute s.img ch) })
    | none => .next s
  else .next s

/-- The flags and identification of a published window (H_INFO). -/
def Window.info (v : Window) (i j : Nat) (estimated : Bool) : Word :=
  putAt j 0 ||| putAt i 8 ||| flagAt estimated 16 ||| flagAt v.budget 17 ||| flagAt v.timeout 18 ||| flagAt v.dramErr 19 |||
    flagAt v.restart 20 ||| flagAt (v.samples.any Samp.isInvalid) 21 ||| putAt v.redos 22 ||| putAt v.mispred 24

/-- HARMONIC_PUBLICATION: at the publication cycle of beat b_c + D_H (R151), b_c being the beat in which the last cycle closed; a
window that is not final, one of its earlier cycles being open or its spectrum not computed, carries ESTIMATED. -/
def execHarmonicPublication (ch : Fin 48) (s : State) : Host.Outcome State Fault Refusal :=
  let g := s.img
  let m := g.harmM ch
  if s.spectralRuns && s.ember.trigger.isNone && g.harmChans.contains ch.val then
    match (s.harmAt ch).windows.find? fun v => v.lastClosed m && decide (v.beatC + g.dH ≤ s.damper.beat) with
    | some v =>
      let est := v.budget || v.timeout || v.dramErr || v.restart || v.result.isNone
      let body := v.result.getD ((List.range 385).map fun k => Config.unfinalWord v.num k)
      let view : HarmView := { num := v.num, words := [v.info (g.harmInput ch) ch est, loWord (v.start / 2 ^ 32),
                                                       hiWord (v.start / 2 ^ 32)] ++ body }
      let s := s.updHarm ch fun x =>
        let x := { x with windows := x.windows.filter fun u => u.num != v.num, half := !x.half }
        if x.half then { x with half1 := view } else { x with half0 := view }
      .next (if est then { s with spectral := { s.spectral with estimated := (s.spectral.estimated + 1) % 2 ^ 32 } } else s)
    | none => .next s
  else .next s

/-! Supraharmonics (R157 to R160). -/

/-- One channel at the end of block `t`, the block `n` of the stream grid: 160 output samples a block, the last ten blocks. -/
def supraBlock (t : Nat) (s : State) (j : Nat) : State :=
  let g := s.img
  let i := g.supraInput j
  let n := 2 * s.spectral.base + t
  let wide := (s.chainAt i).wide
  let newest := newestWide s.gridFrame
  let value := fun k => if newest < k then 0 else (wide[newest - k]?.map fun x => g.spectralValue i x.val).getD 0
  let vals := (List.range 1600).map fun k => if 160 * (n + 1) + k < 1600 then 0 else supraSample value (160 * (n + 1) + k - 1600)
  let first := (625 * n + 3) / 4
  let bad := ((wide.drop (newest + 1 - (625 * (n + 1) + 3) / 4)).take ((625 * (n + 1) + 3) / 4 - first)).any Samp.isInvalid
  s.updSupra j fun x =>
    let old := if t % 400 = 0 then List.replicate 740 0 else x.power
    let power := (List.range 740).map fun k => old.getD k 0 + bandPower vals k
    let inv := (t % 400 != 0 && x.invalid) || bad
    if t % 400 = 399 then { x with interval := t / 400 + 1, power := [], invalid := false,
                                   ready := x.ready ++ [(t / 400, power, inv, s.spectral.restart)] }
    else { x with interval := t / 400, power := power, invalid := inv }

/-- SUPRAHARMONIC_BLOCK: a block of the stream grid has ended, and the wide-stream samples of its last output are formed (R158,
R159). -/
def execSupraharmonicBlock (s : State) : Host.Outcome State Fault Refusal :=
  let t := s.spectral.block
  if s.spectralRuns && decide (supraNeeds (160 * (2 * s.spectral.base + t) + 159) ≤ newestWide s.gridFrame) then
    let s := s.img.supraChans.foldl (supraBlock t) s
    .next { s with spectral := { s.spectral with block := t + 1 } }
  else .next s

/-- The largest `n` found by bits with 10^(2 n - 1) ≤ y. -/
def decSearch (y : Rat) : Nat → Nat → Nat
  | 0, n => n
  | k + 1, n => let t := n + 2 ^ k; decSearch y k (if ((10 ^ (2 * t - 1) : Nat) : Rat) ≤ y then t else n)

/-- 100 * 20 log10(band / 1 µ), rounded, from the square of the band value; 0 at or below 1 µ (R159). -/
def bandCode (sq : Rat) : Nat :=
  let x := sq * (10 ^ 12 : Nat)
  if x ≤ 1 then 0 else decSearch (x ^ 2000) 16 0

/-- SUPRAHARMONIC_INTERVAL_PUBLICATION: at the publication cycle of beat 200 (j + 1) + D_S (R159). -/
def execSupraharmonicIntervalPublication (ch : Fin 24) (s : State) : Host.Outcome State Fault Refusal :=
  let g := s.img
  if s.spectralRuns && s.ember.trigger.isNone && g.supraChans.contains ch.val then
    match (s.supraAt ch).ready with
    | (j, power, inv, est) :: rest =>
      if s.spectral.base + 200 * (j + 1) + g.dS ≤ s.damper.beat then
        let code := fun k => bandCode (power.getD k 0 / 400)
        let info := putAt ch 0 ||| putAt (g.supraInput ch) 8 ||| flagAt est 16 ||| flagAt inv 17 ||| putAt (g.supraPhase ch) 20
        let first := s.spectral.base * 625 / 2 + 62500 * j
        let view : HarmView := { num := j, words := [info, loWord first, hiWord first] ++
                                   (List.range 370).map fun k => putAt (code (2 * k)) 0 ||| putAt (code (2 * k + 1)) 16 }
        let s := s.updSupra ch fun x =>
          let x := { x with ready := rest, half := !x.half }
          if x.half then { x with half1 := view } else { x with half0 := view }
        .next (if est then { s with spectral := { s.spectral with estimated := (s.spectral.estimated + 1) % 2 ^ 32 } } else s)
      else .next s
    | [] => .next s
  else .next s

/-! Restarts. -/

/-- A harmonic channel from its beginning (R149): its published halves stay. -/
def HarmChan.restart (x : HarmChan) (keepAsh : Bool) : HarmChan :=
  { x with started := false, next := 0, offset := 0, opened := [], windows := [], ash := if keepAsh then x.ash else [] }
def SupraChan.restart (x : SupraChan) : SupraChan := { x with interval := 0, power := [], invalid := false, ready := [] }

/-- The harmonic channels of an engine begin again with its inputs (R149). -/
def restartHarm (h : Nat) (s : State) : State :=
  (s.img.harmChans.filter fun j => s.img.harmInput j / 16 == h).foldl (fun s j => s.updHarm j fun x => x.restart true) s

/-- The DRAM island leaves reset: the ash buffer is empty, and results carry RESTART for 2 s (R156). -/
def spectralDramStart (s : State) : State :=
  { s with spectral := { s.spectral with restart := true, harm := s.spectral.harm.map fun x => { x with ash := [] } } }

/-- SPECTRAL_RESTART_END: the 2 s have passed (R156). -/
def execSpectralRestartEnd (s : State) : Host.Outcome State Fault Refusal :=
  if s.running Isl.metro then .next { s with spectral := { s.spectral with restart := false } } else .next s

end Sys2Proof.Machine
end

