-- ==== Sys2Proof/Machine/Events.lean ====
section
/-! DEFINITION. The event detectors (R161 to R174, R437): their counts, onsets and entries, the batch of a beat and
the event queue, and the meanings of their commands. -/

namespace Sys2Proof.Machine

def State.eventsAt (s : State) (p : Nat) : PointEvents := Tab.at s.events.point p .init
def State.updEvents (s : State) (p : Nat) (f : PointEvents → PointEvents) : State :=
  { s with events := { s.events with point := Tab.upd s.events.point p f } }
def PointEvents.detector (x : PointEvents) (code : Nat) : Detector := Tab.at x.det (code - 1) .init
def PointEvents.setDetector (x : PointEvents) (code : Nat) (d : Detector) : PointEvents :=
  { x with det := Tab.upd x.det (code - 1) fun _ => d }

/-! Thresholds (R176): of the set a point names. -/

def Image.evSet (g : Image) (p w : Nat) : Word := g.thSet (fieldOf (g.pcfg p) 2 0) w
def Image.evOn (g : Image) (p code : Nat) : Bool := bitOf (g.pcfg p) (15 + code)
def Image.uNom (g : Image) (p : Nat) : Rat := ((g.evSet p 0).toNat : Nat) / (1000 : Rat)
/-- A threshold in units of 0.1 % of U_NOM, in volts; and its square. -/
def Image.perMil (g : Image) (p n : Nat) : Rat := g.uNom p * ((n : Nat) : Rat) / 1000
def Image.perMilSq (g : Image) (p n : Nat) : Rat := g.perMil p n * g.perMil p n

/-- The voltage positions that a point's type fills (R437). -/
def Image.voltPositions (g : Image) (p : Nat) : List Nat :=
  match g.pType p with | 1 => [4, 5, 6] | 2 => [4, 5] | 3 => [4] | _ => []
def maskOfPositions (l : List Nat) : Nat := l.foldl (fun m q => setBitN m q true) 0

/-! Detectors. -/

/-- One step of a detector: `hit` counts towards its start, `clear` towards its end. Answers what it declares: 0 a
start, 1 an end. -/
def Detector.advance (d : Detector) (minStart minEnd : Nat) (hit clear : Bool) (onset : Nat) (value : Rat)
    (pick : Rat → Rat → Rat) (pos : Nat) : Detector × Option Nat :=
  if d.isOpen then
    let d := { d with extreme := pick d.extreme value, posmask := if hit then d.posmask ||| pos else d.posmask }
    if !clear then ({ d with clear := 0 }, none)
    else if minEnd ≤ d.clear + 1 then ({ d with isOpen := false, count := 0, clear := 0 }, some 1)
    else ({ d with clear := d.clear + 1 }, none)
  else if !hit then ({ d with count := 0 }, none)
  else
    let d := if d.count = 0 then { d with onset := onset, extreme := value, posmask := pos }
             else { d with extreme := pick d.extreme value, posmask := d.posmask ||| pos }
    if minStart ≤ d.count + 1 then ({ d with isOpen := true, count := 0, clear := 0 }, some 0)
    else ({ d with count := d.count + 1 }, none)

def pickMax (a b : Rat) : Rat := if a < b then b else a
def pickMin (a b : Rat) : Rat := if b < a then b else a

/-- VALUE of an entry from what its detector holds (R161): voltages and ratios stand squared. -/
def eventValue (code : Nat) (x : Rat) : Word :=
  if code = 1 ∨ code = 10 then 0
  else if code = 2 ∨ code = 3 ∨ code = 4 ∨ code = 5 ∨ code = 8 then toF32 (ratRoot x) else toF32 x

def sat32 (n : Nat) : Nat := min n (2 ^ 32 - 1)

/-- An entry joins the batch of its beat (R173). -/
def addEntry (e : EventEntry) (s : State) : State := { s with events := { s.events with batch := s.events.batch ++ [e] } }

/-- A started event flags the open session of its point (R169). -/
def flagOpen (p code : Nat) (s : State) : State :=
  match openOf s p with
  | some k => s.updSession k fun x => { x with nextFlags := x.nextFlags ||| eventFlag code }
  | none => s

/-- Declare the start (kind 0), the end (1) or the truncation (3) of an event at `ts` (R171). -/
def declare (p code kind : Nat) (d : Detector) (ts pos : Nat) (s : State) : State :=
  let last := (s.eventsAt p).lastBad
  let dur := if kind = 0 then 0 else if code = 10 ∧ kind = 1 then last - d.onset else ts - d.onset
  let e : EventEntry := { qseq := 0, type := code, kind := kind, point := p, posmask := pos, ts := ts,
                          onsetBack := sat32 (ts - d.onset), duration := sat32 dur, value := eventValue code d.extreme }
  addEntry e (if kind = 0 then flagOpen p code s else s)

/-- Run a detector and declare what it finds. `startPos` is the mask of a START entry. -/
def runDetector (p code minStart minEnd : Nat) (hit clear : Bool) (onset ts : Nat) (value : Rat) (pick : Rat → Rat → Rat)
    (pos : Nat) (s : State) : State :=
  let (d, out) := ((s.eventsAt p).detector code).advance minStart minEnd hit clear onset value pick pos
  let s := s.updEvents p fun x => x.setDetector code d
  match out with
  | some 0 => declare p code 0 d ts pos s
  | some k => declare p code k d ts d.posmask s
  | none => s

/-! Urms(1/2): sag, swell, interruption (R162). -/

/-- A wide-stream value in the unit of its input (R113). -/
def Image.wideValue (g : Image) (i : Nat) (v : Int) : Rat :=
  (v : Rat) / (2 ^ 26 : Nat) * ((g.inScale i : Nat) / (2 ^ 31 : Nat) : Rat) * pow2 (g.inExp i) * (1 + (g.inGain i : Rat) / (2 ^ 34 : Nat))

/-- The window length of a point: the last locked length of its tracker, else the nominal one, rounded. -/
def urmsLength (s : State) (p : Nat) : Nat :=
  let t := s.img.pTrk p
  (roundEven (((predictedLength (s.img.nom60 t) (s.flueAt t).tracker : Nat) : Rat) / (2 ^ 32 : Nat))).toNat

/-- The square of Urms(1/2) at position `q`, over the `n` samples that end `late` samples before the newest. -/
def urmsSquare (s : State) (p q late n : Nat) : Rat :=
  match s.img.posIn p q with
  | some i => sumRat ((((s.chainAt i).wide.drop late).take n).map fun x =>
      let v := s.img.wideValue i x.val; v * v) / (n : Nat)
  | none => 0

/-- The three detectors on an evaluation at wide-stream sample `ts`. -/
def judgeUrms (p ts : Nat) (s : State) : State :=
  let g := s.img
  let u := (s.eventsAt p).urmsSq
  let vs := g.voltPositions p
  let sq := fun q => Tab.at u (q - 4) 0
  let lowest := vs.foldl (fun m q => pickMin m (sq q)) (sq 4)
  let highest := vs.foldl (fun m q => pickMax m (sq q)) (sq 4)
  let vlim := g.evSet p 1
  let vint := g.evSet p 2
  let vmin := g.evSet p 3
  let hyst := fieldOf vint 23 16
  let sag := fieldOf vlim 10 0
  let swell := fieldOf vlim 26 16
  let int := fieldOf vint 10 0
  let low := vs.filter fun q => decide (sq q < g.perMilSq p sag)
  let high := vs.filter fun q => decide (g.perMilSq p swell < sq q)
  let s := if g.evOn p 3 then runDetector p 3 (fieldOf vmin 7 0) 1 (!low.isEmpty)
      (vs.all fun q => decide (g.perMilSq p (sag + hyst) ≤ sq q)) ts ts lowest pickMin (maskOfPositions low) s else s
  let s := if g.evOn p 4 then runDetector p 4 (fieldOf vmin 15 8) 1 (!high.isEmpty)
      (vs.all fun q => decide (sq q ≤ g.perMilSq p (swell - hyst))) ts ts highest pickMax (maskOfPositions high) s else s
  if g.evOn p 5 then runDetector p 5 (fieldOf vmin 23 16) 1 (vs.all fun q => decide (sq q < g.perMilSq p int))
      (vs.any fun q => decide (g.perMilSq p (int + hyst) ≤ sq q)) ts ts lowest pickMin (maskOfPositions vs) s else s

/-- URMS_EVALUATION: the next evaluation of a point, once its last sample has been formed. -/
def execUrmsEvaluation (p : Fin 32) (s : State) : Host.Outcome State Fault Refusal :=
  let g := s.img
  let x := s.eventsAt p
  let newest := newestWide s.gridFrame
  if s.metering && g.isAC p && x.urmsNext != 0 && decide (x.urmsNext ≤ newest) then
    let n := urmsLength s p
    let step := if x.urmsHalf then n - n / 2 else n / 2
    let sq := fun q => urmsSquare s p q (newest - x.urmsNext) n
    let s := s.updEvents p fun x => { x with urmsSq := #v[sq 4, sq 5, sq 6], urmsDone := true, urmsHalf := !x.urmsHalf,
                                             urmsNext := x.urmsNext + step }
    .next (judgeUrms p x.urmsNext s)
  else .next s

/-- The first evaluation of a point falls due one window after its detectors begin. -/
def scheduleUrms (w : Nat) (s : State) (p : Nat) : State :=
  if s.img.isAC p && (s.eventsAt p).urmsNext == 0 then
    let n := urmsLength s p
    s.updEvents p fun x => { x with urmsNext := w + n }
  else s

/-! Crossings of the fundamental (R163, R164). -/

/-- A billing sample of an AC point has been taken: its fundamental outputs. -/
def noteSample (f : Nat) (s : State) (p : Nat) : State :=
  match Preset.ofCode (s.img.pPreset p) with
  | some pr =>
    if s.img.isAC p && pr.dueIn f then
      let o := (s.pointAt p).fundOut
      let v := (o[4] + o[5] + o[6]) / 3
      s.updEvents p fun x => { x with f4Prev := x.f4Now, f4Now := o[4], fresh := true, lastTs := pr.instant f,
                                      u0Sq := x.u0Sq + v * v, u0Last := v * v, u0N := x.u0N + 1 }
    else s
  | none => s

/-- The judgement of a crossing: 1 correct, 2 reversed, 0 indeterminate (R163). -/
def judgeCrossing (s : State) (p : Nat) : Nat :=
  let g := s.img
  let o := (s.pointAt p).fundOut
  let u := (s.eventsAt p).urmsSq
  let weak := (g.voltPositions p).any fun q => decide (Tab.at u (q - 4) 0 < g.perMilSq p 500)
  if weak then 0
  else if g.pType p = 1 then (if o[5] < 0 ∧ 0 < o[6] then 1 else if 0 < o[5] ∧ o[6] < 0 then 2 else 0)
  else if g.pType p = 2 then (if 0 < o[5] then 1 else if o[5] < 0 then 2 else 0)
  else 0

/-- The missing-neutral condition of the cycle that ends (R164). -/
def neutralHit (s : State) (p : Nat) (u0Sq : Rat) : Bool :=
  let g := s.img
  let th := g.evSet p 7
  let u := (s.eventsAt p).urmsSq.toList.map ratRoot
  let hi := u.foldl pickMax 0
  let lo := u.foldl pickMin (u.headD 0)
  let mean := sumRat u / 3
  decide (g.perMilSq p (fieldOf th 10 0) < u0Sq) && decide (((fieldOf th 26 16 : Nat) : Rat) / 1000 * mean < hi - lo)

/-- FUNDAMENTAL_CROSSING: the last billing sample took f4 from negative to zero or positive (R163, R164). -/
def execFundamentalCrossing (p : Fin 32) (s : State) : Host.Outcome State Fault Refusal :=
  let g := s.img
  let x := s.eventsAt p
  if s.metering && g.isAC p && x.fresh && decide (x.f4Prev < 0) && decide (0 ≤ x.f4Now) then
    let pos := maskOfPositions (g.voltPositions p)
    let n := fieldOf (g.evSet p 6) 15 8
    let judged := judgeCrossing s p
    let s := if g.evOn p 1 && (g.pType p == 1 || g.pType p == 2) then
        runDetector p 1 5 5 (judged == 2) (judged == 1) x.lastTs x.lastTs 0 pickMax pos s else s
    let sq := (x.u0Sq - x.u0Last) / ((x.u0N - 1 : Nat) : Rat)
    let hit := neutralHit s p sq
    let s := if g.evOn p 2 && g.pType p == 1 && x.u0Run then
        runDetector p 2 n n hit (!hit) x.lastTs x.lastTs sq pickMax pos s else s
    .next (s.updEvents p fun x => { x with fresh := false, u0Run := true, u0Sq := x.u0Last, u0N := 1 })
  else .next s

/-! Frequency (R165). -/

/-- How far a frequency lies outside the band, in Hz; negative inside. -/
def outside (lo hi f : Rat) : Rat := pickMax (lo - f) (f - hi)

/-- One cycle of a point's tracker for FREQ_OUT: its frequency, and whether it counts towards the end. -/
def judgeFreq (ts : Nat) (f : Rat) (locked : Bool) (s : State) (p : Nat) : State :=
  let g := s.img
  let lo : Rat := ((fieldOf (g.evSet p 4) 16 0 : Nat) : Rat) / 1000
  let hi : Rat := ((fieldOf (g.evSet p 5) 16 0 : Nat) : Rat) / 1000
  let n := fieldOf (g.evSet p 6) 7 0
  if g.evOn p 6 && g.isAC p then
    let out := decide (f < lo) || decide (hi < f)
    runDetector p 6 n n out (!out && locked) ts ts f (fun a b => if outside lo hi a < outside lo hi b then b else a) 0 s
  else s

/-- The points that follow a tracker. -/
def trackerPoints (g : Image) (t : Nat) : List Nat := (List.range 32).filter fun p => g.isAC p && g.pTrk p == t

/-- A tracker reports the crossing at `pos` (units of 2^-32 wide-stream sample; R96, R152, R165). A cycle counts for FREQ_OUT
where the tracker is locked after it or was before it. -/
def reportCrossing (t pos : Nat) (s : State) : State :=
  let old := (s.flueAt t).tracker
  let new := old.cross pos
  let s := s.updFlue t fun f => { f with tracker := new }
  if s.metering && old.last.isSome && (old.locked || new.locked) then
    let len := new.measured.getD 0
    let f : Rat := ((312500 * 2 ^ 32 : Nat) : Rat) / (len : Nat)
    (trackerPoints s.img t).foldl (judgeFreq (pos / 2 ^ 32) f new.locked) s
  else s

/-- TRACKER_CROSSING: the crossing at `pos` that tracker `t` has placed in its filtered stream is reported; one that does not
lie after the crossing before it is dropped (R96). -/
def execTrackerCrossing (t : Fin 8) (pos : Nat) (s : State) : Host.Outcome State Fault Refusal :=
  let x := (s.flueAt t).tracker
  if s.engineRunning && s.img.trkEn t && x.found.contains pos then
    let s := s.updFlue t fun f => { f with tracker := { x with found := x.found.filter fun p => pos < p } }
    .next (if x.last.all fun p => decide (p < pos) then reportCrossing t pos s else s)
  else .next s

/-- While a point's tracker is unlocked, each nominal period that passes counts, with 0 Hz (R165). -/
def nominalTick (w : Nat) (s : State) (p : Nat) : State :=
  let g := s.img
  if !g.isAC p then s else
  let t := (s.flueAt (g.pTrk p)).tracker
  let nom := nominalLength (g.nom60 (g.pTrk p))
  let x := s.eventsAt p
  if t.locked then s.updEvents p fun x => { x with tick := 0 }
  else if nom ≤ x.tick + 2 ^ 32 then judgeFreq w 0 false (s.updEvents p fun x => { x with tick := x.tick + 2 ^ 32 - nom }) p
  else s.updEvents p fun x => { x with tick := x.tick + 2 ^ 32 }

/-! Overrange (R56, R92, R167). -/

/-- OVERRANGE: the main converter clamps input `i` in this frame: OVR and NSUSP in the hearth, and the INVALID span of
the flue. The event begins with the first INVALID sample. -/
def clampInput (h i : Nat) (s : State) : State :=
  let s := markOver h i s
  if s.running Isl.flue then s.updChain (16 * h + i) fun c => { c with clampLeft := 24 } else s

def execOverrange (h : Fin 8) (i : Fin 16) (s : State) : Host.Outcome State Fault Refusal :=
  if s.hearthRunning && (s.img.mask h).testBit i then .next (clampInput h i s) else .next s

/-- Is `w` the last wide-stream sample whose represented instant lies in its beat? -/
def lastOfBeat (w : Nat) : Bool := 32 * w / 10000 != 32 * (w + 1) / 10000

/-- The INVALID marks of wide-stream sample `w` on a point's inputs, fills apart. -/
def overrangeWide (w : Nat) (s : State) (p : Nat) : State :=
  let g := s.img
  if !g.isUsed p then s else
  let bad := (List.range 7).filter fun q => match g.posIn p q with
    | some i => g.enabled i && (match (s.chainAt i).wide with | x :: _ => x.invalid && !x.fill | [] => false)
    | none => false
  let mask := maskOfPositions bad
  let x := s.eventsAt p
  let d := x.detector 10
  let s :=
    if mask = 0 then s
    else if d.isOpen then
      s.updEvents p fun x => { x.setDetector 10 { d with posmask := d.posmask ||| mask } with lastBad := w }
    else
      let d : Detector := { isOpen := true, count := 0, clear := 0, onset := w, extreme := 0, posmask := mask }
      declare p 10 0 d w mask (s.updEvents p fun x => { x.setDetector 10 d with lastBad := w })
  let x := s.eventsAt p
  let d := x.detector 10
  if d.isOpen && lastOfBeat w && decide (32 * x.lastBad / 10000 < 32 * w / 10000) then
    declare p 10 1 d w d.posmask (s.updEvents p fun x => x.setDetector 10 { d with isOpen := false })
  else s

/-! Beats of DC points (R124, R166). -/

/-- The square of the ratio of ripple to mean; a mean of 0 leaves it open. -/
def rippleRatioSq (rip mean : Rat) : Rat := if mean = 0 then Config.rippleAtZero rip else rip / (mean * mean)

def absRat (x : Rat) : Rat := if x < 0 then -x else x

/-- The SENSE_FAIL condition of a beat. -/
def senseFails (g : Image) (p : Nat) (a : BeatAcc) : Bool :=
  let n : Rat := (a.n : Nat)
  let d := (a.vSum - a.vsSum) / n
  let im := a.iSum / n
  let tol : Rat := ((g.evSet p 10).toNat : Nat) / (1000 : Rat)
  let rmax : Rat := ((g.evSet p 11).toNat : Nat) / (1000000000 : Rat)
  let imin : Rat := ((g.evSet p 12).toNat : Nat) / (1000 : Rat)
  let sign : Rat := if im < 0 then -1 else if 0 < im then 1 else 0
  a.vsBad || (if imin ≤ absRat im then decide (d * sign < -tol) || decide (absRat im * rmax + tol < absRat d)
              else decide (tol < absRat d))

/-- The beat that has ended, of a DC point: DC_REVERSE, DC_RIPPLE, SENSE_FAIL, with the fallback that the beat's
delivered energy uses (R126). -/
def judgeDc (g : Image) (s : State) (p : Nat) : State :=
  let a := (s.pointAt p).closing
  if !(g.isDC p && 0 < a.n) then s else
  let n : Rat := (a.n : Nat)
  let im := a.iSum / n
  let vm := a.vSum / n
  let rip := a.sq[4] / n - vm * vm
  let cnt := g.evSet p 6
  let th : Rat := ((g.evSet p 8).toNat : Nat) / (1000 : Rat)
  let ripTh : Rat := ((fieldOf (g.evSet p 9) 15 0 : Nat) : Rat) / 10000
  let rev := decide (im < -th)
  let s := if g.evOn p 7 then
      runDetector p 7 (fieldOf cnt 23 16) (fieldOf cnt 23 16) rev (!rev) a.firstTs a.lastTs im pickMin 0x01 s else s
  let rpl := decide (ripTh * ripTh * (vm * vm) < rip)
  let s := if g.evOn p 8 then
      runDetector p 8 (fieldOf cnt 31 24) (fieldOf cnt 31 24) rpl (!rpl) a.firstTs a.lastTs (rippleRatioSq rip vm) pickMax 0x10 s else s
  if g.pComp p = 1 then
    let fail := senseFails g p a
    let was := ((s.eventsAt p).detector 9).isOpen
    let s := runDetector p 9 1 (fieldOf (g.evSet p 13) 7 0) fail (!fail) a.firstTs a.lastTs
      (absRat ((a.vSum - a.vsSum) / n)) pickMax 0x30 s
    s.updPoint p fun pt => { pt with closing := { pt.closing with senseFb := was || fail } }
  else s

/-! Witness (R168). -/

/-- A failed dwell of a global input in a beat: one entry for each point that uses it, or one for no point. -/
def witnessEvents (g : Image) (i beat meanAbs : Nat) (s : State) : State :=
  let ts := (10000 * (beat + 1) - 1) / 32
  let e := fun p : Nat => ({ qseq := 0, type := 11, kind := 2, point := p, posmask := i, ts := ts, onsetBack := 0, duration := 0,
                             value := toF32 (((meanAbs : Nat) : Rat) / 16) } : EventEntry)
  match (List.range 32).filter fun p => g.usesInput p i with
  | [] => addEntry (e 0x3F) s
  | ps => ps.foldl (fun s p => addEntry (e p) s) s

/-! Truncation (R170). -/

/-- Every open event of a point ends at the round boundary that begins beat `b`, and its counts start again. -/
def truncateEvents (b : Nat) (s : State) (p : Nat) : State :=
  let ts := (10000 * b - 1) / 32
  let x := s.eventsAt p
  let s := (List.range 10).foldl (fun s k =>
    let d := x.detector (k + 1)
    if d.isOpen then declare p (k + 1) 3 d ts d.posmask s else s) s
  s.updEvents p fun _ => PointEvents.init

/-! The queue (R171, R173). -/

/-- The order of a batch: TS, POINT, TYPE, KIND. -/
def EventEntry.before (a b : EventEntry) : Bool :=
  if a.ts ≠ b.ts then decide (a.ts < b.ts) else if a.point ≠ b.point then decide (a.point < b.point)
  else if a.type ≠ b.type then decide (a.type < b.type) else decide (a.kind < b.kind)
def insertEntry (e : EventEntry) : List EventEntry → List EventEntry
  | [] => [e]
  | x :: l => if e.before x then e :: x :: l else x :: insertEntry e l

/-- An entry enters the queue: the next QSEQ; the oldest unread one is overwritten when 1024 are unread (R29). -/
def pushEntry (s : State) (e : EventEntry) : State :=
  let v := s.events
  let q := (v.qseq + 1) % 2 ^ 32
  let left := min (v.unread + 1) 1024
  { s with events := { v with qseq := q, slots := Sparse.insert (Sparse.drop v.slots ((q + 2 ^ 32 - 1) % 1024)) ((q + 2 ^ 32 - 1) % 1024)
                                                    { e with qseq := q },
                              unread := left, qrd := (q + 2 ^ 32 - left) % 1024,
                              overflow := if v.unread = 1024 then sat32 (v.overflow + 1) else v.overflow } }

/-- The batch of a beat: entries whose TS lies four beats back. -/
def batchOf (s : State) (beat : Nat) : List EventEntry :=
  (s.events.batch.filter fun e => decide (32 * e.ts / 10000 + 4 ≤ beat)).foldl (fun l e => insertEntry e l) []

/-- An END, END_TRUNC or WITNESS_MISMATCH entry of a point makes an EVENT record of its open session fall due (R233). -/
def eventRecord (s : State) (e : EventEntry) : State :=
  if e.kind = 0 then s else
  match openOf s e.point with
  | some k =>
    let detail := leBytes 1 e.type ++ leBytes 1 e.kind ++ leBytes 1 e.posmask ++ leBytes 8 e.ts ++ leBytes 4 e.onsetBack ++
      leBytes 4 e.duration ++ leBytes 4 e.value.toNat
    addDue (sessionRecord s .event k s.damper.beat detail none) s
  | none => s

/-- The batch enters the queue at the publication cycle. -/
def publishEvents (s : State) : State :=
  let l := batchOf s s.damper.beat
  let s := { s with events := { s.events with batch := s.events.batch.filter fun e => !decide (32 * e.ts / 10000 + 4 ≤ s.damper.beat) } }
  l.foldl (fun s e => eventRecord (pushEntry s e) { e with qseq := 0 }) s

/-! Reads (R178). -/

/-- EVENT_TB_BEAT_LO_READ freezes the other time-base words; with `hi`, the read of EVENT_TB_SEC_HI that releases
them. -/
def execEventTbBeatLoRead (hi : Bool) (s : State) : Host.Outcome State Fault Refusal :=
  .next (readRow Isl.metro s fun s =>
    let v := s.events
    let now : Word × Word × Word × Word := (hiWord v.tbBeat, word v.tbSub, loWord v.tbSec, hiWord v.tbSec)
    if hi then { s.readBack (v.shadow.getD now).2.2.2 with events := { v with shadow := none } }
    else { s.readBack (loWord v.tbBeat) with events := { v with shadow := some now } })

end Sys2Proof.Machine
end

