-- ==== Sys2Proof/Machine/Captures.lean ====
section
/-! DEFINITION. Captures (R272): arming, the trigger, what a running capture writes, and its end. -/

namespace Sys2Proof.Machine

def State.captureAt (s : State) (n : Nat) : Option Capture := Tab.at s.host.captures n none
def State.setCapture (s : State) (n : Nat) (c : Option Capture) : State :=
  s.updHost fun h => { h with captures := Tab.upd h.captures n fun _ => c }

/-! Streams. -/

/-- The stream index of the sample of a preset that is delivered in grid frame `due` (R85). -/
def Preset.index (p : Preset) (due : Nat) : Nat := p.instant due / (p.frames / 32)

/-- The index of the next sample of a capture's stream to be formed. -/
def nextIndex (s : State) (source preset : Nat) : Nat :=
  let w := formedBefore (s.gridFrame + 1)
  match source, Preset.ofCode preset with
  | 1, some p => ((List.range 40).findSome? fun k => (p.formed (w + k)).map p.index).getD 0
  | _, _ => w

/-- The sample of a capture's stream that was formed with wide-stream sample `w`, with its index. -/
def Capture.sample (c : Capture) (s : State) (w : Nat) : Option (Nat × Samp) :=
  match c.source, Preset.ofCode c.preset with
  | 1, some p => (p.formed w).bind fun due =>
      ((s.chainAt c.input).due.find? fun d => d.preset == p && d.due == due).map fun d => (p.index due, d.samp)
  | _, _ => (s.chainAt c.input).wide.head?.map fun x => (w, x)

/-! Writing. -/

/-- A DATA entry for each 4 KiB of buffer written. -/
def Capture.span (n : Nat) (c : Capture) : CapEntry :=
  { cap := n, isEnd := false, cause := 0, flags := c.flags, offset := c.spanOff, len := 4 * c.taken - c.spanOff, first := c.first,
    stop := none }

/-- A running capture is offered the sample of stream index `idx`, with the outcome of its write. Where the windows cannot carry the
stream, or the device can issue no request, the capture ends with an overrun; a write that fails ends it with cause 4 (R272, R275;
log entry 80). -/
def captureTake (out : CapWrite) (n idx : Nat) (x : Samp) (s : State) : State :=
  match s.captureAt n with
  | none => s
  | some c =>
    if !c.begun || idx < c.next then s
    else if !(canDma s) || out == .overrun then endCapture n 2 s
    else if out == .failed then transferError 4 18 (endCapture n 4 s)
    else
      let c := { c with first := if 4 * c.taken = c.spanOff then idx else c.first }
      let s := s.dmaWrite (c.addr + 4 * c.taken) (leBytes 4 x.toWord.toNat)
      let c := { c with taken := c.taken + 1, next := idx + 2 ^ c.decim,
                        flags := c.flags ||| (if x.isInvalid then 1 else 0) ||| (if x.sat then 2 else 0) }
      let full := decide (4 * c.taken = c.spanOff + 4096)
      let s := if full then s.updHost fun h => { h with capq := h.capq ++ [c.span n] } else s
      let c := if full then { c with spanOff := 4 * c.taken, flags := 0, first := c.next } else c
      let s := s.setCapture n (some c)
      if c.taken = c.count then endCapture n 0 s else s

/-- An ash extract takes what the buffer of its channel holds from its next sample up to the newest one, `w` (log entry 83). -/
def captureAsh (out : CapWrite) (n j w : Nat) (c : Capture) (s : State) : State :=
  let ash := (s.harmAt j).ash
  (List.range (w + 1 - c.next)).foldl (fun s k =>
    match ash[w - (c.next + k)]? with
    | some x => captureTake out n (c.next + k) x s
    | none => s) s

/-- A capture at wide-stream sample `w`. -/
def captureOne (caps : List CapWrite) (w : Nat) (s : State) (n : Nat) : State :=
  let out := caps.getD n .carried
  match s.captureAt n with
  | some c => match c.source, s.img.chanOf c.input, c.sample s w with
    | 2, some j, _ => captureAsh out n j w c s
    | 2, none, _ => s
    | _, _, some (idx, x) => captureTake out n idx x s
    | _, _, none => s
  | none => s
/-- Every capture at wide-stream sample `w`. -/
def captureFrame (caps : List CapWrite) (w : Nat) (s : State) : State := (List.range 4).foldl (captureOne caps w) s

/-- Does a capture's stream still exist under an image? -/
def Capture.alive (c : Capture) (g : Image) : Bool :=
  g.enabled c.input &&
    (match c.source with
     | 1 => (match Preset.ofCode c.preset with | some p => (g.streams c.input).testBit p.streamBit | none => false)
     | 2 => (g.chanOf c.input).isSome
     | _ => true)
/-- An image activation ends the captures whose stream or input it removes. -/
def captureSwap (s : State) : State :=
  (List.range 4).foldl (fun s n =>
    match s.captureAt n with
    | some c => if c.alive s.img then s else endCapture n 3 s
    | none => s) s

/-! Meanings. -/

/-- An image with a window for captures (R197). -/
def Image.hasCaptureWin (g : Image) : Bool := (List.range (min g.nWin 32)).any fun n => (g.winUse n).testBit 2

/-- The conditions of R272 on a CAPTURE_START, in its order (log entry 81): status and detail of the first that fails. -/
def captureFault (s : State) (d : Inflight) : Option (Nat × Nat) :=
  let g := s.img
  let i := d.op 21 1
  let start := d.op 32 8
  let stream := match Preset.ofCode (d.op 22 1) with | some p => (g.streams i).testBit p.streamBit | none => false
  let newest := newestWide s.gridFrame
  let held := match g.chanOf i with | some j => (s.harmAt j).ash.length | none => 0
  if s.host.captures.toList.all Option.isSome then some (0x06, 3)
  else if !(g.enabled i) then some (0x02, 21)
  else if d.op 20 1 = 1 ∧ !stream then some (0x02, 22)
  else if d.op 20 1 = 2 ∧ (g.chanOf i).isNone then some (0x02, 21)
  else if d.op 20 1 = 2 ∧ 625000 < d.op 24 4 then some (0x02, 24)
  else if d.op 20 1 = 2 ∧ (newest < start ∨ start + held < newest + 1) then some (0x02, 32)
  else if !g.hasCaptureWin then some (0x0E, 0)
  else none

/-- CAPTURE_START: the capture is armed in the first free slot. -/
def execCaptureStart (ord : Nat) (s : State) : Host.Outcome State Fault Refusal :=
  withDescriptor [Opc.captureStart] ord s fun d =>
    match captureFault s d, (List.range 4).find? fun n => (s.captureAt n).isNone with
    | some (st, det), _ => s.finishFail ord st det
    | none, none => s
    | none, some n =>
      let source := d.op 20 1
      let now := nextIndex s source (d.op 22 1)
      let start := if source = 2 then d.op 32 8 else if d.op 28 1 = 1 then max (d.op 32 8) now else now
      let c : Capture :=
        { source := source, input := d.op 21 1, preset := d.op 22 1, decim := d.op 23 1, count := d.op 24 4,
          addr := d.bufAddr, start := start, begun := source == 2 || d.op 28 1 == 0, next := start, taken := 0, spanOff := 0,
          first := start, flags := 0, stopOrd := none }
      (s.setCapture n (some c)).finishOk ord (leBytes 1 n ++ zeros 7 ++ leBytes 8 start)

/-- CAPTURE_TRIGGER: the stream of a capture armed with TRIGGER 1 has reached START_INDEX. -/
def execCaptureTrigger (n : Fin 4) (s : State) : Host.Outcome State Fault Refusal :=
  match s.captureAt n with
  | some c =>
    if !c.begun && decide (c.start ≤ nextIndex s c.source c.preset) then .next (s.setCapture n (some { c with begun := true }))
    else .next s
  | none => .next s

/-- CAPTURE_STOP: the capture ends; the descriptor completes once the END entry is on CAPQ. With no capture in the
slot it completes at once (log entry 82). -/
def execCaptureStop (ord : Nat) (s : State) : Host.Outcome State Fault Refusal :=
  withDescriptor [Opc.captureStop] ord s fun d =>
    let n := d.op 20 1
    match s.captureAt n with
    | some c => (endCapture n 1 (s.setCapture n (some { c with stopOrd := some ord }))).setPhase ord .working
    | none => s.finishOk ord (leBytes 4 0)

end Sys2Proof.Machine
end

