-- ==== Sys2Proof/Machine/LinkCode.lean ====
section
/-! DEFINITION. The coding of Penad frames (R370 to R373, R375): header with CRC-6, convolutional code,
Reed-Solomon code, interleaving, segmentation, and their decoding. -/

namespace Sys2Proof.Machine

/-! Header (R371). -/

/-- CRC-6, polynomial x^6 + x + 1, initial value 0, over bits from bit 0 upwards. -/
def crc6Step (c : Nat) (b : Bool) : Nat :=
  let c' := (c * 2) % 64
  if c.testBit 5 != b then c' ^^^ 3 else c'
def crc6 (h : Nat) : Nat := (List.range 22).foldl (fun c i => crc6Step c (h.testBit i)) 0

def Hdr.dir (h : Nat) : Bool := h.testBit 0
def Hdr.addr (h : Nat) : Nat := h / 2 % 32
def Hdr.kind (h : Nat) : Nat := h / 64 % 8
def Hdr.robust (h : Nat) : Bool := h.testBit 9
def Hdr.psym (h : Nat) : Nat := h / 1024 % 64
def Hdr.seg (h : Nat) : Nat := h / 65536 % 4
def Hdr.nseg (h : Nat) : Nat := h / 262144 % 4
def Hdr.crcOk (h : Nat) : Bool := h / 2 ^ 22 % 64 == crc6 h

/-- A header with its CRC-6. -/
def Hdr.make (dir : Bool) (addr kind : Nat) (robust : Bool) (psym seg nseg : Nat) (toggle resync : Bool) : Nat :=
  let b := fun (x : Bool) (n : Nat) => if x then 2 ^ n else 0
  let h := b dir 0 + addr * 2 + kind * 64 + b robust 9 + psym * 1024 + seg * 65536 + nseg * 262144 + b toggle 20 + b resync 21
  h + crc6 h * 2 ^ 22

/-! Convolutional code (R372): constraint length 7, generators 133 and 171 octal, 133 first, zero state. -/

def parity (n : Nat) : Bool := ((List.range 7).filter fun i => n.testBit i).length % 2 == 1
def convStep (st : Nat) (b : Bool) : Nat × List Bool :=
  let r := st + if b then 64 else 0
  (r / 2, [parity (r &&& 0o133), parity (r &&& 0o171)])
def convEncode : Nat → List Bool → List Bool
  | _, [] => []
  | st, b :: bs => let (st', out) := convStep st b; out ++ convEncode st' bs

/-- The 70 coded bits of a header: 28 bits, 6 tail zeros, one further zero. -/
def headerBits (h : Nat) : List Bool :=
  convEncode 0 ((List.range 28).map (fun i => h.testBit i) ++ List.replicate 7 false)

/-! Reed-Solomon (255, 239) over GF(2^8), primitive polynomial 0x11D, roots α^0 to α^15. -/

def gfDouble (a : Nat) : Nat := let d := a * 2; if d < 256 then d else (d ^^^ 0x11D) % 256
def gfMul (a b : Nat) : Nat :=
  ((List.range 8).foldl (fun (acc : Nat × Nat) i =>
    ((if b.testBit i then acc.1 ^^^ acc.2 else acc.1), gfDouble acc.2)) (0, a)).1
def gfPow (n : Nat) : Nat := (List.range n).foldl (fun a _ => gfDouble a) 1
/-- Multiply a polynomial (highest power first) by (x + r). -/
def polyStep (p : List Nat) (r : Nat) : List Nat :=
  (p ++ [0]).zipWith (fun a b => a ^^^ b) (0 :: p.map fun c => gfMul c r)
/-- The generator polynomial, highest power (x^16, coefficient 1) first. -/
def rsGen : List Nat := (List.range 16).foldl (fun p i => polyStep p (gfPow i)) [1]
/-- One byte through the division: the 16-byte remainder. -/
def rsStep (rem : List Nat) (b : Nat) : List Nat :=
  let f := (rem.headD 0) ^^^ b
  ((rem.drop 1) ++ [0]).zipWith (fun a g => a ^^^ gfMul f g) (rsGen.drop 1)
def rsParity (data : List Nat) : List Nat := data.foldl rsStep (List.replicate 16 0)

/-! Segments (R372, R377). -/

def segMax (robust : Bool) : Nat := if robust then 97 else 215
def segBits (robust : Bool) : Nat := if robust then 35 else 70
def segCount (len : Nat) (robust : Bool) : Nat := max 1 ((len + segMax robust - 1) / segMax robust)
def segData (msg : List Byte) (robust : Bool) (n : Nat) : List Byte := (msg.drop (segMax robust * n)).take (segMax robust)
/-- P of a segment of `d` data bytes. -/
def psymOf (d : Nat) (robust : Bool) : Nat :=
  let coded := 2 * (8 * (d + 20) + 6)
  max 27 ((coded + segBits robust - 1) / segBits robust)

/-- The P x B coded bits of a segment: data, CRC-32, Reed-Solomon parity, convolutional code, zero input to the end. -/
def payloadBits (data : List Byte) (robust : Bool) : List Bool :=
  let bytes := (withCrc data).map BitVec.toNat
  let all := bytes ++ rsParity bytes
  let n := psymOf data.length robust * segBits robust
  let bits := all.flatMap fun b => (List.range 8).map fun i => b.testBit (7 - i)
  (convEncode 0 (bits ++ List.replicate (n / 2 + 1 - bits.length) false)).take n

/-- Where coded bit `k` of the payload travels (R373): payload symbol, carrier, and which bit of the carrier's pair. -/
def interleave (p k : Nat) (robust : Bool) : Nat × Nat × Nat :=
  let sym := k % p
  let j := k / p
  if robust then (sym, (j + 7 * sym) % 35, 0) else (sym, (j / 2 + 7 * sym) % 35, j % 2)

/-- A frame of a request message, with the grid frame of its first sample. -/
def makeFrame (atten : Nat) (rotB rotC : List Nat) (phases addr kind : Nat) (robust toggle resync : Bool) (msg : List Byte)
    (n first : Nat) : TxFrame :=
  let d := segData msg robust n
  let p := psymOf d.length robust
  let h := Hdr.make false addr kind robust p n (segCount msg.length robust) toggle resync
  { phases := phases, atten := atten, rotB := rotB, rotC := rotC, header := h, data := d, headBits := headerBits h, bits := payloadBits d robust, symbols := 10 + p,
    first := first }

/-! Decoding (R372, R375, R376). A coded bit is none where its symbol is erased. -/

/-- Do bits agree with those received and not erased? -/
def agrees (bits : List Bool) (got : List (Option Bool)) : Bool :=
  bits.length == got.length && (bits.zip got).all fun x => x.2.isNone || x.2 == some x.1

/-- The pairs of coded bits of the input bits; a missing second bit is unknown. -/
def bitPairs : List (Option Bool) → List (Option Bool × Option Bool)
  | a :: b :: l => (a, b) :: bitPairs l
  | [a] => [(a, none)]
  | [] => []

/-- The encoder run backwards over bits without error: each input bit from the first output and the register. -/
def convInvert : Nat → List (Option Bool × Option Bool) → List Bool
  | _, [] => []
  | st, (a, _) :: l => let b := a.getD false != parity (st &&& 0o33); b :: convInvert (convStep st b).1 l

/-- A path of the Viterbi decoder: how many known bits it contradicts, and its input bits, newest first. -/
abbrev ViterbiPath := Nat × List Bool
def pathCost (x : Option Bool) (b : Bool) : Nat := if x.isNone || x == some b then 0 else 1
/-- The better of the two paths into a state of the register. -/
def viterbiInto (paths : List (Option ViterbiPath)) (x : Option Bool × Option Bool) (st : Nat) : Option ViterbiPath :=
  let via := fun (old : Nat) => (paths.getD old none).map fun q =>
    let out := (convStep old (32 ≤ st)).2
    (q.1 + pathCost x.1 (out.getD 0 false) + pathCost x.2 (out.getD 1 false), decide (32 ≤ st) :: q.2)
  match via (2 * st % 64), via (2 * st % 64 + 1) with
  | some p, some q => if q.1 < p.1 then some q else some p
  | some p, none => some p
  | none, o => o
/-- The input bits of the path that contradicts the fewest known bits, from the zero state. -/
def viterbi (got : List (Option Bool × Option Bool)) : List Bool :=
  let last := got.foldl (fun paths x => (List.range 64).map (viterbiInto paths x)) (some (0, []) :: List.replicate 63 none)
  let best := last.foldl (fun (m : Option ViterbiPath) q => match m, q with
    | some a, some b => if b.1 < a.1 then some b else some a
    | none, q => q
    | m, none => m) none
  (best.map fun q => q.2.reverse).getD []

def gfInverse (a : Nat) : Nat := (List.range 7).foldl (fun (x : Nat × Nat) _ => let sq := gfMul x.2 x.2; (gfMul x.1 sq, sq)) (1, a) |>.1
/-- A polynomial, lowest power first, at a point. -/
def polyAt (p : List Nat) (x : Nat) : Nat := p.reverse.foldl (fun a c => gfMul a x ^^^ c) 0
def polyAdd (a b : List Nat) : List Nat := (List.range (max a.length b.length)).map fun i => a.getD i 0 ^^^ b.getD i 0

/-- The error locator of sixteen syndromes (Berlekamp and Massey). -/
def errorLocator (syn : List Nat) : List Nat :=
  let r := (List.range 16).foldl (fun (x : List Nat × List Nat × Nat × Nat × Nat) n =>
    let (c, b, l, m, d0) := x
    let d := (List.range (l + 1)).foldl (fun a i => a ^^^ gfMul (c.getD i 0) (syn.getD (n - i) 0)) 0
    if d = 0 then (c, b, l, m + 1, d0)
    else
      let f := gfMul d (gfInverse d0)
      let c' := polyAdd c (List.replicate m 0 ++ b.map (gfMul f))
      if 2 * l ≤ n then (c', c, n + 1 - l, 1, d) else (c', b, l, m + 1, d0)) ([1], [1], 0, 1, 1)
  r.1
/-- A shortened codeword with up to 8 of its bytes corrected (R372, R375). -/
def rsCorrect (word : List Nat) : List Nat :=
  let syn := (List.range 16).map fun i => polyAt word.reverse (gfPow i)
  if syn.all (· == 0) then word else
  let loc := errorLocator syn
  let om := (List.range 16).map fun n => (List.range (n + 1)).foldl (fun a i => a ^^^ gfMul (loc.getD i 0) (syn.getD (n - i) 0)) 0
  let der := (List.range loc.length).map fun i => if i % 2 = 0 then loc.getD (i + 1) 0 else 0
  (List.range word.length).map fun j =>
    let x := gfPow (word.length - 1 - j)
    let y := gfInverse x
    if polyAt loc y = 0 then word.getD j 0 ^^^ gfMul x (gfMul (polyAt om y) (gfInverse (polyAt der y))) else word.getD j 0

def bitByte (bits : List Bool) : Nat := (bits.take 8).foldl (fun n b => 2 * n + b.toNat) 0
def bitBytes (bits : List Bool) : List Nat := (List.range (bits.length / 8)).map fun i => bitByte (bits.drop (8 * i))

/-- The segment of `d` bytes that an input spells, where its frame agrees with every bit received and not erased. -/
def segmentOf (got : List (Option Bool)) (robust : Bool) (bytes : List Nat) (d : Nat) : Option (List Byte) :=
  let try_ := fun (w : List Nat) =>
    let data := (w.take d).map (BitVec.ofNat 8)
    if crcOk ((w.take (d + 4)).map (BitVec.ofNat 8)) && agrees (payloadBits data robust) got then some data else none
  try_ bytes <|> try_ (rsCorrect (bytes.take (d + 20)))
/-- The data of the segment that `p` payload symbols carry, where some segment's frame agrees with every bit received and not
erased: R376 has such a frame decoded correctly. The header does not give the length, which is that of the segment found (log
entry 123). -/
def decodeSegment (got : List (Option Bool)) (robust : Bool) (p : Nat) : Option (List Byte) :=
  let sizes := (List.range (segMax robust + 1)).filter fun d => psymOf d robust == p
  let find := fun (bits : List Bool) => sizes.findSome? (segmentOf got robust (bitBytes bits))
  find (convInvert 0 (bitPairs got)) <|> find (viterbi (bitPairs got))

/-- The header whose 70 coded bits are those received. -/
def decodeHeader (got : List Bool) : Option Nat :=
  let bits := (convInvert 0 (bitPairs (got.map some))).take 28
  let h := (List.range 28).foldl (fun n i => n + if bits.getD i false then 2 ^ i else 0) 0
  if headerBits h = got then some h else none

end Sys2Proof.Machine
end

