-- ==== Sys2Proof/Machine/LinkWave.lean ====
section
/-! DEFINITION. The signal of the Penad link: carriers, phases and output samples of a frame (R367, R368, R370, R371, R373), and the
receiver from the samples of input 127 to the bits of a frame (R374, R375). -/

namespace Sys2Proof.Machine

/-! Phases, in units of π/4. -/

/-- Carrier c of SYNC. -/
def syncPhase (c : Nat) : Nat := c * c % 8
/-- The advance of a DBPSK bit, and of a DQPSK pair. -/
def bitPhase (b : Bool) : Nat := if b then 4 else 0
def pairPhase (b0 b1 : Bool) : Nat := match b0, b1 with
  | false, false => 0
  | false, true => 2
  | true, true => 4
  | true, false => 6

/-- The index of the coded bit on payload symbol `s`, carrier `c`, bit `i` of its pair: where `interleave` puts it (R373). -/
def codedAt (p s c : Nat) (robust : Bool) (i : Nat) : Nat :=
  let place := (c + 35 * 54 - 7 * s) % 35
  (if robust then place else 2 * place + i) * p + s

/-- What frame symbol `m` adds to the phase of carrier `c`; the preamble from nothing, SYNCM inverted. -/
def TxFrame.advance (f : TxFrame) (m c : Nat) : Nat :=
  let robust := Hdr.robust f.header
  let bit := fun i => f.bits.getD (codedAt (f.symbols - 10) (m - 10) c robust i) false
  if m = 0 then syncPhase c else if m < 7 then 0 else if m = 7 then 4
  else if m < 10 then bitPhase (f.headBits.getD (2 * c + (m - 8)) false)
  else if robust then bitPhase (bit 0) else pairPhase (bit 0) (bit 1)
/-- The phase of a carrier in a symbol on LINK_TXA. -/
def TxFrame.phase (f : TxFrame) (m c : Nat) : Nat := ((List.range (m + 1)).foldl (fun a k => a + f.advance k c) 0) % 8

/-! The outputs (R368). -/

/-- The peak of a carrier at TX_ATTEN 0, √2 × 56 mV, and a step of 1 dB, in units of 2^-96 (log entry 124). -/
def carrierPeak : Rat := 6274550349176047670897977081 / (2 ^ 96 : Nat)
def attenStep : Rat := 70612174167450941842876011837 / (2 ^ 96 : Nat)

/-- The turn by which an output rotates carrier `c`. -/
def TxFrame.rotation (f : TxFrame) (out c : Nat) : Rat :=
  let r := match out with
    | 0 => 0
    | 1 => f.rotB.getD (c / 7) 0
    | _ => f.rotC.getD (c / 7) 0
  if 6 ≤ r then 0 else ((r : Nat) : Rat) / 6

/-- Symbol `m` at sample `i` of its 288 at 400 kS/s, with 32 of prefix; from 288 on it runs on cyclically. -/
def TxFrame.symbolAt (f : TxFrame) (out m i : Nat) : Rat :=
  sumRat ((List.range 35).map fun c =>
    cosTurn ((((24 + c) * (i + 224) % 256 : Nat) : Rat) / 256 + ((f.phase m c : Nat) : Rat) / 8 + f.rotation out c)) *
  (carrierPeak * (List.range f.atten).foldl (fun a _ => a * attenStep) 1)

/-- Sample `n` of the frame on an output, in volts, clipped to full scale: the first eight of a symbol cross over from the one
before, which runs on into the prefix. -/
def TxFrame.output (f : TxFrame) (out n : Nat) : Rat :=
  let m := n / 288
  let i := n % 288
  let here := f.symbolAt out m i
  let v := if 8 ≤ i then here
    else Config.linkTaper i * here + (1 - Config.linkTaper i) * (if m = 0 then 0 else f.symbolAt out (m - 1) (288 + i))
  if f.symbols ≤ m then 0 else if 1 < v then 1 else if v < -1 then -1 else v

/-! Received samples. -/

/-- SYNC as it lies on the wide stream: 25 samples of prefix and 200. -/
def syncWave : List Rat := (List.range 225).map fun i =>
  sumRat ((List.range 35).map fun c => cosTurn ((((24 + c) * (i + 175) % 200 : Nat) : Rat) / 200 + ((syncPhase c : Nat) : Rat) / 8))
/-- e^(-2πi j/200), in units of 2^-96. -/
def dftTable : List (Int × Int) := (List.range 200).map fun j =>
  let turn := ((j : Nat) : Rat) / 200
  (cosFix turn, -(sinFix turn))
/-- The transform of 200 samples on carrier `c`, bin 24 + c. -/
def carrierDft (xs : List Int) (c : Nat) : Int × Int :=
  (xs.zip (List.range 200)).foldl (fun a x =>
    let t := dftTable.getD ((24 + c) * x.2 % 200) (0, 0)
    (a.1 + x.1 * t.1, a.2 + x.1 * t.2)) (0, 0)

/-- `n` samples from a stream index on, oldest first. -/
def Receiver.span (r : Receiver) (first n : Nat) : List RxSamp := ((r.hist.drop (r.pos - first - n)).take n).reverse

/-- Does the normalised correlation of two signals exceed a threshold in 1/256? -/
def correlates (th : Nat) (ys ws : List Rat) : Bool :=
  let dot := fun (a b : List Rat) => sumRat (List.zipWith (· * ·) a b)
  let c := dot ys ws
  decide (0 < c) && decide (((th * th : Nat) : Rat) * (dot ys ys * dot ws ws) < 65536 * (c * c))

/-! Blocks (R375): 8 samples of the stream grid. -/

/-- The energy of a block; none where a sample of it is INVALID. -/
def Receiver.block (r : Receiver) (q : Nat) : Option Rat :=
  let xs := r.span (8 * q) 8
  if xs.any RxSamp.invalid then none else some (sumRat (xs.map fun x => x.band * x.band))
/-- x to the tenth power: so that a threshold in dB compares rationals. -/
def pow10 (x : Rat) : Rat := (List.range 10).foldl (fun a _ => a * x) 1
/-- Is a block flagged, against a mean and a threshold in dB? -/
def Receiver.flagged (r : Receiver) (mean : Rat) (th q : Nat) : Bool :=
  match r.block q with
  | none => true
  | some e => decide (pow10 mean * ((10 ^ th : Nat) : Rat) < pow10 e)
/-- Does a flagged block overlap `n` samples from a stream index on? -/
def Receiver.hit (r : Receiver) (mean : Rat) (th first n : Nat) : Bool :=
  (List.range ((first + n - 1) / 8 + 1 - first / 8)).any fun k => r.flagged mean th (first / 8 + k)

/-- The mean block energy over symbols of the preamble at `t`. -/
def Receiver.meanOver (r : Receiver) (t : Nat) (syms : List Nat) : Rat :=
  let es := syms.flatMap fun k =>
    (List.range 29).filterMap fun j =>
      let q := (t + 225 * k + 7) / 8 + j
      if 8 * q < t + 225 * (k + 1) then r.block q else none
  if es.isEmpty then 0 else sumRat es / (es.length : Nat)
/-- The clean SYNC symbols of the preamble at `t`: those that no flagged block overlaps, the flags taken against the mean over them,
by exclusion from all seven on (log entry 123). -/
def Receiver.clean (r : Receiver) (th t : Nat) : List Nat :=
  (List.range 7).foldl (fun syms _ => syms.filter fun k => !(r.hit (r.meanOver t syms) th (t + 225 * k) 225)) (List.range 7)

/-! Detection (R374). -/

/-- Does a preamble lie at `t`: SYNCM, and at least four of the clean SYNC symbols, above the threshold? -/
def Receiver.detects (r : Receiver) (syncTh impTh t : Nat) : Bool :=
  let bands := fun k => (r.span (t + 225 * k) 225).map RxSamp.band
  correlates syncTh (bands 7) (syncWave.map fun w => -w) && !((r.span t 1800).any RxSamp.blank) &&
  (let ok := r.clean impTh t
   decide (4 ≤ (ok.filter fun k => correlates syncTh (bands k) syncWave).length) &&
   !(r.hit (r.meanOver t ok) impTh (t + 225 * 7 + 13) 200))

/-- Frame symbol `k` of a frame that starts at `x.start`. -/
def Receiver.symbol (r : Receiver) (impTh : Nat) (x : RxSync) (k : Nat) : RxSymbol :=
  let first := x.start + 225 * k + 13
  let xs := (r.span first 200).map RxSamp.val
  { carriers := (List.range 35).map (carrierDft xs), hit := r.hit x.mean impTh first 200 }
/-- The next symbol of the frame in reception, where its samples are all there. -/
def Receiver.follow (r : Receiver) (impTh : Nat) : Receiver :=
  { r with frame := r.frame.map fun x =>
      let k := 7 + x.symbols.length
      if k < 64 ∧ x.start + 225 * (k + 1) ≤ r.pos then { x with symbols := x.symbols ++ [r.symbol impTh x k] } else x }

/-- A run of positions that met the conditions has ended: the frame starts at one of them. -/
def Receiver.lock (r : Receiver) (impTh : Nat) : Receiver :=
  let start := r.pos - 1800 - r.run.length + Config.symbolTiming r.run % r.run.length
  { r with run := [], frame := some { start := start, mean := r.meanOver start (r.clean impTh start), symbols := [] } }

/-- One sample. While the receiver is blanked it finds nothing and loses the frame it was in. -/
def Receiver.take (syncTh impTh : Nat) (r : Receiver) (val : Int) (invalid blank : Bool) : Receiver :=
  let x : RxSamp := { val := val, band := Config.bandFilter (val :: r.hist.map RxSamp.val), invalid := invalid, blank := blank }
  let r := { r with hist := (x :: r.hist).take 4096, pos := r.pos + 1 }
  if blank then { r with run := [], frame := none }
  else if r.frame.isSome then r.follow impTh
  else
    let t := r.pos - 1800
    if 1800 ≤ r.pos ∧ r.detects syncTh impTh t = true then
      { r with run := r.run ++ [sumRat (List.zipWith (· * ·) ((r.span (t + 1575) 225).map RxSamp.band) syncWave)] }
    else if r.run.isEmpty then r else (r.lock impTh).follow impTh

/-- A block of the link receive window; one that does not follow on begins the stream anew. -/
def Receiver.consume (syncTh impTh : Nat) (blanked : Nat → Bool) (b : RxBlock) (r : Receiver) : Receiver :=
  let r := if r.pos = 256 * b.block then r else { hist := [], pos := 256 * b.block, run := [], frame := none }
  b.samples.foldl (fun r x => r.take syncTh impTh x.val x.isInvalid (blanked (32 * r.pos))) r

/-! Bits (R367, R371, R373, R375). -/

/-- What a carrier's phase advanced by from one symbol to the next: X · conj Y. -/
def turned (x y : Int × Int) : Int × Int := (x.1 * y.1 + x.2 * y.2, x.2 * y.1 - x.1 * y.2)
/-- The DBPSK bit nearest to an advance, and the bits of a DQPSK pair. -/
def bitOfTurn (d : Int × Int) : Bool := decide (d.1 < 0)
def pairOfTurn (d : Int × Int) (i : Nat) : Bool := if i = 0 then decide (d.1 + d.2 < 0) else decide (d.1 < d.2)

/-- The advance of a carrier into frame symbol `m` (from 8 on). -/
def RxSync.turn (x : RxSync) (m c : Nat) : Int × Int :=
  let at_ := fun k => ((x.symbols.getD (k - 7) { carriers := [], hit := true }).carriers.getD c (0, 0))
  turned (at_ m) (at_ (m - 1))
def RxSync.symbolHit (x : RxSync) (m : Nat) : Bool := (x.symbols.getD (m - 7) { carriers := [], hit := true }).hit
/-- Payload symbol `s` is erased: it is hit, or it is the first one after a run that is. -/
def RxSync.erased (x : RxSync) (s : Nat) : Bool := x.symbolHit (10 + s) || x.symbolHit (9 + s)
def RxSync.erasedCount (x : RxSync) (p : Nat) : Nat := ((List.range p).filter x.erased).length

/-- The 70 coded bits of the header. -/
def RxSync.headBits (x : RxSync) : List Bool := (List.range 70).map fun k => bitOfTurn (x.turn (8 + k % 2) (k / 2))
/-- The coded bits of the payload, de-interleaved; none where the symbol is erased. -/
def RxSync.payload (x : RxSync) (robust : Bool) (p : Nat) : List (Option Bool) :=
  let gone := (List.range p).map x.erased
  (List.range (p * segBits robust)).map fun k =>
    let (s, c, i) := interleave p k robust
    if gone.getD s true then none
    else
      let d := x.turn (10 + s) c
      some (if robust then bitOfTurn d else pairOfTurn d i)

end Sys2Proof.Machine
end

