-- ==== Sys2Proof/Machine/Link.lean ====
section
/-! DEFINITION. Meanings of the commands of the Penad link (chapter "Penad Link: Polling Over Power Wiring"):
enabling, poll list, attempts and their ends. The receiver works as FLUE publishes its blocks; a frame it has found is judged in one
command, at its end (log entry 30). -/

namespace Sys2Proof.Machine

def State.updLink (s : State) (f : Link → Link) : State := { s with link := f s.link }

/-! The poll list (R379): entries of 64 bytes. -/

def Poll.fld (l : List Byte) (i off n : Nat) : Nat := leField l (64 * i + off) n
def Poll.count (l : List Byte) : Nat := l.length / 64
def Poll.outpost (l : List Byte) (i : Nat) : Nat := Poll.fld l i 0 1
def Poll.enabled (l : List Byte) (i : Nat) : Bool := (Poll.fld l i 1 1).testBit 0
def Poll.robust (l : List Byte) (i : Nat) : Bool := (Poll.fld l i 1 1).testBit 1
def Poll.phases (l : List Byte) (i : Nat) : Nat := Poll.fld l i 2 1
def Poll.retries (l : List Byte) (i : Nat) : Nat := Poll.fld l i 3 1
def Poll.timeout (l : List Byte) (i : Nat) : Nat := Poll.fld l i 4 2
def Poll.respMax (l : List Byte) (i : Nat) : Nat := Poll.fld l i 6 2
def Poll.respAddr (l : List Byte) (i : Nat) : Nat := Poll.fld l i 8 8
def Poll.req (l : List Byte) (i : Nat) : List Byte := sliceOf l (64 * i + 20) (Poll.fld l i 16 1)

/-- The first offending byte of an entry. -/
def Poll.fault (l : List Byte) (i : Nat) : Option Nat :=
  let f := Poll.fld l i
  let bad := fun (c : Bool) (off : Nat) => if c then some off else none
  let zeroFrom := fun (a b : Nat) => (List.range (b - a)).findSome? fun k => bad (f (a + k) 1 != 0) (a + k)
  bad (f 0 1 == 0 || 31 < f 0 1) 0 <|> bad (4 ≤ f 1 1) 1 <|> bad (f 2 1 == 0 || 7 < f 2 1) 2 <|> bad (3 < f 3 1) 3 <|>
  bad (f 4 2 < 30 || 250 < f 4 2) 4 <|> bad (f 6 2 == 0 || 472 < f 6 2 || (Poll.robust l i && 236 < f 6 2)) 6 <|>
  bad (f 8 8 % 4 != 0) 8 <|> bad (32 < f 16 1) 16 <|> zeroFrom 17 20 <|> zeroFrom (20 + f 16 1) 52 <|> zeroFrom 52 64

/-- The first offending entry and byte of a list. -/
def Poll.reject (l : List Byte) : Option (Nat × Nat) :=
  (List.range (Poll.count l)).findSome? fun i => (Poll.fault l i).map fun o => (i, o)

/-- The next ENABLED entry from `i` up, and the first entry that names an outpost. -/
def Poll.nextFrom (l : List Byte) (i : Nat) : Option Nat := (List.range (Poll.count l)).find? fun k => i ≤ k && Poll.enabled l k
def Poll.naming (l : List Byte) (a : Nat) : Option Nat := (List.range (Poll.count l)).find? fun k => Poll.outpost l k == a

/-- The list in use, as the LINK island's working copy (R380). -/
def State.pollList (s : State) : List Byte := s.link.work.getD []

/-! Enabled (R366). -/

/-- LINK_RX of the active image. -/
def State.linkRx (s : State) : Bool := s.active && s.img.linkRx
def State.linkEnabled (s : State) : Bool := s.running Isl.link && s.linkRx && s.link.en
/-- The LINK_TXEN pin: high from an attempt's start to 100 µs after the last sample of the message (R369). -/
def State.linkTxen (s : State) : Bool := s.link.txen || s.link.fall.any (s.gridFrame < ·)
/-- Is the receiver blanked in a grid frame: from the rise of LINK_TXEN until 100 µs after it falls (R369)? -/
def Link.blanked (k : Link) (f : Nat) : Bool := decide (k.rise ≤ f) && (k.txen || k.fall.any (f < · + 1000))
def State.pollRun (s : State) : Bool := bitOf (s.reg 0x34004) 1

/-! Cycles (R380, R381, R384). -/

/-- The swap of a new bank into use: the other bank, its working copy, its exchange counts from 0, and the
LINK_POLLSET completes. -/
def bankSwap (s : State) : State :=
  match s.link.swapOrd with
  | some o =>
    let b := !s.link.bank
    let l := Tab.at s.link.banks b.toNat []
    (s.updLink fun k => { k with bank := b, live := true, work := some l, swapOrd := none, next := 0,
                                 seqs := List.replicate (Poll.count l) 0 }).finishOk o []
  | none => s

/-- The message of a cycle in which a slot was written. -/
def cycleMessage (s : State) : State :=
  if s.link.wrote && s.running Isl.host then s.raiseVector (s.fld 0x34014 3 0) else s

/-- A cycle ends: it counts when it has visited every entry; a waiting bank swaps in. -/
def endCycle (whole : Bool) (s : State) : State :=
  bankSwap ((cycleMessage s).updLink fun k =>
    { k with cycles := if whole then (k.cycles + 1) % 2 ^ 32 else k.cycles, polling := false, wrote := false, next := 0 })

/-- Begin a cycle where one should run. One without an ENABLED entry ends at once. -/
def startCycle (s : State) : State :=
  if s.pollRun && s.linkEnabled && s.link.live && !s.link.polling then
    if (Poll.nextFrom s.pollList 0).isSome then s.updLink fun k => { k with polling := true, wrote := false, next := 0 }
    else endCycle true s
  else s

/-- Between exchanges: POLL_RUN cleared stops the cycle; past the last ENABLED entry the cycle ends and the next begins. -/
def betweenExchanges (s : State) : State :=
  if !s.link.polling then s
  else if !s.pollRun then endCycle false s
  else if (Poll.nextFrom s.pollList s.link.next).isNone then startCycle (endCycle true s) else s

/-! The end of an exchange. -/

/-- The response slot (R383). -/
def pollSlot (s : State) (e : Exchange) (code n : Nat) : List Byte :=
  let status := if code = 0 ∧ e.respMax < e.got.length then 3 else code
  let data := if code = 0 then e.got.take e.respMax else []
  leBytes 4 n ++ leBytes 1 status ++ leBytes 1 e.attempt ++ leBytes 2 data.length ++ packTime s.rtc.count ++
    padTo ((e.respMax + 3) / 4 * 4) data ++ leBytes 4 n

/-- A POLL exchange ends: its slot is written, or abandoned. -/
def finishPoll (e : Exchange) (code : Nat) (ok : Bool) (s : State) : State :=
  let n := (s.link.seqs.getD e.entry 0 + 1) % 2 ^ 32
  let s := s.updLink fun k => { k with seqs := k.seqs.set e.entry n, exch := none, next := e.entry + 1 }
  if (ok && canDma s) then (s.dmaWrite e.respAddr (pollSlot s e code n)).updLink fun k => { k with wrote := true }
  else (s.setFlag 0x34040 0).updLink fun k => { k with dropped := (k.dropped + 1) % 2 ^ 32 }

/-- A LINK_SEND ends (R382, R264): the reply, cut to RESP_LEN, and its RESULT. A reply that the device may not write now waits for
the bus (R250). -/
def finishSend (o : Nat) (e : Exchange) (code : Nat) (ok : Bool) (s : State) : State :=
  let s := s.updLink fun k => { k with exch := none }
  let data := if code = 0 then e.got.take e.respMax else []
  let result := leBytes 1 code ++ leBytes 1 e.attempt ++ leBytes 2 data.length
  if data.isEmpty then s.finishOk o result
  else if !(canDma s) then s.updLink fun k => { k with owed := k.owed ++ [{ ord := o, addr := e.respAddr, data := data, result := result }] }
  else if ok then (s.dmaWrite e.respAddr data).finishOk o result
  else bufferError o 2 s

/-- The exchange ends with code 0 reply, 1 no reply, 2 every attempt failed its CRC. -/
def finishExchange (e : Exchange) (code : Nat) (ok : Bool) (s : State) : State :=
  betweenExchanges (match e.send with | some o => finishSend o e code ok s | none => finishPoll e code ok s)

/-- The attempt fails, by the CRC of a reply segment or otherwise: the line falls silent for the next one, or the
exchange ends. -/
def failAttempt (e : Exchange) (crc ok : Bool) (s : State) : State :=
  let e := { e with allCrc := e.allCrc && crc }
  if e.attempt < 1 + e.retries then s.updLink fun k => { k with exch := some { e with wait := .silence } }
  else finishExchange e (if e.allCrc then 2 else 1) ok s

/-- The code of an exchange cut off (R382, R383): 2 where every attempt it made has failed its CRC, else 1. -/
def Exchange.cutCode (e : Exchange) : Nat := if e.wait == .silence && e.allCrc then 2 else 1

/-- The link stops being enabled (R366): no frame is sent and LINK_TXEN is low, the exchange in progress ends without a reply, and a
LINK_SEND not started completes with NOT_IN_MODE. -/
def linkOff (s : State) : State :=
  let s := s.updLink fun k => { k with txen := false, fall := if k.txen then some s.gridFrame else k.fall.map (min s.gridFrame ·),
                                       frame := none, rx := { k.rx with run := [], frame := none } }
  let s := match s.link.exch with | some e => finishExchange e e.cutCode true s | none => s
  let s := if s.link.polling then endCycle false s else s
  let waiting := s.link.sends
  waiting.foldl (fun s w => s.finishFail w.ord 0x0E 0) (s.updLink fun k => { k with sends := [] })
/-- A clearing of EN takes effect. -/
def linkDisable (s : State) : State := linkOff (s.updLink fun k => { k with enPend := false, en := false })

/-- What an image switch does to the link: without LINK_RX it stops being enabled, with it a cycle can begin. -/
def switchLink (old new : Image) (s : State) : State :=
  if old.linkRx && !new.linkRx then (if s.link.enPend then linkDisable s else linkOff s) else if new.linkRx && !old.linkRx then startCycle s else s

/-- What follows a frame's end: a clearing of EN that waited for it. -/
def afterFrame (s : State) : State := if s.link.enPend then linkDisable s else s

/-- LINK_CTL.EN written (R366). Clearing it waits for the end of a frame being sent or received. -/
def execLinkEn (on : Bool) (s : State) : Host.Outcome State Fault Refusal :=
  if !(s.running Isl.link) then .next s else
  let s := s.putField 0x34004 0 0 on.toNat
  if on then .next (startCycle (s.updLink fun k => { k with en := true, enPend := false }))
  else if s.link.frame.isSome || s.link.rx.frame.isSome then .next (s.updLink fun k => { k with enPend := k.en })
  else .next (if s.link.en then linkDisable s else s)

/-- LINK_CTL.POLL_RUN written (R381). -/
def execPollRun (on : Bool) (s : State) : Host.Outcome State Fault Refusal :=
  if !(s.running Isl.link) then .next s else
  let s := s.putField 0x34004 1 1 on.toNat
  if on then .next (startCycle s)
  else .next (if s.link.exch.isNone then betweenExchanges s else s)

/-! Attempts (R368 to R370, R377, R378, R381). -/

/-- A request message begins: TOGGLE inverts, RESYNC goes with the first one to an outpost. -/
def beginExchange (e : Exchange) (s : State) : State :=
  let t := !(s.link.toggles.testBit e.outpost)
  s.updLink fun k =>
    { k with toggles := setBitN k.toggles e.outpost t, resync := setBitN k.resync e.outpost false,
             exch := some { e with toggle := t, resync := k.resync.testBit e.outpost } }

/-- The exchange of a poll-list entry. -/
def pollExchange (l : List Byte) (i : Nat) : Exchange :=
  { send := none, entry := i, outpost := Poll.outpost l i, robust := Poll.robust l i, phases := Poll.phases l i,
    retries := Poll.retries l i, timeout := Poll.timeout l i, respMax := Poll.respMax l i, respAddr := Poll.respAddr l i,
    req := Poll.req l i, toggle := false, resync := false, attempt := 0, wait := .silence, replied := false,
    allCrc := true, got := [], seg := 0 }

/-- The exchange of a LINK_SEND: phases and default timeout from the first entry that names its outpost. -/
def sendExchange (s : State) (w : SendWait) : Exchange :=
  let l := s.pollList
  let named := Poll.naming l w.outpost
  let dflt := s.fld 0x34008 2 0
  { send := some w.ord, entry := s.link.next, outpost := w.outpost, robust := w.robust,
    phases := match named with | some i => Poll.phases l i | none => if dflt = 0 then 1 else dflt,
    retries := w.retries,
    timeout := if w.timeout ≠ 0 then w.timeout else match named with | some i => Poll.timeout l i | none => 250,
    respMax := w.respLen, respAddr := w.respAddr, req := w.req, toggle := false, resync := false, attempt := 0,
    wait := .silence, replied := false, allCrc := true, got := [], seg := 0 }

/-- The exchange whose next attempt is due: the one in progress, else a waiting LINK_SEND, else the cycle's next entry. -/
def nextExchange (s : State) : State :=
  if s.link.exch.isSome then s else
  match s.link.sends with
  | w :: r => beginExchange (sendExchange s w) (s.updLink fun k => { k with sends := r })
  | [] => if s.link.polling then
      match Poll.nextFrom s.pollList s.link.next with
      | some i => beginExchange (pollExchange s.pollList i) s
      | none => s
    else s

/-- The frame of segment `n` of an exchange's request; its first sample is in grid frame `first`. -/
def Exchange.frame (e : Exchange) (s : State) (n first : Nat) : TxFrame :=
  makeFrame (s.fld 0x34008 12 8) ((List.range 5).map fun g => s.fld 0x3400C (6 * g + 2) (6 * g))
    ((List.range 5).map fun g => s.fld 0x3400C (6 * g + 5) (6 * g + 3)) e.phases e.outpost (if e.send.isSome then 1 else 0) e.robust e.toggle e.resync e.req n first

/-- The line has been silent for 1.44 ms: LINK_TXEN rises and the next attempt's first segment is sent. -/
def execAttemptStart (s : State) : Host.Outcome State Fault Refusal :=
  if !s.linkEnabled || s.link.txen || s.link.enPend then .next s else
  let s := nextExchange (startCycle s)
  match s.link.exch with
  | some e =>
    if e.wait = .silence then
      let e := { e with attempt := e.attempt + 1, wait := .sending 0, replied := false, got := [], seg := 0 }
      .next (s.updLink fun k => { k with txen := true, rise := s.gridFrame, fall := none, exch := some e,
                                         frame := some (e.frame s 0 (s.gridFrame + 2000)) })
    else .next s
  | none => .next s

/-- The last sample of a frame (R369, R385): the next segment follows with LINK_TXEN high, or LINK_TXEN falls 100 µs later and the
reply is awaited. The transmit interval covers the frame's 720 µs symbols. -/
def execTransmitEnd (s : State) : Host.Outcome State Fault Refusal :=
  match s.link.frame, s.link.exch with
  | some f, some e =>
    let now := s.gridFrame
    let s := s.updLink fun k =>
      { k with txFrames := (k.txFrames + 1) % 2 ^ 32, spans := (f.phases, now - 7200 * f.symbols, now) :: k.spans }
    let n := Hdr.seg f.header + 1
    if n < segCount e.req.length e.robust ∧ !s.link.enPend then
      .next (s.updLink fun k => { k with frame := some (e.frame s n (now + 14400)), exch := some { e with wait := .sending n } })
    else
      .next (afterFrame (s.updLink fun k =>
        { k with frame := none, txen := false, fall := some (now + 1000), exch := some { e with wait := .reply } }))
  | _, _ => .next s

/-! Reception (R371, R374 to R378). -/

/-- LINK_RX_CFG.IMP_TH as it acts, and SYNC_TH. -/
def State.impTh (s : State) : Nat := max 6 (min 30 (s.fld 0x34010 4 0))
def State.syncTh (s : State) : Nat := s.fld 0x34010 15 8

/-- The LINK island consumes a block of the link receive window as FLUE publishes it (R374). -/
def linkConsume (b : RxBlock) (s : State) : State :=
  if s.running Isl.link then
    let s := s.updLink fun k => { k with rx := k.rx.consume s.syncTh s.impTh k.blanked b }
    if s.link.frame.isNone && s.link.rx.frame.isNone then afterFrame s else s
  else s

/-- What a detected frame's header says: discarded, with or without BAD_KIND, or kept. -/
inductive HeaderJudge
  | bad | badKind | kept
  deriving DecidableEq, Repr

def judgeHeader (h : Nat) : HeaderJudge :=
  if !(Hdr.crcOk h) then .bad
  else if 3 ≤ Hdr.kind h then .badKind
  else if Hdr.psym h < 27 ∨ 54 < Hdr.psym h then .bad else .kept

/-- What the payload of a frame gives (R375, R376): the data of its segment, with the symbols erased. The decoder's own result
counts where symbols are impaired by more than erasure; more than 9 erased symbols lose the frame. -/
def rxData (x : RxSync) (f : RxFrame) (h : Nat) : Option (List Byte) :=
  let p := Hdr.psym h
  if 9 < x.erasedCount p then none
  else match decodeSegment (x.payload (Hdr.robust h) p) (Hdr.robust h) p with
    | some d => some d
    | none => if crcOk f.data then some (f.data.take (f.data.length - 4)) else none

/-- LINK_LAST_RX and the counts of a frame whose header was decoded. -/
def noteFrame (h n snr : Nat) (ok : Bool) (s : State) : State :=
  s.updLink fun k =>
    { k with rxFrames := (k.rxFrames + 1) % 2 ^ 32, erased := (k.erased + n) % 2 ^ 32,
             crcFails := if ok then k.crcFails else (k.crcFails + 1) % 2 ^ 32,
             lastRx := putAt (Hdr.addr h) 0 ||| putAt (Hdr.kind h) 5 ||| flagAt (Hdr.robust h) 8 ||| putAt (Hdr.psym h) 9 |||
               flagAt ok 15 ||| putAt (min n 255) 16 ||| putAt (snr % 256) 24 }

/-- A segment of the awaited reply; `data` its bytes, none where it is lost or fails its CRC. -/
def replySegment (e : Exchange) (h : Nat) (data : Option (List Byte)) (ok : Bool) (s : State) : State :=
  let e := { e with replied := true }
  if Hdr.seg h ≠ e.seg ∨ Hdr.nseg h ≤ Hdr.seg h then failAttempt e false ok s
  else match data with
  | none => failAttempt e true ok s
  | some bytes =>
    let e := { e with got := e.got ++ bytes, seg := e.seg + 1, wait := .segment }
    if e.seg = Hdr.nseg h then finishExchange e 0 ok s else s.updLink fun k => { k with exch := some e }

/-- Is a reply awaited? -/
def Exchange.awaits (e : Exchange) : Bool := e.wait == .reply || e.wait == .segment

/-- A frame whose header is kept: counted, and taken as a segment of the reply, or marked as unexpected or late. -/
def takeFrame (x : RxSync) (f : RxFrame) (h : Nat) (ok : Bool) (s : State) : State :=
  let data := rxData x f h
  let s := noteFrame h (x.erasedCount (Hdr.psym h)) f.snr data.isSome s
  match s.link.exch.filter Exchange.awaits with
  | some e =>
    if !(Hdr.dir h) ∨ Hdr.addr h ≠ e.outpost then s.setFlag 0x34040 1
    else if Hdr.kind h ≠ 2 then s
    else replySegment e h data ok s
  | none =>
    if !(Hdr.dir h) then s.setFlag 0x34040 1
    else if Hdr.kind h = 2 then s.setFlag 0x34040 2 else s

/-- A frame whose header is lost or discarded (R371, R376, R378). -/
def dropFrame (ok : Bool) (s : State) : State :=
  match s.link.exch.filter Exchange.awaits with
  | some e => failAttempt e false ok s
  | none => s

/-- Reception of the frame ends; a clearing of EN may wait for it. -/
def endReception (s : State) : State := s.updLink fun k => { k with rx := { k.rx with frame := none } }

/-- A frame in reception ends (R374 to R378): its header is decoded where none of the two header symbols is hit, then its payload
once all its symbols have been consumed. -/
def execFrameReceived (f : RxFrame) (dmaOk : Bool) (s : State) : Host.Outcome State Fault Refusal :=
  match s.link.rx.frame with
  | none => .next s
  | some x =>
    if !(s.running Isl.link) || decide (x.symbols.length < 3) then .next s else
    let heads := ([8, 9].filter x.symbolHit).length
    let h := (decodeHeader x.headBits).getD f.header
    let lost := fun (s : State) => afterFrame (dropFrame dmaOk (endReception s))
    if heads ≠ 0 then .next (lost (s.updLink fun k => { k with erased := (k.erased + heads) % 2 ^ 32 }))
    else match judgeHeader h with
    | .bad => .next (lost s)
    | .badKind => .next (lost (s.setFlag 0x34040 1))
    | .kept =>
      if x.symbols.length < 3 + Hdr.psym h then .next s
      else .next (afterFrame (takeFrame x f h dmaOk (endReception s)))

/-- No SYNCM of a reply ended within TIMEOUT. -/
def execReplyTimeout (dmaOk : Bool) (s : State) : Host.Outcome State Fault Refusal :=
  match s.link.exch with
  | some e =>
    if e.wait = .reply then
      .next (failAttempt e false dmaOk (s.updLink fun k => { k with timeouts := (k.timeouts + 1) % 2 ^ 32 }))
    else .next s
  | none => .next s

/-- No further segment of the reply began within 8.64 ms. -/
def execSegmentTimeout (dmaOk : Bool) (s : State) : Host.Outcome State Fault Refusal :=
  match s.link.exch with
  | some e => if e.wait = .segment then .next (failAttempt e false dmaOk s) else .next s
  | none => .next s

/-! Descriptors. -/

/-- LINK_POLLSET (R379, R380): the bank not in use is written; the swap waits for the end of a running cycle. One at a
time, in the order of fetching. -/
def execLinkPollset (ord : Nat) (buf : HostRead) (s : State) : Host.Outcome State Fault Refusal :=
  if s.host.inflight.any fun d => d.ord < ord && d.opcode == Opc.linkPollset && !d.phase.isDone then .next s else
  withBuffer [Opc.linkPollset] ord s fun d =>
    if !s.linkRx then s.finishFail ord 0x0E 0 else
    match buf with
    | none => bufferError ord 1 s
    | some bs =>
      match Poll.reject (padTo d.bufLen bs) with
      | some (i, o) => (s.updLink fun k => { k with rejEntry := i, rejOffset := o }).finishFail ord 0x02 8
      | none =>
        let s := s.updLink fun k => { k with banks := Tab.upd k.banks (!k.bank).toNat fun _ => padTo d.bufLen bs, swapOrd := some ord }
        let s := s.setPhase ord .working
        if s.link.polling then s else startCycle (bankSwap s)

/-- LINK_SEND (R366, R381): it waits for the end of the exchange in progress. -/
def execLinkSend (ord : Nat) (buf : HostRead) (s : State) : Host.Outcome State Fault Refusal :=
  withBuffer [Opc.linkSend] ord s fun d =>
    if !s.linkEnabled || s.link.enPend then s.finishFail ord 0x0E 0
    else if !s.link.sends.isEmpty || (s.link.exch.any fun e => e.send.isSome) then s.finishFail ord 0x06 4
    else match buf with
    | none => bufferError ord 1 s
    | some bs =>
      let w : SendWait := { ord := ord, outpost := d.op 20 1, robust := d.op 21 1 == 1, retries := d.op 22 1,
                            timeout := d.op 36 2, req := padTo d.bufLen bs, respAddr := d.op 24 8, respLen := d.op 32 4 }
      (s.updLink fun k => { k with sends := k.sends ++ [w] }).setPhase ord .working

/-- An output of the link (0 to 2: LINK_TXA to LINK_TXC) in volts: common mode outside a frame and on a phase not in use. -/
def State.linkOutput (s : State) (out : Nat) : Rat :=
  match s.link.frame with
  | some f => if f.phases.testBit out && decide (f.first ≤ s.gridFrame) then f.output out ((s.gridFrame - f.first) / 25) else 0
  | none => 0

end Sys2Proof.Machine
end

