-- ==== Sys2Proof/Machine/Frame.lean ====
section
/-! DEFINITION. The frame (R41, R54, R85): what one frame of conversions does in the hearths, the flue, the spectral
engine, the energy engine and the pulse generators, and the meaning of FRAME_BOUNDARY. -/

namespace Sys2Proof.Machine

/-- Frames of the grid pass: the hearths run, and no start still waits for the islands of steps 6 to 8 (R313). -/
def State.framesRun (s : State) : Bool :=
  s.hearthRunning && !(s.rst.release.any fun r => r.level != .l2 && r.step ≤ 8)

/-- FRAME-class fields take effect (R12): raw taps and bank control. -/
def frameFields (s : State) : State :=
  (List.range 8).foldl (fun s h =>
    flueFrame h (s.updHearth h fun x => { x with tap := x.tap.frame (s.reg (hearthReg h 0x040)) })) s

/-! The hearths. -/

/-- The main converter's clamps of the frame (R56, R92). -/
def frameClamps (fc : FrameCodes) (h : Nat) (s : State) : State :=
  (s.img.scanList h).foldl (fun s i => if (clampCode (fc.main.getD (16 * h + i) 0)).2 then clampInput h i s else s) s

/-- The witness pair of the frame (R58 to R60). -/
def frameWitness (fc : FrameCodes) (h : Nat) (s : State) : State :=
  let x := s.hearthAt h
  match x.witInput s.img h s.damper.beat with
  | some (_, i) =>
    s.updHearth h fun _ => x.compare i ((x.nsusp s.img h).testBit i) (fc.main.getD (16 * h + i) 0) (fc.wit.getD h 0)
  | none => s

/-- The flue chain of one input, with its sticky bits. -/
def frameChain (fc : FrameCodes) (f h : Nat) (s : State) (i : Nat) : State :=
  let x := s.hearthAt h
  let n := 16 * h + i
  let (c, sat, inv) := (s.chainAt n).frame (s.flueAt h) s.img n (s.img.slotOf h i) x.main.table (fc.main.getD n 0)
    (x.ovrNow.testBit i) f
  let s := s.updChain n fun _ => c
  let s := if sat then s.setFlag (flueReg h 0x028) i else s
  if inv then s.setFlag (flueReg h 0x024) i else s

/-- One hearth and its engine through the frame that ends as grid frame `f` starts. -/
def frameHearth (fc : FrameCodes) (f : Nat) (s : State) (h : Nat) : State :=
  let s := frameWitness fc h (frameClamps fc h s)
  if s.engineRunning then (s.img.scanList h).foldl (frameChain fc f h) s else s

/-! After the chains. -/

/-- The cycle trackers take wide-stream sample `w` of their sources (R96). -/
def frameTracker (w : Nat) (s : State) (t : Nat) : State :=
  match s.img.trkEn t, (s.chainAt (s.img.trkInput t)).wide with
  | true, x :: _ => s.updFlue t fun f => { f with tracker := f.tracker.sample w x.val }
  | _, _ => s

/-- The block number of the link receive window that wide-stream sample `w` completes (R28): 256 samples a block, counted
on the stream grid (log entry 108). -/
def rxBlockOf (w : Nat) : Option Nat := if (w + 1) % 256 = 0 then some ((w + 1) / 256 - 1) else none

/-- FLUE publishes a block of input 127 (R28, R99): the half that is not published is written and the halves flip, and the LINK
island consumes it (R374). -/
def publishRx (w : Nat) (s : State) : State :=
  match s.img.linkRx && s.img.enabled 127, rxBlockOf w with
  | true, some n =>
    let b : RxBlock := ⟨n, ((s.chainAt 127).wide.take 256).reverse⟩
    let x := s.window
    linkConsume b { s with window := { x with rx0 := if x.rxHalf then b else x.rx0, rx1 := if x.rxHalf then x.rx1 else b, rxHalf := !x.rxHalf } }
  | _, _ => s

/-- What a wide-stream sample `w` brings to the trackers, the link receive window, the engines of METRO and the captures. -/
def frameWide (caps : List CapWrite) (w : Nat) (s : State) : State :=
  let s := (List.range 8).foldl (fun s h => s.updFlue h fun e => e.stepSwap w) s
  let s := publishRx w ((List.range 8).foldl (frameTracker w) s)
  let s := if s.spectralRuns then spectralFrame w s else s
  let s := captureFrame caps w s
  if s.metering then (List.range 32).foldl (fun s p => scheduleUrms w (nominalTick w (overrangeWide w s p) p) p) s else s

/-- The energy engine and the pulse generators in grid frame `f`. -/
def frameEnergy (f : Nat) (s : State) : State :=
  let s := takeSamples f s
  let s := (List.range 32).foldl (fun s p => noteSample f (pointSample f s p) p) s
  (List.range 8).foldl (pulseFrame f) ((List.range 32).foldl (missTaken f) s)

/-- One frame: the conversions `fc` of the frame that ends, and the start of grid frame `f`. -/
def frameWork (fc : FrameCodes) (f : Nat) (s : State) : State :=
  let s := (List.range 8).foldl (frameHearth fc f) s
  let s := if s.engineRunning then (match wideFormedAt f with | some w => frameWide fc.caps w s | none => s) else s
  let s := dropDelivered f (if s.metering then frameEnergy f s else s)
  let s := (List.range 128).foldl countInput s
  (List.range 8).foldl (fun s h => overFrame h s) s

/-- FRAME_BOUNDARY: a frame ends with its conversions and the next one starts (log entry 84). -/
def execFrameBoundary (fc : FrameCodes) (s : State) : Host.Outcome State Fault Refusal :=
  if !(s.running Isl.conv) then .next s else
  let s := frameFields s
  if s.framesRun then
    let s := frameWork fc (s.gridFrame + 1) s
    .next (s.updDamper fun d => { d with frame := (d.frame + 1) % 10000 })
  else .next s

end Sys2Proof.Machine
end

