-- ==== Sys2Proof/Machine/Admission.lean ====
section
/-! DEFINITION. Admission (R202, R203, R441): the checks on an image, one definition for each reason, each the list of
the offsets of the offending fields within its section. -/

namespace Sys2Proof.Machine

/-- An offending field, where the condition holds. -/
def bad (c : Bool) (off : Nat) : List Nat := if c then [off] else []
/-- The offset of the first byte that is not 0 in `n` bytes at image offset `a`, counted from `base`. -/
def nonZero (g : Image) (a n base : Nat) : List Nat :=
  match (List.range n).find? fun k => g.u8 (a + k) != 0 with
  | some k => [a + k - base]
  | none => []

/-! Header and layout (R183, R184). -/

def badMagic (g : Image) : List Nat := bad (g.magic != 0x44524754) 0
def badVersion (g : Image) : List Nat := bad (g.verMajor != 1) 4 ++ bad (g.verMinor != 0) 6

/-- The size fields and the directory: sections 2 to 12 at their places with their lengths. -/
def badSizes (g : Image) : List Nat :=
  bad (g.totalSize != g.size || 1048576 < g.totalSize || g.totalSize != g.sec12 + g.dirLength 12) 0x08 ++
  bad (0x100 + g.bodySize != g.sec11 + g.sec11Len) 0x0C ++
  (List.range 11).flatMap fun k =>
    bad (g.dirOffset (k + 2) != g.secBase (k + 2)) (0x50 + 8 * k) ++
    bad (if k = 10 then g.dirLength 12 != 0 && g.dirLength 12 != 211 else g.dirLength (k + 2) != g.secLength (k + 2)) (0x54 + 8 * k)

/-! Reserved and padding bytes (R182; log entry 85): the bytes that a layout calls reserved, and the bytes of a word that are
reserved bits of its register in whole (R100, R140, R142, R144, R176). -/

/-- The network sets in use: those of the presets of defined AC points (R191). -/
def Image.netUsed (g : Image) (n : Nat) : Bool := (List.range 32).any fun p => g.isAC p && g.pPreset p == n + 1
/-- The threshold sets in use (R177). -/
def Image.thUsed (g : Image) (n : Nat) : Bool := (List.range 32).any fun p => g.isUsed p && fieldOf (g.pcfg p) 2 0 == n

/-- The whole reserved bytes of the 14 words of a threshold set (R176). -/
def setReserved : List (Nat × Nat) := [(0x0B, 1), (0x0F, 1), (0x13, 1), (0x17, 1), (0x26, 2), (0x35, 3), (56, 8)]
/-- The reserved words of a bank (R100). -/
def bankReserved : List (Nat × Nat) := [(4 * 0x0D1, 188), (4 * 0x2E9, 1116)]

/-- The reserved bytes of a section as places and lengths within it; section 11's padding is the gap before
section 12. BANK_B is not checked (R189). -/
def Image.reservedIn (g : Image) (sec : Nat) : List (Nat × Nat) :=
  match sec with
  | 1 => [(0x14, 12), (0xA8, 88)]
  | 2 => [(0x3A, 2), (0x4C, 180)]
  | 3 => (0x03, 5) :: (List.range 8).flatMap fun h => [(0x08 + 24 * h + 3, 1), (0x08 + 24 * h + 16, 8)]
  | 4 => ((List.range 8).filter fun h => g.mask h != 0).flatMap fun h => 
      [(33216 * h + 22, 2), (33216 * h + 56, 8)] ++ bankReserved.map fun r => (33216 * h + 448 + r.1, r.2)
  | 5 => ((List.range 128).flatMap fun i => [(16 * i + 6, 2), (16 * i + 15, 1)]) ++
           ((List.range 32).flatMap fun p => [(0x800 + 16 * p + 2, 2), (0x800 + 16 * p + 11, 1)]) ++
           (List.range 8).map fun c => (0xA00 + 8 * c + 3, 1)
  | 6 => (0x006, 2) :: ((List.range 3).filter g.netUsed).flatMap fun n => [(8 + 104 * n + 1, 3), (8 + 104 * n + 100, 4)]
  | 7 => (0x004, 12) :: ((List.range 48).flatMap fun j => [(0x010 + 32 * j + 3, 1), (0x010 + 32 * j + 30, 2)]) ++
           (List.range 24).flatMap fun j => [(0x610 + 16 * j + 3, 1), (0x610 + 16 * j + 12, 4)]
  | 8 => ((List.range 32).flatMap fun p => [(4 * p + 1, 1), (4 * p + 3, 1)]) ++
           ((List.range 8).filter g.thUsed).flatMap fun n => setReserved.map fun r => (0x080 + 0x40 * n + r.1, r.2)
  | 9 => [(0x02, 2), (0x0C, 20)]
  | 10 => [(1, 3), (12, 4)] ++ (List.range 32).map fun n => (16 + 16 * n + 9, 7)
  | 11 => (6, 2) :: ((List.range g.nField).map fun n => (8 + 16 * n + 14, 2)) ++ [(g.sec11Len, g.sec12 - g.sec11 - g.sec11Len)]
  | _ => []
def Image.sectionAt (g : Image) (sec : Nat) : Nat := if sec = 1 then 0 else g.secBase sec
def badReserved (g : Image) (sec : Nat) : List Nat :=
  (g.reservedIn sec).flatMap fun r => nonZero g (g.sectionAt sec + r.1) r.2 (g.sectionAt sec)

def badDigest (g : Image) : Bool :=
  sha384 (g.bytesAt 0x100 g.bodySize) != of384 (g.bytesAt 0x20 48)

/-! Signature (R199 to R201). -/

def Image.sigBytes (g : Image) : List Byte := g.bytesAt g.sec12 (g.dirLength 12)
def Image.hasSig (g : Image) : Bool := g.dirLength 12 != 0
/-- The public key, r ‖ s, and the bytes around them that R199 fixes. -/
def sigKey (b : List Byte) : List Byte := sliceOf b 15 97
def sigValue (b : List Byte) : List Byte := sliceOf b 115 96
def sigForm (b : List Byte) : Bool :=
  b.length == 211 && b.take 15 == [0xD2, 0x84, 0x44, 0xA1, 0x01, 0x38, 0x22, 0xA1, 0x3A, 0x00, 0x01, 0x00, 0x00, 0x58, 0x61] &&
    (sigKey b).take 1 == [0x04] && sliceOf b 112 3 == [0xF6, 0x58, 0x60]
def sigKeyHash (b : List Byte) : List Byte := bytes384 (sha384 (sigKey b))
/-- The Sig_structure over the signed bytes, with the protected header of ES384. -/
def imageSigStructure (g : Image) : List Byte :=
  cborArray [cborText [0x53, 0x69, 0x67, 0x6E, 0x61, 0x74, 0x75, 0x72, 0x65, 0x31], cborBytes [0xA1, 0x01, 0x38, 0x22], cborBytes [],
             cborBytes g.signedBytes]
def sigVerifies (g : Image) : Bool :=
  verifyP384 (sigKey g.sigBytes) (sha384 (imageSigStructure g)) (sigValue g.sigBytes)
/-- Does its key hash equal the fused hash? -/
def keyMatches (s : State) (g : Image) : Bool := g.hasSig && sigKeyHash g.sigBytes == makerHash s

/-- Reasons 0x06 to 0x09 in order. -/
def badSignature (s : State) (g : Image) : Option Nat :=
  let b := g.sigBytes
  if !g.hasSig then (if isSealed s then some 0x06 else none)
  else if !sigForm b then some 0x07
  else if isSealed s && !keyMatches s g then some 0x08
  else if !sigVerifies g then some 0x09 else none

/-! Section 2 (R186, R237). -/

def Image.runLanes (g : Image) (j : Nat) : Nat := g.u8 (g.harmEntry j + 1)
def Image.redoLanes (g : Image) (j : Nat) : Nat := g.u8 (g.harmEntry j + 2)
/-- RUN_START, RUN_LEN, REDO0_START, REDO0_LEN, REDO1_START, REDO1_LEN by number. -/
def Image.harmWord (g : Image) (j k : Nat) : Nat := g.u32 (g.harmEntry j + 4 + 4 * k)
def Image.supraLanes (g : Image) (j : Nat) : Nat := g.u8 (g.supraEntry j + 2)
def Image.supraStart (g : Image) (j : Nat) : Nat := g.u32 (g.supraEntry j + 4)
def Image.supraLen (g : Image) (j : Nat) : Nat := g.u32 (g.supraEntry j + 8)

def sumNat (l : List Nat) : Nat := l.foldl (· + ·) 0
def bitCount (m : Nat) : Nat := ((List.range 8).filter fun i => m.testBit i).length
/-- E_LANE_PEAK and S_LANE_PEAK as sections 6 and 7 give them. -/
def Image.eLaneSum (g : Image) : Nat := sumNat ((List.range g.nEntries).map g.slotLen)
def Image.sLaneSum (g : Image) : Nat :=
  sumNat ((List.range (min g.nH 48)).map fun j =>
    bitCount (g.runLanes j) * g.harmWord j 1 + bitCount (g.redoLanes j) * (g.harmWord j 3 + g.harmWord j 5)) +
  sumNat ((List.range (min g.nS 24)).map fun j => bitCount (g.supraLanes j) * g.supraLen j)
/-- The largest banking write: header, a point record and a session record for each defined point, CHECK. -/
def Image.bankMax (g : Image) : Nat := 64 + 512 * ((List.range 32).filter g.isUsed).length + 4

def badDeclaration (g : Image) : List Nat :=
  bad (g.pattern != 16) 0x14 ++ ((List.range 8).flatMap fun h => bad (32 < g.xbCF h) (0x18 + 2 * h)) ++
  ((List.range 8).flatMap fun h => bad (64 < g.xbFM h) (0x28 + 2 * h)) ++ bad (128 < g.xbME) 0x38 ++
  bad (g.eLanePeak != g.eLaneSum) 0x3C ++ bad (g.sLanePeak != g.sLaneSum) 0x40 ++
  bad (65536 < g.bankBytes || g.bankBytes < g.bankMax) 0x44

/-! Section 3 (R46 to R48, R188). -/

def badScan (g : Image) : List Nat :=
  bad (3600 < g.bgPeriod) 0x00 ++ bad (g.linkRx && !(g.mask 7).testBit 15) 0x02 ++
  (List.range 8).flatMap fun h =>
    bad (g.refSel h == 3 || (g.refSel h == 2 && g.feedsBilling h)) (0x08 + 24 * h + 2) ++
    ((List.range 16).flatMap fun i => bad (5 < g.gainCode (16 * h + i)) (0x08 + 24 * h + 4 + 4 * (i / 8)))

/-! Section 4 (R83, R91, R95, R99, R189). -/

/-- Multiply-accumulate operations of an engine in a beat, with the cross-fade pass. -/
def Image.firWork (g : Image) (h : Nat) : Nat :=
  2 * sumNat ((g.scanList h).map fun i =>
    let st := g.streams (16 * h + i)
    96 * 313 + (if st.testBit 1 then 113 * 32 else 0) + (if st.testBit 2 then 489 * 8 else 0) + (if st.testBit 3 then 48 * 72 else 0))

/-- The checks on one input of an engine. -/
def badFlueInput (g : Image) (h i : Nat) : List Nat :=
  let n := 16 * h + i
  let base := 33216 * h
  let half := 4 * (i / 8)
  let link := g.linkRx && n == 127
  bad (!(g.enabled n) && g.streams n != 0) (base + 4 + half) ++
  bad (g.integrated n && !(12 ≤ g.leak n && g.leak n ≤ 24)) (base + 24 + 2 * i) ++
  bad (link && g.integrated n) (base + 2) ++ bad (link && g.streams n != 0) (base + 8) ++
  bad (g.hasPQ n && !(g.trkEn (g.trkSel n))) (base + 12 + half)

def badEngine (g : Image) (h : Nat) : List Nat :=
  let base := 33216 * h
  if g.mask h = 0 then (nonZero g (Image.flueEntry h) 33216 (Image.flueEntry h)).map fun o => base + o
  else
    let dig := sha384 (g.bytesAt (Image.bankOffset h false) 16384)
    bad (g.cicOrder h < 3 || 5 < g.cicOrder h) base ++ ((List.range 16).flatMap (badFlueInput g h)) ++
    bad (1600000 < g.firWork h) (base + 4) ++ bad (8 < g.nDigest h) (base + 21) ++
    (List.range (8 - g.nDigest h)).flatMap (fun k =>
      let e := 64 + 48 * (g.nDigest h + k)
      (nonZero g (Image.flueEntry h + e) 48 (Image.flueEntry h)).map fun o => base + o) ++
    bad (g.feedsBilling h && !((List.range (min (g.nDigest h) 8)).any fun k => of384 (g.digest h k) == dig)) (base + 448)

/-- FLUE; the rule of R91 on the streams of a point's inputs is checked for an engine with MASK 0 too (log entry 111). -/
def badFlue (g : Image) : List Nat :=
  (List.range 8).flatMap (badEngine g) ++
  (List.range 32).flatMap fun p =>
    if !g.isUsed p then [] else
    match Preset.ofCode (g.pPreset p) with
    | some pr => (g.inputsOf p).flatMap fun n =>
        bad (!(g.streams n).testBit pr.streamBit) (33216 * (n / 16) + 4 + 4 * (n % 16 / 8))
    | none => []

/-! Section 5 (R108, R110, R114, R115, R135). -/

/-- Required and optional role positions of a type. -/
def positionsOf : Nat → List Nat × List Nat
  | 1 => ([0, 1, 2, 4, 5, 6], [3]) | 2 => ([0, 1, 4, 5], []) | 3 => ([0, 4], []) | 4 => ([0, 4], [5]) | _ => ([], [])

/-- One position of a defined point. -/
def badPosition (g : Image) (p q : Nat) : Bool :=
  let (req, opt) := positionsOf (g.pType p)
  match g.posIn p q with
  | none => req.contains q
  | some n =>
    let k := g.inKind n
    !(req.contains q || opt.contains q) || !g.enabled n || (g.linkRx && n == 127) ||
      (q < 4 && (List.range 32).any fun r => r != p && g.usesInput r n) ||
      (if q < 4 then !(k == 2 || k == 3 || k == 4) else k != 1) || (k == 4 && !g.integrated n)

def badPointDef (g : Image) (p : Nat) : List Nat :=
  let base := 0x800 + 16 * p
  if !g.isUsed p then
    ((List.range 7).flatMap fun q => bad (g.posIn p q).isSome (base + 4 + q)) ++
    bad (g.pCable p != 0 && g.pComp p != 2 && !g.pSenseFb p) (base + 12) else
  let vs := (g.posIn p 5).isSome
  bad (4 < g.pType p || g.pPreset p == 0) base ++
  bad (if g.isDC p then g.pTrk p != 0 || g.pComp p == 3 || (g.pComp p == 1 && !vs) || (g.pComp p != 1 && vs)
       else !(g.trkEn (g.pTrk p))) (base + 1) ++
  ((List.range 7).flatMap fun q => bad (badPosition g p q) (base + 4 + q)) ++
  bad (g.pCable p != 0 && g.pComp p != 2 && !g.pSenseFb p) (base + 12)

def badPulse (g : Image) (c : Nat) : List Nat :=
  let base := 0xA00 + 8 * c
  if !g.pulseEn c then [] else
  bad (!g.isUsed (g.pulsePoint c)) (base + 1) ++
  bad ((if g.isDC (g.pulsePoint c) then 4 else 8) < g.pulseQty c) (base + 2) ++ bad (g.pulseConst c == 0) (base + 4)

def badPoints (g : Image) : List Nat :=
  ((List.range 128).flatMap fun i => bad (4 < g.inKind i) (16 * i + 5) ++ bad (256000 < g.inDelay i) (16 * i + 12)) ++
  (List.range 32).flatMap (badPointDef g) ++ (List.range 8).flatMap (badPulse g)

/-! Section 6 (R26, R191, R192). -/

/-- The operations a type needs, and lane cycles per sample of each. -/
def opsOf (g : Image) (p : Nat) : List Nat := if g.isDC p then [1, 4, 0x10] else if g.isAC p then [1, 2, 3, 4, 0x10] else []
def opCost (g : Image) (p op : Nat) : Nat :=
  let filled := (List.range 7).filter fun q => (g.posIn p q).isSome
  let split := (filled.filter fun q => q != 3).length
  match op with
  | 1 => 6 * filled.length
  | 2 => 2 * g.netK (g.pPreset p - 1) * split
  | 3 => 6 * split
  | 4 => if g.isDC p then 12 else 8 * (g.elements p).length
  | _ => 0

/-- The samples of a point in the `b`-th beat of the pattern: METRO cycles of their arrival within the beat. The last
of a point's inputs is the one in the highest slot (R89). -/
def arrivals (g : Image) (p b : Nat) : List Nat :=
  match Preset.ofCode (g.pPreset p) with
  | some pr =>
    let late := (g.inputsOf p).foldl (fun m i => max m (2 * g.slotOf (i / 16) (i % 16))) 0
    ((List.range 10000).filter fun f => pr.dueIn (10000 * (16 + b) + f)).map fun f => 40 * f + late
  | none => []

/-- A sample on its way: its arrival, then the last cycle of EVAL, SPLIT, FUND and ACCUM once they are done. -/
structure SlotSample where
  arrive : Nat
  eval   : Option Nat
  split  : Option Nat
  fund   : Option Nat
  accum  : Option Nat

def SlotSample.doneOf (x : SlotSample) (op : Nat) : Option Nat :=
  match op with | 1 => x.eval | 2 => x.split | 3 => x.fund | _ => x.accum
def SlotSample.setDone (x : SlotSample) (op t : Nat) : SlotSample :=
  match op with
  | 1 => { x with eval := some t } | 2 => { x with split := some t } | 3 => { x with fund := some t } | _ => { x with accum := some t }
def before? (t : Option Nat) (start : Nat) : Bool := t.any fun c => decide (c < start)
/-- Has what precedes an operation been completed before a cycle? -/
def SlotSample.readyFor (x : SlotSample) (ac : Bool) (op start : Nat) : Bool :=
  match op with
  | 1 => decide (x.arrive < start)
  | 2 => before? x.eval start
  | 3 => before? x.eval start
  | _ => if ac then before? x.split start && before? x.fund start else before? x.eval start

/-- An entry takes, in arrival order, as many ready samples as its length allows after 8 cycles. -/
def runEntry (ac : Bool) (op cost start : Nat) : Nat → Nat → List SlotSample → List SlotSample
  | _, _, [] => []
  | room, k, x :: l =>
    if room = 0 then x :: l
    else if (x.doneOf op).isNone && x.readyFor ac op start then
      x.setDone op (start + 8 + (k + 1) * cost - 1) :: runEntry ac op cost start (room - 1) (k + 1) l
    else x :: runEntry ac op cost start room k l

/-- Slot entries of a point by the instant at which they serve a beat's samples: TAG 0 in that beat, TAG 1 in the
next. -/
def Image.slotTime (g : Image) (n : Nat) : Nat := g.slotStart n + if g.slotTag n then 400000 else 0
def insertSlot (g : Image) (n : Nat) : List Nat → List Nat
  | [] => [n]
  | x :: l => if g.slotTime n < g.slotTime x then n :: x :: l else x :: insertSlot g n l
def Image.slotsOf (g : Image) (p : Nat) : List Nat :=
  ((List.range g.nEntries).filter fun n => g.slotPoint n == p).foldl (fun l n => insertSlot g n l) []

/-- Does every sample of a beat complete before the point's CLOSE? -/
def beatCloses (g : Image) (p b : Nat) : Bool :=
  let run := (g.slotsOf p).foldl (fun l n =>
    let op := g.slotOp n
    if op = 0x10 ∨ opCost g p op = 0 then l
    else runEntry (g.isAC p) op (opCost g p op) (g.slotTime n) ((g.slotLen n - 8) / opCost g p op) 0 l)
    ((arrivals g p b).map fun a => (⟨a, none, none, none, none⟩ : SlotSample))
  ((g.slotsOf p).filter fun n => g.slotOp n == 0x10).all fun n => run.all fun x => before? x.accum (g.slotTime n)

/-- The checks on one entry: point, operation, place. -/
def badSlot (g : Image) (n : Nat) : List Nat :=
  let base := 0x140 + 8 * n
  let p := g.slotPoint n
  let used := p < 32 && g.isUsed p
  let op := g.slotOp n
  let stop := g.slotStart n + g.slotLen n
  bad ((op == 0x10 && !g.slotTag n) || (!g.slotTag n && g.slotStart n < 40000)) base ++
  bad (if g.slotTag n then g.pubCycle < stop else 400000 < stop) (base + 4) ++
  bad (!used) (base + 6) ++ bad (used && !((opsOf g p).contains op)) (base + 7) ++
  bad ((List.range g.nEntries).any fun m => m > n && g.slotLane m == g.slotLane n && g.slotStart m < stop &&
        g.slotStart n < g.slotStart m + g.slotLen m) base

def badEnergySlots (g : Image) : List Nat :=
  bad (g.pubCycle < 8000 || 40000 < g.pubCycle) 0 ++ bad (2048 < g.nEntries) 4 ++
  ((List.range 3).filter g.netUsed).flatMap (fun n =>
    bad (g.netK n < 4 || 12 < g.netK n) (8 + 104 * n) ++
    ((List.range (12 - g.netK n)).flatMap fun k => bad (g.netA n (g.netK n + k) != 0)
        (8 + 104 * n + 4 + 4 * (g.netK n + k)) ++ bad (g.netB n (g.netK n + k) != 0) (8 + 104 * n + 52 + 4 * (g.netK n + k)))) ++
  (if 2048 < g.nEntries then [] else (List.range g.nEntries).flatMap (badSlot g)) ++
  ((List.range 32).filter g.isUsed).flatMap fun p =>
    bad (!((opsOf g p).all fun op => (g.slotsOf p).any fun n => g.slotOp n == op) ||
         !((List.range 16).all fun b => beatCloses g p b)) 4

/-! Section 7 (R147, R193). -/

/-- A reservation: its first cycle, length, lanes, and the offset of its START field. -/
structure Reserve where
  start : Nat
  len   : Nat
  lanes : Nat
  off   : Nat

def Image.reserves (g : Image) : List Reserve :=
  ((List.range (min g.nH 48)).flatMap fun j => [
    ⟨g.harmWord j 0, g.harmWord j 1, g.runLanes j, 0x010 + 32 * j + 4⟩, ⟨g.harmWord j 2, g.harmWord j 3, g.redoLanes j, 0x010 + 32 * j + 12⟩,
    ⟨g.harmWord j 4, g.harmWord j 5, g.redoLanes j, 0x010 + 32 * j + 20⟩]) ++
  (List.range (min g.nS 24)).map fun j => ⟨g.supraStart j, g.supraLen j, g.supraLanes j, 0x610 + 16 * j + 4⟩
def Reserve.clash (a b : Reserve) : Bool :=
  a.off < b.off && (a.lanes &&& b.lanes) != 0 && a.start < b.start + b.len && b.start < a.start + a.len

def badSpectral (g : Image) : List Nat :=
  let twice := fun (l : List Nat) (f : Nat → Nat) (j : Nat) => l.any fun i => i < j && f i == f j
  let hs := (List.range (min g.nH 48)).filter g.harmValid
  let ss := (List.range (min g.nS 24)).filter g.supraValid
  bad (g.dH < 8 || 40 < g.dH) 0 ++ bad (g.dS < 2 || 20 < g.dS) 1 ++ bad (48 < g.nH) 2 ++ bad (24 < g.nS) 3 ++
  (hs.flatMap fun j =>
    let base := 0x010 + 32 * j
    bad (!g.hasPQ (g.harmInput j) || twice hs g.harmInput j) base ++ bad (g.harmWord j 3 == 0) (base + 16) ++
    bad (g.harmWord j 5 == 0) (base + 24) ++ bad (g.dH < g.redoBeats j + 2) (base + 28)) ++
  (ss.flatMap fun j => bad (!g.enabled (g.supraInput j) || g.supraInput j == 127 || twice ss g.supraInput j) (0x610 + 16 * j)) ++
  ((List.range (48 - g.nH)).flatMap fun k => nonZero g (g.harmEntry (g.nH + k)) 32 g.sec7) ++
  ((List.range (24 - g.nS)).flatMap fun k => nonZero g (g.supraEntry (g.nS + k)) 16 g.sec7) ++
  (g.reserves.filter fun a => g.reserves.any a.clash).map Reserve.off

/-! Section 8 (R161, R177). -/

/-- The event codes that a point type detects under an enable. -/
def eventsOfType : Nat → List Nat
  | 1 => [1, 2, 3, 4, 5, 6] | 2 => [1, 3, 4, 5, 6] | 3 => [3, 4, 5, 6] | 4 => [7, 8] | _ => []

/-- EVENT; of two fields that R177 relates the one named first is the offending one: HYST, SWELL_TH, INT_TH, FREQ_LO
(log entry 86). -/
def badEvents (g : Image) : List Nat :=
  ((List.range 32).flatMap fun p =>
    bad ((List.range 8).any fun k => bitOf (g.pcfg p) (16 + k) && !((eventsOfType (g.pType p)).contains (k + 1))) (4 * p + 2)) ++
  ((List.range 8).filter g.thUsed).flatMap fun n =>
    let base := 0x080 + 0x40 * n
    let sag := fieldOf (g.thSet n 1) 10 0
    let swell := fieldOf (g.thSet n 1) 26 16
    let int := fieldOf (g.thSet n 2) 10 0
    let hyst := fieldOf (g.thSet n 2) 23 16
    let lo := fieldOf (g.thSet n 4) 16 0
    let hi := fieldOf (g.thSet n 5) 16 0
    bad (sag ≤ hyst || int ≤ hyst) (base + 0x0A) ++ bad (swell ≤ 1000 + hyst) (base + 0x06) ++ bad (sag ≤ int) (base + 0x08) ++
    bad (lo < 40000 || hi ≤ lo || 70000 < hi) (base + 0x10)

/-! Sections 9, 10 and 11 (R35, R195, R197, R198, R399). -/

def badBanking (g : Image) : List Nat :=
  bad (g.bankPeriod == 0 || 100 < g.bankPeriod) 0 ++ bad (g.bankPeriod ≤ g.bankPhase) 1 ++ bad (g.bankStart ≤ g.pubCycle) 4 ++
  bad (400000 < g.bankStart + g.bankCycles || g.bankCycles < 4 * ((g.bankBytes + 7) / 8) + 2000) 8

def badDram (g : Image) : List Nat :=
  let ws := List.range (min g.nWin 32)
  let stop := fun n => g.winStart n + g.winLen n
  bad (32 < g.nWin) 0 ++ bad (65536 < g.ashBase + g.ashSize) 4 ++ bad (g.ashSize < 611 * g.nH) 8 ++
  (ws.flatMap fun n => bad (8000 < g.winLen n || 400000 < stop n) (16 + 16 * n + 4) ++
    bad (0 < n && (g.winStart n < g.winStart (n - 1) || g.winStart n < stop (n - 1))) (16 + 16 * n)) ++
  bad (100000 < sumNat (ws.map g.winLen) || 8 * sumNat ((ws.filter fun n => (g.winUse n).testBit 0).map g.winLen) < 1252 * g.nH ||
       (0 < g.nH && !(ws.any fun n => (g.winUse n).testBit 1))) 16 ++
  (List.range (32 - g.nWin)).flatMap fun k => nonZero g (g.winEntry (g.nWin + k)) 16 g.sec10

/-- One field entry; a POINT above 31 is refused whether or not the field shows a point (log entry 111). -/
def badField (g : Image) (n : Nat) : List Nat :=
  let base := 8 + 16 * n
  let c := g.fldCode n
  let known := [1, 2, 3, 4].contains c || (0x10 ≤ c && c ≤ 0x18) || (0x20 ≤ c && c ≤ 0x28)
  bad (3 < g.fldPort n) base ++ bad (!known) (base + 1) ++ bad (31 < g.fldPoint n) (base + 2) ++ bad (3 < g.fldFlags n) (base + 3) ++
  bad (800 < g.fldX n + g.fldW n ||
       (List.range g.nField).any fun m => m > n && g.fldPort m == g.fldPort n && !((g.fieldRect n).meet (g.fieldRect m)).isEmpty)
    (base + 4) ++
  bad (600 < g.fldY n + g.fldH n) (base + 6) ++ bad (g.fldW n < g.fieldGlyphCount n * g.glyphW) (base + 8) ++
  bad (g.fldH n < g.glyphH) (base + 10)

def badMantel (g : Image) : List Nat :=
  bad (64 < g.nField) 0 ++ bad (g.nGlyph == 0 || 256 < g.nGlyph || (0 < g.nField && g.nGlyph < 28)) 2 ++
  bad (g.glyphW < 4 || 64 < g.glyphW) 4 ++ bad (g.glyphH < 4 || 96 < g.glyphH) 5 ++
  if 64 < g.nField then [] else (List.range g.nField).flatMap (badField g)

/-! The decision. -/

/-- Reason, section and offset of the first check that fails, with the lowest of its offending fields; none where the
image is admitted. -/
def firstBad (reason sec : Nat) (l : List Nat) : Option (Nat × Nat × Nat) :=
  match l with
  | [] => none
  | o :: r => some (reason, sec, r.foldl min o)

def admission (s : State) (g : Image) : Option (Nat × Nat × Nat) :=
  firstBad 0x01 1 (badMagic g) <|> firstBad 0x02 1 (badVersion g) <|> firstBad 0x03 1 (badSizes g) <|>
  ((List.range 11).findSome? fun k => firstBad 0x04 (k + 1) (badReserved g (k + 1))) <|>
  firstBad 0x05 1 (bad (badDigest g) 0x20) <|> ((badSignature s g).map fun r => (r, 12, 0)) <|>
  firstBad 0x10 2 (badDeclaration g) <|> firstBad 0x11 3 (badScan g) <|> firstBad 0x12 4 (badFlue g) <|>
  firstBad 0x13 5 (badPoints g) <|> firstBad 0x14 6 (badEnergySlots g) <|> firstBad 0x15 7 (badSpectral g) <|>
  firstBad 0x16 8 (badEvents g) <|> firstBad 0x17 9 (badBanking g) <|> firstBad 0x18 10 (badDram g) <|>
  firstBad 0x19 11 (badMantel g)

end Sys2Proof.Machine
end

