-- ==== Sys2Proof/Machine/ImageStage.lean ====
section
/-! DEFINITION. Staging and activation of draught images (R207, R208, R355), the flash image slots, and the reads of the
DAMPER block with an effect (R214). -/

namespace Sys2Proof.Machine

/-! Flash image slots (R350, R355). -/

/-- The image in a slot, as its TOTAL_SIZE says and at most the slot. -/
def flashImage (s : State) (b : Bool) : Image :=
  let base := slotBase 3 b
  { bytes := (s.fw.flash.filter fun c => base ≤ c.1 && c.1 < base + slotSize 3).map fun c => (c.1 - base, c.2),
    size := min (Memory.readLE s.fw.flash (base + 8) 4) (slotSize 3) }
/-- Its image digest, over at most the slot. -/
def slotDigest (s : State) (b : Bool) : BitVec 384 :=
  let g := flashImage s b
  sha384 (g.bytesAt 0 (min (0x100 + g.bodySize) (slotSize 3)))
/-- The slot whose image has a digest; where both or neither match, the one the boot record names. -/
def slotWith (s : State) (d : BitVec 384) : Bool :=
  let a := slotDigest s false == d
  let b := slotDigest s true == d
  if a != b then b else imageSlotByte s
/-- The slot that holds the active image. -/
def activeImageSlot (s : State) : Bool := slotWith s ((activeDigest s).getD 0)

/-! Staging. -/

/-- Is the staging buffer in use for something else (R207)? -/
def stageBusy (s : State) : Bool :=
  s.damper.stage == .loading || s.damper.stage == .admitting || s.damper.pending || s.damper.outgoing.isSome

/-- IMAGE_STAGE: loading begins; what was staged is discarded. -/
def execImageStage (ord : Nat) (s : State) : Host.Outcome State Fault Refusal :=
  withBuffer [Opc.imageStage] ord s fun _ =>
    if stageBusy s || !(s.running Isl.conv) then s.finishFail ord 0x06 2
    else (s.updDamper fun d => { d with stage := .loading, staged := none, stageOrd := some ord }).setPhase ord .working

/-- The control plane writes a staged image to the slot that does not hold the active one (R355). -/
def keepStaged (bs : List Byte) (s : State) : State :=
  if s.running Isl.ctrl then writeSlot 3 (!(activeImageSlot s)) bs s else s

/-- IMAGE_TRANSFER_COMPLETE: the image as transferred goes to admission; a failed transfer empties the buffer. -/
def execImageTransferComplete (buf : HostRead) (s : State) : Host.Outcome State Fault Refusal :=
  match s.damper.stage, s.damper.stageOrd with
  | .loading, some ord =>
    match buf with
    | none => .next (bufferError ord 1 (s.updDamper fun d => { d with stage := .empty, staged := none, stageOrd := none }))
    | some bs =>
      let bs := padTo (match s.flight ord with | some d => d.bufLen | none => bs.length) bs
      let kept := bs.take 1048576
      .next (keepStaged kept (s.updDamper fun d =>
        { d with stage := .admitting, staged := some { bytes := Memory.ofBytes kept, size := bs.length } }))
  | _, _ => .next s

/-- ADMISSION_COMPLETE: the staged image is admitted whole, or refused with the buffer left empty (R202, R207). -/
def execAdmissionComplete (s : State) : Host.Outcome State Fault Refusal :=
  match s.damper.stage, s.damper.staged with
  | .admitting, some g =>
    let ord := s.damper.stageOrd
    match admission s g with
    | none =>
      let s := s.updDamper fun d => { d with stage := .staged, stageOrd := none, stgSigned := g.hasSig, stgMatch := keyMatches s g }
      .next (s.finishOpt ord 0 0 (zeros 4 ++ (bytes384 g.imageDigest).take 16))
    | some (r, sec, off) =>
      let s := s.updDamper fun d =>
        { d with stage := .rejected, staged := none, stageOrd := none, reason := r, sect := sec, offset := off }
      .next (s.finishOpt ord 0x09 (r + 256 * sec) (leBytes 4 off))
  | _, _ => .next s

/-- The conditions of an IMAGE_ACTIVATE (R207, R261): status and detail of the first that fails. -/
def activateFault (s : State) (d : Inflight) : Option (Nat × Nat) :=
  match s.damper.stage, s.damper.staged with
  | .staged, some g =>
    let expect := sliceOf d.bytes 20 32
    if !(allZero expect) && expect != (bytes384 g.imageDigest).take 32 then some (0x02, 20)
    else if s.damper.pending then some (0x06, 2) else none
  | _, _ => some (0x0E, 0)

/-- IMAGE_ACTIVATE: PENDING until the round boundary decides (R208). -/
def execImageActivate (ord : Nat) (s : State) : Host.Outcome State Fault Refusal :=
  withDescriptor [Opc.imageActivate] ord s fun d =>
    match activateFault s d with
    | some (st, det) => s.finishFail ord st det
    | none => (s.updDamper fun d => { d with pending := true, latchedAct := false, actOrd := some ord }).setPhase ord .working

/-! Reads (R214). -/

/-- DAMPER_BEAT_LO_READ freezes DAMPER_FRAME and DAMPER_BEAT_HI; with `hi`, the read of DAMPER_BEAT_HI that releases
them. -/
def execDamperBeatLoRead (hi : Bool) (s : State) : Host.Outcome State Fault Refusal :=
  .next (readRow Isl.conv s fun s =>
    let now := (word s.damper.frame, hiWord s.damper.beat)
    if hi then (s.readBack (s.damper.shadowBeat.getD now).2).updDamper fun d => { d with shadowBeat := none }
    else (s.readBack (loWord s.damper.beat)).updDamper fun d => { d with shadowBeat := some now })

/-- DAMPER_ACT_BEAT_LO_READ freezes DAMPER_ACT_BEAT_HI; with `hi`, the read of that register. -/
def execDamperActBeatLoRead (hi : Bool) (s : State) : Host.Outcome State Fault Refusal :=
  .next (readRow Isl.conv s fun s =>
    if hi then (s.readBack (s.damper.shadowAct.getD (hiWord s.damper.actBeat))).updDamper fun d => { d with shadowAct := none }
    else (s.readBack (loWord s.damper.actBeat)).updDamper fun d => { d with shadowAct := some (hiWord s.damper.actBeat) })

end Sys2Proof.Machine
end

