-- ==== Sys2Proof/Machine/Mantel.lean ====
section
/-! DEFINITION. Meanings of the commands of the mantel engine (chapter "Mantel: Legal Display Panels"), the rendering
of the legal fields at a round boundary and the start of the MANTEL island. -/

namespace Sys2Proof.Machine

def State.portAt (s : State) (p : Nat) : Port := Tab.at s.mantel.ports p .init
def State.updPort (s : State) (p : Nat) (f : Port → Port) : State :=
  { s with mantel := { s.mantel with ports := Tab.upd s.mantel.ports p f } }
def State.tableAt (s : State) (t : Nat) : TableSlot := Tab.at s.mantel.tables t .init
def State.updTable (s : State) (t : Nat) (f : TableSlot → TableSlot) : State :=
  { s with mantel := { s.mantel with tables := Tab.upd s.mantel.tables t f } }

/-! Port registers (R408). -/

def portReg (p k : Nat) : Nat := 0x35100 + 0x40 * p + k
def State.portEn (s : State) (p : Nat) : Bool := bitOf (s.reg (portReg p 0)) 0
def State.portColour (s : State) (p : Nat) : Bool := bitOf (s.reg (portReg p 0)) 1
def State.portFast (s : State) (p : Nat) : Bool := bitOf (s.reg (portReg p 0)) 15
def State.pgPin (s : State) (p : Nat) : Nat := s.fld (portReg p 0) 14 10
def State.geomW (s : State) (p : Nat) : Nat := s.fld (portReg p 4) 9 0
def State.geomH (s : State) (p : Nat) : Nat := s.fld (portReg p 4) 25 16
/-- CLOCK_PIX_CFG.DIV as it acts (R326). -/
def State.pixDiv (s : State) : Nat := max 8 (min 32 (s.fld 0x200C 5 0))

/-- Is a port's timing within R392? Line periods N of SD_CLK (2 DIV / 800 MHz each), H + VB lines. -/
def timingOk (s : State) (p : Nat) : Bool :=
  let hb := s.fld (portReg p 8) 9 0
  let vb := s.fld (portReg p 8) 25 16
  let n := s.geomW p / 4 + hb
  let frame := 2 * n * s.pixDiv * (s.geomH p + vb)
  8 ≤ hb && 2 ≤ vb && 50 * frame ≤ 800000000 && 800000000 ≤ 85 * frame && 2 * n * s.pixDiv ≤ 40000

/-! Tables (R395, R397, R398). -/

def TableSlot.activeBank (t : TableSlot) : List Host.Cell := if t.active then t.bank1 else t.bank0
def TableSlot.spareBank (t : TableSlot) : List Host.Cell := if t.active then t.bank0 else t.bank1
def TableSlot.swap (t : TableSlot) : TableSlot := { t with active := !t.active, copy := !t.copy, pending := false }

/-- Flash copies: offset and size. -/
def copyOff (t : Nat) (c : Bool) : Nat :=
  if t = 0 then 0x1700000 + (if c then 0x80000 else 0) else 0x1800000 + 0x40000 * (2 * (t - 1) + c.toNat)
def copySize (t : Nat) : Nat := if t = 0 then 0x80000 else 0x40000

/-- The bytes of a flash copy, by offset within it. -/
def flashCopy (s : State) (t : Nat) (c : Bool) : List Host.Cell :=
  (s.fw.flash.filter fun x => copyOff t c ≤ x.1 && x.1 < copyOff t c + copySize t).map fun x => (x.1 - copyOff t c, x.2)
def tableValid (t : Nat) (b : List Host.Cell) : Bool := if t = 0 then Wave.valid b else Map.valid b
def tableGen (t : Nat) (b : List Host.Cell) : Nat := if t = 0 then Wave.gen b else Map.gen b

/-- Load a target from flash: into the active bank goes the copy with a correct CRC and the higher GEN. The inactive bank stays as the
DRAM holds it; after an L3 of DRAM it is reloaded too, from the other copy (DEDUCED, log entry 125). -/
def loadTarget (both : Bool) (s : State) (t : Nat) : TableSlot :=
  let slot := s.tableAt t
  let a := flashCopy s t false
  let b := flashCopy s t true
  let pick := if tableValid t a && tableValid t b then some (decide (tableGen t a < tableGen t b))
              else if tableValid t a then some false else if tableValid t b then some true else none
  let used := match pick with | some c => if c then b else a | none => []
  let other := if both then (if pick == some true then a else b) else slot.spareBank
  { slot with bank0 := if slot.active then other else used, bank1 := if slot.active then used else other, pending := false,
              copy := pick.getD false }
def loadTables (both : Bool) (s : State) : State :=
  { s with mantel := { s.mantel with tables := Vector.ofFn fun t : Fin 5 => loadTarget both s t.val } }

/-- May a target's committed bank be taken into use now: is its port, or for the waveform table every port, between
updates? -/
def canSwap (s : State) (t : Nat) : Bool :=
  if t = 0 then s.mantel.ports.toList.all Port.isIdle else (s.portAt (t - 1)).isIdle
def swapPending (s : State) : State :=
  (List.range 5).foldl (fun s t => if (s.tableAt t).pending && canSwap s t then s.updTable t TableSlot.swap else s) s

/-! Window and targets (R401 to R403). -/

/-- The low-power window in force: a digest request suspends it. -/
def activeWindow (s : State) (p : Nat) : Option Rect :=
  if (s.portAt p).winOn && !s.mantel.showReq then some (s.portAt p).window else none

/-- The reduction of a target level in the window. -/
def reduceLevel (colour : Bool) (l : Nat) : Nat := if colour && l == 1 then 1 else if l < 8 then 0 else 15

/-- The level a pixel is to have: a legal pixel as rendered, any other as composed. -/
def targetLevel (s : State) (p px : Nat) : Nat :=
  let q := s.portAt p
  let l := if s.img.isLegal p px then Px.get (q.legalPx.getD q.levels) px else Px.get q.comp px
  match activeWindow s p with
  | some r => if r.has px then reduceLevel (s.portColour p) l else l
  | none => l

/-- The level a pixel shows once the update in progress, if one runs, has ended. -/
def Port.comingLevel (q : Port) (px : Nat) : Nat :=
  match q.phase with
  | .rising u => if u.region.has px then Px.get u.targets px else Px.get q.levels px
  | .scanning u => if u.region.has px then Px.get u.targets px else Px.get q.levels px
  | _ => Px.get q.levels px

/-- Limit a region to the window in force. -/
def limited (s : State) (p : Nat) (r : Rect) : Rect := match activeWindow s p with | some w => r.meet w | none => r

/-! Rendering (R401). -/

/-- Render one port: its legal pixels, and a legal update over the fields that differ from the panel. -/
def renderPort (s : State) (p : Nat) : State :=
  let g := s.img
  let fields := (g.portFields p).map fun n => (n, renderField s g s.mantel.showReq n)
  let s := s.updPort p fun q => { q with legalPx := some (Px.setAll [] (fields.flatMap fun f => f.2)) }
  let differs := fun (px : Nat) => (s.portAt p).comingLevel px != targetLevel s p px
  let changed := fields.filter fun f => f.2.any fun c => differs c.1
  let r := limited s p (Rect.bounding (changed.map fun f => g.fieldRect f.1))
  s.updPort p fun q => { q with legal := if r.isEmpty then none else some r }

/-- At a round boundary the engine renders every port; the request span's start and end show here. -/
def renderAll (s : State) : State :=
  if s.running Isl.mantel && s.mantel.run && s.active then
    let s := { s with mantel := { s.mantel with showReq := s.mantel.request } }
    (List.range 4).foldl renderPort s
  else s

/-! Choice of the next update (R402, R407). -/

/-- What would run next on a port. -/
inductive NextUpdate
  | step (st : StartStep)
  | legal (r : Rect)
  | windowOff
  | comp (c : CompWait)
  deriving DecidableEq, Repr

def nextUpdate (q : Port) : Option NextUpdate :=
  match q.start with
  | st :: _ => some (.step st)
  | [] => match q.legal with
    | some r => some (.legal r)
    | none => if q.winOff then some .windowOff else q.comps.head?.map NextUpdate.comp

/-- Take the chosen update out of what waits; a composition's descriptor completes (R260). -/
def takeNext (p : Nat) (n : NextUpdate) (s : State) : State :=
  match n with
  | .step _ => s.updPort p fun q => { q with start := q.start.drop 1 }
  | .legal _ => s.updPort p fun q => { q with legal := none }
  | .windowOff => s.updPort p fun q => { q with winOff := false }
  | .comp c => (s.updPort p fun q => { q with comps := q.comps.drop 1 }).finishOk c.ord (leBytes 1 c.clipped.toNat)

/-- Every pixel of the panel whose level differs from its target. -/
def differing (s : State) (p : Nat) : Rect :=
  let panel : Rect := ⟨0, 0, s.geomW p, s.geomH p⟩
  Rect.bounding ((panel.pixels.filter fun px => Px.get (s.portAt p).levels px != targetLevel s p px).map Rect.ofPixel)

/-- The level a pixel of the rest of a DIRTY region is redrawn at: 15 where the composition image is lost. -/
def restLevel (s : State) (p px : Nat) : Nat :=
  if s.img.isLegal p px || (s.portAt p).compOk then targetLevel s p px else 15

/-- Region, waveform mode, kind, identifier and target of each pixel of an update. -/
def planUpdate (s : State) (p : Nat) (n : NextUpdate) : Rect × Nat × UpdKind × Nat × (Nat → Nat) :=
  let fast := fun (m : Nat) => if (activeWindow s p).isSome then 1 else m
  let table := (s.tableAt 0).activeBank
  match n with
  | .step (.clear r) => (r, 2, .startup, 0, fun _ => Wave.clearLevel table)
  | .step .legal => (limited s p (Rect.bounding ((s.img.portFields p).map s.img.fieldRect)), fast 0, .startup, 0, targetLevel s p)
  | .step (.rest r) => (limited s p r, fast 0, .startup, 0, restLevel s p)
  | .legal r => (limited s p r, fast (s.portFast p).toNat, .legal, 0, targetLevel s p)
  | .windowOff => (differing s p, 0, .windowOff, 0, targetLevel s p)
  | .comp c => (limited s p c.region, fast c.mode, .composition, c.imageId, targetLevel s p)

def UpdKind.code : UpdKind → Nat
  | .legal => 0 | .composition => 1 | .startup => 2 | .windowOff => 3

/-- The start-up legal redraw waits for the first rendering, where there is an image to render. -/
def mustWait (s : State) (p : Nat) (n : NextUpdate) : Bool :=
  n == .step .legal && s.active && (s.portAt p).legalPx.isNone

/-! Temperature (R396). -/

/-- The temperature of an NTC thermistor of 10 kΩ at 25 °C, in units of 0.5 °C rounded down: 1/T = 1/T25 + ln (R/R25) / B in
kelvins (R396; PRESUMED, log entry 15). -/
def thermistor (ohms b : Nat) : Int :=
  let inv : Rat := 20 / 5963 + lnRat ((ohms : Rat) / 10000) / (b : Nat)
  if ohms = 0 ∨ b = 0 ∨ inv ≤ 0 then Config.thermistor ohms b else (2 / inv - 5463 / 10).floor

/-- The reading that an update of a port gets, in units of 0.5 °C (those of BOUND, R395). -/
def readTemp (s : State) (p : Nat) (t : TempRead) : Option Int :=
  match s.fld (portReg p 0xC) 1 0, t with
  | 0, .pmic b => some (2 * signed b.toNat 8)
  | 0, _ => none
  | 1, .ohms r => some (thermistor r (25 * s.fld (portReg p 0xC) 31 24))
  | 1, _ => none
  | _, _ => some (2 * signed (s.fld (portReg p 0xC) 23 16) 8)

/-- The last reading while it is at most 60 s old. -/
def lastTemp (s : State) (p : Nat) : Option Int :=
  let q := s.portAt p
  (q.tempAt.filter fun a => s.fault.timeBase ≤ a + 6000000000).map fun _ => q.temp

/-! The course of an update (R394, R404). -/

def journal (p : Nat) (dirty : Bool) (u : Update) (s : State) : State :=
  let t := s.rtc.count
  s.updEmber fun e => e.putJournal p dirty u.kind.code u.mode u.region u.imageId u.frames u.range t

/-- Start the update at a temperature: range, journal DIRTY, high voltage. -/
def beginUpdate (p : Nat) (n : NextUpdate) (temp : Int) (s : State) : State :=
  let table := s.tableAt 0
  let map := s.tableAt (p + 1)
  let (region, mode, kind, id, level) := planUpdate s p n
  let r := Wave.range table.activeBank temp
  let lost := match n with | .step (.rest _) => !(s.portAt p).compOk | _ => false
  let u : Update :=
    { kind := kind, region := region, mode := mode, imageId := id, range := r, bank := table.active, mapBank := map.active,
      frames := Wave.frames table.activeBank mode r,
      targets := Px.setAll [] (region.pixels.map fun px => (px, level px)) }
  let s := takeNext p n s
  let s := if lost then s.setFlag (portReg p 0x10) 5 else s
  let mismatch := Map.headOk map.activeBank && (Map.w map.activeBank != s.geomW p || Map.h map.activeBank != s.geomH p)
  journal p true u (s.updPort p fun q =>
    { q with phase := .rising u, hven := true, range := r, mapMismatch := mismatch, aborted := false, lastKind := kind.code,
             lastMode := mode, frames := u.frames, timingErr := false })

/-- Can the engine start an update at all? -/
def engineFree (s : State) (p : Nat) : Bool :=
  s.running Isl.mantel && s.running Isl.ember && s.mantel.run && s.portEn p && s.ember.trigger.isNone &&
  Wave.valid (s.tableAt 0).activeBank

/-- The next update of a port starts, waits for a temperature, or is dropped where nothing of it is left to drive. -/
def tryUpdate (p : Nat) (temp : TempRead) (s : State) : State :=
  match nextUpdate (s.portAt p) with
  | none => s
  | some n =>
    if mustWait s p n then s
    else if (planUpdate s p n).1.isEmpty then takeNext p n s
    else if !(timingOk s p) then s.updPort p fun q => { q with timingErr := true }
    else
      let now := s.fault.timeBase
      match readTemp s p temp with
      | some t => beginUpdate p n t (s.updPort p fun q => { q with temp := t, tempAt := some now })
      | none => match lastTemp s p with
        | some t => beginUpdate p n t s
        | none => (s.setFlag (portReg p 0x10) 2).updPort p fun q => { q with phase := .waitTemp }

/-- A port between updates starts its next one. -/
def execUpdateStart (p : Fin 4) (temp : TempRead) (s : State) : Host.Outcome State Fault Refusal :=
  if engineFree s p.val && (s.portAt p.val).phase == .idle then .next (tryUpdate p.val temp s) else .next s

/-- A failed temperature read is retried. -/
def execTemperatureRetry (p : Fin 4) (temp : TempRead) (s : State) : Host.Outcome State Fault Refusal :=
  if engineFree s p.val && (s.portAt p.val).phase == .waitTemp then
    .next (tryUpdate p.val temp (s.updPort p.val fun q => { q with phase := .idle }))
  else .next s

/-- Periods of SD_CLK (DIV / 400 MHz) in a line, lines of a frame, and periods that have passed since an instant of the time base. -/
def linePeriods (s : State) (p : Nat) : Nat := s.geomW p / 4 + s.fld (portReg p 8) 9 0
def frameLines (s : State) (p : Nat) : Nat := s.geomH p + s.fld (portReg p 8) 25 16
def clkPeriods (s : State) (since : Nat) : Nat := 4 * (s.fault.timeBase - since) / s.pixDiv

/-- Frame and line of a scan in period `n`. -/
def scanFrame (s : State) (p n : Nat) : Nat := n / (linePeriods s p * frameLines s p)
def scanLine (s : State) (p n : Nat) : Nat := n / linePeriods s p % frameLines s p
/-- How long a scan ran before a trigger stopped it, in periods; and the period in which the line in progress then ends. -/
def stopPeriods (s : State) (x : StoppedScan) : Nat := 4 * (x.trigger - x.start) / s.pixDiv
def stopLineEnd (s : State) (p : Nat) (x : StoppedScan) : Nat := (stopPeriods s x / linePeriods s p + 1) * linePeriods s p

/-- The polarity in which the last scan of a port left SD_POL, where POL_MODE inverts it. -/
def restPol (s : State) (p : Nat) : Bool :=
  let q := s.portAt p
  match q.stopped with
  | some x => q.pol != (scanFrame s p (stopPeriods s x) % 2 == 0)
  | none => q.pol
/-- SD_POL (R392): POL_MODE 0 low, 1 high, 2 inverted at the start of each frame, 3 as 0. -/
def polarity (s : State) (p : Nat) (inverted : Bool) : Bool :=
  match s.fld (portReg p 0) 3 2 with
  | 1 => true
  | 2 => inverted
  | _ => false

/-- HV_DLY after MANTEL_HVEN rose: the frames are scanned. -/
def execHvDlyExpiry (p : Fin 4) (s : State) : Host.Outcome State Fault Refusal :=
  match (s.portAt p.val).phase with
  | .rising u =>
    let pol := restPol s p.val
    .next (s.updPort p.val fun q => { q with phase := .scanning u, scanAt := s.fault.timeBase, pol := pol, stopped := none })
  | _ => .next s

/-- The drive code of a pixel in frame `f` of the update being scanned (R393, R394, R397); frame F and every pixel
outside the region get zero. -/
def driveCode (s : State) (p : Nat) (u : Update) (f px : Nat) : Nat :=
  let t := s.tableAt 0
  let m := s.tableAt (p + 1)
  let table := if u.bank then t.bank1 else t.bank0
  let map := if u.mapBank then m.bank1 else m.bank0
  let used := Map.w map == s.geomW p && Map.h map == s.geomH p
  let k := if used then Map.cls map (px % 1024) (px / 1024) else 0
  let trim := if used then Map.trim map k else 0
  if u.frames ≤ f ∨ !(u.region.has px) then 0
  else if u.mode ≠ 2 ∧ f < trim then 0
  else Wave.code table u.mode u.range f (Px.get (s.portAt p).levels px) (Px.get u.targets px)

/-! The outputs of a port (R391 to R393, R405). -/

/-- SD_D in data period `j` of the line that shifts in row `k`: pixel 4j + i in bits [2i+1:2i]. -/
def dataCodes (s : State) (p : Nat) (u : Update) (f k j : Nat) : Nat :=
  (List.range 4).foldl (fun v i => v + driveCode s p u f (k * 1024 + 4 * j + i) * 4 ^ i) 0

/-- The outputs of a port towards its panel. -/
structure PanelPins where
  hven  : Bool
  sdLe  : Bool
  sdOe  : Bool
  sdPol : Bool
  sdD   : Nat
  gdClk : Bool
  gdSp  : Bool
  gdOe  : Bool
  deriving DecidableEq, Repr

/-- Nothing driven. -/
def quietPins (hven pol : Bool) : PanelPins :=
  { hven := hven, sdLe := false, sdOe := false, sdPol := pol, sdD := 0, gdClk := false, gdSp := false, gdOe := false }

/-- In period `n` of a scan: line `k` of frame `f` shifts in row `k` and drives row `k - 1`; lines 0 and from H + 1 on drive nothing.
Frame F is the zero frame, and after it the outputs rest until the update ends. -/
def scanPins (s : State) (p : Nat) (u : Update) (n : Nat) : PanelPins :=
  let line := linePeriods s p
  let f := scanFrame s p n
  let k := scanLine s p n
  let q := n % line
  let pol := fun (f : Nat) => polarity s p ((s.portAt p).pol != (f % 2 == 0))
  if u.frames < f then quietPins true (pol u.frames) else
  let driven := decide (1 ≤ k) && decide (k ≤ s.geomH p) && decide (2 ≤ q) && decide (q < line - 2)
  { hven := true, sdLe := q == 0, sdOe := driven, sdPol := pol f,
    sdD := if 4 ≤ q ∧ q < 4 + s.geomW p / 4 ∧ k < s.geomH p then dataCodes s p u f k (q - 4) else 0,
    gdClk := decide (q < line / 2), gdSp := k == 1 && q == 0, gdOe := driven }

/-- What an abort leaves (R405): the line in progress ends, every row of the frame that it leaves is selected once with all columns at
zero, 4 periods a row, and MANTEL_HVEN falls (log entry 45). -/
def stoppedPins (s : State) (p : Nat) (x : StoppedScan) : PanelPins :=
  let n := clkPeriods s x.start
  let ends := stopLineEnd s p x
  let rows := s.geomH p - min (scanLine s p (stopPeriods s x)) (s.geomH p)
  let quiet := quietPins (decide (n < ends + 4 * rows)) (polarity s p (restPol s p))
  if n < ends then scanPins s p x.update n
  else { quiet with gdClk := quiet.hven && decide ((n - ends) % 4 < 2) }

/-- What a port puts out now. -/
def State.panelPins (s : State) (p : Nat) : PanelPins :=
  let q := s.portAt p
  match q.phase with
  | .scanning u => scanPins s p u (clkPeriods s q.scanAt)
  | .rising _ => quietPins true (polarity s p (restPol s p))
  | _ => match q.stopped with
    | some x => stoppedPins s p x
    | none => quietPins false (polarity s p (restPol s p))

/-- The zero frame has been driven: high voltage off, journal CLEAN, the targets are the panel's levels; a committed
bank may come into use. -/
def execUpdateEnd (p : Fin 4) (s : State) : Host.Outcome State Fault Refusal :=
  match (s.portAt p.val).phase with
  | .scanning u =>
    let s := journal p.val false u (s.updPort p.val fun q =>
      { q with phase := .idle, hven := false, updates := (q.updates + 1) % 2 ^ 32,
               pol := q.pol != (u.frames % 2 == 0),
               levels := Px.setAll (q.levels.filter fun c => !(u.region.has c.1)) u.targets })
    .next (swapPending s)
  | _ => .next s

/-- 400 µs after a power-fail trigger (R405). -/
def execPowerGoodCheck (p : Fin 4) (high : Bool) (s : State) : Host.Outcome State Fault Refusal :=
  if !(s.portAt p.val).hvWatch then .next s else
  let s := s.updPort p.val fun q => { q with hvWatch := false }
  if high ∧ s.pgPin p.val < 16 then .next (reportFault Isl.mantel 0xB2 0 (s.setFlag (portReg p.val 0x10) 3))
  else .next s

/-! Run and request (R390, R401). -/

/-- MANTEL_CTL written. -/
def execMantelRun (v : Word) (s : State) : Host.Outcome State Fault Refusal :=
  if !(s.running Isl.mantel) then .next s else
  let s := (writeReg 0x35004 v s).putField 0x35004 0 0 (bitOf v 0).toNat
  .next { s with mantel := { s.mantel with run := bitOf v 0 } }

/-- MANTEL_REQ.DIGEST written 1. -/
def execDigest (s : State) : Host.Outcome State Fault Refusal :=
  if s.running Isl.mantel then .next { s with mantel := { s.mantel with request := true } } else .next s
def execDigestRequestEnd (s : State) : Host.Outcome State Fault Refusal :=
  .next { s with mantel := { s.mantel with request := false } }

/-! Loading (R398). -/

/-- A target takes writes while it exists, has no committed bank waiting and no commit of it runs. -/
def tableWritable (s : State) (t : Nat) : Bool := t < 5 && !(s.tableAt t).pending && s.mantel.commit != some t

/-- Write four bytes into the inactive bank of a target. -/
def storeWord (t a : Nat) (v : Word) (s : State) : State :=
  s.updTable t fun b =>
    let bank := Memory.writeN b.spareBank a (leBytes 4 v.toNat)
    if b.active then { b with bank0 := bank } else { b with bank1 := bank }

/-- MANTEL_TBL_DATA written. -/
def execMantelTblData (v : Word) (s : State) : Host.Outcome State Fault Refusal :=
  if !(s.running Isl.mantel) then .next s else
  let t := s.fld 0x35010 2 0
  let a := 4 * s.fld 0x35014 18 2
  if tableWritable s t then .next ((storeWord t a v s).putField 0x35014 18 2 ((a + 4) / 4 % 2 ^ 17))
  else if t < 5 then .next (s.setFlag 0x3501C 8) else .next s

/-- The check of a loaded bank: 0, or the CAUSE. -/
def commitCheck (s : State) (t : Nat) : Nat :=
  let b := (s.tableAt t).spareBank
  if t = 0 then (if !(Wave.headOk b) then 1 else if !(Wave.crcOk b) then 2 else 0)
  else if !(Map.headOk b) then 1
  else if Map.w b ≠ s.geomW (t - 1) ∨ Map.h b ≠ s.geomH (t - 1) ∨ 0x40000 < Map.size b then 3
  else if !(Map.crcOk b) then 2 else 0

def commitFail (cause : Nat) (s : State) : State :=
  { s.setFlag 0x3501C 3 with mantel := { s.mantel with commit := none, cause := cause } }

/-- MANTEL_TBL_CTL written with COMMIT. -/
def execCommit (v : Word) (s : State) : Host.Outcome State Fault Refusal :=
  if !(s.running Isl.mantel) then .next s else
  let s := writeReg 0x35010 v s
  let t := s.fld 0x35010 2 0
  if !(bitOf v 4) || s.mantel.commit.isSome || !(tableWritable s t) then .next s
  else match commitCheck s t with
    | 0 => .next { s with mantel := { s.mantel with commit := some t } }
    | c => .next (commitFail c s)

/-- The commit's flash write ends: the copy that does not hold the active GEN holds the new bank. -/
def execCommitComplete (flashOk : Bool) (s : State) : Host.Outcome State Fault Refusal :=
  match s.mantel.commit with
  | none => .next s
  | some t =>
    if !flashOk then .next (commitFail 4 s) else
    let b := s.tableAt t
    let off := copyOff t (!b.copy)
    let size := if t = 0 then Wave.size b.spareBank else Map.size b.spareBank
    let flash := Memory.writeN s.fw.flash off (Memory.readN b.spareBank 0 size)
    let s := { s with fw := { s.fw with flash := flash }, mantel := { s.mantel with commit := none } }
    .next (swapPending (s.updTable t fun b => { b with pending := true }))

/-! Compositions (R402, R403). -/

/-- The level of pixel `i` of a row of composed bytes. -/
def composedLevel (format : Nat) (row : List Byte) (i : Nat) : Nat :=
  if format = 0 then let b := (row.getD (i / 2) 0).toNat; if i % 2 = 0 then b % 16 else b / 16
  else match (row.getD (i / 4) 0).toNat / 4 ^ (i % 4) % 4 with
    | 0 => 0 | 2 => 1 | _ => 15

/-- The pixels of a composition with their levels. -/
def composedPixels (r : Rect) (format : Nat) (data : List Byte) : List (Nat × Nat) :=
  let stride := (r.w * (if format = 0 then 4 else 2) + 7) / 8
  (List.range r.h).flatMap fun y =>
    let row := (data.drop (y * stride)).take stride
    (List.range r.w).map fun x => ((r.y + y) * 1024 + (r.x + x), composedLevel format row x)

/-- A composition takes its place in the order of fetching. -/
def insertComp (w : CompWait) (l : List CompWait) : List CompWait :=
  l.filter (fun c => decide (c.ord < w.ord)) ++ w :: l.filter fun c => decide (w.ord ≤ c.ord)

/-- DISPLAY_COMPOSE: pixels outside the legal fields are stored; the update waits its turn. -/
def execDisplayCompose (ord : Nat) (buf : HostRead) (s : State) : Host.Outcome State Fault Refusal :=
  withBuffer [Opc.displayCompose] ord s fun d =>
    match buf with
    | none => bufferError ord 1 s
    | some bs =>
      let p := d.op 20 1
      let r : Rect := ⟨d.op 24 2, d.op 26 2, d.op 28 2, d.op 30 2⟩
      let px := composedPixels r (d.op 21 1) (padTo d.bufLen bs)
      let kept := px.filter fun c => !(s.img.isLegal p c.1)
      let w : CompWait := { ord := ord, region := r, mode := d.op 22 1, imageId := d.op 32 4,
                            clipped := kept.length != px.length }
      (s.updPort p fun q => { q with comp := Px.setAll q.comp kept, compOk := true, comps := insertComp w q.comps }).setPhase
        ord .working

/-- DISPLAY_WINDOW. -/
def execDisplayWindow (ord : Nat) (s : State) : Host.Outcome State Fault Refusal :=
  withDescriptor [Opc.displayWindow] ord s fun d =>
    let p := d.op 20 1
    let r : Rect := ⟨d.op 24 2, d.op 26 2, d.op 28 2, d.op 30 2⟩
    if d.op 21 1 = 0 then
      (s.updPort p fun q => { q with winOn := false, winOff := true }).finishOk ord []
    else if (s.img.portFields p).all fun n => s.img.onRequest n || r.contains (s.img.fieldRect n) then
      (s.updPort p fun q => { q with winOn := true, window := r, winOff := false }).finishOk ord []
    else s.finishFail ord 0x02 24

/-! Start of the island (R398, R407). -/

/-- The start-up redraw of a port: a DIRTY region is cleared, the legal fields are redrawn, then the rest of it. -/
def startSteps (s : State) (p : Nat) : List StartStep :=
  if s.ember.journalDirty p then [.clear (s.ember.journalRegion p), .legal, .rest (s.ember.journalRegion p)] else [.legal]
/-- What the engine does at every start of the MANTEL island, and after an L3 of DRAM. -/
def mantelStart (dramLost : Bool) (s : State) : State :=
  let s := loadTables dramLost s
  (List.range 4).foldl (fun s p => let st := startSteps s p; s.updPort p fun q => { q with start := st, legalPx := none }) s

end Sys2Proof.Machine
end

