-- ==== Sys2Proof/Machine/Records.lean ====
section
/-! DEFINITION. Records, banks and the power-fail sequence (chapter "Sessions, Billing Records and the Ember Store"):
issue (R221 to R224, R227), signing (R225, R226, R229 to R231), the scheduled banking write (R196, R236), the triggers of
a final bank and its end (R240, R241, R421), and the reads of the EMBER block with an effect (R248). -/

namespace Sys2Proof.Machine

/-! Record issue. -/

/-- Types that are not issued while the queue is LOW or GATED (R227). -/
def RecType.skippable (t : RecType) : Bool := t == .interval || t == .event || t == .imageSwap

/-- A record that is not issued: counted, and the session gets RECORD_SKIPPED. -/
def skipRecord (r : DueRecord) (s : State) : State :=
  let s := s.updEmber fun e => { e with skipped := min (e.skipped + 1) (2 ^ 32 - 1) }
  match r.session with
  | some k => flagSession k 128 s
  | none => s

/-- Descriptors that wait for the SEQ of the OPEN or CLOSE record of session `k`. -/
def fillSeq (op k seq : Nat) (s : State) : State :=
  s.updHost fun h =>
    { h with inflight := h.inflight.map fun d =>
        match d.phase with
        | .signing k' b 0 => if d.opcode = op ∧ k' = k then { d with phase := .signing k b seq } else d
        | _ => d }

/-- What the issue of a record brings with it: SEQs kept in the context, descriptors that wait for the SEQ (R264), the
marker's end (R244), the configuration digests (R234). -/
def issueEffects (r : DueRecord) (seq : Nat) (s : State) : State :=
  match r.type, r.session with
  | .openRec, some k => fillSeq Opc.sessionOpen k seq (s.setSession k fun x => { x with openSeq := seq })
  | .close, some k => fillSeq Opc.sessionClose k seq (s.setSession k fun x => { x with closeSeq := seq })
  | .pause, _ => s.finishOpt r.ord 0 0 (leBytes 8 r.beat ++ leBytes 8 seq)
  | .resume, _ => s.finishOpt r.ord 0 0 (leBytes 8 r.beat ++ leBytes 8 seq)
  | .timeSet, _ => s.finishOpt r.ord 0 0 (r.detail.take 7 ++ zeros 1 ++ leBytes 8 seq)
  | .fwChange, _ => s.updEmber fun e => e.putCfg ((activeDigest s).getD 0) e.legalNow
  | .powerReturn, _ => s.updEmber Ember.dropMarker
  | _, _ => s

/-- Write a record as the queue entry of the next SEQ; its issue is the write of CHECK, with the counter. -/
def putRecord (r : DueRecord) (s : State) : State :=
  let seq := s.ember.nextSeq
  let s := s.updEmber fun e => { (e.put (entryOff seq) (entryBytes r seq)).putCounter e.epoch seq with nextSeq := seq + 1 }
  issueEffects r seq s

/-- RECORD_ISSUE: the first due record, once the publication cycle has completed it and its entry is free. A FW_CHANGE
that meets a GATED queue falls due again (R234). -/
def execRecordIssue (s : State) : Host.Outcome State Fault Refusal :=
  match s.ember.due with
  | [] => .next s
  | r :: rest =>
    if !(s.running Isl.ember) || s.layerHeld || !r.ready then .next s
    else
      let s' := s.updEmber fun e => { e with due := rest }
      if r.type.skippable && s.ember.low then .next (skipRecord r s')
      else if r.type == .fwChange && s.ember.gated then .next s'
      else if s.ember.free = 0 then .next s
      else .next (putRecord r s')

/-! Encoding (R229 to R231). -/

/-- The sizes of a type's DETAIL values, in order; a size of 16 is a digest. -/
def RecType.detailSizes (code : Nat) : List Nat :=
  match code with
  | 1 => [1, 4, 1, 8] | 2 => [1, 1, 1] | 5 => [1, 8, 4, 8] | 6 => [4] | 7 => [1, 1, 1, 8, 4, 4, 4]
  | 8 => [5, 2, 5, 2, 1] | 9 => [16, 16] | 10 => [16, 16] | 11 => [1, 1] | 12 => [1, 5, 4] | _ => []

def detailItems : List Nat → List Byte → List (List Byte)
  | [], _ => []
  | n :: ns, bs => (if n = 16 then cborBytes (bs.take 16) else cborUint (leNat (bs.take n))) :: detailItems ns (bs.drop n)

/-- The payload of the record that a 256-byte entry body holds. -/
def recordPayload (e : List Byte) : List Byte :=
  let n := fun (off size : Nat) => leField e off size
  let opt := fun (b : Bool) (kv : Nat × List Byte) => if b then [kv] else []
  let session := n 0x0C 2 != 0xFFFF
  let sizes := RecType.detailSizes (n 8 1)
  cborMap ([(1, cborUint (n 8 1)), (2, cborUint (n 0 8)), (3, cborBytes deviceId), (4, cborUint (n 0x20 4)),
      (5, cborUint (n 0x18 8)), (6, cborArray [cborUint (n 0x10 8 / 32768), cborUint (n 0x10 8 % 32768)]),
      (7, cborUint (n 0x24 4)), (8, cborBytes (sliceOf e 0x28 8))] ++
    (if session then
      [(9, cborUint (n 0x0A 1)), (10, cborUint (n 0x0C 2)), (11, cborBytes (sliceOf e 0x30 32)),
       (12, cborArray [cborUint (n 0xCC 1), cborUint (n 0xCD 1)]),
       (13, cborArray ((List.range (n 9 1)).map fun k => cborBytes (sliceOf e (0x50 + 12 * k) 12)))] else []) ++
    opt (n 0xBC 12 != 0) (14, cborBytes (sliceOf e 0xBC 12)) ++
    opt (session && (n 0x0B 1).testBit 7)
      (15, cborArray [cborUint (n 0x0B 1 % 4), cborUint (n 0xC8 4), cborUint (n 0x0B 1 / 4 % 2)]) ++
    opt (!sizes.isEmpty) (16, cborArray (detailItems sizes (sliceOf e 0xD0 40))))

/-- The signature that an entry's content must carry, and the whole record as delivered. -/
def Ember.payload (e : Ember) (seq : Nat) : List Byte := recordPayload (e.bytes (entryOff seq) 256)
def Ember.sigFor (e : Ember) (seq : Nat) : BitVec 512 := signPayload (e.payload seq)
def Ember.sigHeld (e : Ember) (seq : Nat) : BitVec 512 := BitVec.ofNat 512 (beNat (e.bytes (entryOff seq + 0x100) 64))
def Ember.record (e : Ember) (seq : Nat) : List Byte := coseSign1 (e.payload seq) (e.sigHeld seq)

/-- Issued records that are not acknowledged, ascending. -/
def Ember.unacked (e : Ember) : List Nat :=
  ((List.range (e.nextSeq - 1 - e.ackSeq)).map fun i => e.ackSeq + 1 + i).filter e.holds

def signPosted (s : State) (seq : Nat) : Bool :=
  s.damper.mailbox.any fun m => match m.cmd with | .sign q _ _ => q == seq | _ => false

/-- Every record that the queue still holds, acknowledged or not, ascending. -/
def Ember.queued (e : Ember) : List Nat := ((List.range 1024).map fun i => e.nextSeq - 1024 + i).filter e.holds

/-- The next record to sign: an unsigned one above the acknowledged SEQ, else any signed one whose signature does not verify
(REPLACE, R226, R287). -/
def toSign (s : State) : Option (Nat × Bool) :=
  let e := s.ember
  match e.unacked.find? fun q => !(signPosted s q) && !(e.signedEntry q) with
  | some q => some (q, false)
  | none => (e.queued.find? fun q => !(signPosted s q) && e.signedEntry q && e.sigHeld q != e.sigFor q).map fun q => (q, true)

/-- RECORD_SIGNED: control firmware has had an entry signed by SEAL and posts its SIGN entry, where there is room. -/
def execRecordSigned (s : State) : Host.Outcome State Fault Refusal :=
  if s.ctrlServes && s.running Isl.seal && s.running Isl.ember && !s.rst.pilot then
    match toSign s with
    | some (q, r) => .next ((post (.sign q (s.ember.sigFor q) r) none s).getD s)
    | none => .next s
  else .next s

/-! Banking (R196). -/

/-- Does the schedule call for a bank in this beat, and is it not written yet? -/
def bankDue (s : State) : Bool :=
  let g := s.img
  let b := s.damper.beat
  let held := s.ember.newestArea.any fun a =>
    s.ember.le (areaBase a + 4) 4 == s.ember.epoch && s.ember.le (areaBase a + 0x10) 8 == publishedBeat s
  s.metering && (b % (max g.bankPeriod 1) == g.bankPhase || b == s.damper.actBeat) && b != s.ember.firstBeat &&
    publishedBeat s + 1 == b && !held

/-- BANKING_WRITE; `cut`: the supply collapses after so many bytes. -/
def execBankingWrite (cut : Option Nat) (s : State) : Host.Outcome State Fault Refusal :=
  if bankDue s then .next (writeBank false cut s) else .next s

/-! Power fail (R240, R241, R405). -/

/-- A trigger from the supply: the freeze with the panel abort, or the abort alone where there is nothing to bank. -/
def supplyTrigger (cause : Nat) (s : State) : State :=
  if canBank s then triggerBank cause 0 s else abortPanels s

/-- PFW_N as accepted after 2 µs. -/
def execPfwN (low : Bool) (s : State) : Host.Outcome State Fault Refusal :=
  let falls := low && !s.pins.pfw
  let s := { s with pins := { s.pins with pfw := low } }
  .next (if falls && pinEn s then supplyTrigger 0 s else s)

/-- VDD_IO33 crosses the power-fail monitor's threshold. -/
def execPowerFailMonitor (low : Bool) (s : State) : Host.Outcome State Fault Refusal :=
  let falls := low && !s.pins.vddIo33Low
  let s := { s with pins := { s.pins with vddIo33Low := low } }
  .next (if falls && monEn s then supplyTrigger 1 s else s)

/-- The episode's metrology islands enter reset once the wait of R241 is over. -/
def endWait (s : State) : State :=
  let s := { s with rst := { s.rst with episode := s.rst.episode.map fun e => { e with waiting := false } } }
  enterMetrologyReset false s

/-- MARKER_WRITTEN: the final bank is complete and the marker is written. Then a waiting reset goes on, an EMBER kept
through POR or BOR_CORE enters reset, and a metrology firmware activation proceeds. -/
def execMarkerWritten (s : State) : Host.Outcome State Fault Refusal :=
  match s.ember.trigger with
  | none => .next s
  | some t =>
    if t.done || !(s.running Isl.ember) then .next s
    else
      let s := writeMarker (finalBank s)
      if s.rst.episode.any Episode.waiting then .next (endWait s)
      else if s.rst.episode.any Episode.bank then
        let s := { s with rst := { s.rst with episode := s.rst.episode.map fun e => { e with bank := false } } }
        .next (enterReset Isl.ember s)
      else if s.fw.hold.isSome then .next (s.updEmber fun e => { e with trigger := none })
      else .next s

/-- FINAL_BANK_WAIT_TIMEOUT: 1 ms has passed without a marker. -/
def execFinalBankWaitTimeout (s : State) : Host.Outcome State Fault Refusal :=
  match s.rst.episode with
  | some e => if e.waiting && decide (100000 ≤ e.deep.getD 0) then .next (endWait s) else .next s
  | none => .next s

/-- POWER_FAIL_TRIGGER_END: the pin high and the monitor clear for 10 ms after a trigger of either, the supply not
failed: an assertion of BOR_IO. -/
def execPowerFailTriggerEnd (s : State) : Host.Outcome State Fault Refusal :=
  match s.ember.trigger with
  | some t =>
    if t.cause ≤ 1 && t.done && s.rst.episode.isNone && !(s.pins.pfw && pinEn s) && !(s.pins.vddIo33Low && monEn s) then
      .next (assertAt 3 (sourceLevel s 3) 0 s)
    else .next s
  | none => .next s

/-! Reads of the EMBER block (R248). -/

/-- EMBER_BANK_SEQ, EMBER_BANK_BEAT, EMBER_NEXT_SEQ and EMBER_ACK_SEQ by the offset of their _LO word. -/
def Ember.pairAt (e : Ember) (off : Nat) : Nat :=
  match off with
  | 0x008 => e.bankSeq | 0x010 => e.bankBeat | 0x020 => e.nextSeq | _ => e.ackSeq

/-- Drop a frozen word; freeze one. -/
def dropShadow (off : Nat) (l : List (Nat × Word)) : List (Nat × Word) := l.filter fun x => x.1 != off

/-- A read of a _LO word, which freezes its _HI word, or of a _HI word, which releases it. -/
def execEmberLoRead (off : Nat) (s : State) : Host.Outcome State Fault Refusal :=
  .next (readRow Isl.ember s fun s =>
    if off % 8 = 4 then
      let v := ((s.ember.shadows.find? fun x => x.1 == off).map Prod.snd).getD (hiWord (s.ember.pairAt (off - 4)))
      (s.readBack v).updEmber fun e => { e with shadows := dropShadow off e.shadows }
    else
      let v := s.ember.pairAt off
      (s.readBack (loWord v)).updEmber fun e =>
        { e with shadows := (off + 4, hiWord v) :: dropShadow (off + 4) e.shadows })

/-- EMBER_RD_DATA: the store word at ADDR, which advances by 4 modulo 512 KiB. -/
def execEmberRdDataRead (s : State) : Host.Outcome State Fault Refusal :=
  .next (readRow Isl.ember s fun s =>
    let a := 4 * s.fld 0x30080 18 2
    (s.readBack (word (leNat (s.ember.readStore a 4)))).putField 0x30080 18 2 ((a + 4) % 0x80000 / 4))

end Sys2Proof.Machine
end

