-- ==== Sys2Proof/Machine/Rings.lean ====
section
/-! DEFINITION. Rings, doorbells and PCIe (chapter "Host Interface: PCIe, Rings and Doorbells"): enabling and
disabling rings (R255, R278), doorbells (R257), fetching (R265, R440), completions with cancellation (R262, R266, R268),
the event, record and capture rings (R270 to R272), interrupts (R251, R273), and the link (R250, R291, R311). -/

namespace Sys2Proof.Machine

/-! Ring geometry (R252, R253). -/

def sqSize (s : State) (n : Nat) : Nat := 2 ^ (s.fld (sqCfg n) 3 0)
def oqSize (s : State) (m : Nat) : Nat := 2 ^ (s.fld (oqCfg m) 3 0)
def oqBase (s : State) (m : Nat) : Nat :=
  (s.reg (0x4204 + 0x20 * m)).toNat * 2 ^ 32 + fieldOf (s.reg (0x4200 + 0x20 * m)) 31 12 * 4096
def entrySize (m : Nat) : Nat := if m = 8 then 64 else if m = 9 then 512 else 32
def State.sqAt (s : State) (n : Nat) : SqRing := Tab.at s.host.sq n SqRing.init
def State.updSq (s : State) (n : Nat) (f : SqRing → SqRing) : State := s.updHost fun h => { h with sq := Tab.upd h.sq n f }
def State.oqAt (s : State) (m : Nat) : OqRing := Tab.at s.host.oq m OqRing.init
def State.updOq (s : State) (m : Nat) (f : OqRing → OqRing) : State := s.updHost fun h => { h with oq := Tab.upd h.oq m f }
/-- The CQ that an SQ names. -/
def sqCq (s : State) (n : Nat) : Nat := s.fld (sqCfg n) 10 8
/-- MAX_INFLIGHT: 0 and values above 64 act as 64. -/
def sqLimit (s : State) (n : Nat) : Nat :=
  let v := s.fld (sqCfg n) 18 12
  if v = 0 ∨ 64 < v then 64 else v

/-! Interrupts (R273). -/

/-- Send a ring's message: none follows until its head doorbell is written. -/
def ringMessage (m : Nat) (s : State) : State :=
  (s.updOq m fun q => { q with armed := false, since := 0, late := false }).raiseVector (s.fld (oqCfg m) 11 8)
/-- Where the counted entries reach COAL.COUNT, or their time has passed, and a message may be raised. -/
def announce (m : Nat) (s : State) : State :=
  let q := s.oqAt m
  if q.armed && (decide (max (s.fld (0x420C + 0x20 * m) 7 0) 1 ≤ q.since) || q.late) then ringMessage m s else s

/-- COAL_TIME_EXPIRY. -/
def execCoalTimeExpiry (m : Fin 11) (s : State) : Host.Outcome State Fault Refusal :=
  let q := s.oqAt m.val
  if s.running Isl.host ∧ 0 < s.fld (0x420C + 0x20 * m.val) 25 16 ∧ 0 < q.since then
    .next (announce m.val (s.updOq m.val fun q => { q with late := true }))
  else .next s

/-- Vectors that wait and are no longer masked are sent (PCIe, R251). -/
def flushVectors (s : State) : State :=
  (List.range 16).foldl (fun s v =>
    if s.host.pba.testBit v && !(s.masked v) then (s.updHost fun h => { h with pba := setBitN h.pba v false }).raiseVector v
    else s) s

/-! Placing an entry. -/

/-- May the device place entries now: HOST and the host reachable, not in D3hot (R250)? -/
def canWriteRing (s : State) : Bool := canDma s && !s.host.d3hot
/-- A free slot in an enabled ring (R253, R254). -/
def ringFree (s : State) (m : Nat) : Bool :=
  let q := s.oqAt m
  s.oqEnabled m && (q.tail + 1) % oqSize s m != q.head

/-- Write an entry with the write phase already in it; the tail advances, the phase inverts at its wrap. -/
def placeEntry (m : Nat) (counted : Bool) (bs : List Byte) (s : State) : State :=
  let q := s.oqAt m
  let t := (q.tail + 1) % oqSize s m
  let s := s.dmaWrite (oqBase s m + entrySize m * q.tail) bs
  announce m (s.updOq m fun q =>
    { q with tail := t, phase := if t = 0 then !q.phase else q.phase, since := if counted then q.since + 1 else q.since })

/-- A failed entry write (R275). -/
def ringFault (m : Nat) (s : State) : State :=
  let s := s.setReg (oqCfg m) (s.reg (oqCfg m) &&& ~~~(putAt 1 31))
  transferError 3 (8 + m) (s.setFlag (0x4218 + 0x20 * m) 1)

/-- Place an entry, or take the consequences of its failure. -/
def tryEntry (m : Nat) (ok counted : Bool) (bs : Bool → List Byte) (after : State → State) (s : State) : State :=
  if !(canWriteRing s) || !(ringFree s m) then s
  else if ok then after (placeEntry m counted (bs (s.oqAt m).phase) s) else ringFault m s

/-! Enabling and disabling (R255, R278). -/

/-- RING_ENABLE: a write of a ring's CFG with ENABLE 1. -/
def execRingEnable (sub : Bool) (n : Fin 11) (v : Word) (s : State) : Host.Outcome State Fault Refusal :=
  if !(s.running Isl.host) || (sub && 8 ≤ n.val) || !(bitOf v 31) then .next s else
  let a := if sub then sqCfg n.val else oqCfg n.val
  let was := bitOf (s.reg a) 31
  let s := writeReg a v s
  if was then .next s
  else
    let s := s.setFlag a 31
    if sub then .next (s.updSq n.val fun _ => SqRing.init)
    else
      let s := s.updOq n.val fun _ => OqRing.init
      -- RCQ starts again at the lowest unacknowledged SEQ (R271), EVQ at EVENT_QRD (R292)
      .next (if n.val = 9 then s.updHost fun h => { h with rcqNext := s.ember.ackSeq + 1, rcqHeld := [] }
             else if n.val = 8 then s.updHost fun h => { h with evqHeld := [], evqLast := none } else s)

/-- SQ_DISABLE: a write of an SQ's CFG with ENABLE 0 discards its unfetched descriptors. -/
def execSqDisable (n : Fin 8) (v : Word) (s : State) : Host.Outcome State Fault Refusal :=
  if !(s.running Isl.host) || bitOf v 31 then .next s else
  let s := writeReg (sqCfg n.val) v s
  let s := s.setReg (sqCfg n.val) (s.reg (sqCfg n.val) &&& ~~~(putAt 1 31))
  .next (s.updSq n.val fun q => { q with vis := [] })

/-- Is a CQ in use: an enabled SQ names it, or a completion for it waits? -/
def cqInUse (s : State) (m : Nat) : Bool :=
  (List.range 8).any (fun n => s.sqEnabled n && sqCq s n == m) ||
  s.host.inflight.any fun d => sqCq s d.sq == m && d.phase.isDone

/-- OQ_DISABLE: a write of a device-to-host ring's CFG with ENABLE 0. -/
def execOqDisable (m : Fin 11) (v : Word) (s : State) : Host.Outcome State Fault Refusal :=
  if !(s.running Isl.host) || bitOf v 31 then .next s else
  let a := oqCfg m.val
  let was := bitOf (s.reg a) 31
  let s := writeReg a v s
  if !was then .next s
  else if m.val < 8 ∧ cqInUse s m.val = true then
    .next { s with regs := Regs.reject s.regs RegMap.host a }
  else
    let s := s.setReg a (s.reg a &&& ~~~(putAt 1 31))
    .next (if m.val = 10 then endCaptures 1 s else s)

/-! Doorbells (R257). -/

/-- The numbers that `count` new descriptors of an SQ take in the submission order (R267). -/
def newOrds (s : State) (count : Nat) : List Nat := (List.range count).map fun i => s.host.nextOrd + i

/-- What is wrong with a doorbell's index (R257): DB_RANGE for one that the ring does not take, DB_DISABLED for a disabled ring. -/
def doorbellErrs (enabled inRange : Bool) : Word := flagAt (!inRange) 0 ||| flagAt (!enabled) 1

/-- SQ_TAIL_DOORBELL. A write that does not enable all four bytes has no effect (R5, R251). -/
def execSqTailDoorbell (n : Fin 8) (be : BitVec 4) (v : Word) (s : State) : Host.Outcome State Fault Refusal :=
  if be ≠ 15 ∨ s.running Isl.host = false then .next s else
  let i := fieldOf v 11 0
  let err := doorbellErrs (s.sqEnabled n.val) (decide (i < sqSize s n.val))
  if err ≠ 0 then .next (s.hostErrs err n.val)
  else
    let count := (i + sqSize s n.val - (s.sqAt n.val).tail) % sqSize s n.val
    let new := newOrds s count
    .next ((s.updSq n.val fun q => { q with tail := i, vis := q.vis ++ new }).updHost fun h =>
      { h with nextOrd := h.nextOrd + count })

/-- Post an acknowledgement (R227); where the mailbox has no room, control firmware posts it later. -/
def postAck (seq : Nat) (s : State) : State :=
  match (if s.running Isl.ctrl then post (.ack seq) none s else none) with
  | some t => t.updHost fun h => { h with ackWait := none }
  | none => s.updHost fun h => { h with ackWait := some seq }

/-- Entries that host software has consumed from RCQ: the acknowledgement of the last of them. -/
def consumeRcq (count : Nat) (s : State) : State :=
  match (s.host.rcqHeld.take count).getLast? with
  | some seq => postAck seq (s.updHost fun h => { h with rcqHeld := h.rcqHeld.drop count })
  | none => s

/-- QSEQs from one entry to the newest, modulo 2^32. -/
def qBehind (s : State) (q : Nat) : Nat := (s.events.qseq + 2 ^ 32 - q) % 2 ^ 32
/-- Entries consumed from EVQ: EVENT_QRD moves past them (R292). -/
def consumeEvq (count : Nat) (s : State) : State :=
  match (s.host.evqHeld.take count).getLast? with
  | some q =>
    let left := min s.events.unread (qBehind s q)
    { s with events := { s.events with unread := left, qrd := (s.events.qseq + 2 ^ 32 - left) % 1024 },
             host := { s.host with evqHeld := s.host.evqHeld.drop count } }
  | none => s

/-- HEAD_DOORBELL. -/
def execHeadDoorbell (m : Fin 11) (be : BitVec 4) (v : Word) (s : State) : Host.Outcome State Fault Refusal :=
  if be ≠ 15 ∨ s.running Isl.host = false then .next s else
  let i := fieldOf v 11 0
  let q := s.oqAt m.val
  let size := oqSize s m.val
  let err := doorbellErrs (s.oqEnabled m.val)
    (decide (i < size) && decide ((i + size - q.head) % size ≤ (q.tail + size - q.head) % size))
  if err ≠ 0 then .next (s.hostErrs err (8 + m.val))
  else
    let count := (i + size - q.head) % size
    let s := s.updOq m.val fun q => { q with head := i, armed := true }
    let s := if m.val = 9 then consumeRcq count s else if m.val = 8 then consumeEvq count s else s
    .next (announce m.val s)

/-! Fetching (R265). -/

/-- Do the rings serve descriptors now? -/
def ringsServed (s : State) : Bool :=
  canDma s && s.ctrlServes && !s.host.d3hot && !(bitOf (s.reg 0x4004) 0) && !s.host.paused && s.fw.ctlAct.isNone &&
  decide (s.host.inflight.length < 64)

/-- The SQ served next: round-robin after the one served last. -/
def nextSq (s : State) : Option Nat :=
  ((List.range 8).map fun k => (s.host.lastSq + 1 + k) % 8).find? fun n =>
    s.sqEnabled n && !(s.sqAt n).vis.isEmpty && decide (s.sqInflight n < sqLimit s n)

/-- A failed fetch (R275). -/
def fetchFault (n : Nat) (s : State) : State :=
  let s := s.setReg (sqCfg n) (s.reg (sqCfg n) &&& ~~~(putAt 1 31))
  let s := s.updSq n fun q => { q with vis := [] }
  transferError 2 n (s.setFlag (0x4114 + 0x20 * n) 1)

/-- Judge a descriptor just fetched: one whose opcode is not listed, or that need not wait for others, fails its field
checks at once; one that must wait is judged when it starts (R440, R267). -/
def judgeFetched (ord : Nat) (s : State) : State :=
  match s.flight ord with
  | some d =>
    match staticFault s d with
    | some x => if !(Opc.all.contains d.opcode) || mayStart s d then s.finishStatic d x else s
    | none => s
  | none => s

/-- DESCRIPTOR_FETCH. -/
def execDescriptorFetch (buf : HostRead) (s : State) : Host.Outcome State Fault Refusal :=
  if !(ringsServed s) then .next s else
  match nextSq s with
  | none => .next s
  | some n =>
    let s := s.updHost fun h => { h with lastSq := n }
    match buf, (s.sqAt n).vis with
    | some bs, ord :: rest =>
      let size := sqSize s n
      let s := s.updSq n fun q => { q with head := (q.head + 1) % size, vis := rest }
      let s := s.updHost fun h =>
        { h with inflight := h.inflight ++ [{ ord := ord, sq := n, bytes := padTo 64 bs, phase := .waiting }],
                 peak := max h.peak (h.inflight.length + 1) }
      .next (judgeFetched ord s)
    | _, _ => .next (fetchFault n s)

/-! Completions (R262, R266, R268). -/

def Inflight.tag (d : Inflight) : Nat := leField d.bytes 0 2
/-- The first descriptor of an SQ in flight. -/
def sqFirst (s : State) (n : Nat) : Option Nat := (s.host.inflight.find? fun d => d.sq == n).map Inflight.ord

def completionBytes (s : State) (d : Inflight) (c : Completion) (phase : Bool) : List Byte :=
  leBytes 2 d.tag ++ leBytes 1 c.status ++ leBytes 1 ((if phase then 1 else 0) + 2 * d.sq) ++ leBytes 2 (s.sqAt d.sq).head ++
  leBytes 2 c.detail ++ padTo 24 c.result

/-- The cancellation that a failed completion starts (R268): descriptors that name the same session and have not
started. -/
def cancelPrior (d : Inflight) (c : Completion) (s : State) : State :=
  if c.status = 0 ∨ c.status = 7 ∨ d.namesSession = false then s
  else s.updHost fun h => { h with inflight := h.inflight.map fun e =>
    if e.namesSession && e.sessionNo == d.sessionNo && e.phase == .waiting && !(e.flagBits.testBit 0) then
      { e with phase := .done { status := 7, detail := d.tag, result := zeros 24 } }
    else e }

/-- FW_ACTIVATE of layer 2, once every other descriptor has completed (R356 steps 2 to 4): PAUSED, the staged slot ACTIVE
on trial, CTRL restarted under the boot ROM. -/
def ctlPause (s : State) : State :=
  match s.fw.ctlAct with
  | some o =>
    if s.host.paused || s.host.inflight.any (fun d => d.ord != o) then s
    else
      let last := s.host.evqLast
      let s := activateSlot 2 (!(activeSlot s 2)) true s
      let s := { s with rtc := { s.rtc with trial := true } }
      let s := (clearIsland Isl.ctrl s).setReg 0x1028 0
      let s := { s with rst := { s.rst with wdtRemain := 0, wdtTick := 0 } }
      (s.setIsland Isl.ctrl .inReset).updHost fun h => { h with paused := true, evqLast := last }
  | none => s

/-- What follows a written completion: the end of a control firmware activation, the reset of a RESET_REQUEST (R276). -/
def afterCompletion (d : Inflight) (c : Completion) (s : State) : State :=
  let s := cancelPrior d c s
  let s := if s.fw.ctlAct = some d.ord then
      { s with fw := { s.fw with ctlAct := none, staging := none }, host := { s.host with paused := false } }
    else if s.fw.staging = some d.ord then { s with fw := { s.fw with staging := none } } else s
  let s := ctlPause s
  if d.opcode = Opc.resetRequest ∧ c.status = 0 then
    let l : Level := if d.op 24 1 = 1 then .l1 else .l2
    assertAt 11 (l.deeper (sourceLevel s 11)) 0 s
  else s

/-- Write the completion of a finished descriptor that is first of its SQ. -/
def writeCompletion (ord : Nat) (ok : Bool) (s : State) : State :=
  match s.flight ord with
  | some d =>
    match d.phase with
    | .done c =>
      if sqFirst s d.sq ≠ some ord then s
      else
        tryEntry (sqCq s d.sq) ok (!(d.flagBits.testBit 2)) (completionBytes s d c)
          (fun s => afterCompletion d c (s.updHost fun h => { h with inflight := h.inflight.filter fun e => e.ord != ord })) s
    | _ => s
  | none => s

/-- COMPLETION_WRITE. -/
def execCompletionWrite (ord : Nat) (ok : Bool) (s : State) : Host.Outcome State Fault Refusal := .next (writeCompletion ord ok s)

/-- RESET_REQUEST: its completion waits behind those of its SQ; the reset begins once it is written (R276). -/
def execResetRequest (ord : Nat) (s : State) : Host.Outcome State Fault Refusal :=
  withDescriptor [Opc.resetRequest] ord s fun _ => s.finishOk ord []

/-! Simple descriptors. -/

def execNop (ord : Nat) (s : State) : Host.Outcome State Fault Refusal :=
  withDescriptor [Opc.nop] ord s fun _ => s.finishOk ord []

/-- READ_POINT: the 256 bytes of the published half. -/
def execReadPoint (ord : Nat) (ok : Bool) (s : State) : Host.Outcome State Fault Refusal :=
  withBuffer [Opc.readPoint] ord s fun d =>
    let w := (s.pointAt d.pointNo).window
    writeBuffer d ok (wordsBytes (s.pointWord d.pointNo) 64) (leBytes 8 w.beat ++ leBytes 4 w.status.toNat) s

/-- A totals record (R264) from its parts. -/
def totalsRecord (p type state status beat : Nat) (regs : List Byte) : List Byte :=
  leBytes 1 p ++ leBytes 1 type ++ leBytes 1 state ++ zeros 1 ++ leBytes 4 status ++ leBytes 8 beat ++ padTo 108 regs ++ zeros 4
def windowRecord (s : State) (p : Nat) : List Byte :=
  let w := (s.pointAt p).window
  totalsRecord p (fieldOf (s.pointWord p 0x00C) 2 0) (fieldOf w.status 1 0) w.status.toNat w.beat (w.regs.flatMap canon)
/-- The record of a point in the newest valid bank (R269); STATE reads 0b00. -/
def bankedRecord (s : State) (b : Option Bool) (beat p : Nat) : List Byte :=
  match b.bind fun b => s.ember.bankPoint b p with
  | some o => totalsRecord p (s.ember.le (o + 1) 1) 0 (s.ember.le (o + 8) 4 / 4 * 4) beat (s.ember.bytes (o + 0x10) 108)
  | none => totalsRecord p 0 0 0 beat []

/-- READ_TOTALS. -/
def execReadTotals (ord : Nat) (ok : Bool) (s : State) : Host.Outcome State Fault Refusal :=
  withBuffer [Opc.readTotals] ord s fun d =>
    let points := (List.range 32).filter fun p => (d.op 20 4).testBit p
    if s.rst.pilot then
      let b := s.ember.newestArea
      let beat := match b with | some a => s.ember.le (areaBase a + 0x10) 8 | none => 0
      writeBuffer d ok (points.flatMap (bankedRecord s b beat))
        (leBytes 8 beat ++ leBytes 1 points.length ++ leBytes 1 (if b.isNone then 1 else 0)) s
    else writeBuffer d ok (points.flatMap (windowRecord s)) (leBytes 8 (publishedBeat s) ++ leBytes 1 points.length) s

/-! Event, record and capture rings. -/

/-- An event entry (R171). -/
def EventEntry.bytes (e : EventEntry) : List Byte :=
  leBytes 4 e.qseq ++ leBytes 1 e.type ++ leBytes 1 e.kind ++ leBytes 1 e.point ++ leBytes 1 e.posmask ++ leBytes 8 e.ts ++
  leBytes 4 e.onsetBack ++ leBytes 4 e.duration ++ leBytes 4 e.value.toNat ++ zeros 4

/-- The RTC count of a TS (R174), from the latch of its round or an earlier one; 3.2 µs are 0.1048576 units. -/
def tsTime (s : State) (ts : Nat) : Nat :=
  let t : Rat := (ts : Rat) * 32 / 10
  let now := s.events.tbBeat
  let (beat, rtc) := if ((now * 1000 : Nat) : Rat) ≤ t then (now, s.events.tbSec * 32768 + s.events.tbSub) else s.events.before
  ((rtc : Rat) + (t - ((beat * 1000 : Nat) : Rat)) * 32768 / 1000000).floor.toNat

/-- The number of unread entries not yet placed on EVQ since delivery began at EVENT_QRD (R292). -/
def evqLeft (s : State) : Nat :=
  match s.host.evqLast with
  | some q => min s.events.unread (qBehind s q)
  | none => s.events.unread

/-- EVQ_ENTRY_WRITE: the oldest entry not placed yet. -/
def execEvqEntryWrite (ok : Bool) (s : State) : Host.Outcome State Fault Refusal :=
  if evqLeft s = 0 ∨ s.running Isl.ctrl = false ∨ s.host.paused = true ∨ s.fw.loader = true then .next s else
  let q := (s.events.qseq + 2 ^ 32 + 1 - evqLeft s) % 2 ^ 32
  match s.events.slots.find? fun x => x.1 == (q + 2 ^ 32 - 1) % 1024 with
  | some (_, e) =>
    .next (tryEntry 8 ok true (fun ph => e.bytes ++ packTime (tsTime s e.ts) ++ zeros 23 ++ leBytes 1 (if ph then 1 else 0))
      (fun s => s.updHost fun h => { h with evqHeld := h.evqHeld ++ [q], evqLast := some q }) s)
  | none => .next s

/-- An RCQ entry (R271). -/
def rcqBytes (e : Ember) (seq : Nat) (phase : Bool) : List Byte :=
  let r := e.record seq
  padTo 511 (leBytes 8 seq ++ leBytes 2 r.length ++ leBytes 1 (e.le (entryOff seq + 8) 1) ++ zeros 5 ++ r) ++
    leBytes 1 (if phase then 1 else 0)

/-- RCQ_ENTRY_WRITE: the next record in ascending SEQ, once it is signed. -/
def execRcqEntryWrite (ok : Bool) (s : State) : Host.Outcome State Fault Refusal :=
  let q := s.host.rcqNext
  if s.ctrlServes && s.running Isl.ember && !s.host.paused && decide (q < s.ember.nextSeq) &&
     s.ember.holds q && s.ember.signedEntry q && s.ember.sigHeld q == s.ember.sigFor q then
    .next (tryEntry 9 ok true (rcqBytes s.ember q)
      (fun s => s.updHost fun h => { h with rcqNext := q + 1, rcqHeld := h.rcqHeld ++ [q] }) s)
  else .next s

/-- A CAPQ entry (R272). -/
def CapEntry.bytes (e : CapEntry) (phase : Bool) : List Byte :=
  leBytes 1 e.cap ++ leBytes 1 (if e.isEnd then 1 else 0) ++ leBytes 1 (if e.isEnd then e.cause else 0) ++ leBytes 1 e.flags ++
  leBytes 4 e.offset ++ leBytes 4 e.len ++ leBytes 8 e.first ++ zeros 11 ++ leBytes 1 (if phase then 1 else 0)

/-- CAPQ_ENTRY_WRITE: the oldest waiting entry; an END entry completes the CAPTURE_STOP that waits for it. -/
def execCapqEntryWrite (ok : Bool) (s : State) : Host.Outcome State Fault Refusal :=
  match s.host.capq with
  | [] => .next s
  | e :: rest =>
    .next (tryEntry 10 ok true e.bytes (fun s =>
      let s := s.updHost fun h => { h with capq := rest }
      match e.stop with
      | some (o, n) => s.finishOk o (leBytes 4 n)
      | none => s) s)

/-! HOST_INFLIGHT_PEAK, the link and power states. -/

/-- INFLIGHT_PEAK_READ: the peak, which clears. -/
def execInflightPeakRead (s : State) : Host.Outcome State Fault Refusal :=
  .next (readRow Isl.host s fun s => (s.readBack (word s.host.peak)).updHost fun h => { h with peak := 0 })

/-- PCIE_LINK_UP: the fault vector is raised once for records queued while the link was down (R291). -/
def execPcieLinkUp (speed width : Nat) (s : State) : Host.Outcome State Fault Refusal :=
  if s.running Isl.host ∧ s.host.linkUp = false then
    let held := s.host.faultHeld
    let s := { s with host := { s.host with linkUp := true, speed := speed, width := width, faultHeld := false },
                      clk := { s.clk with pcie := true } }
    .next (payOwed (if held then s.raiseVector (s.fld 0x401C 7 4) else s))
  else .next s

/-- PCIE_LINK_DOWN: LINK_UP falls until the link trains again (R311). The PHY PLL may have lost its lock; the command does not say
(log entry 89). -/
def execPcieLinkDown (s : State) : Host.Outcome State Fault Refusal :=
  .next { s with host := { s.host with linkUp := false, speed := 0, width := 0 },
                 clk := { s.clk with pcie := s.clk.pcie && Config.phyLocked s.rst.nDraws },
                 rst := { s.rst with nDraws := s.rst.nDraws + 1 } }

/-- BUS_MASTER_ENABLE. -/
def execBusMasterEnable (on : Bool) (s : State) : Host.Outcome State Fault Refusal :=
  if s.running Isl.host then .next (payOwed (flushVectors (s.updHost fun h => { h with busMaster := on }))) else .next s

/-- D3HOT. -/
def execD3hot (on : Bool) (s : State) : Host.Outcome State Fault Refusal :=
  if s.running Isl.host then .next (s.updHost fun h => { h with d3hot := on }) else .next s

end Sys2Proof.Machine
end

