-- ==== Sys2Proof/Machine/Beat.lean ====
section
/-! DEFINITION. The beat and round boundaries and the publication cycle (R22 to R29, R33, R61, R111, R128, R129, R170,
R173, R180, R208 to R212, R217 to R220, R223, R234, R401, R442), with the switch of a draught image. -/

namespace Sys2Proof.Machine

/-! The end of a beat. -/

/-- CONV at the end of a beat: the verdict of the dwell, the reference monitor, the start of a rotation (R50, R51, R59,
R61). METRO takes no verdict while it is held (R442). -/
def endHearth (g : Image) (refs : Vector Nat 8) (beat : Nat) (metro : Bool) (s : State) (h : Nat) : State :=
  let x := s.hearthAt h
  let settled := x.refSettled
  let (x, failed) := x.judge g h beat
  let (x, fault) := x.monitor (Tab.at refs h 0)
  let x := if x.refSettled && !settled then x.refRose else x
  let x := if x.kindle = .pass ∧ x.anchor.isNone then { x with anchor := some (beat + 1) } else x
  let s := s.updHearth h fun _ => x
  let s := match failed with
    | some i =>
      let s := if metro then witnessEvents g (16 * h + i) beat x.last.meanAbs s else s
      reportFault Isl.conv 0x21 (faultDetail (s.inputPoints (16 * h + i))) s
    | none => s
  if fault then reportFault Isl.conv 0x22 (faultDetail (s.hearthPoints h)) (s.setFlag (hearthReg h 0x014) 2) else s

/-- The sums of a point's beat are closed; the next ones begin. -/
def closePoint (g : Image) (s : State) (p : Nat) : State :=
  let pt := s.pointAt p
  let a := { pt.acc with state := pt.state, doubt := s.pointDoubt g p }
  s.updPoint p fun pt => { pt with closing := a, acc := { BeatAcc.init with lastTs := a.lastTs, freq := a.freq } }

/-- The session flags of a beat that has ended (R220). -/
def BeatAcc.sessionFlags (a : BeatAcc) : Nat :=
  (if a.doubt || (a.state == .metering && a.gap) then 1 else 0) + (if a.range then 2 else 0) + (if a.senseFb then 32 else 0)
def flagPoint (s : State) (p : Nat) : State :=
  match openOf s p with
  | some k => flagSession k (s.pointAt p).closing.sessionFlags s
  | none => s

/-- CONV publishes the Hearth status of the beat that has ended (R26 to R28): its verdicts are decided (R61), and the half
that is not published is written and becomes the published one (log entry 108). -/
def hearthStatus (g : Image) (s : State) (h : Nat) : HearthStatus :=
  let x := s.hearthAt h
  { ovr := s.fld (hearthReg h 0x020) 15 0, nsusp := s.fld (hearthReg h 0x024) 15 0,
    witness := witState x g h s.damper.beat, witFail := x.witFail, refSettled := x.refSettled, kindle := x.kindle }
def publishHearth (g : Image) (s : State) : State :=
  let v : HearthWindow := ⟨s.damper.beat, (List.range 8).map (hearthStatus g s)⟩
  let x := s.window
  { s with window := { x with hearth0 := if x.hearthHalf then v else x.hearth0, hearth1 := if x.hearthHalf then x.hearth1 else v,
                              hearthHalf := !x.hearthHalf } }

/-- The beat ends under image `g`: verdicts, then the points and the sessions. -/
def endBeat (g : Image) (refs : Vector Nat 8) (s : State) : State :=
  let beat := s.damper.beat
  let metro := s.metering
  let s := (List.range 8).foldl (endHearth g refs beat metro) s
  let s := if metro then
      let s := (List.range 32).foldl (closePoint g) s
      let s := (List.range 32).foldl (judgeDc g) s
      rollSessions ((List.range 32).foldl flagPoint s)
    else s
  let s := publishHearth g s
  -- R70's mark goes on into the next beat as it stands
  { s with hearth := s.hearth.map fun x => { x with doubtNow := x.main.doubtful || x.wit.doubtful } }

/-- The next beat begins: its number, frame 0, the latch of the RTC (R180, R223); the outgoing image is released. -/
def nextBeat (s : State) : State :=
  s.updDamper fun d => { d with beat := d.beat + 1, frame := 0, outgoing := none, rtcBefore := d.rtc, rtc := s.rtc.count }

/-! The switch of an image. -/

/-- The cause and point for which an activation is refused (R210): 2 TYPE_RETIRE, 1 OPEN_SESSION. -/
def refusal (a b : Image) (s : State) : Option (Nat × Nat) :=
  let retires := fun p => (s.pointAt p).held.isNone && a.pType p != b.pType p && (s.pointAt p).regs.toList.any fun r => r != 0
  let blocks := fun p => a.defChanged b p && (openOf s p).isSome
  match (List.range 32).find? retires, (List.range 32).find? blocks with
  | some p, _ => some (2, p)
  | none, some p => some (1, p)
  | none, none => none

/-- A point at b_a: one with a changed definition enters ARMING; a held one stays so unless it gets its banked
TYPE (R111, R210, R243). -/
def switchPoint (a b : Image) (s : State) (p : Nat) : State :=
  let pt := s.pointAt p
  match pt.held with
  | some t => if b.pType p = t then s.updPoint p fun pt => { pt with held := none, state := .arming } else s
  | none =>
    if a.defChanged b p then
      s.updPoint p fun pt => { pt with state := if b.isUsed p then .arming else .unused }
    else s

/-- Do the event enables or the threshold set of a point differ (R170)? -/
def thresholdsChanged (a b : Image) (p : Nat) : Bool :=
  a.pcfg p != b.pcfg p || (List.range 14).any fun w => a.evSet p w != b.evSet p w

/-- One hearth at b_a: the rotation begins again, disabled inputs lose their failing state, a changed BG_PERIOD
restarts its count (R59, R63, R70). -/
def switchHearth (a b : Image) (beat : Nat) (s : State) (h : Nat) : State :=
  s.updHearth h fun x =>
    { x with anchor := if x.kindle = .pass then some beat else x.anchor, witFail := x.witFail &&& b.mask h,
             bgCount := if a.bgPeriod = b.bgPeriod then x.bgCount else 0 }

/-- One engine at b_a (R95, R104): a changed flue programme starts it; newly enabled inputs start, others leave. -/
def switchEngine (a b : Image) (s : State) (h : Nat) : State :=
  if a.flueChanged b h then restartHarm h (engineStart h s)
  else (List.range 16).foldl (fun s i =>
    let n := 16 * h + i
    if b.enabled n && !a.enabled n then chainStart n s
    else if a.enabled n && !b.enabled n then s.updChain n fun _ => Chain.init else s) s

/-- The spectral engine at b_a (R212): windows closed and intervals complete that are not yet published go with those in progress
(log entry 112). -/
def switchSpectral (a b : Image) (beat : Nat) (s : State) : State :=
  if a.spectralChanged b then
    let keep := a.ashBase == b.ashBase && a.ashSize == b.ashSize
    { s with spectral := { s.spectral with harm := s.spectral.harm.map (HarmChan.restart · keep),
                                           supra := s.spectral.supra.map SupraChan.restart, block := 0, base := beat } }
  else s

/-- Switch to the staged image at the boundary that begins beat `beat` (R207, R211). -/
def switchImage (new : Image) (beat : Nat) (s : State) : State :=
  let old := s.img
  let slot := !(activeImageSlot s)
  let s := s.updDamper fun d =>
    { d with image := some new, outgoing := some old, activeBuf := !d.activeBuf, signed := d.stgSigned, keyMatch := d.stgMatch,
             actBeat := beat, stage := .empty, staged := none }
  let s := if s.running Isl.ctrl then setImageSlot slot s else s
  let s := setMreg 2 (ext 0 new.imageDigest) s
  let s := (List.range 8).foldl (switchHearth old new beat) s
  let s := (List.range 8).foldl (switchEngine old new) s
  let s := (List.range 32).foldl (fun s p =>
    if old.defChanged new p || thresholdsChanged old new p then truncateEvents beat s p else s) s
  let s := (List.range 32).foldl (switchPoint old new) s
  let s := (List.range 8).foldl (fun s c => if old.pulseChanged new c then s.updPulse c (Pulse.restart (old.pulseSet new c)) else s) s
  switchLink old new (captureSwap (switchSpectral old new beat s))

/-- The decision of a latched activation (R208, R210). -/
def decideActivation (s : State) : State :=
  match s.damper.latchedAct, s.damper.staged with
  | true, some new =>
    let ord := s.damper.actOrd
    let s := s.updDamper fun d => { d with pending := false, latchedAct := false, actOrd := none }
    match refusal s.img new s with
    | some (cause, p) =>
      let s := s.updDamper fun d => { d with cause := cause, blocker := p }
      (s.putField 0x20038 2 1 2).finishOpt ord 0x05 (256 * cause + p) []
    | none =>
      let b := s.damper.beat
      let s := switchImage new b (s.updDamper fun d => { d with cause := 0, blocker := 0 })
      (s.putField 0x20038 2 1 1).finishOpt ord 0 0 (leBytes 8 b)
  | _, _ => s

/-- The IMAGE_SWAP records and flags of open sessions at b_a (R211, R220). -/
def swapRecords (s : State) : State :=
  match s.damper.outgoing with
  | some old =>
    let detail := (bytes384 old.imageDigest).take 16 ++ (bytes384 s.img.imageDigest).take 16
    (openSessions s).foldl (fun s k =>
      addDue (sessionRecord s .imageSwap k s.damper.beat detail none) (flagSession k 256 s)) s
  | none => s

/-! The beginning of a beat. -/

/-- The EVENT time base (R174). -/
def latchTimeBase (s : State) : State :=
  { s with events := { s.events with before := (s.events.tbBeat, s.events.tbSec * 32768 + s.events.tbSub), tbBeat := s.damper.beat,
                                     tbSec := s.damper.rtc / 32768, tbSub := s.damper.rtc % 32768 } }

/-- The AON set notice is taken: a TIME_SET record (R234, R329). -/
def takeNotice (s : State) : State :=
  match s.rtc.notice with
  | some n =>
    let detail := leBytes 5 (n.old / 32768) ++ leBytes 2 (n.old % 32768) ++ leBytes 5 (n.new / 32768) ++
      leBytes 2 (n.new % 32768) ++ leBytes 1 n.path
    let s := { s with rtc := { s.rtc with notice := none } }
    addDue (deviceRecord s .timeSet 0 detail n.ord) s
  | none => s
/-- Every session open at the effective beat of a TIME_SET gets its flag (R332): those that the boundary leaves open. -/
def flagTimeSet (taken : Bool) (s : State) : State :=
  if taken then (openSessions s).foldl (fun s k => flagSession k 512 s) s else s

/-- Has the boundary that begins this beat put a point into ARMING with a new definition (R111)? -/
def State.justDefined (s : State) (p : Nat) : Bool := s.damper.outgoing.any fun old => old.defChanged s.img p

/-- A point whose conditions have held long enough enters METERING (R111), at the earliest one beat after the activation that
changed its definition. -/
def armPoint (s : State) (p : Nat) : State :=
  let pt := s.pointAt p
  if s.img.isUsed p && pt.state == .arming && pt.held.isNone && !(s.justDefined p) && decide (s.img.okNeed p ≤ s.okFrames p) then
    s.updPoint p fun pt => { pt with state := .metering }
  else s

/-- The legally relevant digest in force in the beat that begins (R347). -/
def latchLegal (s : State) : State := s.updEmber fun e => { e with legalPrev := e.legalNow, legalNow := s.trust.legal }

/-- The FLUE island comes back at the first beat boundary at least 100 µs after its isolation (R284). -/
def recoverFlue (s : State) : State :=
  match s.fault.flueAt with
  | some t =>
    if s.island Isl.flue = .isolated ∧ t + 10000 ≤ s.fault.timeBase then
      let s := { s.setIsland Isl.flue .running with fault := { s.fault with flueAt := none } }
      (List.range 8).foldl (fun s h => restartHarm h (engineStart h s)) s
    else s
  | none => s

/-- A metrology firmware activation whose layer is ready ends its hold with the first beat of the new epoch: the flue
engines start, the spectral engine forms its blocks on the same grid, and its descriptor completes (R104, R357). -/
def endHold (s : State) : State :=
  match s.fw.hold with
  | some h =>
    if h.ready then
      let s := { s with fw := { s.fw with hold := none, staging := none } }
      let s := (List.range 8).foldl (fun s h => restartHarm h (engineStart h s)) s
      let s := { s with spectral := { s.spectral with supra := s.spectral.supra.map SupraChan.restart,
                                                      block := 2 * (s.damper.beat - s.spectral.base) } }
      s.finishOpt h.ord 0 0 ((bytes384 s.fw.metDigest).take 16)
    else s
  | none => s

/-- An acknowledgement that found the mailbox full is posted (R227). -/
def ackLate (s : State) : State :=
  match s.host.ackWait with
  | some q => postAck q s
  | none => s

/-- What METRO and EMBER do in a beat that begins: the epoch, the mailbox, the points, the sessions, the records that
fall due (R23, R24, R33, R217 to R219, R234, R244). -/
def beginBeat (round : Bool) (s : State) : State :=
  let s := if round then decideActivation s else s
  let s := beginEpoch (latchLegal s)
  let taken := s.rtc.notice.isSome
  let s := takeNotice (swapRecords s)
  let s := applyMailbox 32 s
  let s := (List.range 32).foldl armPoint (ackLate s)
  checkFwChange (flagTimeSet taken (sessionBoundary s))

/-- The boundary between two beats; `round` where a round begins. -/
def boundary (round : Bool) (refs : Vector Nat 8) (s : State) : State :=
  if !s.framesRun then s else
  let s := endHold (nextBeat (endBeat s.img refs s))
  let s := if s.metering then beginBeat round s else s
  let s := recoverFlue s
  if round then renderAll (latchTimeBase s) else s

/-- BEAT_BOUNDARY: a beat ends, with the reference measurements of its monitors (ppm of nominal), and the next one
begins. -/
def execBeatBoundary (refs : Vector Nat 8) (s : State) : Host.Outcome State Fault Refusal := .next (boundary false refs s)

/-- ROUND_BOUNDARY: a beat boundary at which a round begins (R33): the decision of a pending activation and the switch,
then the mailbox. Where no round begins it is a beat boundary. -/
def execRoundBoundary (refs : Vector Nat 8) (s : State) : Host.Outcome State Fault Refusal :=
  .next (boundary (decide ((s.damper.beat + 1) % 1000 = 0)) refs s)

/-! The publication cycle. -/

/-- The current reading of a point for ON_CURRENT (R217), mA. -/
def currentReading (g : Image) (w : PointWindow) (p : Nat) : Nat :=
  let a := fun k => w.amps.getD k 0
  if g.isDC p then (a 0).toInt.natAbs else max (a 0).toNat (max (a 1).toNat (a 2).toNat)

/-- Every point's window and totals for the beat that has ended, with its rounded increments. -/
def publishPoints (g : Image) (beat : Nat) (s : State) : State × List (Vector Nat 9) :=
  (List.range 32).foldl (fun (acc : State × List (Vector Nat 9)) p =>
    let (s, inc) := publishPoint g beat p acc.1
    let a := (s.pointAt p).closing
    let s := if g.isUsed p && a.range then s.setFlag 0x2101C p else s
    (if g.isUsed p && a.state == .metering && a.gap then s.setFlag 0x21020 p else s, acc.2 ++ [inc])) (s, [])

/-- The half that is written. -/
def Point.written (pt : Point) : PointWindow := if pt.half then pt.half0 else pt.half1

/-- The pulse channels receive their increments; one that the image switch changed discards the outgoing image's
(R136, R139). -/
def feedPulses (incs : List (Vector Nat 9)) (s : State) : State :=
  let g := s.img
  (List.range 8).foldl (fun s c =>
    let changed := match s.damper.outgoing with | some old => old.pulseChanged g c | none => false
    if !g.pulseEn c || changed then s
    else
      let inc := (incs.getD (g.pulsePoint c) (Vector.replicate 9 0)).toList.getD (g.pulseQty c) 0
      s.updPulse c fun x => x.receive g c inc) s

/-- The sessions at the publication cycle: starts on current, then the increments (R129, R217). -/
def publishSessions (g : Image) (incs : List (Vector Nat 9)) (s : State) : State :=
  let reading := fun p => currentReading g (s.pointAt p).written p
  let metered := fun p => (s.pointAt p).closing.state == .metering
  let s := (List.range 160).foldl (judgeCurrent reading metered) s
  { s with session := s.session.map fun x => addIncrements (incs.getD x.point (Vector.replicate 9 0)) x }

/-- The session window (R247) and the flip of every half (R26). -/
def flipViews (beat : Nat) (s : State) : State :=
  let v : SessView := { beat := beat, sessions := s.session, queue := s.ember.free }
  let s := s.updEmber fun e =>
    { (if e.half then { e with half0 := v } else { e with half1 := v }) with half := !e.half, lastPub := some beat }
  { s with point := s.point.map Point.flip }

/-- Completion of the records that fall due in this beat (R221). -/
def completeRecords (s : State) : State := fillRecords (fun p => (s.pointAt p).closing.senseFb) s

/-- PUBLICATION_CYCLE: the beat that has ended is published, once. In the first beat of an epoch nothing has been
metered yet, and only the records due are completed. -/
def execPublicationCycle (s : State) : Host.Outcome State Fault Refusal :=
  let b := s.damper.beat
  if !s.metering then .next s
  else if b = s.ember.firstBeat ∨ s.ember.lastPub = some (b - 1) then .next (completeRecords s)
  else
    let g := s.imgOfBeat
    let (s, incs) := publishPoints g (b - 1) s
    let s := publishSessions g incs (feedPulses incs s)
    .next (flipViews (b - 1) (completeRecords (publishEvents s)))

end Sys2Proof.Machine
end

