-- ==== Sys2Proof/Machine/Clock.lean ====
section
/-! DEFINITION. Meanings of the commands of the real-time clock (chapter "Real-Time Clock and Calendar"). -/

namespace Sys2Proof.Machine

def State.updRtc (s : State) (f : Rtc → Rtc) : State := { s with rtc := f s.rtc }

/-! The set unit (R329). -/

/-- The largest count that a set accepts: 9999-12-31T23:59:59. -/
def rtcMaxSeconds : Nat := 252455615999

/-- SET_PENDING: from acceptance until the damper takes the notice. -/
def setPending (s : State) : Bool := s.rtc.unit.isSome || s.rtc.notice.isSome

/-- The cause for which a set request is refused, the first that holds in the order of the table; `seconds` is
the new count where the request carries one. -/
def setRefusal (s : State) (seconds : Option Nat) : Option Nat :=
  if !s.damperRunning then some 1
  else if s.ember.gated then some 2
  else if setPending s || s.rtc.halted then some 3
  else if seconds.any fun v => rtcMaxSeconds < v then some 5
  else none

/-- Record a refusal: RTC_STATUS.REFUSED and its cause. -/
def refuseSet (cause : Nat) (s : State) : State := (s.setFlag 0x3004 3).updRtc fun r => { r with refuseCause := cause }

/-- A set takes effect (R332): the count is replaced, the notice waits for the next beat boundary. -/
def applySet (r : Rtc) (old new path : Nat) (ord : Option Nat) : Rtc :=
  { r with count := new, notice := some { old := old, new := new, path := path, ord := ord }, isSet := true,
           sets := (r.sets + 1) % 2 ^ 32 }

/-! Halt and set (R330). -/

/-- RTC_CTL.HALT written 1. -/
def execHalt (s : State) : Host.Outcome State Fault Refusal :=
  if s.rtc.halted then .next s else
  match setRefusal s none with
  | some c => .next (refuseSet c s)
  | none => .next (s.updRtc fun r => { r with halted := true, written := r.count, elapsed := 0 })

/-- The halt ends without a set: the count resumes with the ticks that elapsed. -/
def resumeCount (r : Rtc) : Rtc := { r with halted := false, count := (r.count + r.elapsed) % 2 ^ 55, elapsed := 0 }

/-- The cause for which the write that clears HALT is refused: as R329 except for cause 3. -/
def haltRefusal (s : State) : Option Nat :=
  if !s.damperRunning then some 1
  else if s.ember.gated then some 2
  else if 32768 ≤ s.rtc.elapsed then some 4
  else if rtcMaxSeconds < s.rtc.written / 32768 then some 5
  else none

/-- RTC_CTL.HALT written 0: the set completes with the values written, or is refused and they are discarded. -/
def execHaltClear (s : State) : Host.Outcome State Fault Refusal :=
  if !s.rtc.halted then .next s else
  match haltRefusal s with
  | some c => .next (refuseSet c (s.updRtc resumeCount))
  | none => .next (s.updRtc fun r => applySet { r with halted := false, elapsed := 0 } r.count r.written 0 none)

/-- HALT has been held for 1 s: cause 4, and the AON island clears HALT itself. -/
def execHaltTimeout (s : State) : Host.Outcome State Fault Refusal :=
  if s.rtc.halted ∧ 32768 ≤ s.rtc.elapsed then .next (refuseSet 4 (s.updRtc resumeCount)) else .next s

/-! Crystal edges (R327, R329, R331, R336). -/

/-- The count after an edge: one more, or held while the trim withholds ticks. -/
def edgeCount (r : Rtc) : Nat := if r.withhold = 0 then (r.count + 1) % 2 ^ 55 else r.count

/-- One 1/32 768 s edge of the prescaler; an accepted set replaces the count at it. While halted, the AON island
counts the raw ticks. -/
def execPrescalerEdge (s : State) : Host.Outcome State Fault Refusal :=
  let r := s.rtc
  if r.halted then .next (s.updRtc fun r => { r with elapsed := r.elapsed + 1 })
  else
    let next := edgeCount r
    let r' := { r with withhold := r.withhold - 1 }
    match r.unit with
    | some q => .next { s with rtc := applySet { r' with unit := none } next q.new q.path q.ord }
    | none => .next { s with rtc := { r' with count := next } }

/-- TIME_SET (R329): the request is accepted and takes effect at the next edge, or is refused with TIME_INVALID. The
completion follows its record. -/
def execTimeSet (ord : Nat) (s : State) : Host.Outcome State Fault Refusal :=
  withDescriptor [Opc.timeSet] ord s fun d =>
    match setRefusal s (some (d.op 20 5)) with
    | some c => (refuseSet c s).finishFail ord 0x0C 0
    | none =>
      let q : SetReq := { new := d.op 20 5 * 32768 + d.op 25 2, path := 1, ord := some ord }
      (s.updRtc fun r => { r with unit := some q }).setPhase ord .working

/-- TIME_READ (R264, R328): a coherent copy and the beat of the latest latch. -/
def execTimeRead (ord : Nat) (s : State) : Host.Outcome State Fault Refusal :=
  withDescriptor [Opc.timeRead] ord s fun _ =>
    s.finishOk ord (leBytes 5 (s.rtc.count / 32768) ++ leBytes 2 (s.rtc.count % 32768) ++
      leBytes 1 (if s.rtc.isSet then 1 else 0) ++ leBytes 8 s.damper.beat)

/-! Reading (R328, R333). -/

def rtcWords (count : Nat) : Word × Word × Word :=
  (word (count % 32768), word (count / 32768), word (count / 32768 / 2 ^ 32 % 256))
def pickWord (w : Word × Word × Word) (which : Nat) : Word :=
  if which = 0 then w.1 else if which = 1 then w.2.1 else w.2.2

/-- A read of RTC_SUBSEC (0), RTC_SEC_LO (1) or RTC_SEC_HI (2): the first read takes the copy, the read of SEC_HI
releases it; no shadowing during a halt. -/
def execRtcTimeRead (which : Fin 3) (s : State) : Host.Outcome State Fault Refusal :=
  .next (readRow Isl.aon s fun s =>
    if s.rtc.halted then s.readBack (pickWord (rtcWords s.rtc.written) which.val) else
    let w := s.rtc.shadow.getD (rtcWords s.rtc.count)
    (s.readBack (pickWord w which.val)).updRtc fun r => { r with shadow := if which.val = 2 then none else some w })

/-! Calendar (R333 to R335). -/

def isLeap (y : Nat) : Bool := (y % 4 == 0 && y % 100 != 0) || y % 400 == 0
def yearDays (y : Nat) : Nat := if isLeap y then 366 else 365
def monthDays (y m : Nat) : Nat := match m with
  | 2 => if isLeap y then 29 else 28
  | 4 => 30 | 6 => 30 | 9 => 30 | 11 => 30 | _ => 31

/-- Take whole years, then whole months, from a day count; the first argument bounds the loop. -/
def takeYears : Nat → Nat → Nat → Nat × Nat
  | 0, y, d => (y, d)
  | n + 1, y, d => if yearDays y ≤ d then takeYears n (y + 1) (d - yearDays y) else (y, d)
def takeMonths : Nat → Nat → Nat → Nat → Nat × Nat
  | 0, _, m, d => (m, d)
  | n + 1, y, m, d => if monthDays y m ≤ d then takeMonths n y (m + 1) (d - monthDays y m) else (m, d)

/-- RTC_CAL_DATE and RTC_CAL_TIME of a count of seconds (R333). -/
def calendarView (seconds : Nat) : Word × Word :=
  let days := seconds / 86400
  let r := seconds % 86400
  let (y, d) := takeYears 400 (2000 + 400 * (days / 146097)) (days % 146097)
  let (m, dd) := takeMonths 12 y 1 d
  let date := putAt (y % 2 ^ 14) 0 ||| putAt m 16 ||| putAt (dd + 1) 24 ||| putAt ((days + 5) % 7 + 1) 29
  let time := putAt (r / 3600) 0 ||| putAt (r % 3600 / 60) 8 ||| putAt (r % 60) 16 |||
    flagAt (decide (seconds ≤ rtcMaxSeconds)) 31
  (date, time)

/-- A read of RTC_CAL_DATE computes the view and freezes RTC_CAL_TIME until it is read; `time` is that read. One that finds nothing
frozen presents the current count (log entry 60). -/
def execRtcCalDateRead (time : Bool) (s : State) : Host.Outcome State Fault Refusal :=
  .next (readRow Isl.aon s fun s =>
    let v := calendarView (s.rtc.count / 32768)
    if time then (s.readBack (s.rtc.calTime.getD v.2)).updRtc fun r => { r with calTime := none } else
    (s.readBack v.1).updRtc fun r => { r with calDate := v.1, calTime := some v.2 })

/-- The first failing field of a date and time (R335): 1 YEAR to 6 SECOND; 0 when all pass. -/
def calendarFault (y mo d h mi sec : Nat) : Nat :=
  if y < 2000 ∨ 9999 < y then 1 else if mo = 0 ∨ 12 < mo then 2 else if d = 0 ∨ monthDays y mo < d then 3
  else if 23 < h then 4 else if 59 < mi then 5 else if 59 < sec then 6 else 0

/-- The inverse of the view: days from 2000-01-01 to a date that passes the checks. -/
def daysOf (y mo d : Nat) : Nat :=
  let n := y - 1
  let leaps := fun (k : Nat) => k / 4 - k / 100 + k / 400
  365 * (y - 2000) + (leaps n - leaps 1999) +
    (List.range (mo - 1)).foldl (fun acc m => acc + monthDays y (m + 1)) 0 + (d - 1)

/-- RTC_CAL_CTL written: CAL_ERR is W1C; CAL_APPLY checks the date, converts it and submits it as a set. -/
def execCalApply (v : Word) (s : State) : Host.Outcome State Fault Refusal :=
  let s := s.setReg 0x3028 (s.reg 0x3028 &&& ~~~(v &&& maskOf 1 1))
  if !(bitOf v 0) then .next s else
  let date := s.reg 0x3020
  let time := s.reg 0x3024
  let y := fieldOf date 13 0; let mo := fieldOf date 19 16; let d := fieldOf date 28 24
  let h := fieldOf time 4 0; let mi := fieldOf time 13 8; let sec := fieldOf time 21 16
  match calendarFault y mo d h mi sec with
  | 0 =>
    let seconds := daysOf y mo d * 86400 + h * 3600 + mi * 60 + sec
    match setRefusal s (some seconds) with
    | some c => .next (refuseSet c s)
    | none => .next (s.updRtc fun r => { r with unit := some { new := seconds * 32768, path := 2, ord := none } })
  | e => .next ((s.setFlag 0x3028 1).updRtc fun r => { r with errField := e })

/-! Trim (R336). -/

/-- The crystal deviation in ppm from OFS (0.01 ppm), K (0.0001 ppm/K²) and temperatures in 0.25 °C. -/
def crystalDev (ofs k t t0 : Int) : Rat :=
  (ofs : Rat) / 100 - (k : Rat) / 10000 * (((t - t0 : Int) : Rat) / 4) * (((t - t0 : Int) : Rat) / 4)

/-- C: convergent rounding, clamped to -2048 to +2047. -/
def trimWord (dev : Rat) : Int := max (-2048) (min 2047 (roundEven (-dev * 10000000 / 2384186)))

/-- n_k of step k: units of 1/16 384 s. -/
def trimUnits (c : Int) (k : Nat) : Int := c * ((k + 1 : Nat) : Int) / 32 - c * (k : Int) / 32

/-- One 8 s trim step, suspended while HALTED. The written T0, K and OFS take effect at it. -/
def execTrimStep (temp : Int) (s : State) : Host.Outcome State Fault Refusal :=
  if s.rtc.halted then .next s else
  let cfg := s.reg 0x302C
  let ofs := s.reg 0x3030
  let c := trimWord (crystalDev (signed (fieldOf ofs 15 0) 16) (fieldOf cfg 27 16 : Nat) temp (signed (fieldOf cfg 11 0) 12))
  let n := trimUnits c s.rtc.step
  .next (s.updRtc fun r =>
    { r with trimCfg := cfg, trimOfs := ofs, temp := temp, corr := c, lastStep := r.step, step := (r.step + 1) % 32,
             count := (r.count + 2 * n.toNat) % 2 ^ 55, withhold := r.withhold + 2 * (-n).toNat })

/-- The trim parameters at their fuse values (R336, R337). -/
def loadTrim (s : State) : State :=
  ({ s with rtc := { s.rtc with trimCfg := s.fuse 16, trimOfs := s.fuse 17 } }.setReg 0x302C (s.fuse 16 &&& 0x0FFF0FFF)).setReg
    0x3030 (s.fuse 17 &&& 0x0000FFFF)

/-- VBAT is lost in an L0 (R296, R337): AON is cleared, and the next start, which reads the fuses again, finds it so. -/
def execVbatLost (s : State) : Host.Outcome State Fault Refusal :=
  if s.rst.episode.any fun e => e.level == .l0 then
    .next (loadTrim { s with regs := Regs.clear s.regs 0x3000 0x1000, rtc := Rtc.init 0 0 })
  else .next s

end Sys2Proof.Machine
end

