-- ==== Sys2Proof/Machine/Loading.lean ====
section
/-! DEFINITION. What the control-plane islands run and hold when they come out of reset: the control layer from its flash
slot or the recovery loader (R346, R356, R358), the poll list (R380, R386), the DRAM (R434), and the islands that
redraw or restart (R156, R407). -/

namespace Sys2Proof.Machine

/-! Slots given up (R358). -/

/-- A layer changes to its other slot: the abandoned one is REJECTED, the other ACTIVE, and TRIAL clears. -/
def giveUp (layer : Nat) (s : State) : State :=
  let a := activeSlot s layer
  let s' := if layerTrial s layer then { s with rtc := { s.rtc with trial := false } } else s
  writeLayer layer (packLayer (!a) false (if a then slotState s layer false else 2)
    (if a then 2 else slotState s layer true)) s'

/-- RESET_STATUS.ROLLBACK. -/
def markRollback (s : State) : State := s.setFlag 0x1000 6

/-- The active slot of a layer where it verifies, else the other one, given the slot up; none where neither does. -/
def chooseSlot (layer : Nat) (s : State) : Option State :=
  let a := activeSlot s layer
  if slotVerifies s layer a then some s
  else if slotVerifies s layer (!a) then some (markRollback (giveUp layer s))
  else none

/-! The control layer. -/

def runControl (slot : Bool) (fw : List Byte) (s : State) : State :=
  setMreg 3 (ext 0 (Fwh.digest fw))
    { s with fw := { s.fw with ctlSlot := slot, ctlDigest := Fwh.digest fw, ctlSvn := Fwh.svn fw, loader := false } }
def runLoader (inPlace : Bool) (s : State) : State :=
  setMreg 3 (ext 0 Config.recoveryDigest)
    { s with fw := { s.fw with ctlDigest := Config.recoveryDigest, ctlSvn := 0, loader := inPlace } }

/-- The layer of the slot chosen, or the recovery loader where none was: it writes START_OK as it begins to run (R358; log
entry 121). -/
def runChosen (o : Option State) (s : State) : State :=
  match o with
  | some t => runControl (activeSlot t 2) (slotImage t 2 (activeSlot t 2)) t
  | none => let s := runLoader true s
            if s.rst.window then acceptStart s else s

/-- What the cores of CTRL run: the recovery loader in pilot-light mode, the host's layer, the flash layer, or the
recovery loader in its place. Each is measured into MREG3 before it runs. -/
def loadControl (s : State) : State :=
  if s.rst.pilot then runLoader false s
  else match s.fw.hostCtl with
    | some fw => runControl false fw s
    | none => runChosen (chooseSlot 2 s) s

/-! The poll list. -/

/-- CTRL has its banks back from the LINK island's working copy. -/
def bankFromWork (s : State) : State :=
  match s.link.work with
  | some l => s.updLink fun k => { k with banks := Tab.upd k.banks k.bank.toNat fun _ => l, live := true }
  | none => s
/-- LINK takes its working copy from the bank in use, whose exchange counts go on (R383). -/
def workFromBank (s : State) : State :=
  if s.link.live then s.updLink fun k => { k with work := some (Tab.at k.banks k.bank.toNat []) } else s

/-! DRAM. -/

/-- The set-up word of the copy of the boot record in force, and the rate code it allows. -/
def dramSetup (s : State) : Word := word (leField (bootBytes s) 16 4)
def dramCap (w : Word) : Nat := match fieldOf w 1 0 with | 1 => 2 | 2 => 1 | _ => 3

/-- DRAM passes transfers again: what it held is lost, and the spectral engine restarts (R156). -/
def dramUp (s : State) : State :=
  spectralDramStart { s with dram := { s.dram with trained := true, failed := false, setup := dramSetup s },
                             clk := { s.clk with pllD := true } }

/-- What an island finds when its fireguard passes transfers again (R284). -/
def islandBack (i : Nat) (s : State) : State :=
  match i with
  | 6 => bankFromWork (loadControl s)
  | 7 => { s with clk := { s.clk with pcie := true } }
  | 8 => let s := dramUp s
         if s.running Isl.mantel then mantelStart true s else s
  | 9 => measuredBoot s
  | 10 => workFromBank s
  | 11 => mantelStart false s
  | _ => s

end Sys2Proof.Machine
end

