-- ==== Sys2Proof/Machine/Starts.lean ====
section
/-! DEFINITION. Starts: how an episode ends and its start is decided (R304, R305, R308, R317, R318, R320 to R325), the steps
of a release sequence (R313 to R315), and the starts of the two firmware layers (R356 to R358). -/

namespace Sys2Proof.Machine

/-! The decision (R318). -/

/-- How a start is decided; `deep`: an L1 or L0 release, `activation`: the start that an FW_ACTIVATE causes. -/
def decideStart (s : State) (deep activation : Bool) : StartKind :=
  if 2 ≤ s.clk.bootSel then .pilot 2
  else if s.rtc.pilotReq then .pilot 3
  else if fuseLimit s ≤ s.rtc.starts then (if deep then .pilot 1 else .deepen)
  else .run (s.rtc.trial && decide (1 ≤ s.rtc.starts) && !activation)

/-- COUNT goes up and the start window opens. -/
def openWindow (s : State) : State :=
  { s with rtc := { s.rtc with starts := min (s.rtc.starts + 1) 255 },
           rst := { s.rst with window := true, started := false } }

/-- The trial layer is given up (R358). At an L1 or L0 release, and for layer 2, the load that follows finds the other
slot ACTIVE; elsewhere layer 1 goes through the whole sequence of R357 with the other slot. -/
def rollbackTrial (deep : Bool) (s : State) : State :=
  let s := { s with rtc := { s.rtc with trial := false } }
  if layerTrial s 2 then markRollback (giveUp 2 s)
  else if layerTrial s 1 then
    let s := markRollback (giveUp 1 s)
    if deep then s else beginHold (activeSlot s 1) true none s
  else s

/-- The start is deepened to an L1 of the same episode: final bank with cause 2 and source 0, no further source. -/
def deepenStart (e : Episode) (s : State) : State :=
  let s := enterControlReset (s.setFlag 0x1000 11)
  awaitBank 0 { s with rst := { s.rst with episode := some { e with level := .l1, deepened := true, deep := some 0 },
                                           release := none, pinDrive := true } }
/-- The episode of a deepened start of firmware, which has no sources. -/
def Episode.ofStart : Episode :=
  { level := .l1, sources := 0, first := 0, clkLoss := 0, hold := 0, deep := some 0, waiting := false, bank := false,
    deepened := true }

/-! The release (R304). -/

/-- The hold times and supplies that an episode's release waits for. -/
def Episode.ripe (e : Episode) (s : State) : Bool :=
  match e.level with
  | .l2 => decide (10000 ≤ e.hold)
  | .l1 => decide (1000000 ≤ e.deep.getD 0)
  | .l0 => decide (1000000 ≤ e.deep.getD 0) && s.clk.refOk && s.rst.porDone
def canRelease (s : State) (e : Episode) : Bool := s.rst.asserted == 0 && !e.waiting && !e.bank && e.ripe s

/-- At an L1 or L0 release the straps are latched and the fuses read; the PLLs start again. -/
def latchRelease (p : Straps) (s : State) : State :=
  { s with clk := { s.clk with bootSel := p.bootSel, clkMode := p.clkMode, pllM := false, pllC := false, pllD := false,
                               pcie := false },
           rst := { s.rst with badStrap := p.bootSel == 3 || p.clkMode == 3, pilot := false, pilotCause := 0 },
           trust := { s.trust with fuses := s.trust.blown } }

/-- The registers that describe the episode just ended (R325). -/
def loadEpisode (e : Episode) (s : State) : State :=
  { s with rst := { s.rst with lastLevel := e.level, cause := e.sources, first := e.first, clkLoss := e.clkLoss,
                               number := (max s.rst.number s.ember.highestEpisode + 1) % 2 ^ 32,
                               hold := min (e.hold / 100) (2 ^ 32 - 1), started := false } }

/-- The steps of R313 that a release performs. -/
def Release.steps (r : Release) : List Nat :=
  if r.pilot then (if r.level = .l2 then [10, 11, 12] else [1, 2, 3, 4, 10, 11, 12])
  else if r.level = .l2 then [9, 10, 11, 12, 13]
  else if r.hostLoad then [1, 2, 3, 4, 9, 10, 11, 12, 5, 6, 7, 8, 13]
  else [1, 2, 3, 4, 5, 6, 7, 8, 9, 10, 11, 12, 13]
/-- The step after one. -/
def stepAfter (k : Nat) : List Nat → Option Nat
  | [] => none
  | j :: js => if j = k then js.head? else stepAfter k js

/-- The release sequence begins. -/
def beginRelease (e : Episode) (pilot : Bool) (outcome : Nat) (s : State) : State :=
  let r : Release := { level := e.level, step := 1, outcome := outcome, pilot := pilot, sources := e.sources,
                       first := e.first, holdUs := s.rst.hold, time := s.rtc.count, logged := false,
                       hostLoad := !pilot && e.level != .l2 && s.clk.bootSel == 1 }
  { s with rst := { s.rst with episode := none, pinDrive := false, release := some { r with step := r.steps.headD 1 } } }

/-- Pilot-light mode (R320, R321): PILOT_REQ clears, COUNT stays, no window opens. -/
def enterPilot (cause : Nat) (s : State) : State :=
  { s with rst := { s.rst with pilot := true, pilotCause := cause, window := false },
           rtc := { s.rtc with pilotReq := false } }

/-- EPISODE_RELEASE: the release of the episode's level, with its start decided. -/
def execEpisodeRelease (straps : Straps) (s : State) : Host.Outcome State Fault Refusal :=
  match s.rst.episode with
  | none => .next s
  | some e =>
    if !(canRelease s e) then .next s else
    let deep := decide (e.level ≠ .l2)
    let s := if deep then latchRelease straps s else s
    let kind := if e.deepened then .pilot 1 else if s.rst.pilot then .pilot s.rst.pilotCause else decideStart s deep false
    let s' := (loadEpisode e s).putField 0x1000 6 6 0
    match kind with
    | .deepen => .next (deepenStart e s)
    | .pilot c =>
      let s := if deep ∨ s.rst.pilot then s' else [2, 3, 4].foldl (fun s i => enterReset i s) s'
      .next (beginRelease e true (if e.deepened then 3 else 1) (enterPilot c s))
    | .run rollback =>
      let s := openWindow (if rollback then rollbackTrial deep s' else s')
      .next (beginRelease e false (if rollback then 2 else 0) s)

/-! Reset history (R323). -/

def historyBytes (s : State) (r : Release) : List Byte :=
  let epoch := if r.level = .l2 ∨ r.pilot then 0 else s.ember.storedEpoch + 1
  withCrc (leBytes 4 s.rst.number ++ leBytes 8 (r.time % 2 ^ 55) ++ leBytes 4 r.holdUs ++ leBytes 2 r.sources ++
    leBytes 1 r.first ++ leBytes 1 r.level.depth ++ leBytes 1 r.outcome ++ leBytes 1 s.rst.pilotCause ++
    leBytes 1 s.rtc.starts ++
    leBytes 1 (s.clk.bootSel + 4 * s.clk.clkMode + if s.rst.badStrap then 16 else 0) ++ leBytes 4 epoch)
/-- The entry of the release in progress, once. -/
def logRelease (s : State) : State :=
  match s.rst.release with
  | some r =>
    if r.logged ∨ s.running Isl.ember = false then s
    else
      let s := { s with rst := { s.rst with release := some { r with logged := true } } }
      s.updEmber fun e => e.put (resetEntryOff s.rst.number) (historyBytes s r)
  | none => s

/-! Steps. -/

/-- Step 2: SYS, the fuses; a start that finds AON cleared reports it (R282, R337). -/
def stepSys (s : State) : State :=
  let s := s.setIsland Isl.sys .running
  let s := { s with fault := { s.fault with fseq := s.ember.highestFseq } }
  if s.rtc.cleared then
    reportFault Isl.aon 0x01 0 (loadTrim ({ s with rtc := { s.rtc with cleared := false } }.setFlag 0x3004 7))
  else s

/-- Step 4: EMBER and the restore of what it holds itself. In pilot-light mode no epoch begins. -/
def stepEmber (s : State) : State :=
  let s := flushRecords (restoreStore (s.setIsland Isl.ember .running))
  if s.rst.pilot then s.updEmber fun e => { e with restore := none } else s

/-- Pilot-light mode decided at step 5: COUNT is as before the start, DRAM is held again. -/
def pilotAtStep5 (cause : Nat) (s : State) : State :=
  let s := enterPilot cause { s with rtc := { s.rtc with starts := s.rtc.starts - 1 } }
  let s := s.updEmber fun e => { e with restore := none }
  let s := enterReset Isl.dram s
  let s := if s.running Isl.ctrl then loadControl s else s
  { s with rst := { s.rst with release := s.rst.release.map fun r => { r with pilot := true, outcome := 1 } } }

/-- The metrology layer that a start runs: loaded by the host, or from the slot of R358. -/
def runMetrology (slot : Bool) (fw : List Byte) (s : State) : State :=
  setMreg 1 (ext 0 (Fwh.digest fw))
    { s with fw := { s.fw with metSlot := slot, metDigest := Fwh.digest fw, metSvn := Fwh.svn fw } }
def loadMetrology (s : State) : Option State :=
  match s.fw.hostMet with
  | some fw => some (runMetrology false fw s)
  | none => (chooseSlot 1 s).map fun t => runMetrology (activeSlot t 1) (slotImage t 1 (activeSlot t 1)) t

/-- Points of the image in ARMING. -/
def armPoints (s : State) : State :=
  (List.range 32).foldl (fun s p => s.updPoint p fun _ =>
    { Point.init with state := if s.img.isUsed p then .arming else .unused }) s

/-- What a start measures at step 5: MREG2 where SEAL runs already (a host-load start), else what its release at step 10 will
set again (R346; log entry 99). -/
def measureStart (s : State) : State :=
  if s.running Isl.seal then setMreg 2 (match activeDigest s with | some d => ext 0 d | none => 0) s else measuredBoot s

/-- An admitted image becomes active before its first frame. -/
def adoptImage (g : Image) (s : State) : State :=
  let s := s.updDamper fun d => { d with image := some g, signed := g.hasSig, keyMatch := keyMatches s g }
  measureStart (restorePoints (armPoints s))

/-- Step 5: layer, image, points (R313, R355); a rejected image leaves its reason in DAMPER_STAGE_STATUS (R203). With host load it waits until the host has written all three items. -/
def stepLoad (hostLoad : Bool) (s : State) : Option State :=
  if hostLoad && (s.fw.hostMet.isNone || s.fw.hostCtl.isNone || s.fw.hostImage.isNone) then none else
  match loadMetrology s with
  | none => some (pilotAtStep5 4 s)
  | some t =>
    let g := t.fw.hostImage.getD (flashImage t (slotWith t t.ember.heldImage))
    match admission t g with
    | some (r, sec, off) => some (pilotAtStep5 5 (t.updDamper fun d => { d with reason := r, sect := sec, offset := off }))
    | none =>
      let t := logRelease (adoptImage g t)
      -- the host's items have been taken over
      let t := { t with fw := { t.fw with hostMet := none, hostImage := none } }
      some (if hostLoad then loadControl t else t)

/-- Step 6: CONV and the kindling of every hearth (R68, R77). -/
def stepConv (s : State) : State :=
  let s := (List.range 8).foldl (fun s h => s.setReg (hearthReg h 0x050) 0) (s.setIsland Isl.conv .running)
  { s with hearth := s.hearth.map Hearth.kindle1 }

/-- Step 7: FLUE. -/
def stepFlue (s : State) : State :=
  (List.range 8).foldl (fun s h => restartHarm h (engineStart h s)) (s.setIsland Isl.flue .running)

/-- Step 8: METRO, and with it frame 0 of beat 0 (R180). -/
def stepMetro (s : State) : State :=
  let s := s.setIsland Isl.metro .running
  let s := s.updDamper fun d => { d with beat := 0, frame := 0, rtcBefore := s.rtc.count, rtc := s.rtc.count }
  renderAll (latchTimeBase (beginBeat false s))

/-- Step 9: DRAM training. -/
def stepDram (report : StepReport) (s : State) : State :=
  let rate := min report.rate (dramCap (dramSetup s))
  let s := s.setIsland Isl.dram .running
  let s := { s with dram := { s.dram with rate := rate, mib := report.mib % 65536, setup := dramSetup s } }
  if rate = 0 then reportFault Isl.dram 0x84 0 { s with dram := { s.dram with failed := true, trained := false } }
  else dramUp s

/-- What a step does when it reports ready; none where it is not ready yet. -/
def stepWork (r : Release) (report : StepReport) (s : State) : Option State :=
  match r.step with
  | 1 => some (s.setIsland Isl.aon .running)
  | 2 => some (stepSys s)
  | 3 => some { s with clk := { s.clk with pllM := true, pllC := true, pllD := true } }
  | 4 => some (stepEmber s)
  | 5 => stepLoad r.hostLoad s
  | 6 => some (stepConv s)
  | 7 => some (stepFlue s)
  | 8 => some (stepMetro s)
  | 9 => some (stepDram report s)
  | 10 => some (measuredBoot (s.setIsland Isl.seal .running))
  | 11 => let s := s.setIsland Isl.ctrl .running
          some (if r.hostLoad then s else bankFromWork (loadControl s))
  | 12 => some { s.setIsland Isl.host .running with clk := { s.clk with pcie := true } }
  | _ => some (mantelStart false (workFromBank ((s.setIsland Isl.link .running).setIsland Isl.mantel .running)))

/-- The next step of the sequence, or its end. -/
def advance (k : Nat) (s : State) : State :=
  match s.rst.release with
  | none => s
  | some r =>
    -- pilot-light mode decided at step 5 goes on with what has not run yet
    let next := if k = 5 ∧ r.pilot then (if r.hostLoad then none else some 10) else stepAfter k r.steps
    match next with
    | some j => { s with rst := { s.rst with release := some { r with step := j } } }
    | none => let s := logRelease s
              { s with rst := { s.rst with release := none } }

/-- STEP_READY: the awaited step of the release sequence reports ready. -/
def execStepReady (report : StepReport) (s : State) : Host.Outcome State Fault Refusal :=
  match s.rst.release with
  | none => .next s
  | some r => match stepWork r report s with
    | some t => .next (advance r.step t)
    | none => .next s

/-! Starts of the firmware layers. -/

/-- CONTROL_FIRMWARE_RESTART (R356 steps 4 and 5): the slot is verified and measured, the start decided; the completion, once
written, ends the pause. A slot that fails gives way to the other one. -/
def execControlFirmwareRestart (s : State) : Host.Outcome State Fault Refusal :=
  match s.fw.ctlAct with
  | some o =>
    if s.island Isl.ctrl == .inReset && s.rst.episode.isNone then
      match decideStart s false true with
      | .run _ =>
        let good := slotVerifies s 2 (activeSlot s 2)
        let s := (openWindow (s.setIsland Isl.ctrl .running)).putField 0x1000 6 6 0
        let s := bankFromWork (loadControl s)
        let s := if good then s.finishOk o ((bytes384 s.fw.ctlDigest).take 16) else s.finishFail o 0x08 0
        -- a HOST reset during the pause has taken the descriptor (R276)
        .next (if (s.flight o).isNone then
            { s with fw := { s.fw with ctlAct := none, staging := none }, host := { s.host with paused := false } } else s)
      | _ => .next (deepenStart Episode.ofStart s)
    else .next s
  | none => .next s

/-- Pilot-light mode entered by a metrology restart that finds no layer (R321). -/
def pilotNow (cause : Nat) (s : State) : State :=
  let s := enterPilot cause { s with fw := { s.fw with hold := none, staging := none } }
  let s := [2, 3, 4, 8, 10, 11].foldl (fun s i => enterReset i s) s
  loadControl (flushRecords (s.updEmber fun e => { e with restore := none }))

/-- METROLOGY_LAYER_READY (R357): the new layer is verified and measured and the restore is complete; the next beat
boundary begins the new epoch. -/
def execMetrologyLayerReady (s : State) : Host.Outcome State Fault Refusal :=
  match s.fw.hold with
  | none => .next s
  | some h =>
    if h.ready ∨ s.ember.trigger.isSome ∨ s.rst.episode.isSome ∨ s.running Isl.metro = false then .next s
    else match loadMetrology (if h.fallback then s else s.putField 0x1000 6 6 0) with
    | none => .next (pilotNow 4 s)
    | some t =>
      let t := { t with evals := [], energyHi := none, pulse := t.pulse.map (Pulse.restart true),
                        fw := { t.fw with hold := some { h with ready := true } } }
      let t := flushRecords (restorePoints (armPoints (restoreStore t)))
      if h.fallback then .next t
      else match decideStart t false true with
        | .run _ => .next (openWindow t)
        | _ => .next (deepenStart Episode.ofStart t)

end Sys2Proof.Machine
end

