-- ==== Sys2Proof/Machine/Trust.lean ====
section
/-! DEFINITION. Meanings of the commands of SEAL and of the firmware descriptors: fuses and measurement registers (R344, R345,
R348), attestation (R349), staging and activation of firmware (R355 to R357). -/

namespace Sys2Proof.Machine

/-! Attestation. -/

/-- Write a response of SEAL to a descriptor's buffer, or say how many bytes it needs (R261, R264). -/
def answer (d : Inflight) (ok : Bool) (bytes : List Byte) (s : State) : State :=
  if d.bufLen < bytes.length then s.finish d.ord 0x02 16 (leBytes 4 bytes.length)
  else writeBuffer d ok bytes (leBytes 4 bytes.length) s

/-- ATTEST: the signed statement over the nonce. -/
def execAttest (ord : Nat) (ok : Bool) (s : State) : Host.Outcome State Fault Refusal :=
  withBuffer [Opc.attest] ord s fun d => answer d ok ((response s d).getD []) s

/-- KEY_INFO. -/
def execKeyInfo (ord : Nat) (ok : Bool) (s : State) : Host.Outcome State Fault Refusal :=
  withBuffer [Opc.keyInfo] ord s fun d => answer d ok ((response s d).getD []) s

/-! Firmware (R355 to R357). -/

/-- Write an image to the inactive slot of a layer and check the copy read back. -/
def writeInactive (layer : Nat) (fw readBack : List Byte) (s : State) : State × Bool :=
  let b := !(activeSlot s layer)
  let copy := padTo fw.length readBack
  let s := writeSlot layer b copy (setSlot layer b 3 s)
  if verifyStep s layer copy = 0 then (setSlot layer b 1 s, true) else (setSlot layer b 0 s, false)

/-- FWUPD_STAGE_STATUS. -/
def stageNote (layer cause : Nat) (s : State) : State :=
  { s with fw := { s.fw with stageLayer := layer, stageCause := cause } }

/-- FW_STAGE of an image as transferred; `readBack` is what the slot returns once written. A stage that R355 refuses with BAD_FIELD
or BUSY_RETRY has not begun and touches no slot; one that fails leaves the inactive slot EMPTY (DEDUCED, log entry 120). -/
def execFwStage (ord : Nat) (buf : HostRead) (readBack : List Byte) (s : State) : Host.Outcome State Fault Refusal :=
  withBuffer [Opc.fwStage] ord s fun d =>
    let layer := d.op 20 1
    match buf with
    | none => bufferError ord 1 s
    | some bs =>
      let fw := padTo d.bufLen bs
      if d.bufLen ≠ Fwh.totalSize fw ∨ slotSize layer < d.bufLen then (stageNote layer 0 s).finishFail ord 0x02 16
      else
        let v := verifyStep s layer fw
        if s.fw.staging.isSome || s.fw.ctlAct.isSome || layerTrial s layer then
          (stageNote layer 0 s).finishFail ord 0x06 2
        else if v ≠ 0 then (stageNote layer v (setSlot layer (!(activeSlot s layer)) 0 s)).finishFail ord 0x08 0
        else match writeInactive layer fw readBack s with
          | (t, true) => (stageNote layer 0 t).finishOk ord ((bytes384 (Fwh.digest fw)).take 16)
          | (t, false) => (stageNote layer 6 t).finishFail ord 0x08 0

/-- FW_ACTIVATE of layer 2: fetching stops; once every other descriptor has completed, CTRL restarts. -/
def execFwActivateControl (ord : Nat) (s : State) : Host.Outcome State Fault Refusal :=
  withDescriptor [Opc.fwActivate] ord s fun d =>
    if d.op 20 1 ≠ 2 then s
    else if slotState s 2 (!(activeSlot s 2)) ≠ 1 then s.finishFail ord 0x0E 0
    else if s.fw.ctlAct.isSome then s.finishFail ord 0x06 2
    else ctlPause ({ s with fw := { s.fw with ctlAct := some ord, staging := some ord } }.setPhase ord .working)

/-- FW_ACTIVATE of layer 1: an entry of the session mailbox, which the damper judges at its boundary. -/
def execFwActivateMetrology (ord : Nat) (s : State) : Host.Outcome State Fault Refusal :=
  withDescriptor [Opc.fwActivate] ord s fun d =>
    if d.op 20 1 ≠ 1 then s
    else match post .fwActivate (some ord) s with
      | some t => { t.setPhase ord .posted with fw := { t.fw with staging := some ord } }
      | none => s

/-! Fuses and measurement registers. They stand in SEAL. -/

def sealWrite (s : State) (f : State → State) : Host.Outcome State Fault Refusal :=
  .next (if s.running Isl.seal then f s else s)

/-- Is a program request refused (R344, R345)? -/
def fuseRefused (s : State) (addr : Nat) (data : Word) : Bool :=
  isSealed s || s.trust.program.isSome || decide (18 < addr) ||
  (addr == 18 && bitOf data 0 && sealState s == .openState)

/-- SEAL_FUSE_CTL: GO with its key programs the 1 bits of DATA into word ADDR. -/
def execFuseProgram (v : Word) (s : State) : Host.Outcome State Fault Refusal :=
  sealWrite s fun s =>
    if bitOf v 0 = false ∨ fieldOf v 31 16 ≠ 0xF05E then s
    else
      let addr := s.fld 0x31004 4 0
      let data := s.reg 0x31008
      if fuseRefused s addr data then s.setFlag 0x31000 3
      else { s with trust := { s.trust with program := some (addr, data) } }

/-- FUSE_PROGRAM_COMPLETE: the bits are programmed; they take effect at the next L1 or L0 release. -/
def execFuseProgramComplete (s : State) : Host.Outcome State Fault Refusal :=
  match s.trust.program with
  | some (addr, data) =>
    .next { s with trust := { s.trust with program := none, blown := Tab.upd s.trust.blown addr (· ||| data) } }
  | none => .next s

/-- The 48 bytes of SEAL_EXT_DATA. -/
def extData (s : State) : BitVec 384 := of384 ((List.range 12).flatMap fun j => leBytes 4 (s.reg (0x31040 + 4 * j)).toNat)

/-- SEAL_EXT_CTL: GO extends MREG5 to MREG7 (R348). -/
def execExtend (v : Word) (s : State) : Host.Outcome State Fault Refusal :=
  sealWrite s fun s =>
    if bitOf v 31 = false then s
    else
      let i := fieldOf v 2 0
      if 5 ≤ i then setMreg i (ext (s.mreg i) (extData s)) s else s.setFlag 0x31000 4

end Sys2Proof.Machine
end

