-- ==== Sys2Proof/Machine/Loader.lean ====
section
/-! DEFINITION. The loader of firmware and images (R359, R361, R364): the FWUPD window in BAR0 and the LOAD commands of
the auditor port share it. -/

namespace Sys2Proof.Machine

def State.updWin (s : State) (f : Loader → Loader) : State := { s with fw := { s.fw with win := f s.fw.win } }

/-! Modes. -/

/-- Host load waits for the host's items, with the boot ROM loader in CTRL. -/
def hostLoading (s : State) : Bool := s.bootLoading && s.running Isl.ctrl
/-- The recovery loader runs in CTRL: pilot-light mode, or in place of control firmware. -/
def recoveryMode (s : State) : Bool := s.running Isl.ctrl && (s.rst.pilot || s.fw.loader)
def windowMode (s : State) : Bool := hostLoading s || recoveryMode s

/-- Is the loader taken: verifying, or open for the other side? -/
def Loader.taken (w : Loader) (auditor : Bool) : Bool := w.busy || (w.isOpen && w.auditor != auditor)

def Loader.begin (layer total : Nat) (auditor : Bool) : Loader :=
  { layer := layer, total := total, data := [], isOpen := true, busy := false, auditor := auditor, bad := false, result := 0 }

/-! The window. -/

/-- The end of the data: verification begins, or RESULT says what is wrong with the length. -/
def endLoad (s : State) : State :=
  s.updWin fun w =>
    if w.bad || w.data.length != w.total then { w with isOpen := false, bad := false, result := 0x02 }
    else { w with isOpen := false, busy := true }

/-- FWUPD_WIN_CTL.END. -/
def windowEnd (s : State) : State :=
  if s.fw.win.taken false then s
  else if !(windowMode s) then s.updWin fun w => { w with result := 0x01 }
  else if s.fw.win.isOpen then endLoad s
  else s.updWin fun w => { w with bad := false, result := 0x02 }

/-- A write of FWUPD_WIN_CTL with BEGIN opens a transfer of TOTAL words; with END too, it ends at once. -/
def execBegin (v : Word) (s : State) : Host.Outcome State Fault Refusal :=
  if s.running Isl.sys = false ∨ bitOf v 2 = false ∨ s.fw.win.taken false then .next s
  else if !(windowMode s) then .next (s.updWin fun w => { w with result := 0x01 })
  else
    let s := s.updWin fun _ => Loader.begin (fieldOf v 1 0) (4 * fieldOf v 28 5) false
    .next (if bitOf v 3 then windowEnd s else s)

/-- FWUPD_WIN_DATA: the next four bytes; outside a transfer or beyond TOTAL the write is ignored. -/
def execFwupdWinData (v : Word) (s : State) : Host.Outcome State Fault Refusal :=
  if s.running Isl.sys = false ∨ s.fw.win.taken false then .next s
  else .next (s.updWin fun w =>
    if w.isOpen && decide (w.data.length + 4 ≤ w.total) then { w with data := w.data ++ leBytes 4 v.toNat }
    else { w with bad := true })

/-- END_WINDOW: FWUPD_WIN_CTL written with END. -/
def execEndWindow (s : State) : Host.Outcome State Fault Refusal :=
  if s.running Isl.sys then .next (windowEnd s) else .next s

/-! Verification and writing. -/

/-- The item without the padding of its last word, where its own size fits. -/
def loadedItem (w : Loader) : Option (List Byte) :=
  let size := leField w.data 8 4
  if size ≤ w.data.length ∧ w.data.length < size + 4 ∧ size ≤ slotSize w.layer then some (w.data.take size) else none

/-- A written item clears COUNT (R317, R359). -/
def loadDone (s : State) : State := { s with rtc := { s.rtc with starts := 0 } }

/-- The draught image: placed for admission by host load, else admitted and written to the image slot that is not in
use, which becomes the one the boot record names. -/
def loadImage (bytes readBack : List Byte) (s : State) : State × Nat :=
  let g : Image := { bytes := Memory.ofBytes bytes, size := bytes.length }
  if (admission s g).isSome then (s, 0x09)
  else if hostLoading s then ({ s with fw := { s.fw with hostImage := some g } }, 0)
  else
    let b := !(if s.active then activeImageSlot s else slotWith s s.ember.heldImage)
    let copy := padTo bytes.length readBack
    let s := writeSlot 3 b copy s
    if copy = bytes then (loadDone (setImageSlot b s), 0) else (s, 0x08)

/-- A layer: held in on-chip memory by host load, else written to its inactive slot, which becomes ACTIVE. -/
def loadLayer (layer : Nat) (bytes readBack : List Byte) (s : State) : State × Nat :=
  let v := verifyStep s layer bytes
  if layer = 0 then (s, 0x03)
  else if v ≠ 0 then (s, 2 + v)
  else if hostLoading s then
    (if layer = 1 then { s with fw := { s.fw with hostMet := some bytes } }
     else { s with fw := { s.fw with hostCtl := some bytes } }, 0)
  else match writeInactive layer bytes readBack s with
    | (t, true) => (loadDone (activateSlot layer (!(activeSlot t layer)) false t), 0)
    | (t, false) => (t, 0x08)

/-- What the loader does with what it was given. -/
def runLoaded (readBack : List Byte) (s : State) : State × Nat :=
  match loadedItem s.fw.win with
  | none => (s, 0x02)
  | some bytes => if s.fw.win.layer = 3 then loadImage bytes readBack s else loadLayer s.fw.win.layer bytes readBack s

/-- The CODE of LOAD_END for a RESULT (R361). -/
def loadCode (r : Nat) : Nat := if r = 0 then 0x00 else if 3 ≤ r ∧ r ≤ 7 then 0x06 else 0x02

/-- WINDOW_VERIFY_COMPLETE: BUSY clears with its RESULT; where the auditor waits for it, its response is ready. -/
def execWindowVerifyComplete (readBack : List Byte) (s : State) : Host.Outcome State Fault Refusal :=
  if s.fw.win.busy && s.running Isl.seal && windowMode s then
    let (t, r) := runLoaded readBack s
    let t := t.updWin fun w => { w with busy := false, result := r, data := [] }
    .next (if t.aud.pend then { t with aud := { t.aud with pend := false, st := .ready (loadCode r) (leBytes 1 r) } } else t)
  else .next s

end Sys2Proof.Machine
end

