-- ==== Sys2Proof/Machine/AuditorPort.lean ====
section
/-! DEFINITION. Meanings of the auditor port's transactions (R360, R361). A request is the bytes of its transaction, from
0x5A to the last byte of the CRC. -/

namespace Sys2Proof.Machine

/-- Is the port served: SYS runs, and no L1 or L0 episode holds? -/
def portServed (s : State) : Bool := s.running Isl.sys && !(s.rst.episode.any fun e => e.level != .l2)

def respond (code : Nat) (data : List Byte) (s : State) : State := { s with aud := { s.aud with st := .ready code data } }

/-- Is a request whole: its LEN fits and its CRC is right? -/
def requestWhole (req : List Byte) : Bool := req.length == 8 + leField req 2 2 && crcOk (req.drop 1)
def requestPayload (req : List Byte) : List Byte := sliceOf req 4 (leField req 2 2)

/-- A request transaction, for the row of a command: it is discarded unless the port is idle; a wrong CRC and a CMD that the
table does not name are answered. -/
def auditorRequest (cmd : Nat) (req : List Byte) (s : State) (f : List Byte → State → State) :
    Host.Outcome State Fault Refusal :=
  if portServed s && s.aud.st == .idle && leField req 0 1 == 0x5A then
    if !(requestWhole req) then .next (respond 0x03 [] s)
    else if leField req 1 1 = cmd then .next (f (requestPayload req) s)
    else if [0x01, 0x02, 0x03, 0x04, 0x10, 0x11, 0x12].contains (leField req 1 1) then .next s
    else .next (respond 0x01 [] s)
  else .next s

/-- A payload of the wrong length, or with a value outside its range, is answered with BAD_FIELD. -/
def respondBad (s : State) : State := respond 0x02 [] s

def deviceCode : Nat := 0xB1600001

/-- IDENT. -/
def execIdent (req : List Byte) (s : State) : Host.Outcome State Fault Refusal :=
  auditorRequest 0x01 req s fun p s =>
    if p.isEmpty then
      respond 0 (deviceId ++ leBytes 4 deviceCode ++ leBytes 1 (modeCode s) ++ leBytes 1 (sealState s).code) s
    else respondBad s

/-- READ: bytes of the ember store. -/
def execAuditorRead (req : List Byte) (s : State) : Host.Outcome State Fault Refusal :=
  auditorRequest 0x02 req s fun p s =>
    let addr := leField p 0 4
    let count := leField p 4 2
    if p.length = 6 ∧ 1 ≤ count ∧ count ≤ 4096 ∧ addr + count ≤ 0x72000 then respond 0 (s.ember.readStore addr count) s
    else respondBad s

/-- ATTEST over the auditor's nonce, while SEAL runs. -/
def execAuditorAttest (req : List Byte) (s : State) : Host.Outcome State Fault Refusal :=
  auditorRequest 0x03 req s fun p s =>
    if s.running Isl.seal = false then respond 0x05 [] s
    else if p.length = 32 then respond 0 (attestation s p 1) s
    else respondBad s

/-- RECOVER: an empty response; source 14 asserts once it has been shifted out. -/
def execRecover (req : List Byte) (s : State) : Host.Outcome State Fault Refusal :=
  auditorRequest 0x04 req s fun p s =>
    if p = leBytes 4 0xB160A0D1 then
      let s := respond 0 [] s
      { s with aud := { s.aud with recover := true } }
    else respondBad s

/-- The LOAD commands run in pilot-light mode and under the recovery loader. -/
def loadRequest (cmd : Nat) (req : List Byte) (s : State) (f : List Byte → State → State) :
    Host.Outcome State Fault Refusal :=
  auditorRequest cmd req s fun p s => if recoveryMode s then f p s else respond 0x05 [] s

/-- LOAD_BEGIN. -/
def execLoadBegin (req : List Byte) (s : State) : Host.Outcome State Fault Refusal :=
  loadRequest 0x10 req s fun p s =>
    let layer := leField p 0 1
    if p.length = 5 ∧ 1 ≤ layer ∧ layer ≤ 3 ∧ s.fw.win.taken true = false then
      respond 0 [] (s.updWin fun _ => Loader.begin layer (leField p 1 4) true)
    else respondBad s

/-- LOAD_DATA: bytes from OFFSET on, without a gap. -/
def execLoadData (req : List Byte) (s : State) : Host.Outcome State Fault Refusal :=
  loadRequest 0x11 req s fun p s =>
    let off := leField p 0 4
    let bytes := p.drop 4
    let w := s.fw.win
    if 4 ≤ p.length ∧ bytes.length ≤ 4096 ∧ w.isOpen = true ∧ w.auditor = true ∧ off ≤ w.data.length ∧
        off + bytes.length ≤ w.total then
      respond 0 [] (s.updWin fun w => { w with data := w.data.take off ++ bytes ++ w.data.drop (off + bytes.length) })
    else respondBad s

/-- LOAD_END: the port is busy until the item is verified and written. -/
def execLoadEnd (req : List Byte) (s : State) : Host.Outcome State Fault Refusal :=
  loadRequest 0x12 req s fun p s =>
    if p.isEmpty && s.fw.win.isOpen && s.fw.win.auditor then
      let s := endLoad s
      if s.fw.win.busy then { s with aud := { s.aud with st := .busy, pend := true } }
      else respond (loadCode s.fw.win.result) (leBytes 1 s.fw.win.result) s
    else respondBad s

/-! Polls. -/

/-- What a poll shifts out: STATE, and in the ready state the response with its CRC. -/
def AudState.shifted : AudState → List Byte
  | .idle => leBytes 1 0
  | .busy => leBytes 1 1
  | .ready code data => leBytes 1 2 ++ withCrc (leBytes 1 code ++ leBytes 2 data.length ++ data)

/-- AUDITOR_POLL: a response is dropped once its CRC is out; a poll cut short (only STATE is read) leaves it. After
the response of RECOVER, PILOT_REQ is set and source 14 asserts (R298). -/
def execAuditorPoll (cut : Bool) (s : State) : Host.Outcome State Fault Refusal :=
  if !(portServed s) then .next s
  else
    let out := s.aud.st.shifted
    if cut then .next { s with aud := { s.aud with out := out.take 1 } }
    else match s.aud.st with
      | .ready _ _ =>
        let rec' := s.aud.recover
        let s := { s with aud := { s.aud with out := out, st := .idle, recover := false } }
        .next (if rec' then assertSource 14 { s with rtc := { s.rtc with pilotReq := true } } else s)
      | _ => .next { s with aud := { s.aud with out := out } }

end Sys2Proof.Machine
end

