-- ==== Sys2Proof/Machine/FaultCmds.lean ====
section
/-! DEFINITION. Meanings of the fault collector's commands: faults that the islands report, their injection, the queue, the
repeat counts and the return of an isolated island (R34 to R36, R40, R282 to R295). -/

namespace Sys2Proof.Machine

/-- Codes that a command of their own raises, where it finds them. -/
def foundElsewhere : List Nat := [0x01, 0x14, 0x21, 0x22, 0x23, 0x24, 0x25, 0x53, 0x54, 0x71, 0x82, 0xB2, 0xF0]

/-! Crossings (R40): 0 to 7 CONV to FLUE of a hearth, 8 to 15 FLUE to METRO of an engine, 16 METRO to EMBER. -/

def crossingOf (code detail : Nat) : Option Nat :=
  match code with
  | 0x31 => some (detail % 8) | 0x41 => some (8 + detail % 8) | 0x51 => some 16 | _ => none

/-- The declared occupancy bound of a crossing (R186). -/
def State.crossingBound (s : State) (x : Nat) : Nat :=
  if x < 8 then s.img.xbCF x else if x < 16 then s.img.xbFM (x - 8) else s.img.xbME
/-- An occupancy within the declared bound is no fault (R40). -/
def withinBound (code : Nat) (detail : Word) (s : State) : Bool :=
  (crossingOf code detail.toNat).any fun x => decide (fieldOf detail 15 8 ≤ s.crossingBound x)

/-- DAMPER_XING_STATUS: the first crossing since OVER was clear, and its peak occupancy. -/
def noteCrossing (x peak : Nat) (s : State) : State :=
  let fresh := bitOf (s.reg 0x20040) 0 = false
  (s.setFlag 0x20040 0).updDamper fun d =>
    match d.xing with
    | some (y, p) => { d with xing := if fresh then some (x, peak) else if y = x then some (y, max p peak) else d.xing }
    | none => { d with xing := some (x, peak) }

/-! The local action of a source (R36, R40, R131, R326, R435). The operand `detail` names the point of 0x43, the hearth or engine
of a crossing in bits [2:0] with its occupancy in [15:8], and the DRAM address of 0x83. -/

def countCorr (s : State) : State := { s with dram := { s.dram with corr := min (s.dram.corr + 1) (2 ^ 32 - 1) } }
def countUncorr (s : State) : State := { s with dram := { s.dram with uncorr := min (s.dram.uncorr + 1) (2 ^ 32 - 1) } }

/-- What a source does that needs no point, crossing or address: the error counts, the lock of PLL_D, the RTC treated as not set. -/
def plainAction (code : Nat) (s : State) : State :=
  match code with
  | 0x01 => { s with rtc := { s.rtc with isSet := false } }.setFlag 0x3004 7
  | 0x81 => countCorr s
  | 0x82 => countUncorr s
  | 0x83 => countUncorr s
  | 0x84 => { s with clk := { s.clk with pllD := false } }
  | _ => s

def localAction (code : Nat) (detail : Word) (s : State) : State :=
  match crossingOf code detail.toNat with
  | some x => noteCrossing x (fieldOf detail 15 8) s
  | none => match code with
    | 0x43 => s.updPoint (fieldOf detail 4 0) fun p => { p with missNext := true }
    | 0x83 => plainAction code { s with dram := { s.dram with eccAddr := detail } }
    | _ => plainAction code s

/-- DETAIL of a record: the point of a POINT fault, the crossing of a crossing fault, otherwise 0 (R289). -/
def recordDetail (code : Nat) (detail : Word) : Nat :=
  match crossingOf code detail.toNat with
  | some x => x
  | none => if code = 0x43 then fieldOf detail 4 0 else 0

/-- FAULT: an island detects a fault of R282. One that is in reset detects none. -/
def execFault (island : Fin 12) (code : BitVec 8) (detail : Word) (s : State) : Host.Outcome State Fault Refusal :=
  let c := code.toNat
  if faultIsland c ≠ island.val ∨ (faultClass c).isNone ∨ foundElsewhere.contains c ∨ withinBound c detail s then .next s
  else if s.island island.val = .inReset ∨ s.running Isl.sys = false then .next s
  else .next (reportFault island.val c (recordDetail c detail) (localAction c detail s))

/-- May a fault be injected (R295)? -/
def injectable (s : State) (island code : Nat) : Bool :=
  !(isSealed s) && island < 12 && faultIsland code == island &&
  match faultClass code with
  | some (.correctable, _) => true
  | some _ => 6 ≤ island
  | none => false

/-- FAULT_INJECT: the fields as written; GO injects the fault, which is handled as a detected one, but for what needs a hearth, a ring,
a port or an address, which no injection names (log entry 119), and is recorded at once with DETAIL 0xFFFF. -/
def execFaultInject (v : Word) (s : State) : Host.Outcome State Fault Refusal :=
  if s.running Isl.sys then
    let s := writeReg 0x37060 v s
    let i := fieldOf v 3 0
    let c := fieldOf v 15 8
    if bitOf v 31 && injectable s i c then
      .next (if s.island i = .inReset then s else reportFault i c 0xFFFF (plainAction c s))
    else .next s
  else .next s

/-- FAULT_POP: the oldest record leaves the queue. -/
def execFaultPop (s : State) : Host.Outcome State Fault Refusal :=
  if s.running Isl.sys then .next { s with fault := { s.fault with queue := s.fault.queue.drop 1 } } else .next s

/-- REPEAT_COUNT_CLEAR (R288): 100 ms after a recovery without a repeat. -/
def execRepeatCountClear (island : Fin 12) (s : State) : Host.Outcome State Fault Refusal :=
  if s.island island.val = .isolated ∨ s.rst.episode.isSome ∨ s.rst.release.isSome then .next s
  else .next (s.setReps island.val RepeatState.init)

/-- ISLAND_RECOVERY_COMPLETE (R283, R284): the island reports ready. FLUE comes back at a beat boundary. -/
def execIslandRecoveryComplete (island : Fin 12) (s : State) : Host.Outcome State Fault Refusal :=
  if s.island island.val = .isolated ∧ island.val ≠ Isl.flue then
    .next (islandBack island.val (s.setIsland island.val .running))
  else .next s

end Sys2Proof.Machine
end

