-- ==== Sys2Proof/Machine/Pcie.lean ====
section
/-! DEFINITION. The PCIe function apart from BAR0: the configuration space (R249, R250, R342) and the doorbell page of BAR2 (R251,
R252, R257). -/

namespace Sys2Proof.Machine

/-! Configuration space. The header has PCI's offsets; the spec gives no offsets of the capabilities, so their registers stand here
one after the other from 0x040 on (log entry 89). -/

/-- The address of configuration offset 0 among the addresses of REGISTER_WRITE: above BAR0 (log entry 89). -/
def cfgBase : Nat := 0x100000

/-- The Device Serial Number: bytes 0 to 7 of the device identifier, byte 0 in bits [7:0] (R342). -/
def serialWord (j : Nat) : Word := word (leNat (sliceOf deviceId (4 * j) 4))

/-- A register of the configuration space. -/
def cfgWord (s : State) (off : Nat) : Word :=
  let c := s.host.cfg
  match off with
  | 0x000 => putAt Config.vendorId.toNat 0 ||| putAt 0xB160 16
  | 0x004 => flagAt s.host.busMaster 2
  | 0x008 => 0x11800001
  | 0x010 => putAt c.bar0 0 ||| 4
  | 0x014 => word (c.bar0 / 2 ^ 32)
  | 0x018 => putAt c.bar2 0 ||| 4
  | 0x01C => word (c.bar2 / 2 ^ 32)
  | 0x02C => s.fuse 14
  | 0x040 => putAt 15 16 ||| flagAt c.funcMask 30 ||| flagAt c.msixOn 31   -- MSI-X Message Control: Table Size N - 1
  | 0x044 => 0x00005000                                                    -- MSI-X table: offset and BAR
  | 0x048 => 0x00005800                                                    -- pending-bit array
  | 0x04C => 2                                                             -- Device Capabilities: up to 512 bytes
  | 0x050 => putAt c.mps 5 ||| putAt c.mrrs 12                             -- Device Control
  | 0x054 => flagAt true 5 ||| flagAt c.ecrcGen 6 ||| flagAt true 7 ||| flagAt c.ecrcChk 8  -- AER Capabilities and Control
  | 0x058 => word c.aer                                                    -- AER status, by kind of failed transfer
  | 0x05C => serialWord 0
  | 0x060 => serialWord 1
  | _ => 0

/-- A base written to a BAR of `size` bytes: its lower or upper half. -/
def barWrite (size old : Nat) (hi : Bool) (v : Word) : Nat :=
  let x := if hi then v.toNat * 2 ^ 32 + old % 2 ^ 32 else old / 2 ^ 32 * 2 ^ 32 + v.toNat
  x / size * size

/-- A write to the configuration space. Payload and read request sizes that the function does not offer leave the field. -/
def cfgWrite (off : Nat) (v : Word) (c : ConfigSpace) : ConfigSpace :=
  match off with
  | 0x010 => { c with bar0 := barWrite (2 ^ 20) c.bar0 false v }
  | 0x014 => { c with bar0 := barWrite (2 ^ 20) c.bar0 true v }
  | 0x018 => { c with bar2 := barWrite (2 ^ 12) c.bar2 false v }
  | 0x01C => { c with bar2 := barWrite (2 ^ 12) c.bar2 true v }
  | 0x040 => { c with funcMask := bitOf v 30, msixOn := bitOf v 31 }
  | 0x050 => { c with mps := if fieldOf v 7 5 ≤ 2 then fieldOf v 7 5 else c.mps,
                      mrrs := if fieldOf v 14 12 ≤ 2 then fieldOf v 14 12 else c.mrrs }
  | 0x054 => { c with ecrcGen := bitOf v 6, ecrcChk := bitOf v 8 }
  | 0x058 => { c with aer := c.aer &&& (v ^^^ 0xFFFFFFFF).toNat }
  | _ => c

/-- Vectors no longer held are sent. -/
def writeConfig (off : Nat) (v : Word) (s : State) : State :=
  if s.running Isl.host then flushVectors (s.updHost fun h => { h with cfg := cfgWrite off v h.cfg }) else s

/-- The largest read that the device issues, and the largest payload, in bytes. -/
def ConfigSpace.maxRead (c : ConfigSpace) : Nat := 128 * 2 ^ c.mrrs
def ConfigSpace.maxPayload (c : ConfigSpace) : Nat := 128 * 2 ^ c.mps

/-! BAR2. -/

def sqDoorbell (n : Nat) : Nat := 8 * n
def oqDoorbell (m : Nat) : Nat := 0x100 + 8 * m

/-- The word at an offset of BAR2: a doorbell reads the index last accepted, the ring's tail or head; every other offset reads 0. -/
def bar2Word (s : State) (off : Nat) : Word :=
  match (List.range 8).find? fun n => sqDoorbell n == off, (List.range 11).find? fun m => oqDoorbell m == off with
  | some n, _ => word (s.sqAt n).tail
  | none, some m => word (s.oqAt m).head
  | none, none => 0

/-- A read of `n` bytes of BAR2 at any offset returns the addressed bytes (R5, R251); Completer Abort while HOST is isolated. -/
def readBar2 (s : State) (a n : Nat) : Option (List Byte) :=
  if s.replies Isl.host then
    some ((List.range n).map fun k => (bar2Word s ((a + k) / 4 * 4)).extractLsb' (8 * ((a + k) % 4)) 8)
  else none

end Sys2Proof.Machine
end

