-- ==== Sys2Proof/Machine/Registers.lean ====
section
/-! DEFINITION. The meaning of a plain register write (R5, R6, R9 to R14, R73, R249 to R251). -/

namespace Sys2Proof.Machine

/-- The word offset of MSI-X Vector Control of some vector (R251). -/
def isVectorControl (a : Nat) : Bool := decide (0x5000 ≤ a) && decide (a < 0x5100) && a % 16 == 12
/-- The hearth whose HEARTH_TAP_CTL an address is (R73). -/
def tapCtlOf (a : Nat) : Option Nat := if 0x10000 ≤ a ∧ a < 0x18000 ∧ a % 0x1000 = 0x040 then some ((a - 0x10000) / 0x1000) else none

/-- What a write of a plain register does beside the register: an unmasked vector sends its pending message, and a tap
control is taken over at the next frame boundary. -/
def afterWrite (a : Nat) (s : State) : State :=
  if isVectorControl a then flushVectors s
  else match tapCtlOf a with
    | some h => if !(s.running Isl.conv) then s else s.updHearth h fun x => { x with tap := { x.tap with pend := true } }
    | none => s

/-- REGISTER_WRITE. A write that does not enable all four bytes has no effect (R5); nor has one to a block whose island takes no
transfer. Above BAR0 stand the registers of the configuration space (log entry 89). -/
def execRegisterWrite (addr : Nat) (be : BitVec 4) (v : Word) (s : State) : Host.Outcome State Fault Refusal :=
  if be ≠ 15 then .next s
  else if cfgBase ≤ addr then .next (writeConfig (addr - cfgBase) v s)
  else .next (afterWrite addr (writeReg addr v s))

end Sys2Proof.Machine
end

