-- ==== Sys2Proof/Machine/Resets.lean ====
section
/-! DEFINITION. Meanings of the reset sources, the control watchdog, the clocks' loss and the start confirmation (R297 to
R301, R306, R307, R311, R312, R317, R319, R324, R325). -/

namespace Sys2Proof.Machine

/-! Level-sensitive sources. -/

def isAsserted (s : State) (c : Nat) : Bool := s.rst.asserted.testBit (c - 1)

/-- The condition of a level-sensitive source begins to hold, or ends. -/
def sourceLine (c : Nat) (on : Bool) (s : State) : State :=
  if on then (if isAsserted s c then s else assertSource c s) else releaseSource c s

/-- POR: `low` while a supply has not reached its release threshold since power-up; its end is the release condition of
R299, with REF_OK, which an L0 of another source waits for as well (R304). -/
def execPor (low : Bool) (s : State) : Host.Outcome State Fault Refusal :=
  if low then
    let s := { s with clk := { s.clk with refOk := false, pllM := false, pllC := false, pllD := false, pcie := false } }
    .next (sourceLine 1 true { s with rst := { s.rst with porDone := false } })
  else if isAsserted s 1 || !s.rst.porDone then
    let s := releaseSource 1 s
    .next { s with rst := { s.rst with porDone := true }, clk := { s.clk with refOk := true } }
  else .next s

/-- BOR_CORE and BOR_IO: a supply below its threshold once POR has been released. -/
def execBorCore (low : Bool) (s : State) : Host.Outcome State Fault Refusal :=
  .next (if isAsserted s 1 then s else sourceLine 2 low s)
def execBorIo (low : Bool) (s : State) : Host.Outcome State Fault Refusal :=
  .next (if isAsserted s 1 then s else sourceLine 3 low s)

/-- TAMPER_N, low for 10 µs and still low (R362). -/
def execTamper (low : Bool) (s : State) : Host.Outcome State Fault Refusal :=
  .next (sourceLine 8 low { s with pins := { s.pins with tamper := low } })

/-- PERST_N. -/
def execPerstN (low : Bool) (s : State) : Host.Outcome State Fault Refusal :=
  .next (sourceLine 9 low { s with pins := { s.pins with perst := low } })

/-- Is the RESET_N input ignored: while the device drives the pin, and for 50 µs after (R307)? The time base starts at
the release. -/
def resetIgnored (s : State) : Bool := s.rst.pinDrive || decide (s.fault.timeBase < 5000)

/-- RESET_N held low by an external circuit for so many ns (R306). Between 1 µs and 1.2 µs the input filter decides. Once
accepted, the device drives the pin itself and no longer sees the external circuit. -/
def execResetNPin (lowNs : Nat) (s : State) : Host.Outcome State Fault Refusal :=
  if resetIgnored s ∨ lowNs < 1000 then .next s
  else if 1200 ≤ lowNs then .next (releaseSource 4 (assertSource 4 s))
  else
    let s := { s with rst := { s.rst with nDraws := s.rst.nDraws + 1 } }
    .next (if Config.resetPulse s.rst.nDraws then releaseSource 4 (assertSource 4 s) else s)

/-- Thermal trip (R301): the junction temperature in 0.25 °C. Fault 0x14 is logged once for each rise above 105 °C. -/
def execThermalTrip (tj : Int) (s : State) : Host.Outcome State Fault Refusal :=
  let rise := decide (420 < tj) && !s.fault.hotTj
  let s := { s with rst := { s.rst with tj := tj }, fault := { s.fault with hotTj := decide (420 < tj) } }
  let s := if rise then reportFault Isl.sys 0x14 0 s else s
  .next (if 480 ≤ tj then sourceLine 7 true s else if tj < 400 then sourceLine 7 false s else s)

/-- What a change of the reference and the PLLs loses: the code of CLK_LOSS for the first of the reference, PLL_M and
PLL_C that falls. -/
def clockFalls (c : Clocks) (refOk pllM pllC : Bool) : Nat :=
  if c.refOk && !refOk then 1 else if c.pllM && !pllM then 2 else if c.pllC && !pllC then 3 else 0

/-- CLOCK_LOSS (R311): REF_OK and the locks of PLL_M and PLL_C as they now are. -/
def execClockLoss (refOk pllM pllC : Bool) (s : State) : Host.Outcome State Fault Refusal :=
  let f := clockFalls s.clk refOk pllM pllC
  let s := { s with clk := { s.clk with refOk := refOk, pllM := pllM, pllC := pllC } }
  if f ≠ 0 ∧ isAsserted s 16 = false then
    let s := { s with rst := { s.rst with asserted := setBitN s.rst.asserted 15 true } }
    .next (assertAt 16 (sourceLevel s 16) f s)
  else .next (if refOk && pllM && pllC then releaseSource 16 s else s)

/-! Events. -/

/-- CTRL_WATCHDOG (R300): the enabled watchdog has run out. -/
def execCtrlWatchdog (s : State) : Host.Outcome State Fault Refusal :=
  .next (if bitOf (s.reg 0x1028) 31 && s.rst.wdtRemain == 0 then assertSource 5 s else s)

/-- START_WINDOW_EXPIRY (R319): 4 s without an accepted START_OK. -/
def execStartWindowExpiry (s : State) : Host.Outcome State Fault Refusal :=
  .next (if s.rst.window then assertSource 5 { s with rst := { s.rst with window := false } } else s)

/-- DAMPER_WATCHDOG: an image is active and no beat boundary has followed within 1.010 ms. -/
def execDamperWatchdog (s : State) : Host.Outcome State Fault Refusal :=
  .next (if s.active && s.running Isl.conv then assertSource 6 s else s)

/-- PCIE_HOT_RESET: a hot reset, a link disable or a Function Level Reset, received over the link. -/
def execPcieHotReset (s : State) : Host.Outcome State Fault Refusal :=
  .next (if s.running Isl.host && s.host.linkUp then assertSource 10 s else s)

/-- DEBUG_RESET: refused by the hardware while the meter-maker fuses are sealed. -/
def execDebugReset (s : State) : Host.Outcome State Fault Refusal :=
  .next (if isSealed s then s else assertSource 13 s)

/-! Registers of the RESET and CLOCK blocks with an action. They stand in SYS: nothing reaches them while it is in
reset. -/

def sysWrite (s : State) (f : State → State) : Host.Outcome State Fault Refusal :=
  .next (if s.running Isl.sys then f s else s)

/-- RESET_SOFT: the deeper of LEVEL and MAP12 (R325). -/
def execResetSoft (v : Word) (s : State) : Host.Outcome State Fault Refusal :=
  sysWrite s fun s =>
    if fieldOf v 31 16 ≠ 0xB160 then s
    else match fieldOf v 1 0 with
      | 1 => assertAt 12 (Level.l1.deeper (sourceLevel s 12)) 0 s
      | 2 => assertAt 12 (sourceLevel s 12) 0 s
      | _ => s

/-- RESET_START_OK (R319). -/
def execStartOk (v : Word) (s : State) : Host.Outcome State Fault Refusal :=
  sysWrite s fun s =>
    if fieldOf v 31 16 ≠ 0x5A17 ∨ bitOf v 0 = false then s
    else if s.rst.window then acceptStart s
    else s.setFlag 0x1000 9

/-- TIMEOUT as it acts, in ms. -/
def wdtTimeout (s : State) : Nat := max 1 (s.fld 0x1028 15 0)

/-- RESET_WDT_CFG (R300): locked once EN is set. -/
def execResetWdtCfg (v : Word) (s : State) : Host.Outcome State Fault Refusal :=
  sysWrite s fun s =>
    if bitOf (s.reg 0x1028) 31 then s
    else
      let s := s.setReg 0x1028 (v &&& 0x8000FFFF)
      if bitOf v 31 then { s with rst := { s.rst with wdtRemain := wdtTimeout s, wdtTick := 0 } } else s

/-- RESET_WDT_KICK: with its key it reloads RESET_WDT_REMAIN. -/
def execResetWdtKick (v : Word) (s : State) : Host.Outcome State Fault Refusal :=
  sysWrite s fun s =>
    if fieldOf v 31 16 = 0x6B1C then { s with rst := { s.rst with wdtRemain := wdtTimeout s, wdtTick := 0 } } else s

/-- CLOCK_REF_DEV_MEASURE (R312): the deviation over the last 8 s, in 0.1 ppm. -/
def execClockRefDevMeasure (dev : Int) (s : State) : Host.Outcome State Fault Refusal :=
  sysWrite s fun s => { s with clk := { s.clk with refDev := dev, refValid := true } }

end Sys2Proof.Machine
end

