-- ==== Sys2Proof/Machine/Dispatch.lean ====
section
/-! DEFINITION. What each command does to everything but the queue: one arm per command, in the order of the
opcode table. -/

namespace Sys2Proof.Machine

def exec (i : Instr) (s : State) : Host.Outcome State Fault Refusal :=
  match i with
  | .registerWrite addr be v => Sys2Proof.Machine.execRegisterWrite addr be v s
  | .sqTailDoorbell n be v => Sys2Proof.Machine.execSqTailDoorbell n be v s
  | .headDoorbell m be v => Sys2Proof.Machine.execHeadDoorbell m be v s
  | .descriptorFetch buf => Sys2Proof.Machine.execDescriptorFetch buf s
  | .nop ord => Sys2Proof.Machine.execNop ord s
  | .readPoint ord ok => Sys2Proof.Machine.execReadPoint ord ok s
  | .readTotals ord ok => Sys2Proof.Machine.execReadTotals ord ok s
  | .sessionOpen ord buf => Sys2Proof.Machine.execSessionOpen ord buf s
  | .sessionTariff ord => Sys2Proof.Machine.execSessionTariff ord s
  | .sessionPause ord => Sys2Proof.Machine.execSessionPause ord s
  | .sessionResume ord => Sys2Proof.Machine.execSessionResume ord s
  | .sessionClose ord => Sys2Proof.Machine.execSessionClose ord s
  | .sessionRelease ord => Sys2Proof.Machine.execSessionRelease ord s
  | .sessionRead ord ok => Sys2Proof.Machine.execSessionRead ord ok s
  | .timeSet ord => Sys2Proof.Machine.execTimeSet ord s
  | .timeRead ord => Sys2Proof.Machine.execTimeRead ord s
  | .attest ord ok => Sys2Proof.Machine.execAttest ord ok s
  | .keyInfo ord ok => Sys2Proof.Machine.execKeyInfo ord ok s
  | .captureStart ord => Sys2Proof.Machine.execCaptureStart ord s
  | .captureTrigger cap => Sys2Proof.Machine.execCaptureTrigger cap s
  | .captureStop ord => Sys2Proof.Machine.execCaptureStop ord s
  | .displayCompose ord buf => Sys2Proof.Machine.execDisplayCompose ord buf s
  | .displayWindow ord => Sys2Proof.Machine.execDisplayWindow ord s
  | .linkPollset ord buf => Sys2Proof.Machine.execLinkPollset ord buf s
  | .linkSend ord buf => Sys2Proof.Machine.execLinkSend ord buf s
  | .imageStage ord => Sys2Proof.Machine.execImageStage ord s
  | .imageTransferComplete buf => Sys2Proof.Machine.execImageTransferComplete buf s
  | .admissionComplete => Sys2Proof.Machine.execAdmissionComplete s
  | .imageActivate ord => Sys2Proof.Machine.execImageActivate ord s
  | .fwStage ord buf readBack => Sys2Proof.Machine.execFwStage ord buf readBack s
  | .fwActivateControl ord => Sys2Proof.Machine.execFwActivateControl ord s
  | .controlFirmwareRestart => Sys2Proof.Machine.execControlFirmwareRestart s
  | .fwActivateMetrology ord => Sys2Proof.Machine.execFwActivateMetrology ord s
  | .metrologyLayerReady => Sys2Proof.Machine.execMetrologyLayerReady s
  | .resetRequest ord => Sys2Proof.Machine.execResetRequest ord s
  | .completionWrite ord ok => Sys2Proof.Machine.execCompletionWrite ord ok s
  | .evqEntryWrite ok => Sys2Proof.Machine.execEvqEntryWrite ok s
  | .rcqEntryWrite ok => Sys2Proof.Machine.execRcqEntryWrite ok s
  | .capqEntryWrite ok => Sys2Proof.Machine.execCapqEntryWrite ok s
  | .coalTimeExpiry m => Sys2Proof.Machine.execCoalTimeExpiry m s
  | .ringEnable sub n v => Sys2Proof.Machine.execRingEnable sub n v s
  | .sqDisable n v => Sys2Proof.Machine.execSqDisable n v s
  | .oqDisable m v => Sys2Proof.Machine.execOqDisable m v s
  | .inflightPeakRead => Sys2Proof.Machine.execInflightPeakRead s
  | .pcieLinkUp speed width => Sys2Proof.Machine.execPcieLinkUp speed width s
  | .busMasterEnable on => Sys2Proof.Machine.execBusMasterEnable on s
  | .d3hot on => Sys2Proof.Machine.execD3hot on s
  | .frameBoundary codes => Sys2Proof.Machine.execFrameBoundary codes s
  | .mailboxLatch => Sys2Proof.Machine.execMailboxLatch s
  | .beatBoundary refs => Sys2Proof.Machine.execBeatBoundary refs s
  | .roundBoundary refs => Sys2Proof.Machine.execRoundBoundary refs s
  | .publicationCycle => Sys2Proof.Machine.execPublicationCycle s
  | .bankingWrite cut => Sys2Proof.Machine.execBankingWrite cut s
  | .recordIssue => Sys2Proof.Machine.execRecordIssue s
  | .recordSigned => Sys2Proof.Machine.execRecordSigned s
  | .overrange h idx => Sys2Proof.Machine.execOverrange h idx s
  | .trackerCrossing t pos => Sys2Proof.Machine.execTrackerCrossing t pos s
  | .cycleClose ch pos ecc => Sys2Proof.Machine.execCycleClose ch pos ecc s
  | .cycleTimeout ch => Sys2Proof.Machine.execCycleTimeout ch s
  | .harmonicWindowClose ch => Sys2Proof.Machine.execHarmonicWindowClose ch s
  | .harmonicPublication ch => Sys2Proof.Machine.execHarmonicPublication ch s
  | .supraharmonicBlock => Sys2Proof.Machine.execSupraharmonicBlock s
  | .supraharmonicIntervalPublication ch => Sys2Proof.Machine.execSupraharmonicIntervalPublication ch s
  | .spectralRestartEnd => Sys2Proof.Machine.execSpectralRestartEnd s
  | .urmsEvaluation p => Sys2Proof.Machine.execUrmsEvaluation p s
  | .fundamentalCrossing p => Sys2Proof.Machine.execFundamentalCrossing p s
  | .impulseStart c => Sys2Proof.Machine.execImpulseStart c s
  | .impulseEnd c => Sys2Proof.Machine.execImpulseEnd c s
  | .fillEnd h => Sys2Proof.Machine.execFillEnd h s
  | .refTimeout h => Sys2Proof.Machine.execRefTimeout h s
  | .rebuildComplete h wit attempt => Sys2Proof.Machine.execRebuildComplete h wit attempt s
  | .rebuildTimeout h wit attempt => Sys2Proof.Machine.execRebuildTimeout h wit attempt s
  | .backgroundRekindle h => Sys2Proof.Machine.execBackgroundRekindle h s
  | .retry mask => Sys2Proof.Machine.execRetry mask s
  | .tapLatch h code => Sys2Proof.Machine.execTapLatch h code s
  | .tapDataRead h => Sys2Proof.Machine.execTapDataRead h s
  | .flueBankData h v => Sys2Proof.Machine.execFlueBankData h v s
  | .swap h v => Sys2Proof.Machine.execSwap h v s
  | .bankHashComplete h => Sys2Proof.Machine.execBankHashComplete h s
  | .swapComplete h => Sys2Proof.Machine.execSwapComplete h s
  | .flueTrkLenLoRead h hi => Sys2Proof.Machine.execFlueTrkLenLoRead h hi s
  | .energyBeatLoRead hi => Sys2Proof.Machine.execEnergyBeatLoRead hi s
  | .eventTbBeatLoRead hi => Sys2Proof.Machine.execEventTbBeatLoRead hi s
  | .damperBeatLoRead hi => Sys2Proof.Machine.execDamperBeatLoRead hi s
  | .damperActBeatLoRead hi => Sys2Proof.Machine.execDamperActBeatLoRead hi s
  | .emberLoRead off => Sys2Proof.Machine.execEmberLoRead off s
  | .emberRdDataRead => Sys2Proof.Machine.execEmberRdDataRead s
  | .pfwN low => Sys2Proof.Machine.execPfwN low s
  | .powerFailMonitor low => Sys2Proof.Machine.execPowerFailMonitor low s
  | .markerWritten => Sys2Proof.Machine.execMarkerWritten s
  | .powerFailTriggerEnd => Sys2Proof.Machine.execPowerFailTriggerEnd s
  | .finalBankWaitTimeout => Sys2Proof.Machine.execFinalBankWaitTimeout s
  | .powerGoodCheck p high => Sys2Proof.Machine.execPowerGoodCheck p high s
  | .por low => Sys2Proof.Machine.execPor low s
  | .borCore low => Sys2Proof.Machine.execBorCore low s
  | .borIo low => Sys2Proof.Machine.execBorIo low s
  | .resetNPin lowNs => Sys2Proof.Machine.execResetNPin lowNs s
  | .ctrlWatchdog => Sys2Proof.Machine.execCtrlWatchdog s
  | .startWindowExpiry => Sys2Proof.Machine.execStartWindowExpiry s
  | .damperWatchdog => Sys2Proof.Machine.execDamperWatchdog s
  | .thermalTrip tj => Sys2Proof.Machine.execThermalTrip tj s
  | .tamper low => Sys2Proof.Machine.execTamper low s
  | .perstN low => Sys2Proof.Machine.execPerstN low s
  | .pcieHotReset => Sys2Proof.Machine.execPcieHotReset s
  | .resetSoft v => Sys2Proof.Machine.execResetSoft v s
  | .debugReset => Sys2Proof.Machine.execDebugReset s
  | .clockLoss refOk pllM pllC => Sys2Proof.Machine.execClockLoss refOk pllM pllC s
  | .episodeRelease straps => Sys2Proof.Machine.execEpisodeRelease straps s
  | .stepReady report => Sys2Proof.Machine.execStepReady report s
  | .startOk v => Sys2Proof.Machine.execStartOk v s
  | .resetWdtCfg v => Sys2Proof.Machine.execResetWdtCfg v s
  | .resetWdtKick v => Sys2Proof.Machine.execResetWdtKick v s
  | .clockRefDevMeasure dev => Sys2Proof.Machine.execClockRefDevMeasure dev s
  | .fault island code detail => Sys2Proof.Machine.execFault island code detail s
  | .islandRecoveryComplete island => Sys2Proof.Machine.execIslandRecoveryComplete island s
  | .repeatCountClear island => Sys2Proof.Machine.execRepeatCountClear island s
  | .faultPop => Sys2Proof.Machine.execFaultPop s
  | .faultInject v => Sys2Proof.Machine.execFaultInject v s
  | .halt => Sys2Proof.Machine.execHalt s
  | .haltClear => Sys2Proof.Machine.execHaltClear s
  | .haltTimeout => Sys2Proof.Machine.execHaltTimeout s
  | .calApply v => Sys2Proof.Machine.execCalApply v s
  | .trimStep temp => Sys2Proof.Machine.execTrimStep temp s
  | .rtcTimeRead which => Sys2Proof.Machine.execRtcTimeRead which s
  | .rtcCalDateRead time => Sys2Proof.Machine.execRtcCalDateRead time s
  | .fuseProgram v => Sys2Proof.Machine.execFuseProgram v s
  | .fuseProgramComplete => Sys2Proof.Machine.execFuseProgramComplete s
  | .extend v => Sys2Proof.Machine.execExtend v s
  | .begin v => Sys2Proof.Machine.execBegin v s
  | .fwupdWinData v => Sys2Proof.Machine.execFwupdWinData v s
  | .endWindow => Sys2Proof.Machine.execEndWindow s
  | .windowVerifyComplete readBack => Sys2Proof.Machine.execWindowVerifyComplete readBack s
  | .ident req => Sys2Proof.Machine.execIdent req s
  | .auditorRead req => Sys2Proof.Machine.execAuditorRead req s
  | .auditorAttest req => Sys2Proof.Machine.execAuditorAttest req s
  | .recover req => Sys2Proof.Machine.execRecover req s
  | .loadBegin req => Sys2Proof.Machine.execLoadBegin req s
  | .loadData req => Sys2Proof.Machine.execLoadData req s
  | .loadEnd req => Sys2Proof.Machine.execLoadEnd req s
  | .auditorPoll cut => Sys2Proof.Machine.execAuditorPoll cut s
  | .linkEn on => Sys2Proof.Machine.execLinkEn on s
  | .pollRun on => Sys2Proof.Machine.execPollRun on s
  | .attemptStart => Sys2Proof.Machine.execAttemptStart s
  | .transmitEnd => Sys2Proof.Machine.execTransmitEnd s
  | .frameReceived f dmaOk => Sys2Proof.Machine.execFrameReceived f dmaOk s
  | .replyTimeout dmaOk => Sys2Proof.Machine.execReplyTimeout dmaOk s
  | .segmentTimeout dmaOk => Sys2Proof.Machine.execSegmentTimeout dmaOk s
  | .mantelRun v => Sys2Proof.Machine.execMantelRun v s
  | .digest => Sys2Proof.Machine.execDigest s
  | .digestRequestEnd => Sys2Proof.Machine.execDigestRequestEnd s
  | .mantelTblData v => Sys2Proof.Machine.execMantelTblData v s
  | .commit v => Sys2Proof.Machine.execCommit v s
  | .commitComplete flashOk => Sys2Proof.Machine.execCommitComplete flashOk s
  | .updateStart p temp => Sys2Proof.Machine.execUpdateStart p temp s
  | .hvDlyExpiry p => Sys2Proof.Machine.execHvDlyExpiry p s
  | .updateEnd p => Sys2Proof.Machine.execUpdateEnd p s
  | .temperatureRetry p temp => Sys2Proof.Machine.execTemperatureRetry p temp s
  | .pcieLinkDown => Sys2Proof.Machine.execPcieLinkDown s
  | .prescalerEdge => Sys2Proof.Machine.execPrescalerEdge s
  | .vbatLost => Sys2Proof.Machine.execVbatLost s
  | .integratorFillEnd idx => Sys2Proof.Machine.execIntegratorFillEnd idx s

end Sys2Proof.Machine
end

