-- ==== Sys2Proof/Machine/Tick.lean ====
section
/-! DEFINITION. What one SYS cycle of 10 ns does when no command waits (log entry 4): the time base counts while SYS
runs and from the release of an L1 or L0 episode on (R34, R289), the hold times of a reset episode run (R304), and the control watchdog counts down by
milliseconds (R300). -/

namespace Sys2Proof.Machine

/-- The hold timers of an episode. -/
def Episode.tick (e : Episode) : Episode := { e with hold := e.hold + 1, deep := e.deep.map (· + 1) }

/-- The control watchdog, once EN is set. -/
def wdtTick (en : Bool) (r : ResetCtl) : ResetCtl :=
  if en ∧ 0 < r.wdtRemain then
    if r.wdtTick + 1 ≥ 100000 then { r with wdtTick := 0, wdtRemain := r.wdtRemain - 1 }
    else { r with wdtTick := r.wdtTick + 1 }
  else r

/-- The SYS time base. -/
def Faults.tick (f : Faults) : Faults := { f with timeBase := f.timeBase + 1 }

/-- One SYS cycle with nothing commanded. -/
def sysTick (s : State) : State :=
  { s with fault := if Tab.at s.rst.islands 1 .inReset = .running ∨ s.rst.release.isSome then s.fault.tick else s.fault,
           rst := wdtTick (bitOf (Regs.get s.regs 0x1028) 31)
                    { s.rst with episode := s.rst.episode.map Episode.tick } }

end Sys2Proof.Machine
end

