-- ==== Sys2Proof/Machine/ViewSys.lean ====
section
/-! DEFINITION. What a read of the registers of the SYS, AON, HOST, DRAM, SEAL, LINK and MANTEL islands returns, by the
offset in the block (R44, R251, R277, R294, R324 to R326, R338, R363, R364, R389, R408, R432, R435). -/

namespace Sys2Proof.Machine

/-- The bits of a register that a host can write and read back (R9). -/
def RegSpec.readMask (r : RegSpec) : Word := r.fields.foldl (fun m f => if f.acc = .wo then m else m ||| maskOf f.hi f.lo) 0

/-- The host-writable and sticky fields of the register at a BAR0 address; every other bit reads 0. -/
def plainRead (s : State) (a : Nat) : Word := match RegMap.find a with | some (_, r, _) => s.reg a &&& r.readMask | none => 0

/-- Word `j` of a byte string, byte 4j in bits [7:0]. -/
def wordAt (bs : List Byte) (j : Nat) : Word := word (leField bs (4 * j) 4)

/-- A mask from a condition per bit. -/
def maskWord (n : Nat) (f : Nat → Bool) : Word := (List.range n).foldl (fun m i => m ||| flagAt (f i) i) 0

/-- A signed quantity in an `n`-bit field. -/
def sfield (v : Int) (n : Nat) : Nat := (v % (2 ^ n : Nat)).toNat

/-- GLOBAL (R44). -/
def viewGlobal (s : State) (off : Nat) : Word :=
  match off with | 0x000 => 0xB1600001 | 0x004 => 0x0CA02008 | 0x008 => 0x000C8840 | _ => plainRead s off

def Level.code : Level → Nat
  | .l0 => 0 | .l1 => 1 | .l2 => 2

/-- RESET (R324). -/
def viewReset (s : State) (off : Nat) : Word :=
  let r := s.rst
  match off with
  | 0x000 => plainRead s 0x1000 ||| putAt r.lastLevel.code 0 ||| flagAt r.pilot 2 ||| putAt r.pilotCause 3 |||
      flagAt r.window 7 ||| flagAt r.started 8 ||| flagAt r.badStrap 10
  | 0x004 => word r.cause
  | 0x008 => putAt r.first 0 ||| putAt r.clkLoss 8
  | 0x00C => word r.number
  | 0x010 => word r.hold
  | 0x014 => resetMap s
  | 0x018 => putAt (fieldOf (s.fuse 13) 2 0) 0
  | 0x01C => putAt s.rtc.starts 0 ||| flagAt s.rtc.pilotReq 8 ||| flagAt s.rtc.trial 9 ||| putAt (fuseLimit s) 12
  | 0x030 => word r.wdtRemain
  | 0x034 => putAt (sfield r.tj 12) 0
  | _ => plainRead s (0x1000 + off)

/-- The strap values in use (R308): a reserved one acts as another. -/
def clkEff (c : Clocks) : Nat := if c.clkMode = 3 then 0 else c.clkMode
def bootEff (c : Clocks) : Nat := if c.bootSel = 3 then 2 else c.bootSel

/-- CLOCK (R326). -/
def viewClock (s : State) (off : Nat) : Word :=
  let c := s.clk
  match off with
  | 0x000 => plainRead s 0x2000 ||| flagAt c.refOk 0 ||| flagAt c.pllM 1 ||| flagAt c.pllC 2 ||| flagAt c.pllD 3 ||| flagAt c.pcie 4
  | 0x004 => putAt c.clkMode 0 ||| putAt c.bootSel 4 ||| putAt (clkEff c) 8 ||| putAt (bootEff c) 12
  | 0x008 => putAt (sfield c.refDev 16) 0 ||| flagAt c.refValid 31
  | 0x010 => s.reg 0x2010
  | _ => plainRead s (0x2000 + off)

/-- RTC (R328, R333, R338). -/
def viewRtc (s : State) (off : Nat) : Word :=
  let r := s.rtc
  let now := if r.halted then rtcWords r.shown else r.shadow.getD (rtcWords r.count)
  match off with
  | 0x000 => flagAt r.halted 0
  | 0x004 => plainRead s 0x3004 ||| flagAt r.isSet 0 ||| flagAt r.halted 1 ||| flagAt (setPending s) 2 ||| putAt r.refuseCause 4
  | 0x008 => now.1
  | 0x00C => now.2.1
  | 0x010 => now.2.2
  | 0x014 => s.reg 0x3014
  | 0x018 => (calendarView (r.count / 32768)).1
  | 0x01C => r.calTime.getD (calendarView (r.count / 32768)).2
  | 0x028 => (plainRead s 0x3028 &&& maskOf 1 1) ||| putAt r.errField 4
  | 0x034 => putAt (sfield r.temp 12) 0 ||| putAt (sfield r.corr 12) 16 ||| putAt (r.lastStep % 16) 28
  | 0x038 => word r.sets
  | _ => plainRead s (0x3000 + off)

/-- Does a submission ring hold descriptors not yet fetched (HOST_INFLIGHT.PENDING)? -/
def SqRing.waits (q : SqRing) : Bool := !q.vis.isEmpty

/-- HOST (R277). -/
def viewHost (s : State) (off : Nat) : Word :=
  let h := s.host
  let a := 0x4000 + off
  if 0x100 ≤ off ∧ off < 0x200 then
    let n := (off - 0x100) / 0x20
    let q := Tab.at h.sq n .init
    match off % 0x20 with
    | 0x0C => word q.head
    | 0x10 => word q.tail
    | 0x14 => plainRead s a ||| flagAt (s.sqIdle n) 0 ||| putAt (s.sqInflight n) 8
    | _ => plainRead s a
  else if 0x200 ≤ off ∧ off < 0x360 then
    let m := (off - 0x200) / 0x20
    let q := Tab.at h.oq m .init
    match off % 0x20 with
    | 0x10 => word q.head
    | 0x14 => word q.tail
    | 0x18 => plainRead s a ||| flagAt (!(s.oqEnabled m)) 0 ||| flagAt q.phase 2
    | _ => plainRead s a
  else match off with
    | 0x000 => plainRead s a ||| flagAt h.linkUp 0 ||| putAt h.speed 1 ||| putAt h.width 3 ||| flagAt h.paused 6 ||| flagAt s.rst.pilot 7
    | 0x008 => putAt h.inflight.length 0 ||| (maskWord 8 fun n => (Tab.at h.sq n .init).waits) <<< 8
    | 0x00C => word h.peak
    | 0x014 => word h.errRing
    | 0x018 => s.reg 0x4018
    | _ => plainRead s a

/-- The MSI-X table and pending bits (R251). -/
def viewMsix (s : State) (off : Nat) : Word := if off = 0x800 then word s.host.pba else plainRead s (0x5000 + off)

/-- SEAL (R363). -/
def viewSeal (s : State) (off : Nat) : Word :=
  if 0x100 ≤ off ∧ off < 0x280 then wordAt (bytes384 (s.mreg ((off - 0x100) / 0x30))) ((off - 0x100) % 0x30 / 4)
  else if 0x280 ≤ off ∧ off < 0x2B0 then wordAt (bytes384 s.trust.legal) ((off - 0x280) / 4)
  else if 0x2C0 ≤ off ∧ off < 0x2F0 then s.fuse ((off - 0x2C0) / 4)
  else if off = 0 then
    plainRead s 0x31000 ||| putAt (sealState s).code 0 ||| flagAt s.trust.program.isSome 2 ||| flagAt s.trust.kek 5
  else plainRead s (0x31000 + off)

/-- The layer on trial: 0 none. -/
def trialLayer (s : State) : Nat := if layerTrial s 1 then 1 else if layerTrial s 2 then 2 else 0

/-- FWUPD (R364). -/
def viewFwupd (s : State) (off : Nat) : Word :=
  let f := s.fw
  match off with
  | 0x000 => flagAt f.metSlot 0 ||| flagAt f.ctlSlot 1 ||| putAt (trialLayer s) 2 ||| flagAt f.loader 4
  | 0x004 => putAt f.stageLayer 0 ||| putAt f.stageCause 8
  | 0x018 => flagAt f.win.busy 0 ||| flagAt (f.win.isOpen && !f.win.auditor) 1 ||| putAt f.win.result 8
  | _ => plainRead s (0x32000 + off)

/-- LINK_POS: the exchange in progress. -/
def Exchange.pos (e : Exchange) : Word := putAt e.entry 0 ||| putAt (e.attempt - 1) 8 ||| flagAt e.send.isSome 16

/-- LINK (R389). -/
def viewLink (s : State) (off : Nat) : Word :=
  let k := s.link
  match off with
  | 0x000 => plainRead s 0x34000 ||| flagAt (k.en && s.active && s.img.linkRx) 0 ||| flagAt s.linkIdle 1 ||| flagAt s.linkTxen 2 |||
      flagAt k.polling 3 ||| flagAt k.bank 4 ||| flagAt k.swapOrd.isSome 5 ||| flagAt (k.exch.any fun e => e.send.isSome) 6
  | 0x018 => s.reg 0x34018
  | 0x01C => putAt k.rejEntry 0 ||| putAt k.rejOffset 8
  | 0x020 => word k.cycles
  | 0x024 => match k.exch with | some e => e.pos | none => 0
  | 0x028 => word k.txFrames
  | 0x02C => word k.rxFrames
  | 0x030 => word k.crcFails
  | 0x034 => word k.timeouts
  | 0x038 => word k.erased
  | 0x03C => k.lastRx
  | 0x044 => word k.dropped
  | _ => plainRead s (0x34000 + off)

/-- A port's registers (R408) by their offset from the port's place `a`. -/
def viewPort (s : State) (x : Port) (a off : Nat) : Word :=
  match off with
  | 0x10 => plainRead s (a + off) ||| flagAt x.isIdle 0 ||| flagAt x.timingErr 1 ||| flagAt x.mapMismatch 4 ||| putAt x.range 8 |||
      putAt (sfield (x.temp / 2) 8) 16
  | 0x14 => putAt x.window.x 0 ||| putAt x.window.y 16
  | 0x18 => putAt x.window.w 0 ||| putAt x.window.h 16 ||| flagAt x.winOn 31
  | 0x1C => putAt x.lastKind 0 ||| putAt x.lastMode 2 ||| flagAt x.aborted 4 ||| putAt (x.frames % 256) 8
  | 0x20 => word x.updates
  | _ => plainRead s (a + off)

/-- MANTEL (R408). -/
def viewMantel (s : State) (off : Nat) : Word :=
  let m := s.mantel
  if 0x100 ≤ off ∧ off < 0x200 then
    viewPort s (Tab.at m.ports ((off - 0x100) / 0x40) .init) (0x35100 + (off - 0x100) / 0x40 * 0x40) ((off - 0x100) % 0x40)
  else match off with
    | 0x000 => plainRead s 0x35000 ||| flagAt s.mantelIdle 0 ||| flagAt m.request 2
    | 0x008 => 0
    | 0x00C => s.reg 0x3500C
    | 0x010 => (plainRead s 0x35010 &&& maskOf 2 0) ||| flagAt m.commit.isSome 4
    | 0x01C =>
      let t := s.fld 0x35010 2 0
      let slot := Tab.at m.tables t .init
      plainRead s 0x3501C ||| flagAt m.commit.isSome 0 ||| flagAt (decide (t < 5) && !slot.pending && m.commit != some t) 1 |||
        flagAt slot.pending 2 ||| putAt m.cause 4
    | _ => plainRead s (0x35000 + off)

/-- DRAM (R435). -/
def viewDram (s : State) (off : Nat) : Word :=
  let d := s.dram
  match off with
  | 0x000 => flagAt d.trained 0 ||| (if d.trained then putAt d.rate 1 else 0) ||| flagAt d.failed 3
  | 0x004 => d.setup
  | 0x008 => if d.trained then word d.mib else 0
  | 0x00C => word d.corr
  | 0x010 => word d.uncorr
  | 0x014 => d.eccAddr
  | _ => 0

/-- Is an island isolated or in recovery (FAULT_RECOVERING)? In reset during an episode, or not yet started by the release; the islands
that pilot-light mode leaves in reset are not. -/
def islandRecovering (s : State) (i : Nat) : Bool :=
  s.island i == .isolated ||
    (s.island i == .inReset && (s.rst.episode.isSome || s.rst.release.any fun r => !r.pilot || !([2, 3, 4, 8, 10, 11].contains i)))

/-- FAULT (R294). -/
def viewFault (s : State) (off : Nat) : Word :=
  let f := s.fault
  if 0x020 ≤ off ∧ off < 0x050 then word (Tab.at f.corr ((off - 0x020) / 4) 0)
  else if 0x080 ≤ off ∧ off < 0x0A0 then
    (match f.queue with | r :: _ => wordAt (faultBytes r) ((off - 0x080) / 4) | [] => 0)
  else match off with
    | 0x000 => word f.queue.length
    | 0x004 => word f.overflow
    | 0x008 => word f.fseq
    | 0x00C => 0
    | 0x010 => maskWord 12 (islandRecovering s)
    | 0x018 => (List.range 12).foldl (fun m i => m ||| putAt (s.reps i).count (2 * i)) 0
    | _ => plainRead s (0x37000 + off)

/-- Have a port's outputs been driven since its island started (R422, R424)? -/
def Port.driven (x : Port) : Bool := !x.isIdle || x.updates != 0 || x.aborted

/-- The levels at the GPIO balls (R432): what the device drives, and elsewhere the level from outside. An open-drain pin drives low
only. -/
def gpioLevels (s : State) : Word :=
  let out := s.reg 0x38004
  let drives := s.reg 0x38000 &&& ~~~(s.reg 0x38010 &&& out)
  mergeMask (drives &&& 0xFFFF) (word (s.pins.gpioIn % 2 ^ 16)) out

/-- PINCTL (R432). -/
def viewPinctl (s : State) (off : Nat) : Word :=
  match off with
  | 0x008 => gpioLevels s
  | 0x01C => (maskWord 4 fun p => (Tab.at s.mantel.ports p .init).driven) ||| flagAt (s.link.txFrames != 0 || s.link.rise != 0 || s.link.frame.isSome) 4 |||
      (maskWord 8 fun c => s.img.pulseEn c && (s.pointAt (s.img.pulsePoint c)).state == .metering) <<< 5
  | _ => plainRead s (0x38000 + off)

end Sys2Proof.Machine
end

