-- ==== Sys2Proof/Machine/ViewPlane.lean ====
section
/-! DEFINITION. What a read of the registers of the metrology plane returns, by the offset in the block: HEARTH, KINDLE,
FLUE, DAMPER, ENERGY, POINT, SPECTRAL, EVENT, PULSE, SESSION and EMBER (R76, R78, R106, R140, R142, R144, R160, R175, R176,
R213, R247, R248). -/

namespace Sys2Proof.Machine

/-- Is an input of a hearth failing by the first three causes of R62? -/
def Hearth.anyDoubt (x : Hearth) (mask : Nat) : Bool :=
  mask != 0 && (x.witFail &&& mask != 0 || x.refMark || x.main.doubtful || x.wit.doubtful)

/-- HEARTH (R76). -/
def viewHearth (s : State) (h off : Nat) : Word :=
  let x := s.hearthAt h
  let g := s.img
  let a := hearthReg h off
  match off with
  | 0x000 => word h
  | 0x004 => if s.active then word (g.mask h) else 0
  | 0x008 => g.gainLo h
  | 0x00C => g.gainHi h
  | 0x010 => word (g.refSel h)
  | 0x014 => plainRead s a ||| flagAt s.hearthRunning 0 ||| flagAt x.refSettled 1 ||| flagAt (x.anyDoubt (g.mask h)) 4
  | 0x018 => s.reg a
  | 0x028 => putAt (g.thOfs h) 0 ||| putAt (g.thAbs h) 16
  | 0x02C => witState x g h s.damper.beat
  | 0x030 => word x.witFail
  | 0x034 => putAt x.last.input 0 ||| putAt x.last.result 4 ||| putAt x.last.count 16
  | 0x038 => putAt (sfield x.last.meanDiff 16) 0 ||| putAt x.last.meanAbs 16
  | 0x044 => x.tap.data
  | _ => plainRead s a

/-- The Hearth status window and the link receive window as words: the sequence number first and last (R27, R28). -/
def HearthStatus.words (x : HearthStatus) : List Word :=
  [word x.ovr, word x.nsusp, x.witness, word x.witFail, flagAt x.refSettled 0 ||| putAt x.kindle.code 4]
def HearthWindow.words (w : HearthWindow) : List Word := loWord w.beat :: w.hearths.flatMap HearthStatus.words ++ [loWord w.beat]
def RxBlock.words (b : RxBlock) : List Word := loWord b.block :: b.samples.map Samp.toWord ++ [loWord b.block]
/-- The published halves. -/
def State.hearthWindow (s : State) : HearthWindow := if s.window.hearthHalf then s.window.hearth1 else s.window.hearth0
def State.rxWindow (s : State) : RxBlock := if s.window.rxHalf then s.window.rx1 else s.window.rx0

/-- KINDLE (R78). A retry begins at its write, so RETRY reads 0. -/
def viewKindle (s : State) (off : Nat) : Word :=
  if 0x010 ≤ off ∧ off < 0x030 then
    let x := s.hearthAt ((off - 0x010) / 4)
    putAt x.cause 0 ||| flagAt x.main.active 4 ||| flagAt x.wit.active 5 ||| putAt (max x.main.bgFails x.wit.bgFails) 8 |||
      putAt x.swaps 16
  else match off with
    | 0x000 => (List.range 8).foldl (fun m h => m ||| putAt (s.hearthAt h).kindle.code (2 * h)) 0
    | 0x008 => word s.img.bgPeriod
    | _ => 0

/-- FLUE (R106, R107). -/
def viewFlue (s : State) (h off : Nat) : Word :=
  let f := s.flueAt h
  let g := s.img
  let a := flueReg h off
  if 0x100 ≤ off ∧ off < 0x140 then word (g.intCfg h ((off - 0x100) / 4))
  else match off with
    | 0x000 => word h
    | 0x004 => putAt (g.cicOrder h) 0 ||| flagAt (g.nom60 h) 4
    | 0x008 => g.streamLo h
    | 0x00C => g.streamHi h
    | 0x010 => word (g.intEn h)
    | 0x014 => g.trkSelLo h
    | 0x018 => g.trkSelHi h
    | 0x020 => flagAt s.engineRunning 0 ||| flagAt f.filling 1
    | 0x030 => (plainRead s a &&& maskOf 11 8) ||| flagAt f.swapReq 0
    | 0x034 => plainRead s a ||| flagAt f.active 0 ||| flagAt f.swap.isSome 1 ||| flagAt f.queued 2 ||| flagAt f.writable 3 |||
        putAt f.swaps 16
    | 0x040 => word ((f.bankMatch g h f.active).getD 15)
    | 0x080 => word (g.trkSrc h)
    | 0x084 => trkLenLo f.tracker
    | 0x088 => (f.shadow.map Prod.fst).getD (trkLenHi f.tracker)
    | 0x08C => (f.shadow.map Prod.snd).getD (trkFreq f.tracker)
    | _ => plainRead s a

def StageState.code : StageState → Nat
  | .empty => 0 | .loading => 1 | .admitting => 2 | .staged => 3 | .rejected => 4

/-- The digest of a staged image, 0 outside STAGED. -/
def stagedDigest (s : State) : BitVec 384 :=
  match s.damper.stage, s.damper.staged with | .staged, some g => g.imageDigest | _, _ => 0

/-- DAMPER (R213, R214). -/
def viewDamper (s : State) (off : Nat) : Word :=
  let d := s.damper
  let g := s.img
  let a := 0x20000 + off
  if 0x080 ≤ off ∧ off < 0x0B0 then wordAt (bytes384 ((activeDigest s).getD 0)) ((off - 0x080) / 4)
  else if 0x0C0 ≤ off ∧ off < 0x0F0 then wordAt (bytes384 (stagedDigest s)) ((off - 0x0C0) / 4)
  else match off with
    | 0x000 => flagAt s.damperRunning 0 ||| flagAt d.activeBuf 1 ||| flagAt d.signed 2 ||| flagAt d.keyMatch 3 ||| flagAt (isSealed s) 4 |||
        flagAt (s.active && g.linkRx) 5
    | 0x004 => loWord d.beat
    | 0x008 => (d.shadowBeat.map Prod.snd).getD (hiWord d.beat)
    | 0x00C => (d.shadowBeat.map Prod.fst).getD (word d.frame)
    | 0x010 => putAt g.verMajor 0 ||| putAt g.verMinor 16
    | 0x014 => g.serial
    | 0x018 => word g.totalSize
    | 0x020 => loWord d.actBeat
    | 0x024 => d.shadowAct.getD (hiWord d.actBeat)
    | 0x030 => putAt d.stage.code 0 ||| putAt d.reason 8 ||| putAt d.sect 16
    | 0x034 => word d.offset
    | 0x038 => plainRead s a ||| flagAt d.pending 0 ||| putAt d.cause 4 ||| putAt d.blocker 8
    | 0x03C => putAt d.mailbox.length 0 ||| flagAt (decide (64 ≤ d.mailbox.length)) 7 ||| putAt d.applied 16
    | 0x040 => plainRead s a ||| (match d.xing with | some (x, peak) => putAt x 8 ||| putAt peak 16 | none => 0)
    | _ => 0

/-- ENERGY (R140, R141). -/
def viewEnergy (s : State) (off : Nat) : Word :=
  let g := s.img
  if 0x800 ≤ off then
    let i := (off - 0x800) / 16
    match off % 16 with
    | 0x0 => word (g.inScale i) | 0x4 => g.inCfg i | 0x8 => iword (g.inGain i) | 0xC => word (g.inDelay i) | _ => 0
  else match off with
    | 0x000 => flagAt s.metering 0
    | 0x004 => loWord s.energyBeat
    | 0x008 => s.energyHi.getD (hiWord s.energyBeat)
    | 0x00C => word g.pubCycle
    | 0x010 => maskWord 32 g.isUsed
    | 0x014 => maskWord 32 fun p => (s.pointAt p).state == .arming
    | 0x018 => maskWord 32 fun p => bitOf (s.pointAt p).window.status 2
    | _ => plainRead s (0x21000 + off)

/-! SPECTRAL (R160, R175). -/

def HarmChan.view (x : HarmChan) : HarmView := if x.half then x.half1 else x.half0
def SupraChan.view (x : SupraChan) : HarmView := if x.half then x.half1 else x.half0

/-- An aperture: the sequence number first and last, the window's words between them. -/
def HarmView.word (v : HarmView) (last off : Nat) : Word :=
  if off = 0 ∨ off = last then BitVec.ofNat 32 v.num else v.words.getD (off / 4 - 1) 0

/-- Did the link transmit on a phase (1 to 3) within the 205 ms that the DFTs of the interval cover that starts at wide-stream
sample `first`? Spans are in grid frames, 32 to the sample (R160, R385). -/
def linkSent (k : Link) (phase first now : Nat) : Bool :=
  let lo := 32 * first - 50000
  let hi := 32 * first + 2000000
  phase != 0 && (k.spans.any (fun x => x.1.testBit (phase - 1) && x.2.1 < hi && lo < x.2.2) ||
    k.frame.any (fun f => f.phases.testBit (phase - 1) && f.first < hi && f.first ≤ now && lo < now))

/-- The S aperture: LINK_TX joins S_INFO as the report is read (R30, R160). -/
def viewSupra (s : State) (sel off : Nat) : Word :=
  let v := (s.supraAt sel).view
  let w := v.word 0x5D8 off
  if off = 4 then
    w ||| flagAt (linkSent s.link (fieldOf w 21 20) ((v.words.getD 1 0).toNat + 2 ^ 32 * (v.words.getD 2 0).toNat) s.gridFrame) 18
  else w

/-- Four channel bytes from a list of 32- or 16-byte entries; a byte of an entry past the declared channels is 0. -/
def chanWord (g : Image) (entry : Nat → Nat) (n j : Nat) : Word :=
  (List.range 4).foldl (fun m q => m ||| putAt (if 4 * j + q < n then g.u8 (entry (4 * j + q)) else 0) (8 * q)) 0
def phaseWord (g : Image) (n from_ : Nat) : Word :=
  (List.range 16).foldl (fun m c => m ||| putAt (if from_ + c < n then g.supraPhase (from_ + c) else 0) (2 * c)) 0

def viewSpectral (s : State) (off : Nat) : Word :=
  let g := s.img
  let t := s.spectral
  let hsel := s.fld 0x2800C 5 0
  let ssel := s.fld 0x2800C 12 8
  if 0x100 ≤ off ∧ off < 0x130 then chanWord g g.harmEntry g.nH ((off - 0x100) / 4)
  else if 0x140 ≤ off ∧ off < 0x158 then chanWord g g.supraEntry g.nS ((off - 0x140) / 4)
  else if 0x200 ≤ off ∧ off < 0x818 then (if hsel < g.nH then (s.harmAt hsel).view.word 0x614 (off - 0x200) else 0)
  else if 0xA00 ≤ off ∧ off < 0xFDC then (if ssel < g.nS then viewSupra s ssel (off - 0xA00) else 0)
  else match off with
    | 0x000 => flagAt s.spectralRuns 0 ||| flagAt t.restart 1
    | 0x004 => putAt g.dH 0 ||| putAt g.dS 8
    | 0x008 => putAt g.nH 0 ||| putAt g.nS 8
    | 0x010 => word t.squashes
    | 0x014 => word t.redos
    | 0x018 => word t.estimated
    | 0x160 => phaseWord g g.nS 0
    | 0x164 => phaseWord g g.nS 16
    | _ => plainRead s (0x28000 + off)

/-- EVENT (R176, R178). -/
def viewEvent (s : State) (off : Nat) : Word :=
  let v := s.events
  let g := s.img
  let frozen := v.shadow.getD (hiWord v.tbBeat, word v.tbSub, word v.tbSec, word (v.tbSec / 2 ^ 32 % 256))
  if 0x044 ≤ off ∧ off < 0x064 then
    (match v.slots.find? fun e => e.1 == s.fld 0x29040 9 0 with
     | some e => wordAt e.2.bytes ((off - 0x044) / 4)
     | none => 0)
  else if 0x080 ≤ off ∧ off < 0x100 then g.pcfg ((off - 0x080) / 4)
  else if 0x100 ≤ off ∧ off < 0x300 then (if off % 0x40 < 0x38 then g.thSet ((off - 0x100) / 0x40) (off % 0x40 / 4) else 0)
  else match off with
    | 0x000 => flagAt s.metering 0
    | 0x004 => word v.qseq
    | 0x008 => word (v.qseq % 1024)
    | 0x00C => word v.qrd
    | 0x010 => word v.overflow
    | 0x014 => maskWord 32 fun p => (s.eventsAt p).det.toList.any Detector.isOpen
    | 0x020 => loWord v.tbBeat
    | 0x024 => frozen.1
    | 0x028 => frozen.2.1
    | 0x02C => frozen.2.2.1
    | 0x030 => frozen.2.2.2
    | _ => plainRead s (0x29000 + off)

/-- PULSE (R144). -/
def viewPulse (s : State) (off : Nat) : Word :=
  let c := off / 16
  let x := s.pulseAt c
  if 0x80 ≤ off then 0
  else match off % 16 with
    | 0x0 => s.img.pulseCfg c
    | 0x4 => word (s.img.pulseConst c)
    | 0x8 => word x.count
    | _ => plainRead s (pulseReg c 0x00C) ||| putAt x.pending 0 ||| flagAt x.low 18

/-- SESSION (R247). The window reads 0 until one has been published. -/
def viewSession (s : State) (off : Nat) : Word :=
  if off = 0x010 then plainRead s 0x2B010 else s.sessWord (s.fld 0x2B010 7 0) off

/-- EMBER (R248). -/
def viewEmber (s : State) (off : Nat) : Word :=
  let e := s.ember
  let hi := fun o => ((e.shadows.find? fun x => x.1 == o).map Prod.snd).getD (hiWord (e.pairAt (o - 4)))
  match off with
  | 0x000 => flagAt e.restored 0 ||| flagAt e.markerFound 1 ||| flagAt e.area 2 ||| flagAt e.trigger.isSome 3
  | 0x004 => word e.epoch
  | 0x008 => loWord e.bankSeq
  | 0x00C => hi off
  | 0x010 => loWord e.bankBeat
  | 0x014 => hi off
  | 0x018 => word e.bankLen
  | 0x020 => loWord e.nextSeq
  | 0x024 => hi off
  | 0x028 => loWord e.ackSeq
  | 0x02C => hi off
  | 0x030 => word e.skipped
  | 0x034 => word e.missed
  | 0x038 => plainRead s 0x30038 ||| putAt e.errPoint 8
  | 0x03C => flagAt (pinEn s) 0 ||| flagAt (monEn s) 1
  | 0x084 => word (leNat (e.readStore (4 * s.fld 0x30080 18 2) 4))
  | _ => plainRead s (0x30000 + off)

end Sys2Proof.Machine
end

