-- ==== Sys2Proof/Machine/RegView.lean ====
section
/-! DEFINITION. A read of a register (R5, R6, R283): the word that BAR0 answers at an offset, or Completer Abort. The reads that
have an effect of their own are rows of the table. -/

namespace Sys2Proof.Machine

/-- The island whose fireguard a block (BAR0 offset divided by 0x1000) is read through; SYS where there is none. -/
def blockIsland (b : Nat) : Nat :=
  if b = 4 ∨ b = 5 then Isl.host
  else if 0x10 ≤ b ∧ b < 0x18 then Isl.conv
  else if 0x18 ≤ b ∧ b < 0x20 then Isl.flue
  else if b = 0x20 ∨ b = 0x33 then Isl.conv
  else if 0x21 ≤ b ∧ b < 0x2C then Isl.metro
  else match b with
    | 0x30 => Isl.ember | 0x31 => Isl.seal | 0x34 => Isl.link | 0x35 => Isl.mantel | 0x36 => Isl.dram | _ => Isl.sys

/-- The word at an offset of BAR0, by its block; a reserved offset reads 0. -/
def blockWord (s : State) (a : Nat) : Word :=
  let b := a / 0x1000
  let off := a % 0x1000
  if 0x10 ≤ b ∧ b < 0x18 then viewHearth s (b - 0x10) off
  else if 0x18 ≤ b ∧ b < 0x20 then viewFlue s (b - 0x18) off
  else if b = 0x24 ∨ b = 0x25 then s.pointWord ((a - 0x24000) / 0x100) (a % 0x100)
  else match b with
    | 0x00 => viewGlobal s off | 0x01 => viewReset s off | 0x02 => viewClock s off | 0x03 => viewRtc s off
    | 0x04 => viewHost s off | 0x05 => viewMsix s off | 0x20 => viewDamper s off | 0x21 => viewEnergy s off
    | 0x28 => viewSpectral s off | 0x29 => viewEvent s off | 0x2A => viewPulse s off | 0x2B => viewSession s off
    | 0x30 => viewEmber s off | 0x31 => viewSeal s off | 0x32 => viewFwupd s off | 0x33 => viewKindle s off
    | 0x34 => viewLink s off | 0x35 => viewMantel s off | 0x36 => viewDram s off | 0x37 => viewFault s off
    | 0x38 => viewPinctl s off | _ => 0

/-- A read of four bytes: none is Completer Abort, the answer for an island that is isolated. -/
def readReg (s : State) (a : Nat) : Option Word :=
  if s.replies (blockIsland (a / 0x1000)) then some (blockWord s a) else none

/-- A byte of BAR0: the byte of its register's word, bits [7:0] at the lowest address (R5). -/
def byteView (s : State) (a : Nat) : Byte := (blockWord s (a / 4 * 4)).extractLsb' (8 * (a % 4)) 8
/-- A read of `n` bytes at any offset returns the addressed bytes (R5). -/
def readBytes (s : State) (a n : Nat) : Option (List Byte) :=
  if s.replies (blockIsland (a / 0x1000)) then some ((List.range n).map fun k => byteView s (a + k)) else none

end Sys2Proof.Machine
end

