-- ==== Sys2Proof/Safety.lean ====
section
/-! DEFINITION. What the statements count as a sound state: the invariant every step keeps; the conditions under which a descriptor
starts; and what a ring entry, a vector and the start of an episode leave. -/

namespace Sys2Proof.Machine

/-! The invariant. -/

/-- The register file and every byte memory are in their canonical form. -/
def State.memOk (s : State) : Bool :=
  Regs.wf s.regs && Memory.wf s.ember.store && Memory.wf s.fw.flash

/-- The bounds of the block's queues: mailbox (R22), descriptors in flight (R265), fault records (R34). -/
def State.queuesOk (s : State) : Bool :=
  s.damper.mailbox.length ≤ 64 && s.host.inflight.length ≤ 64 && s.fault.queue.length ≤ 32

/-- What every step keeps: canonical contents, bounded queues, and a frame number within the beat (R85). -/
def State.Inv (s : State) : Prop := s.memOk = true ∧ s.queuesOk = true ∧ s.damper.frame < 10000

/-- A descriptor that starts: it is in flight with an opcode, the order rules let it start (R267), it passes the field
checks (R440), and no island it needs is isolated (R284). -/
structure Starts (s : State) (ord op : Nat) (d : Inflight) : Prop where
  flight : s.flight ord = some d
  opcode : d.opcode = op
  order  : mayStart s d = true
  fields : staticFault s d = none
  needs  : ((Opc.needs op).find? fun i => s.island i == .isolated) = none

/-- A descriptor that starts and whose buffer the device can reach (R250). -/
structure StartsDma (s : State) (ord op : Nat) (d : Inflight) : Prop extends Starts s ord op d where
  dma : canDma s = true

/-- The mailbox takes an entry now (R22). -/
def State.mailRoom (s : State) : Prop := s.damper.mailbox.length < 64 ∧ s.running Isl.conv = true

/-- The state with an entry posted to the mailbox (R22). -/
def State.posted (s : State) (cmd : MailCmd) (ord : Option Nat) : State :=
  { s with damper := { s.damper with mailbox := s.damper.mailbox ++ [{ cmd := cmd, ord := ord }] } }

/-- The state after a read that answers a word and changes the reading block by `f`. -/
def State.answers (s : State) (v : Word) : State := { s with host := { s.host with lastRead := some v } }

/-! Vectors and ring entries. -/

/-- Vector `v` is raised (R251, R273): one more message, or its pending bit where it is masked. -/
def Raised (v : Nat) (s t : State) : Prop :=
  (s.masked v = true → t.host.messages = s.host.messages ∧ t.host.pba = setBitN s.host.pba (v % 16) true) ∧
  (s.masked v = false → t.host.messages = v % 16 :: s.host.messages ∧ t.host.pba = s.host.pba)

/-- Every vector that waits and is no longer masked is sent, the others wait on, and nothing else changes (R251). -/
def SendsWaiting (u t : State) : Prop :=
  t = { u with host := { u.host with messages := t.host.messages, pba := t.host.pba } } ∧
  t.host.messages = ((List.range 16).filter fun v => u.host.pba.testBit v && !(u.masked v)).reverse ++ u.host.messages ∧
  ∀ v, t.host.pba.testBit v = (u.host.pba.testBit v && (decide (16 ≤ v) || u.masked v))

/-- Is ring `m`'s message due with `n` entries counted (R273)? -/
def messageDue (s : State) (m n : Nat) : Bool :=
  (s.oqAt m).armed && (decide (max (s.fld (0x420C + 0x20 * m) 7 0) 1 ≤ n) || (s.oqAt m).late)

/-- An entry takes the tail slot of ring `m` (R253, R255, R273): the write, the tail, the phase, which inverts where the tail
wraps, the head as it was; the message where it is due with the entries counted; no other ring changes. -/
def EntryPlaced (m : Nat) (counted : Bool) (bs : List Byte) (s t : State) : Prop :=
  let n := (s.oqAt m).since + (if counted then 1 else 0)
  t.host.dma = ⟨oqBase s m + entrySize m * (s.oqAt m).tail, bs⟩ :: s.host.dma ∧
  (t.oqAt m).head = (s.oqAt m).head ∧ (t.oqAt m).tail = ((s.oqAt m).tail + 1) % oqSize s m ∧
  (t.oqAt m).phase = (if ((s.oqAt m).tail + 1) % oqSize s m = 0 then !(s.oqAt m).phase else (s.oqAt m).phase) ∧
  (messageDue s m n = true → (t.oqAt m).armed = false ∧ (t.oqAt m).since = 0 ∧ Raised (s.fld (oqCfg m) 11 8) s t) ∧
  (messageDue s m n = false → (t.oqAt m).armed = (s.oqAt m).armed ∧ (t.oqAt m).since = n ∧
    t.host.messages = s.host.messages ∧ t.host.pba = s.host.pba) ∧
  ∀ k, k ≠ m → t.oqAt k = s.oqAt k

/-- A ring whose entry could not be written (R275): disabled, with FAULT and WRITE_ERR set and the failure counted; its indices and
the other rings stay. -/
def EntryLost (m : Nat) (s t : State) : Prop :=
  t.oqEnabled m = false ∧ bitOf (t.reg (0x4218 + 0x20 * m)) 1 = true ∧ bitOf (t.reg 0x4010) 3 = true ∧
  t.host.failures = s.host.failures + 1 ∧ t.host.dma = s.host.dma ∧ t.host.oq = s.host.oq ∧ t.host.inflight = s.host.inflight

/-- What the assertion of source `c` at level `l` leaves outside an episode (R304): a new episode with that source and level,
and the control-plane islands in reset. `clk` is the clock-loss detail. -/
def Begins (c : Nat) (l : Level) (clk : Nat) (o : Host.Outcome State Fault Refusal) : Prop :=
  ∃ t e, o = .next t ∧ t.rst.episode = some e ∧ e.level = l ∧ e.first = c ∧ e.sources = 2 ^ (c - 1) ∧ e.clkLoss = clk ∧
    t.rst.release = none ∧ ∀ i ∈ [Isl.ctrl, Isl.host, Isl.dram, Isl.seal, Isl.link, Isl.mantel], t.island i = .inReset

end Sys2Proof.Machine
end

