-- ==== Sys2Proof/Certificates/Slice0/Obligations.lean ====
section
/-! DEFINITION. The statements. -/

open Sys2Proof Sys2Proof.Machine

/-! The machine as a whole. -/

/-- A step executes the command at the front of the queue on the state with the queue's rest. -/
def Obligations.StepRunsFront : Prop :=
  ∀ (c : Instr) (rest : List Instr) (s : State),
    step { s with pending := c :: rest } = exec c { s with pending := rest }

/-- With no command waiting, while SYS runs outside an episode and the control watchdog is off, one SYS cycle passes and only the
time base counts (the model's choice, log entry 4). -/
def Obligations.IdleStepCountsTimeBase : Prop :=
  ∀ s : State, s.pending = [] → s.running Isl.sys = true → s.rst.episode = none → bitOf (s.reg 0x1028) 31 = false →
    step s = .next { s with fault := { s.fault with timeBase := s.fault.timeBase + 1 } }

/-- Every step keeps the canonical form of the register file, the ember store and the flash, the bounds of the mailbox
(R22), the fault queue (R34) and the descriptors in flight (R265), and a frame number within the beat (R85). -/
def Obligations.EveryStepKeepsInv : Prop := ∀ s t : State, s.Inv → step s = .next t → t.Inv

/-- The state after reset has the invariant. -/
def Obligations.ResetHasInv : Prop := State.reset.Inv

/-- No command stops: each answers a next state, whatever the state; and none changes the queue of waiting commands. -/
def Obligations.EveryCommandAnswers : Prop :=
  (∀ (c : Instr) (s : State), ∃ t, exec c s = .next t) ∧
  (∀ (c : Instr) (s t : State), exec c s = .next t → t.pending = s.pending)

/-- A fuse bit changes only from 0 to 1: under every command a programmed bit stays 1, and only the end of a programming changes a
fuse word at all (R343, R345). Every change of RESET_MAP that leaves its 1 bits leaves the level of every source equal or deeper
(R303). -/
def Obligations.FuseBitsOnlySet : Prop :=
  (∀ (c : Instr) (s t : State), exec c s = .next t →
    (∀ w, Tab.at s.trust.blown w 0 &&& Tab.at t.trust.blown w 0 = Tab.at s.trust.blown w 0) ∧
    (c ≠ .fuseProgramComplete → t.trust.blown = s.trust.blown)) ∧
  (∀ (s t : State) (c : Nat), 1 ≤ c → c ≤ 16 → resetMap s &&& resetMap t = resetMap s →
    (sourceLevel s c).deeper (sourceLevel t c) = sourceLevel t c)

/-- The straps in force and the fuse words as read change only at an episode's release, and there only at L1 or L0
(R308, R344). -/
def Obligations.StrapsLatchAtRelease : Prop :=
  ∀ (c : Instr) (s t : State), exec c s = .next t →
    ((∀ straps, c ≠ .episodeRelease straps) ∨ (∀ e, s.rst.episode = some e → e.level = .l2)) →
    t.clk.bootSel = s.clk.bootSel ∧ t.clk.clkMode = s.clk.clkMode ∧ t.trust.fuses = s.trust.fuses

/-- The state after reset: power-up in an L0 episode of source 1, nothing running, nothing queued, an empty ember store (log entry
1), and the status registers that describe it at their reset values. -/
def Obligations.ResetState : Prop :=
  (∃ e, State.reset.rst.episode = some e ∧ e.level = .l0 ∧ e.sources = 1) ∧
  (∀ i, i < 12 → State.reset.running i = false) ∧
  State.reset.pending = [] ∧ State.reset.damper.image = none ∧ State.reset.damper.mailbox = [] ∧
  State.reset.fault.queue = [] ∧ State.reset.host.inflight = [] ∧ State.reset.ember.store = [] ∧
  blockWord State.reset 0x00C = 0 ∧ blockWord State.reset 0x200C = 0x10 ∧ blockWord State.reset 0x3020 = 0x010107D0 ∧
  blockWord State.reset 0x401C = 0xCB ∧ blockWord State.reset 0x500C = 1 ∧ blockWord State.reset 0x37004 = 0

/-! Registers. -/

/-- REGISTER_WRITE, SQ_TAIL_DOORBELL and HEAD_DOORBELL that do not enable all four bytes have no effect (R5).
REGISTER_WRITE of a register all of whose writable fields are plain RW fields, none of them a STOP field of a running block, takes
the written bits in its fields and keeps the others (R6, R10, R14), and changes nothing else.
The registers with more to them: the time registers take what is written during a halt and otherwise reject a value that differs
(R10, R330); a ring's CFG with a size that no ring has keeps its size, sets CFG_REJECTED and takes the other fields (R277); MSI-X
Vector Control sends every vector that waits and is masked no longer (R251); HEARTH_TAP_CTL is in force from the next frame
boundary on (R73).
Above BAR0 stand the registers of the configuration space; those addresses are the model's choice (log entry 89). -/
def Obligations.RegisterWrites : Prop :=
  (∀ (a : Nat) (n : Fin 8) (m : Fin 11) (be : BitVec 4) (v : Word) (s : State), be ≠ 15 →
     exec (.registerWrite a be v) s = .next s ∧ exec (.sqTailDoorbell n be v) s = .next s ∧
     exec (.headDoorbell m be v) s = .next s) ∧
  (∀ (a : Nat) (b : BlockSpec) (r : RegSpec) (i : Nat) (v : Word) (s : State),
     RegMap.find a = some (b, r, i) → blockUp s b.island = true →
     (r.fields.all fun f => f.acc == .rw && !f.own && (f.cls != .stop || !(blockRuns s a))) = true →
     a ≠ 0x3008 → a ≠ 0x300C → a ≠ 0x3010 → badSize a v = false → isVectorControl a = false → tapCtlOf a = none →
     exec (.registerWrite a 15 v) s =
       .next (s.setReg a (mergeMask (r.fields.foldl (fun m f => m ||| maskOf f.hi f.lo) 0) (s.reg a) v))) ∧
  (∀ (a : Nat) (m v : Word) (s : State), s.running Isl.sys = true →
     (a, m) ∈ [(0x3008, maskOf 14 0), (0x300C, maskOf 31 0), (0x3010, maskOf 7 0)] →
     (s.rtc.halted = true → exec (.registerWrite a 15 v) s =
       .next { s with rtc := { s.rtc with written := rtcReplace s.rtc.written a v } }) ∧
     (s.rtc.halted = false → rtcReg s.rtc.count a &&& m = v &&& m → exec (.registerWrite a 15 v) s = .next s) ∧
     (s.rtc.halted = false → rtcReg s.rtc.count a &&& m ≠ v &&& m → bitOf (s.reg 0x3004) 8 = false →
       exec (.registerWrite a 15 v) s =
         .next ((s.setReg 0x3004 (s.reg 0x3004 ||| 0x100)).setReg 0x3014 (word (a - 0x3000))))) ∧
  (∀ (v : Word) (s : State), s.running Isl.host = true → bitOf (s.reg 0x4000) 5 = false →
     fieldOf v 3 0 < 4 ∨ 12 < fieldOf v 3 0 →
     (∀ n : Fin 8, s.sqIdle n = true → exec (.registerWrite (sqCfg n) 15 v) s =
       .next (((s.setReg 0x4000 (s.reg 0x4000 ||| 0x20)).setReg 0x4018 (word (sqCfg n - 0x4000))).setReg (sqCfg n)
         (mergeMask (maskOf 10 8 ||| maskOf 18 12) (s.reg (sqCfg n)) v))) ∧
     (∀ m : Fin 11, s.oqEnabled m = false → exec (.registerWrite (oqCfg m) 15 v) s =
       .next (((s.setReg 0x4000 (s.reg 0x4000 ||| 0x20)).setReg 0x4018 (word (oqCfg m - 0x4000))).setReg (oqCfg m)
         (mergeMask (maskOf 11 8) (s.reg (oqCfg m)) v)))) ∧
  (∀ (k : Fin 16) (a : Nat) (v : Word) (s : State), s.running Isl.host = true → a = 0x500C + 16 * k →
     ∃ t, exec (.registerWrite a 15 v) s = .next t ∧ SendsWaiting (s.setReg a (mergeMask 1 (s.reg a) v)) t) ∧
  (∀ (h : Fin 8) (a : Nat) (v : Word) (s : State), s.running Isl.conv = true → a = 0x10040 + 0x1000 * h →
     exec (.registerWrite a 15 v) s =
       .next ((s.setReg a (mergeMask (maskOf 1 0 ||| maskOf 7 4 ||| maskOf 12 8) (s.reg a) v)).updHearth h fun x =>
         { x with tap := { x.tap with pend := true } })) ∧
  (∀ (off : Nat) (v : Word) (s : State), s.running Isl.host = true →
     ∃ t, exec (.registerWrite (0x100000 + off) 15 v) s = .next t ∧
       SendsWaiting { s with host := { s.host with cfg := cfgWrite off v s.host.cfg } } t)

/-- CLOCK_PIX_CFG while the mantel engine is not idle: a write that would change it leaves it, sets CFG_REJECTED and, where that
was clear, records its offset; CFG_REJECTED is W1C (R10, R11, R326). In a state in canonical form (ResetHasInv, EveryStepKeepsInv). -/
def Obligations.StopWriteRejected : Prop :=
  (∀ (v : Word) (s : State), s.memOk = true → s.running Isl.sys = true → s.mantelIdle = false → s.fld 0x200C 5 0 ≠ fieldOf v 5 0 →
    (bitOf (s.reg 0x2000) 8 = false →
      exec (.registerWrite 0x200C 15 v) s = .next ((s.setReg 0x2000 (s.reg 0x2000 ||| 0x100)).setReg 0x2010 0x00C)) ∧
    (bitOf (s.reg 0x2000) 8 = true → exec (.registerWrite 0x200C 15 v) s = .next s)) ∧
  (∀ (v : Word) (s : State), s.running Isl.sys = true →
    exec (.registerWrite 0x2000 15 v) s = .next (s.setReg 0x2000 (s.reg 0x2000 &&& ~~~(v &&& 0x100))))

/-- A read of a register of an isolated island ends with Completer Abort and has no effect in the block (R283), the reads
that have one otherwise included.
A stopped island and one held in reset answer what their registers hold: the model's reading (log entry 21). -/
def Obligations.SilentIslandAborts : Prop :=
  ∀ (s : State) (h : Fin 8) (hi : Bool) (off : Nat) (k : Fin 3),
    (∀ a, s.island (blockIsland (a / 0x1000)) = .isolated → readReg s a = none) ∧
    (∀ a, s.running Isl.sys = true → s.island (blockIsland (a / 0x1000)) ≠ .isolated →
      readReg s a = some (blockWord s a)) ∧
    (s.island Isl.host = .isolated → exec .inflightPeakRead s = .next s.readAbort) ∧
    (s.island Isl.conv = .isolated → exec (.tapDataRead h) s = .next s.readAbort ∧
      exec (.damperBeatLoRead hi) s = .next s.readAbort ∧ exec (.damperActBeatLoRead hi) s = .next s.readAbort) ∧
    (s.island Isl.flue = .isolated → exec (.flueTrkLenLoRead h hi) s = .next s.readAbort) ∧
    (s.island Isl.metro = .isolated → exec (.energyBeatLoRead hi) s = .next s.readAbort ∧
      exec (.eventTbBeatLoRead hi) s = .next s.readAbort) ∧
    (s.island Isl.ember = .isolated → exec (.emberLoRead off) s = .next s.readAbort ∧
      exec .emberRdDataRead s = .next s.readAbort) ∧
    (s.island Isl.sys = .isolated → exec (.rtcTimeRead k) s = .next s.readAbort ∧
      exec (.rtcCalDateRead hi) s = .next s.readAbort)

/-! Reads with an effect of their own. -/

/-- ENERGY_BEAT_LO_READ: the read of ENERGY_BEAT_LO copies ENERGY_BEAT_HI, which reads as copied until it has been read; the
publication cycle, at which the beat moves on, leaves the copy.
EVENT_TB_BEAT_LO_READ: the read of EVENT_TB_BEAT_LO copies the other four registers of the time base, which read as copied until
EVENT_TB_SEC_HI has been read; the round boundary, at which the time base moves on, leaves the copy. -/
def Obligations.BeatShadows : Prop :=
  (∀ s : State, s.running Isl.metro = true →
     exec (.energyBeatLoRead false) s =
       .next { s.answers (loWord s.energyBeat) with energyHi := some (hiWord s.energyBeat) } ∧
     (∀ w, s.energyHi = some w → exec (.energyBeatLoRead true) s = .next { s.answers w with energyHi := none }) ∧
     (s.energyHi = none →
       exec (.energyBeatLoRead true) s = .next { s.answers (hiWord s.energyBeat) with energyHi := none })) ∧
  (∀ s : State, ∃ t, exec .publicationCycle s = .next t ∧ t.energyHi = s.energyHi) ∧
  (∀ s : State, s.running Isl.metro = true →
     exec (.eventTbBeatLoRead false) s =
       .next { s.answers (loWord s.events.tbBeat) with
         events := { s.events with shadow := some (hiWord s.events.tbBeat, word s.events.tbSub, loWord s.events.tbSec,
                                                   hiWord s.events.tbSec) } } ∧
     (∀ w, s.events.shadow = some w →
       blockWord s 0x29024 = w.1 ∧ blockWord s 0x29028 = w.2.1 ∧ blockWord s 0x2902C = w.2.2.1 ∧ blockWord s 0x29030 = w.2.2.2 ∧
       exec (.eventTbBeatLoRead true) s = .next { s.answers w.2.2.2 with events := { s.events with shadow := none } }) ∧
     (s.events.shadow = none →
       exec (.eventTbBeatLoRead true) s =
         .next { s.answers (hiWord s.events.tbSec) with events := { s.events with shadow := none } })) ∧
  (∀ (refs : Vector Nat 8) (s : State), ∃ t, exec (.roundBoundary refs) s = .next t ∧ t.events.shadow = s.events.shadow)

/-- DAMPER_BEAT_LO_READ freezes DAMPER_FRAME and DAMPER_BEAT_HI until DAMPER_BEAT_HI has been read, and DAMPER_ACT_BEAT_LO_READ
freezes DAMPER_ACT_BEAT_HI until it has been read.
FLUE_TRK_LEN_LO_READ freezes FLUE_TRK_FREQ and FLUE_TRK_LEN_HI until FLUE_TRK_LEN_HI has been read.
RTC_TIME_READ of RTC_SUBSEC (0), RTC_SEC_LO (1) or RTC_SEC_HI (2) outside a halt: the first read copies all three, every read
returns the copy, and the read of RTC_SEC_HI releases it; during a halt a read returns the value held or written and leaves the
shadows (R330).
What moves the values on leaves the copies: the frame, beat and round boundaries, a crossing of the tracker, an edge or a trim step
of the clock. -/
def Obligations.TrackerAndDamperShadows : Prop :=
  (∀ s : State, s.running Isl.conv = true →
     exec (.damperBeatLoRead false) s =
       .next { s.answers (loWord s.damper.beat) with
         damper := { s.damper with shadowBeat := some (word s.damper.frame, hiWord s.damper.beat) } } ∧
     (∀ w, s.damper.shadowBeat = some w → blockWord s 0x2000C = w.1 ∧ blockWord s 0x20008 = w.2 ∧
       exec (.damperBeatLoRead true) s = .next { s.answers w.2 with damper := { s.damper with shadowBeat := none } }) ∧
     (s.damper.shadowBeat = none →
       exec (.damperBeatLoRead true) s =
         .next { s.answers (hiWord s.damper.beat) with damper := { s.damper with shadowBeat := none } }) ∧
     exec (.damperActBeatLoRead false) s =
       .next { s.answers (loWord s.damper.actBeat) with
         damper := { s.damper with shadowAct := some (hiWord s.damper.actBeat) } } ∧
     (∀ w, s.damper.shadowAct = some w →
       exec (.damperActBeatLoRead true) s = .next { s.answers w with damper := { s.damper with shadowAct := none } }) ∧
     (s.damper.shadowAct = none →
       exec (.damperActBeatLoRead true) s =
         .next { s.answers (hiWord s.damper.actBeat) with damper := { s.damper with shadowAct := none } })) ∧
  (∀ (fc : FrameCodes) (refs : Vector Nat 8) (s : State), ∀ c ∈ [Instr.frameBoundary fc, Instr.beatBoundary refs, Instr.roundBoundary refs],
     ∃ t, exec c s = .next t ∧ t.damper.shadowBeat = s.damper.shadowBeat ∧ t.damper.shadowAct = s.damper.shadowAct) ∧
  (∀ (s : State) (h : Fin 8), s.running Isl.flue = true →
     exec (.flueTrkLenLoRead h false) s =
       .next { s.answers (trkLenLo (s.flueAt h).tracker) with
         flue := Tab.upd s.flue h fun f => { f with shadow := some (trkLenHi (s.flueAt h).tracker, trkFreq (s.flueAt h).tracker) } } ∧
     (∀ w, (s.flueAt h).shadow = some w →
       blockWord s (0x18088 + 0x1000 * h) = w.1 ∧ blockWord s (0x1808C + 0x1000 * h) = w.2 ∧
       exec (.flueTrkLenLoRead h true) s =
         .next { s.answers w.1 with flue := Tab.upd s.flue h fun f => { f with shadow := none } }) ∧
     ((s.flueAt h).shadow = none →
       exec (.flueTrkLenLoRead h true) s =
         .next { s.answers (trkLenHi (s.flueAt h).tracker) with flue := Tab.upd s.flue h fun f => { f with shadow := none } })) ∧
  (∀ (s : State) (h : Fin 8) (pos : Nat), ∃ t, exec (.trackerCrossing h pos) s = .next t ∧ (t.flueAt h).shadow = (s.flueAt h).shadow) ∧
  (∀ (s : State) (k : Fin 3), s.running Isl.sys = true →
     (s.rtc.halted = true → exec (.rtcTimeRead k) s = .next (s.answers (pickWord (rtcWords s.rtc.written) k))) ∧
     (s.rtc.halted = false → s.rtc.shadow = none →
       exec (.rtcTimeRead k) s =
         .next { s.answers (pickWord (rtcWords s.rtc.count) k) with
           rtc := { s.rtc with shadow := if k.val = 2 then none else some (rtcWords s.rtc.count) } }) ∧
     (s.rtc.halted = false → ∀ w, s.rtc.shadow = some w →
       exec (.rtcTimeRead k) s =
         .next { s.answers (pickWord w k) with rtc := { s.rtc with shadow := if k.val = 2 then none else some w } })) ∧
  (∀ (s : State) (temp : Int), (∃ t, exec .prescalerEdge s = .next t ∧ t.rtc.shadow = s.rtc.shadow) ∧
     ∃ t, exec (.trimStep temp) s = .next t ∧ t.rtc.shadow = s.rtc.shadow)

/-- The other reads with an effect. RTC_CAL_DATE_READ freezes RTC_CAL_TIME until its read, and a read of RTC_CAL_TIME that finds
nothing frozen presents the current count (R333; log entry 60). INFLIGHT_PEAK_READ and TAP_DATA_READ return HOST_INFLIGHT_PEAK and
HEARTH_TAP_DATA and clear them (R73, R277). EMBER_LO_READ of a 64-bit counter's lower half freezes its upper half until that has been
read, and EMBER_RD_DATA_READ returns the store's word at ADDR and steps ADDR, which wraps at the end of the store (R248). -/
def Obligations.ReadsWithEffect : Prop :=
  (∀ s : State, s.running Isl.sys = true → ∀ v, v = calendarView (s.rtc.count / 32768) →
    exec (.rtcCalDateRead false) s =
      .next { s.answers v.1 with rtc := { s.rtc with calDate := v.1, calTime := some v.2 } } ∧
    (∀ w, s.rtc.calTime = some w →
      exec (.rtcCalDateRead true) s = .next { s.answers w with rtc := { s.rtc with calTime := none } }) ∧
    (s.rtc.calTime = none → exec (.rtcCalDateRead true) s = .next { s.answers v.2 with rtc := { s.rtc with calTime := none } })) ∧
  (∀ s : State, s.running Isl.host = true →
    exec .inflightPeakRead s =
      .next { s with host := { s.host with lastRead := some (word s.host.peak), peak := 0 } }) ∧
  (∀ (s : State) (h : Fin 8), s.running Isl.conv = true →
    exec (.tapDataRead h) s =
      .next { s.answers (s.hearthAt h).tap.data with
        hearth := Tab.upd s.hearth h fun x => { x with tap := { x.tap with data := 0 } } }) ∧
  (∀ (s : State) (off : Nat), s.running Isl.ember = true → off % 8 = 0 →
    exec (.emberLoRead off) s =
      .next { s.answers (loWord (s.ember.pairAt off)) with
        ember := { s.ember with shadows := (off + 4, hiWord (s.ember.pairAt off)) :: dropShadow (off + 4) s.ember.shadows } } ∧
    (∀ w, (s.ember.shadows.find? fun x => x.1 == off + 4) = some (off + 4, w) →
      exec (.emberLoRead (off + 4)) s =
        .next { s.answers w with ember := { s.ember with shadows := dropShadow (off + 4) s.ember.shadows } }) ∧
    ((s.ember.shadows.find? fun x => x.1 == off + 4) = none →
      exec (.emberLoRead (off + 4)) s = .next { s.answers (hiWord (s.ember.pairAt off)) with
        ember := { s.ember with shadows := dropShadow (off + 4) s.ember.shadows } })) ∧
  (∀ s : State, s.running Isl.ember = true →
    exec .emberRdDataRead s =
      .next ((s.answers (word (leNat (s.ember.readStore (4 * s.fld 0x30080 18 2) 4)))).putField 0x30080 18 2
        ((4 * s.fld 0x30080 18 2 + 4) % 0x80000 / 4)))

/-! Rings. -/

/-- SQ_TAIL_DOORBELL: an enabled ring takes an index in its range as its tail, and the new descriptors take the next places of the
submission order; any other write changes no ring and sets DB_DISABLED for a disabled ring and DB_RANGE for an index out of range, both
where both hold (R257, R267). The flags set record the ring where none stood before, and raise ERR_VEC (R275, R277). -/
def Obligations.TailDoorbell : Prop :=
  (∀ (n : Fin 8) (v : Word) (s : State), s.running Isl.host = true →
    (∀ e : Word, e = (if sqSize s n ≤ fieldOf v 11 0 then 1 else 0) ||| (if s.sqEnabled n then 0 else 2) → e ≠ 0 →
      exec (.sqTailDoorbell n 15 v) s = .next (s.hostErrs e n)) ∧
    (s.sqEnabled n = true → fieldOf v 11 0 < sqSize s n → ∀ k,
      k = (fieldOf v 11 0 + sqSize s n - (s.sqAt n).tail) % sqSize s n →
      exec (.sqTailDoorbell n 15 v) s =
        .next { s with host := { s.host with
          sq := Tab.upd s.host.sq n fun q =>
            { q with tail := fieldOf v 11 0, vis := q.vis ++ (List.range k).map fun i => s.host.nextOrd + i },
          nextOrd := s.host.nextOrd + k } })) ∧
  (∀ (e : Word) (ring : Nat) (s t : State), t = s.hostErrs e ring →
    t.reg 0x4010 = s.reg 0x4010 ||| e ∧ t.host.errRing = (if s.reg 0x4010 = 0 then ring else s.host.errRing) ∧
    Raised (s.fld 0x401C 3 0) s t ∧ t.host.sq = s.host.sq ∧ t.host.oq = s.host.oq ∧ t.host.inflight = s.host.inflight ∧
    t.host.nextOrd = s.host.nextOrd)

/-- HEAD_DOORBELL of any device-to-host ring: the head moves to the index written and the ring may announce again, at once where a
message is due; an index outside the ring or beyond the tail sets DB_RANGE, a disabled ring DB_DISABLED (R257, R273).
A doorbell of RCQ that consumes records up to SEQ a posts the acknowledgement of a to the mailbox (R227, R257). A doorbell of EVQ that
consumes entries up to QSEQ q moves EVENT_QRD past q and never back (R176, R270). -/
def Obligations.HeadDoorbells : Prop :=
  (∀ (m : Fin 11) (v : Word) (s : State), s.running Isl.host = true → ∀ q size n, q = s.oqAt m → size = oqSize s m →
     n = (fieldOf v 11 0 + size - q.head) % size →
     (∀ e : Word, e = (if fieldOf v 11 0 < size ∧ n ≤ (q.tail + size - q.head) % size then 0 else 1) |||
         (if s.oqEnabled m then 0 else 2) → e ≠ 0 →
       exec (.headDoorbell m 15 v) s = .next (s.hostErrs e (8 + m))) ∧
     (s.oqEnabled m = true → fieldOf v 11 0 < size → n ≤ (q.tail + size - q.head) % size →
       ∃ t, exec (.headDoorbell m 15 v) s = .next t ∧
         (t.oqAt m).head = fieldOf v 11 0 ∧ (t.oqAt m).tail = q.tail ∧ (t.oqAt m).phase = q.phase ∧
         (max (s.fld (0x420C + 0x20 * m) 7 0) 1 ≤ q.since ∨ q.late = true →
           (t.oqAt m).armed = false ∧ (t.oqAt m).since = 0 ∧ Raised (s.fld (oqCfg m) 11 8) s t) ∧
         (q.since < max (s.fld (0x420C + 0x20 * m) 7 0) 1 → q.late = false →
           (t.oqAt m).armed = true ∧ (t.oqAt m).since = q.since ∧ t.host.messages = s.host.messages ∧ t.host.pba = s.host.pba) ∧
         (∀ k : Fin 11, k ≠ m → t.oqAt k = s.oqAt k) ∧ t.host.sq = s.host.sq ∧ t.host.inflight = s.host.inflight ∧
         t.regs = s.regs ∧ t.ember = s.ember ∧ (m.val ≠ 9 → t.damper = s.damper) ∧ (m.val ≠ 8 → t.events = s.events) ∧
         (m.val = 9 → ∀ a, (s.host.rcqHeld.take n).getLast? = some a →
           t.host.rcqHeld = s.host.rcqHeld.drop n ∧
           (s.running Isl.ctrl = true → s.mailRoom →
             t.damper = { s.damper with mailbox := s.damper.mailbox ++ [{ cmd := .ack a, ord := none }] })) ∧
         (m.val = 8 → ∀ a, (s.host.evqHeld.take n).getLast? = some a →
           t.host.evqHeld = s.host.evqHeld.drop n ∧
           t.events = { s.events with
             unread := min s.events.unread ((s.events.qseq + 2 ^ 32 - a) % 2 ^ 32),
             qrd := (s.events.qseq + 2 ^ 32 - min s.events.unread ((s.events.qseq + 2 ^ 32 - a) % 2 ^ 32)) % 1024 })))

/-- DESCRIPTOR_FETCH: the next ring in turn gives up its oldest descriptor, which is in flight from then on (R265); one that passes its
field checks waits to start; one that fails a check finishes with that check's status, at once where its opcode is not listed or it
waits for no other descriptor, and otherwise waits (R440).
A failed fetch disables the ring, drops its descriptors, sets FAULT and FETCH_ERR and counts the failure; what is in flight stays
(R275). -/
def Obligations.DescriptorFetch : Prop :=
  ∀ (s : State) (n ord : Nat) (rest : List Nat), ringsServed s = true → nextSq s = some n → (s.sqAt n).vis = ord :: rest → n < 8 →
    (∀ (bs : List Byte) (d : Inflight) (u : State), s.flight ord = none →
      d = { ord := ord, sq := n, bytes := padTo 64 bs, phase := .waiting } →
      u = { s with host := { s.host with
        lastSq := n, sq := Tab.upd s.host.sq n fun q => { q with head := (q.head + 1) % sqSize s n, vis := rest },
        inflight := s.host.inflight ++ [d], peak := max s.host.peak (s.host.inflight.length + 1) } } →
      (staticFault s d = none → exec (.descriptorFetch (some bs)) s = .next u) ∧
      (∀ st det, staticFault s d = some (st, det) →
        (Opc.all.contains d.opcode = false ∨ mayStart u d = true →
          exec (.descriptorFetch (some bs)) s = .next (u.finish ord st det (failResult u d st))) ∧
        (Opc.all.contains d.opcode = true → mayStart u d = false → exec (.descriptorFetch (some bs)) s = .next u))) ∧
    (∃ t, exec (.descriptorFetch none) s = .next t ∧ t.sqEnabled n = false ∧ (t.sqAt n).vis = [] ∧
      bitOf (t.reg (0x4114 + 0x20 * n)) 1 = true ∧ bitOf (t.reg 0x4010) 2 = true ∧ t.host.failures = s.host.failures + 1 ∧
      t.host.inflight = s.host.inflight ∧ (∀ k, k ≠ n → t.sqAt k = s.sqAt k) ∧ t.host.oq = s.host.oq)

/-- COMPLETION_WRITE: the completion of a finished descriptor that is first of its SQ is the next entry of its CQ, and the descriptor
leaves the flight (R254, R255, R262, R266); one that failed cancels the descriptors of its session that have not started and do not
set CONTINUE (R268). One that is not the first waits. A failed write disables the ring and leaves the descriptor in flight (R275).
Here the descriptors that end no firmware command and begin no reset: of those LayerActivation and ResetRequest speak. -/
def Obligations.CompletionWritten : Prop :=
  ∀ (ord : Nat) (s : State) (d : Inflight) (c : Completion), s.flight ord = some d → d.phase = .done c → d.sq < 8 →
    (sqFirst s d.sq ≠ some ord → ∀ ok, exec (.completionWrite ord ok) s = .next s) ∧
    (sqFirst s d.sq = some ord → canWriteRing s = true → ringFree s (sqCq s d.sq) = true →
      (∃ t, exec (.completionWrite ord false) s = .next t ∧ EntryLost (sqCq s d.sq) s t) ∧
      (s.fw.ctlAct = none → s.fw.staging ≠ some ord → d.opcode ≠ Opc.resetRequest →
        ∃ t, exec (.completionWrite ord true) s = .next t ∧
          EntryPlaced (sqCq s d.sq) (!(d.flagBits.testBit 2)) (completionBytes s d c (s.oqAt (sqCq s d.sq)).phase) s t ∧
          t.host.inflight = (s.host.inflight.filter fun e => e.ord != ord).map (fun e =>
            if c.status ≠ 0 ∧ c.status ≠ 7 ∧ d.namesSession = true ∧ e.sessionNo = d.sessionNo ∧ e.phase = .waiting ∧
               e.flagBits.testBit 0 = false then
              { e with phase := .done { status := 7, detail := d.tag, result := zeros 24 } }
            else e) ∧
          t = { s with host := t.host } ∧ t.host.sq = s.host.sq))

/-- EVQ_ENTRY_WRITE, RCQ_ENTRY_WRITE and CAPQ_ENTRY_WRITE: the entry that is due is the next entry of its ring, and is not written
again (R255, R270, R271, R272); a record whose signature in the store is not that of its bytes waits (R226); the END entry of a
stopped capture completes its CAPTURE_STOP with the samples taken (R272). A failed write disables the ring and the entry waits
(R275). -/
def Obligations.RingEntriesWritten : Prop :=
  (∀ (s : State) (q : Nat) (e : Nat × EventEntry), evqLeft s ≠ 0 → s.running Isl.ctrl = true → s.host.paused = false →
    s.fw.loader = false → q = (s.events.qseq + 2 ^ 32 + 1 - evqLeft s) % 2 ^ 32 →
    (s.events.slots.find? fun x => x.1 == (q + 2 ^ 32 - 1) % 1024) = some e →
    canWriteRing s = true → ringFree s 8 = true →
    (∃ t, exec (.evqEntryWrite true) s = .next t ∧
      EntryPlaced 8 true (e.2.bytes ++ packTime (tsTime s e.2.ts) ++ zeros 23 ++ leBytes 1 (if (s.oqAt 8).phase then 1 else 0)) s t ∧
      t.host.evqHeld = s.host.evqHeld ++ [q] ∧ t.host.evqLast = some q ∧ t = { s with host := t.host }) ∧
    (∃ t, exec (.evqEntryWrite false) s = .next t ∧ EntryLost 8 s t ∧ t.host.evqHeld = s.host.evqHeld ∧
      t.host.evqLast = s.host.evqLast)) ∧
  (∀ (s : State) (q : Nat), q = s.host.rcqNext → s.ctrlServes = true → s.running Isl.ember = true → s.host.paused = false →
    q < s.ember.nextSeq → s.ember.holds q = true → s.ember.signedEntry q = true →
    canWriteRing s = true → ringFree s 9 = true →
    (s.ember.sigHeld q ≠ s.ember.sigFor q → ∀ ok, exec (.rcqEntryWrite ok) s = .next s) ∧
    (s.ember.sigHeld q = s.ember.sigFor q →
      (∃ t, exec (.rcqEntryWrite true) s = .next t ∧ EntryPlaced 9 true (rcqBytes s.ember q (s.oqAt 9).phase) s t ∧
        t.host.rcqNext = q + 1 ∧ t.host.rcqHeld = s.host.rcqHeld ++ [q] ∧ t = { s with host := t.host }) ∧
      (∃ t, exec (.rcqEntryWrite false) s = .next t ∧ EntryLost 9 s t ∧ t.host.rcqNext = q ∧ t.host.rcqHeld = s.host.rcqHeld))) ∧
  (∀ (s : State) (e : CapEntry) (rest : List CapEntry), s.host.capq = e :: rest →
    canWriteRing s = true → ringFree s 10 = true →
    (∃ t, exec (.capqEntryWrite true) s = .next t ∧ EntryPlaced 10 true (e.bytes (s.oqAt 10).phase) s t ∧
      t.host.capq = rest ∧ t = { s with host := t.host } ∧
      (e.stop = none → t.host.inflight = s.host.inflight) ∧
      (∀ o n, e.stop = some (o, n) → ∀ d, s.flight o = some d → d.phase.isDone = false →
        t.flight o = some { d with phase := .done { status := 0, detail := 0, result := padTo 24 (leBytes 4 n) } })) ∧
    (∃ t, exec (.capqEntryWrite false) s = .next t ∧ EntryLost 10 s t ∧ t.host.capq = s.host.capq))

/-- COAL_TIME_EXPIRY with counted entries waiting: the message goes out at once where the ring may announce, and none follows until the
head doorbell; otherwise it is due from then on (R273). -/
def Obligations.CoalescingExpiry : Prop :=
  ∀ (m : Fin 11) (s : State), s.running Isl.host = true → 0 < s.fld (0x420C + 0x20 * m) 25 16 → 0 < (s.oqAt m).since →
    ((s.oqAt m).armed = true → ∃ t, exec (.coalTimeExpiry m) s = .next t ∧ t = { s with host := t.host } ∧
      t.host.oq = Tab.upd s.host.oq m (fun q => { q with armed := false, since := 0, late := false }) ∧
      Raised (s.fld (oqCfg m) 11 8) s t ∧ t.host.sq = s.host.sq ∧ t.host.inflight = s.host.inflight ∧ t.host.dma = s.host.dma) ∧
    ((s.oqAt m).armed = false → exec (.coalTimeExpiry m) s =
      .next { s with host := { s.host with oq := Tab.upd s.host.oq m fun q => { q with late := true } } })

/-- RING_ENABLE of a disabled ring sets its head and tail to 0, a device-to-host ring's write phase to 1, and ENABLE; RCQ delivers again
from the lowest unacknowledged SEQ, EVQ from EVENT_QRD (R255, R270, R271). SQ_DISABLE discards the unfetched descriptors and leaves
those in flight. OQ_DISABLE clears ENABLE, but a completion ring that an enabled SQ names, or for which a completion waits, keeps it
and sets CFG_REJECTED; that of CAPQ ends the captures with cause 1 (R278). -/
def Obligations.RingSwitches : Prop :=
  ∀ (v : Word) (s : State), s.running Isl.host = true →
    (bitOf v 31 = true →
      (∀ n : Fin 11, n.val < 8 → s.sqEnabled n = false → ∃ t, exec (.ringEnable true n v) s = .next t ∧
        t.sqEnabled n = true ∧ t.host = { s.host with sq := Tab.upd s.host.sq n fun _ => { head := 0, tail := 0, vis := [] } }) ∧
      (∀ m : Fin 11, s.oqEnabled m = false → ∃ t, exec (.ringEnable false m v) s = .next t ∧
        t.oqEnabled m = true ∧ (t.oqAt m).head = 0 ∧ (t.oqAt m).tail = 0 ∧ (t.oqAt m).phase = true ∧ t.host.sq = s.host.sq ∧
        (∀ k : Fin 11, k ≠ m → t.oqAt k = s.oqAt k) ∧ t.host.inflight = s.host.inflight ∧
        t.host.rcqNext = (if m.val = 9 then s.ember.ackSeq + 1 else s.host.rcqNext) ∧
        evqLeft t = (if m.val = 8 then s.events.unread else evqLeft s))) ∧
    (bitOf v 31 = false →
      (∀ n : Fin 8, ∃ t, exec (.sqDisable n v) s = .next t ∧ t.sqEnabled n = false ∧
        t.host = { s.host with sq := Tab.upd s.host.sq n fun q => { q with vis := [] } }) ∧
      (∀ m : Fin 11, s.oqEnabled m = true → (8 ≤ m.val ∨ cqInUse (writeReg (oqCfg m) v s) m = false) → m.val ≠ 10 →
        ∃ t, exec (.oqDisable m v) s = .next t ∧ t.oqEnabled m = false ∧ t.host = s.host) ∧
      (∀ m : Fin 11, s.oqEnabled m = true → m.val < 8 → cqInUse (writeReg (oqCfg m) v s) m = true →
        ∃ t, exec (.oqDisable m v) s = .next t ∧ t.oqEnabled m = true ∧ bitOf (t.reg 0x4000) 5 = true ∧ t.host = s.host) ∧
      (s.oqEnabled 10 = true → ∃ t, exec (.oqDisable 10 v) s = .next t ∧ t.oqEnabled 10 = false ∧
        (∀ k, k < 4 → t.captureAt k = none) ∧
        ∀ k c, k < 4 → s.captureAt k = some c → ∃ e ∈ t.host.capq, e.cap = k ∧ e.isEnd = true ∧ e.cause = 1))

/-- PCIE_LINK_UP brings the link up with its speed and width and the PHY PLL locked, and raises FAULT_VEC once for the records queued
while it was down; one that comes while the link is up changes nothing (R277, R291). PCIE_LINK_DOWN clears LINK_UP, SPEED and WIDTH;
whether the PHY PLL has lost its lock is left free (R311; log entry 89). D3HOT sets the power state. BUS_MASTER_ENABLE sets or clears
Bus Master Enable, and every vector that waited for it and is not masked is sent (R250, R251).
Link replies that wait for the bus are written, or fail, as soon as the device may issue requests, and their descriptors finish (R250;
log entry 122). -/
def Obligations.PcieState : Prop :=
  (∀ (speed width : Nat) (s u : State), s.running Isl.host = true →
    u = { s with host := { s.host with linkUp := true, speed := speed, width := width, faultHeld := false },
                 clk := { s.clk with pcie := true } } →
    (s.host.linkUp = true → exec (.pcieLinkUp speed width) s = .next s) ∧
    (s.host.linkUp = false → s.link.owed = [] →
      (s.host.faultHeld = false → exec (.pcieLinkUp speed width) s = .next u) ∧
      (s.host.faultHeld = true → ∃ t, exec (.pcieLinkUp speed width) s = .next t ∧ Raised (s.fld 0x401C 7 4) u t ∧
        t = { u with host := { u.host with messages := t.host.messages, pba := t.host.pba } })) ∧
    (s.host.linkUp = false → s.host.busMaster = true → ∃ t, exec (.pcieLinkUp speed width) s = .next t ∧ t.host.linkUp = true ∧
      t.link.owed = [] ∧ ∀ w ∈ s.link.owed, ∀ d, t.flight w.ord = some d → d.phase.isDone = true)) ∧
  (∀ s : State, exec .pcieLinkDown s =
    .next { s with host := { s.host with linkUp := false, speed := 0, width := 0 },
                   clk := { s.clk with pcie := s.clk.pcie && Config.phyLocked s.rst.nDraws },
                   rst := { s.rst with nDraws := s.rst.nDraws + 1 } }) ∧
  (∀ (on : Bool) (s : State), s.running Isl.host = true →
    exec (.d3hot on) s = .next { s with host := { s.host with d3hot := on } }) ∧
  (∀ s : State, s.running Isl.host = true →
    (exec (.busMasterEnable false) s = .next { s with host := { s.host with busMaster := false } }) ∧
    (s.link.owed = [] → ∃ t, exec (.busMasterEnable true) s = .next t ∧
      SendsWaiting { s with host := { s.host with busMaster := true } } t) ∧
    (s.host.linkUp = true → ∃ t, exec (.busMasterEnable true) s = .next t ∧ t.host.busMaster = true ∧
      t.link.owed = [] ∧ ∀ w ∈ s.link.owed, ∀ d, t.flight w.ord = some d → d.phase.isDone = true))

/-- RESET_REQUEST finishes with OK (R276). Its completion waits for every earlier one of its SQ; COMPLETION_WRITE writes it and the device
resets at the deeper of the level asked and that of source 11 (R276, R298). -/
def Obligations.ResetRequest : Prop :=
  ∀ (ord : Nat) (s : State) (d : Inflight),
    (Starts s ord Opc.resetRequest d → exec (.resetRequest ord) s = .next (s.finish ord 0 0 [])) ∧
    (∀ c : Completion, s.flight ord = some d → d.opcode = Opc.resetRequest → d.phase = .done c →
      (sqFirst s d.sq ≠ some ord → ∀ ok, exec (.completionWrite ord ok) s = .next s) ∧
      (sqFirst s d.sq = some ord → c.status = 0 → canWriteRing s = true → ringFree s (sqCq s d.sq) = true →
        s.fw.ctlAct = none → s.rst.episode = none → s.rst.release = none →
        Begins 11 ((if d.op 24 1 = 1 then Level.l1 else Level.l2).deeper (sourceLevel s 11)) 0 (exec (.completionWrite ord true) s) ∧
        ∃ t, exec (.completionWrite ord true) s = .next t ∧
          ⟨oqBase s (sqCq s d.sq) + 32 * (s.oqAt (sqCq s d.sq)).tail,
            completionBytes s d c (s.oqAt (sqCq s d.sq)).phase⟩ ∈ t.host.dma))

/-! Descriptors. -/

/-- A descriptor that finishes keeps its place in flight and holds its completion, with RESULT padded to 24 bytes; one that had finished
already stays as it is; the others, and everything outside the rings, stay as they are (R262, R266, R284).
A failed buffer transfer finishes its descriptor with DMA_ERROR and DETAIL, sets BUF_DMA and counts the failure (R275).
A descriptor of any row whose field checks fail executes nothing and finishes with the status and DETAIL of the first check that fails;
one that passes them and needs an isolated island, with INTERNAL_FAULT and the island (R284, R440). -/
def Obligations.FinishedDescriptors : Prop :=
  (∀ (s : State) (ord status detail : Nat) (r : List Byte),
     (∀ d, s.flight ord = some d → d.phase.isDone = false →
       (s.finish ord status detail r).flight ord =
         some { d with phase := .done { status := status, detail := detail, result := padTo 24 r } }) ∧
     (∀ d, s.flight ord = some d → d.phase.isDone = true → (s.finish ord status detail r).flight ord = some d) ∧
     (∀ o, o ≠ ord → (s.finish ord status detail r).flight o = s.flight o) ∧
     s.finish ord status detail r = { s with host := { s.host with inflight := (s.finish ord status detail r).host.inflight } }) ∧
  (∀ (s : State) (ord detail : Nat) (d : Inflight) (t : State), s.flight ord = some d → d.phase.isDone = false →
     t = bufferError ord detail s →
     t.flight ord = some { d with phase := .done { status := 0x0A, detail := detail, result := zeros 24 } } ∧
     bitOf (t.reg 0x4010) 4 = true ∧ t.host.failures = s.host.failures + 1 ∧ t.host.dma = s.host.dma ∧
     t.host.inflight.length = s.host.inflight.length) ∧
  (∀ (ord : Nat) (ok : Bool) (buf : HostRead) (back : List Byte) (s : State) (d : Inflight) (c : Instr × Nat),
     s.flight ord = some d → mayStart s d = true → d.opcode = c.2 →
     (c ∈ [(.nop ord, Opc.nop), (.sessionTariff ord, Opc.sessionTariff), (.sessionPause ord, Opc.sessionPause),
           (.sessionResume ord, Opc.sessionResume), (.sessionClose ord, Opc.sessionClose), (.sessionRelease ord, Opc.sessionRelease),
           (.timeSet ord, Opc.timeSet), (.timeRead ord, Opc.timeRead), (.captureStart ord, Opc.captureStart),
           (.captureStop ord, Opc.captureStop), (.displayWindow ord, Opc.displayWindow), (.imageActivate ord, Opc.imageActivate),
           (.fwActivateControl ord, Opc.fwActivate), (.fwActivateMetrology ord, Opc.fwActivate),
           (.resetRequest ord, Opc.resetRequest)] ∨
      canDma s = true ∧ c ∈ [(.readPoint ord ok, Opc.readPoint), (.readTotals ord ok, Opc.readTotals),
           (.sessionOpen ord buf, Opc.sessionOpen), (.sessionRead ord ok, Opc.sessionRead), (.attest ord ok, Opc.attest),
           (.keyInfo ord ok, Opc.keyInfo), (.displayCompose ord buf, Opc.displayCompose), (.linkSend ord buf, Opc.linkSend),
           (.imageStage ord, Opc.imageStage), (.fwStage ord buf back, Opc.fwStage)] ∨
      canDma s = true ∧ c = (.linkPollset ord buf, Opc.linkPollset) ∧
        (∀ e ∈ s.host.inflight, e.ord < ord → e.opcode = Opc.linkPollset → e.phase.isDone = true)) →
     (∀ st det, staticFault s d = some (st, det) → exec c.1 s = .next (s.finish ord st det (failResult s d st))) ∧
     (∀ i, staticFault s d = none → ((Opc.needs d.opcode).find? fun i => s.island i == .isolated) = some i →
       exec c.1 s = .next (s.finish ord 0x0B i [])))

/-- NOP and TIME_READ finish with OK; TIME_READ returns seconds, fraction, SET and the beat (R260, R264).
READ_POINT, SESSION_READ and READ_TOTALS write the published half, in pilot-light mode READ_TOTALS the newest valid bank, into the
buffer and return its beat (R26, R264, R269); a failed write completes with DMA_ERROR, detail 2 (R275). -/
def Obligations.SimpleReads : Prop :=
  (∀ (s : State) (ord : Nat) (d : Inflight),
     (Starts s ord Opc.nop d → exec (.nop ord) s = .next (s.finishOk ord [])) ∧
     (Starts s ord Opc.timeRead d → exec (.timeRead ord) s =
       .next (s.finishOk ord (leBytes 5 (s.rtc.count / 32768) ++ leBytes 2 (s.rtc.count % 32768) ++
         leBytes 1 (if s.rtc.isSet then 1 else 0) ++ leBytes 8 s.damper.beat)))) ∧
  (∀ (s : State) (ord : Nat) (d : Inflight),
     (StartsDma s ord Opc.readPoint d →
       exec (.readPoint ord true) s =
         .next ((s.dmaWrite d.bufAddr (wordsBytes (s.pointWord d.pointNo) 64)).finishOk d.ord
           (leBytes 8 (s.pointAt d.pointNo).window.beat ++ leBytes 4 (s.pointAt d.pointNo).window.status.toNat)) ∧
       exec (.readPoint ord false) s = .next (bufferError d.ord 2 s)) ∧
     (StartsDma s ord Opc.sessionRead d →
       exec (.sessionRead ord true) s =
         .next ((s.dmaWrite d.bufAddr (wordsBytes (fun off => if off = 0x010 then word d.sessionNo else
             s.sessWord d.sessionNo off) 48)).finishOk d.ord
           (leBytes 8 (if s.ember.lastPub.isNone then 0 else s.sessView.beat) ++
             leBytes 1 ((s.sessWord d.sessionNo 0x020).toNat % 8))) ∧
       exec (.sessionRead ord false) s = .next (bufferError d.ord 2 s)) ∧
     (StartsDma s ord Opc.readTotals d → ∀ points,
       points = (List.range 32).filter (fun p => (d.op 20 4).testBit p) →
       exec (.readTotals ord false) s = .next (bufferError d.ord 2 s) ∧
       (s.rst.pilot = false → exec (.readTotals ord true) s =
         .next ((s.dmaWrite d.bufAddr (points.flatMap (windowRecord s))).finishOk d.ord
           (leBytes 8 (publishedBeat s) ++ leBytes 1 points.length))) ∧
       (s.rst.pilot = true → s.ember.newestArea = none → exec (.readTotals ord true) s =
         .next ((s.dmaWrite d.bufAddr (points.flatMap (bankedRecord s none 0))).finishOk d.ord
           (leBytes 8 0 ++ leBytes 1 points.length ++ leBytes 1 1))) ∧
       (∀ a b, s.rst.pilot = true → s.ember.newestArea = some a → b = s.ember.le (areaBase a + 0x10) 8 →
         exec (.readTotals ord true) s =
           .next ((s.dmaWrite d.bufAddr (points.flatMap (bankedRecord s (some a) b))).finishOk d.ord
             (leBytes 8 b ++ leBytes 1 points.length ++ leBytes 1 0)))))

/-- ATTEST and KEY_INFO write their answer and return its length; a buffer too short takes nothing and returns the length
with BAD_FIELD, detail 16; a failed write completes with DMA_ERROR, detail 2 (R261, R264, R275, R349). -/
def Obligations.SealAnswers : Prop :=
  ∀ (s : State) (ord : Nat) (d : Inflight) (a : List Byte) (ok : Bool),
    (StartsDma s ord Opc.attest d → a = attestation s (sliceOf d.bytes 20 32) 0 →
      (a.length ≤ d.bufLen → exec (.attest ord true) s =
          .next ((s.dmaWrite d.bufAddr a).finishOk d.ord (leBytes 4 a.length)) ∧
        exec (.attest ord false) s = .next (bufferError d.ord 2 s)) ∧
      (d.bufLen < a.length → exec (.attest ord ok) s = .next (s.finish d.ord 0x02 16 (leBytes 4 a.length)))) ∧
    (StartsDma s ord Opc.keyInfo d → a = keyInfoMap s (d.op 20 1) →
      (a.length ≤ d.bufLen → exec (.keyInfo ord true) s =
          .next ((s.dmaWrite d.bufAddr a).finishOk d.ord (leBytes 4 a.length)) ∧
        exec (.keyInfo ord false) s = .next (bufferError d.ord 2 s)) ∧
      (d.bufLen < a.length → exec (.keyInfo ord ok) s = .next (s.finish d.ord 0x02 16 (leBytes 4 a.length))))

/-- SESSION_OPEN, with the hash of its token, SESSION_TARIFF, SESSION_PAUSE, SESSION_RESUME, SESSION_CLOSE, SESSION_RELEASE, and
FW_ACTIVATE of the metrology layer, post one entry to the mailbox, whole, and the descriptor waits for its boundary; with no room in the
mailbox the descriptor waits and nothing changes (R22, R216 to R219, R357). A token that cannot be read completes its SESSION_OPEN with
DMA_ERROR, detail 1 (R275). -/
def Obligations.SessionCommandsPost : Prop :=
  ∀ (s : State) (ord : Nat) (d : Inflight),
    (s.mailRoom →
      (StartsDma s ord Opc.sessionOpen d → ∀ id, exec (.sessionOpen ord (some id)) s =
        .next ((s.posted (.openSess d.pointNo (d.op 21 1 == 1) (d.op 24 4) (d.op 22 1) (d.op 20 1) (sha256 (padTo d.bufLen id)))
          (some ord)).setPhase ord .posted)) ∧
      (Starts s ord Opc.sessionTariff d → exec (.sessionTariff ord) s =
        .next ((s.posted (.tariff d.sessionNo (d.op 21 1 == 1) (d.op 24 5) (d.op 20 1)) (some ord)).setPhase ord .posted)) ∧
      (Starts s ord Opc.sessionPause d → exec (.sessionPause ord) s =
        .next ((s.posted (.pause d.sessionNo) (some ord)).setPhase ord .posted)) ∧
      (Starts s ord Opc.sessionResume d → exec (.sessionResume ord) s =
        .next ((s.posted (.resume d.sessionNo) (some ord)).setPhase ord .posted)) ∧
      (Starts s ord Opc.sessionClose d → exec (.sessionClose ord) s =
        .next ((s.posted (.close d.sessionNo) (some ord)).setPhase ord .posted)) ∧
      (Starts s ord Opc.sessionRelease d → exec (.sessionRelease ord) s =
        .next ((s.posted (.release d.sessionNo) (some ord)).setPhase ord .posted)) ∧
      (Starts s ord Opc.fwActivate d → d.op 20 1 = 1 → exec (.fwActivateMetrology ord) s =
        .next { (s.posted .fwActivate (some ord)).setPhase ord .posted with fw := { s.fw with staging := some ord } })) ∧
    (s.damper.mailbox.length = 64 →
      (StartsDma s ord Opc.sessionOpen d → ∀ id, exec (.sessionOpen ord (some id)) s = .next s) ∧
      (∀ c ∈ [(Instr.sessionTariff ord, Opc.sessionTariff), (.sessionPause ord, Opc.sessionPause),
              (.sessionResume ord, Opc.sessionResume), (.sessionClose ord, Opc.sessionClose),
              (.sessionRelease ord, Opc.sessionRelease), (.fwActivateMetrology ord, Opc.fwActivate)],
        Starts s ord c.2 d → exec c.1 s = .next s)) ∧
    (StartsDma s ord Opc.sessionOpen d → exec (.sessionOpen ord none) s = .next (bufferError ord 1 s))

/-! The real-time clock. -/

/-- TIME_SET, CAL_APPLY of a valid date and HALT are taken where DAMPER_STATUS.RUNNING is 1, the record queue is not gated, no set is
pending, the clock is not halted and the new count is in range (R329, R330, R335). CAL_APPLY written 0 only clears CAL_ERR where its bit
is written 1; HALT written 1 during a halt changes nothing.
A set that is refused changes the count nowhere: it sets RTC_STATUS.REFUSED with the first cause of the table that holds, and
TIME_SET completes with TIME_INVALID (R329); a date that fails a check sets CAL_ERR with its first failing field (R335). -/
def Obligations.TimeSets : Prop :=
  (∀ s : State, s.damperRunning = true → s.ember.gated = false → s.rtc.unit = none → s.rtc.notice = none → s.rtc.halted = false →
     (∀ (ord : Nat) (d : Inflight), Starts s ord Opc.timeSet d → d.op 20 5 ≤ 252455615999 →
       exec (.timeSet ord) s =
         .next ({ s with rtc := { s.rtc with
           unit := some { new := d.op 20 5 * 32768 + d.op 25 2, path := 1, ord := some ord } } }.setPhase ord .working)) ∧
     (exec .halt s = .next { s with rtc := { s.rtc with halted := true, written := s.rtc.count, elapsed := 0 } }) ∧
     (∀ (v : Word) (y mo d h mi sec : Nat), bitOf v 0 = true →
       y = s.fld 0x3020 13 0 → mo = s.fld 0x3020 19 16 → d = s.fld 0x3020 28 24 →
       h = s.fld 0x3024 4 0 → mi = s.fld 0x3024 13 8 → sec = s.fld 0x3024 21 16 →
       2000 ≤ y → y ≤ 9999 → 1 ≤ mo → mo ≤ 12 → 1 ≤ d → d ≤ monthDays y mo → h ≤ 23 → mi ≤ 59 → sec ≤ 59 →
       daysOf y mo d * 86400 + h * 3600 + mi * 60 + sec ≤ 252455615999 →
       exec (.calApply v) s =
         .next { s.setReg 0x3028 (s.reg 0x3028 &&& ~~~(v &&& 2)) with rtc := { s.rtc with
           unit := some { new := (daysOf y mo d * 86400 + h * 3600 + mi * 60 + sec) * 32768, path := 2, ord := none } } })) ∧
  (∀ s : State,
     (∀ v : Word, bitOf v 0 = false → exec (.calApply v) s = .next (s.setReg 0x3028 (s.reg 0x3028 &&& ~~~(v &&& 2)))) ∧
     (s.rtc.halted = true → exec .halt s = .next s) ∧
     (∀ (v w : Word) (y mo d h mi sec e : Nat), bitOf v 0 = true → w = s.reg 0x3028 &&& ~~~(v &&& 2) →
       y = s.fld 0x3020 13 0 → mo = s.fld 0x3020 19 16 → d = s.fld 0x3020 28 24 →
       h = s.fld 0x3024 4 0 → mi = s.fld 0x3024 13 8 → sec = s.fld 0x3024 21 16 →
       e = (if y < 2000 ∨ 9999 < y then 1 else if mo = 0 ∨ 12 < mo then 2 else if d = 0 ∨ monthDays y mo < d then 3
            else if 23 < h then 4 else if 59 < mi then 5 else if 59 < sec then 6 else 0) → e ≠ 0 →
       exec (.calApply v) s = .next { s.setReg 0x3028 (w ||| 2) with rtc := { s.rtc with errField := e } })) ∧
  (∀ (s : State) (c : Nat),
     (s.damperRunning = false ∧ c = 1 ∨ s.damperRunning = true ∧ s.ember.gated = true ∧ c = 2 ∨
       s.damperRunning = true ∧ s.ember.gated = false ∧
         (s.rtc.unit.isSome = true ∨ s.rtc.notice.isSome = true ∨ s.rtc.halted = true) ∧ c = 3) →
     (∀ (ord : Nat) (d : Inflight), Starts s ord Opc.timeSet d →
       exec (.timeSet ord) s =
         .next ({ s.setReg 0x3004 (s.reg 0x3004 ||| 8) with rtc := { s.rtc with refuseCause := c } }.finishFail ord 0x0C 0)) ∧
     (s.rtc.halted = false →
       exec .halt s = .next { s.setReg 0x3004 (s.reg 0x3004 ||| 8) with rtc := { s.rtc with refuseCause := c } }) ∧
     (∀ (v : Word) (u : State), bitOf v 0 = true → u = s.setReg 0x3028 (s.reg 0x3028 &&& ~~~(v &&& 2)) →
       calendarFault (s.fld 0x3020 13 0) (s.fld 0x3020 19 16) (s.fld 0x3020 28 24) (s.fld 0x3024 4 0) (s.fld 0x3024 13 8)
         (s.fld 0x3024 21 16) = 0 →
       exec (.calApply v) s = .next { u.setReg 0x3004 (s.reg 0x3004 ||| 8) with rtc := { s.rtc with refuseCause := c } })) ∧
  (∀ (s : State) (ord : Nat) (d : Inflight), s.damperRunning = true → s.ember.gated = false → s.rtc.unit = none →
     s.rtc.notice = none → s.rtc.halted = false → Starts s ord Opc.timeSet d → 252455615999 < d.op 20 5 →
     exec (.timeSet ord) s =
       .next ({ s.setReg 0x3004 (s.reg 0x3004 ||| 8) with rtc := { s.rtc with refuseCause := 5 } }.finishFail ord 0x0C 0))

/-- PRESCALER_EDGE, the 1/32 768 s edge: the count advances by 1, or a tick is withheld; an accepted set replaces the count, its old
value the one the edge would have produced; while halted the ticks only elapse (R327, R329, R330, R331, R336).
HALT_CLEAR, HALT written 0, puts the written count into force as a set of path 0, whose old count is that at which the halt began; a
refusal (causes 1, 2, 4 and 5), or HALT_TIMEOUT once HALT has been held for 1 s, discards what was written and resumes the count with
the ticks that elapsed (R330). Outside a halt neither changes anything, nor does HALT_TIMEOUT before the second is over. -/
def Obligations.PrescalerAndHalt : Prop :=
  (∀ s : State,
     (s.rtc.halted = true →
       exec .prescalerEdge s = .next { s with rtc := { s.rtc with elapsed := s.rtc.elapsed + 1 } }) ∧
     (s.rtc.halted = false → ∀ n, n = (if s.rtc.withhold = 0 then (s.rtc.count + 1) % 2 ^ 55 else s.rtc.count) →
       (s.rtc.unit = none →
         exec .prescalerEdge s = .next { s with rtc := { s.rtc with count := n, withhold := s.rtc.withhold - 1 } }) ∧
       (∀ q, s.rtc.unit = some q →
         exec .prescalerEdge s = .next { s with rtc := { s.rtc with
           unit := none, count := q.new, withhold := s.rtc.withhold - 1, isSet := true, sets := (s.rtc.sets + 1) % 2 ^ 32,
           notice := some { old := n, new := q.new, path := q.path, ord := q.ord } } }))) ∧
  (∀ s : State, s.rtc.halted = true →
     (s.damperRunning = true → s.ember.gated = false → s.rtc.elapsed < 32768 → s.rtc.written / 32768 ≤ 252455615999 →
       exec .haltClear s = .next { s with rtc := { s.rtc with
         halted := false, elapsed := 0, count := s.rtc.written,
         notice := some { old := s.rtc.count, new := s.rtc.written, path := 0, ord := none },
         isSet := true, sets := (s.rtc.sets + 1) % 2 ^ 32 } }) ∧
     (∀ c, (s.damperRunning = false ∧ c = 1 ∨ s.damperRunning = true ∧ s.ember.gated = true ∧ c = 2 ∨
         s.damperRunning = true ∧ s.ember.gated = false ∧ 32768 ≤ s.rtc.elapsed ∧ c = 4 ∨
         s.damperRunning = true ∧ s.ember.gated = false ∧ s.rtc.elapsed < 32768 ∧ 252455615999 < s.rtc.written / 32768 ∧ c = 5) →
       exec .haltClear s = .next { s.setReg 0x3004 (s.reg 0x3004 ||| 8) with rtc := { s.rtc with
         halted := false, count := (s.rtc.count + s.rtc.elapsed) % 2 ^ 55, elapsed := 0, refuseCause := c } }) ∧
     (32768 ≤ s.rtc.elapsed →
       exec .haltTimeout s = .next { s.setReg 0x3004 (s.reg 0x3004 ||| 8) with rtc := { s.rtc with
         halted := false, count := (s.rtc.count + s.rtc.elapsed) % 2 ^ 55, elapsed := 0, refuseCause := 4 } }) ∧
     (s.rtc.elapsed < 32768 → exec .haltTimeout s = .next s)) ∧
  (∀ s : State, s.rtc.halted = false → exec .haltClear s = .next s ∧ exec .haltTimeout s = .next s)

/-- Over the 32 steps of a trim cycle exactly C units of 1/16 384 s are inserted or withheld (R336). TRIM_STEP inserts or withholds its
step's share, with C from the written parameters and the temperature, and moves on to the next step; during a halt it does nothing. -/
def Obligations.TrimInsertsC : Prop :=
  (∀ c : Int, ((List.range 32).map fun k => trimUnits c k).sum = c) ∧
  (∀ (temp : Int) (s : State), s.rtc.halted = false → ∀ c n : Int,
    c = trimWord (crystalDev (signed (s.fld 0x3030 15 0) 16) (s.fld 0x302C 27 16 : Nat) temp (signed (s.fld 0x302C 11 0) 12)) →
    n = trimUnits c s.rtc.step →
    ∃ t, exec (.trimStep temp) s = .next t ∧ t = { s with rtc := t.rtc } ∧
      t.rtc.step = (s.rtc.step + 1) % 32 ∧ t.rtc.corr = c ∧ t.rtc.temp = temp ∧
      (0 ≤ n → (t.rtc.count : Int) = (s.rtc.count + 2 * n) % 2 ^ 55 ∧ t.rtc.withhold = s.rtc.withhold) ∧
      (n ≤ 0 → t.rtc.count = s.rtc.count % 2 ^ 55 ∧ (t.rtc.withhold : Int) = s.rtc.withhold - 2 * n)) ∧
  (∀ (temp : Int) (s : State), s.rtc.halted = true → exec (.trimStep temp) s = .next s)

/-- The calendar view of the count that a valid date and time convert to is that date and time (R333, R335). -/
def Obligations.CalendarInverse : Prop :=
  ∀ y mo d h mi sec : Nat, calendarFault y mo d h mi sec = 0 → ∀ w,
    w = calendarView (daysOf y mo d * 86400 + h * 3600 + mi * 60 + sec) →
    fieldOf w.1 13 0 = y ∧ fieldOf w.1 19 16 = mo ∧ fieldOf w.1 28 24 = d ∧
    fieldOf w.2 4 0 = h ∧ fieldOf w.2 13 8 = mi ∧ fieldOf w.2 21 16 = sec

/-- VBAT_LOST in an L0 clears the clock and the AON registers, with the trim from the fuses, and changes nothing else; outside an L0 it
changes nothing (R296, R337, R338).
RESET_WDT_CFG, the control watchdog's configuration, is taken until EN is set and then locked; RESET_WDT_KICK with its key reloads the
watchdog, and without it does nothing (R300). CLOCK_REF_DEV_MEASURE shows the reference's deviation (R312).
That a kick reloads a disabled watchdog too is the model's reading (log entry 97). -/
def Obligations.VbatLossAndWatchdog : Prop :=
  (∀ (s : State) (e : Episode), s.rst.episode = some e → e.level = .l0 →
     ∃ t, exec .vbatLost s = .next t ∧ t = { s with regs := t.regs, rtc := t.rtc } ∧ t.rtc.count = 0 ∧ t.rtc.isSet = false ∧
       t.rtc.starts = 0 ∧ t.rtc.cleared = true ∧ t.rtc.trimCfg = s.fuse 16 ∧ t.rtc.trimOfs = s.fuse 17 ∧
       (∀ a, 0x3000 ≤ a → a < 0x4000 → a ≠ 0x302C → a ≠ 0x3030 → t.reg a = State.reset.reg a) ∧
       (∀ a, a < 0x3000 ∨ 0x4000 ≤ a → t.reg a = s.reg a) ∧
       t.reg 0x302C = s.fuse 16 &&& 0x0FFF0FFF ∧ t.reg 0x3030 = s.fuse 17 &&& 0xFFFF) ∧
  (∀ s : State, (∀ e, s.rst.episode = some e → e.level ≠ .l0) → exec .vbatLost s = .next s) ∧
  (∀ (s : State) (v : Word), s.running Isl.sys = true →
     (bitOf (s.reg 0x1028) 31 = true → exec (.resetWdtCfg v) s = .next s) ∧
     (bitOf (s.reg 0x1028) 31 = false →
       (bitOf v 31 = false → exec (.resetWdtCfg v) s = .next (s.setReg 0x1028 (v &&& 0x8000FFFF))) ∧
       (bitOf v 31 = true → exec (.resetWdtCfg v) s = .next { s.setReg 0x1028 (v &&& 0x8000FFFF) with
         rst := { s.rst with wdtRemain := max 1 (fieldOf v 15 0), wdtTick := 0 } })) ∧
     (fieldOf v 31 16 = 0x6B1C → exec (.resetWdtKick v) s =
       .next { s with rst := { s.rst with wdtRemain := max 1 (s.fld 0x1028 15 0), wdtTick := 0 } }) ∧
     (fieldOf v 31 16 ≠ 0x6B1C → exec (.resetWdtKick v) s = .next s) ∧
     (∀ dev : Int, exec (.clockRefDevMeasure dev) s = .next { s with clk := { s.clk with refDev := dev, refValid := true } }))

/-! Captures, panels, the link. -/

/-- CAPTURE_START takes the first free slot, from the index that START_INDEX and TRIGGER give, and finishes with the slot and that index,
or with the first condition that fails, BUSY_RETRY where all four slots run; CAPTURE_TRIGGER begins an armed capture whose stream has
reached START_INDEX, and otherwise changes nothing; CAPTURE_STOP ends the capture with cause 1 and waits for its END entry on CAPQ, and
with no capture in the slot finishes at once (R264, R272).
The statuses and the late trigger are the model's reading (log entries 81 to 83). -/
def Obligations.CaptureCommands : Prop :=
  ∀ (s : State) (ord : Nat) (d : Inflight),
    (∀ n now start : Nat, Starts s ord Opc.captureStart d → captureFault s d = none →
      ((List.range 4).find? fun k => (s.captureAt k).isNone) = some n →
      now = nextIndex s (d.op 20 1) (d.op 22 1) →
      start = (if d.op 20 1 = 2 then d.op 32 8 else if d.op 28 1 = 1 then max (d.op 32 8) now else now) →
      exec (.captureStart ord) s =
        .next ((s.setCapture n (some
          { source := d.op 20 1, input := d.op 21 1, preset := d.op 22 1, decim := d.op 23 1, count := d.op 24 4,
            addr := d.bufAddr, start := start, begun := d.op 20 1 == 2 || d.op 28 1 == 0, next := start, taken := 0, spanOff := 0,
            first := start, flags := 0, stopOrd := none })).finishOk ord (leBytes 1 n ++ zeros 7 ++ leBytes 8 start))) ∧
    (∀ st det : Nat, Starts s ord Opc.captureStart d → captureFault s d = some (st, det) →
      exec (.captureStart ord) s = .next (s.finish ord st det [])) ∧
    (Starts s ord Opc.captureStart d → (∀ k, k < 4 → (s.captureAt k).isSome = true) →
      exec (.captureStart ord) s = .next (s.finish ord 0x06 3 [])) ∧
    (∀ (n : Fin 4) (c : Capture), s.captureAt n = some c →
      (c.begun = false → c.start ≤ nextIndex s c.source c.preset →
        exec (.captureTrigger n) s = .next (s.setCapture n (some { c with begun := true }))) ∧
      (c.begun = true ∨ nextIndex s c.source c.preset < c.start → exec (.captureTrigger n) s = .next s)) ∧
    (∀ c : Capture, Starts s ord Opc.captureStop d → s.captureAt (d.op 20 1) = some c →
      ∃ t, exec (.captureStop ord) s = .next t ∧ t = { s with host := t.host } ∧ t.captureAt (d.op 20 1) = none ∧
        (∀ k, k ≠ d.op 20 1 → t.captureAt k = s.captureAt k) ∧
        t.host.capq = s.host.capq ++
          [{ cap := d.op 20 1, isEnd := true, cause := 1, flags := c.flags, offset := c.spanOff, len := 4 * c.taken - c.spanOff,
             first := c.first, stop := some (ord, c.taken) }] ∧
        t.flight ord = some { d with phase := .working } ∧ t.host.dma = s.host.dma) ∧
    (Starts s ord Opc.captureStop d → s.captureAt (d.op 20 1) = none →
      exec (.captureStop ord) s = .next (s.finish ord 0 0 (leBytes 4 0)))

/-- DISPLAY_COMPOSE stores the pixels outside the legal fields and queues its update in the order of fetching; a buffer that cannot be read completes it with
DMA_ERROR, detail 1. DISPLAY_WINDOW sets a window that holds every field shown without a request, clears it, or fails with BAD_FIELD,
detail 24 (R275, R402, R403). -/
def Obligations.DisplayDescriptors : Prop :=
  ∀ (s : State) (ord : Nat) (d : Inflight) (p : Nat) (r : Rect),
    p = d.op 20 1 → r = ⟨d.op 24 2, d.op 26 2, d.op 28 2, d.op 30 2⟩ →
    (StartsDma s ord Opc.displayCompose d →
      exec (.displayCompose ord none) s = .next (bufferError ord 1 s) ∧
      ∀ (data : List Byte) (px kept : List (Nat × Nat)),
      px = composedPixels r (d.op 21 1) (padTo d.bufLen data) → kept = px.filter (fun c => !(s.img.isLegal p c.1)) →
      exec (.displayCompose ord (some data)) s =
        .next ((s.updPort p fun q =>
          { q with comp := Px.setAll q.comp kept, compOk := true,
                   comps := insertComp { ord := ord, region := r, mode := d.op 22 1, imageId := d.op 32 4,
                                         clipped := kept.length != px.length } q.comps }).setPhase ord .working)) ∧
    (Starts s ord Opc.displayWindow d →
      (d.op 21 1 = 0 → exec (.displayWindow ord) s =
        .next ((s.updPort p fun q => { q with winOn := false, winOff := true }).finishOk ord [])) ∧
      (d.op 21 1 ≠ 0 → (∀ n ∈ s.img.portFields p, s.img.onRequest n = true ∨ r.contains (s.img.fieldRect n) = true) →
        exec (.displayWindow ord) s =
          .next ((s.updPort p fun q => { q with winOn := true, window := r, winOff := false }).finishOk ord [])) ∧
      (d.op 21 1 ≠ 0 → (∃ n ∈ s.img.portFields p, s.img.onRequest n = false ∧ r.contains (s.img.fieldRect n) = false) →
        exec (.displayWindow ord) s = .next (s.finish ord 0x02 24 [])))

/-- MANTEL_RUN writes RUN and REQ_SECONDS of MANTEL_CTL; DIGEST raises the digest request and DIGEST_REQUEST_END ends it (R390, R401,
R408). MANTEL_TBL_DATA puts its word into the bank of the target that is not in use and steps ADDR; a target whose bank waits or is
being committed takes none and sets WRITE_LOCKED; no other target exists. COMMIT checks the bank not in use: one that passes is being
committed, one that fails sets ERR with its cause; while another commit runs or the bank waits it is ignored.
COMMIT_COMPLETE has the bank written to the flash copy that does not hold the active GEN and nowhere else, and the bank comes into use at
once where no update of its ports runs and else waits; a flash failure leaves cause 4 (R398). -/
def Obligations.MantelTables : Prop :=
  ∀ s : State,
    (s.running Isl.mantel = true →
      (∀ v : Word, ∃ t, exec (.mantelRun v) s = .next t ∧
        t = { s with regs := t.regs, mantel := { s.mantel with run := bitOf v 0 } } ∧ (∀ a, a ≠ 0x35004 → t.reg a = s.reg a) ∧
        t.reg 0x35004 = mergeMask (maskOf 15 8 ||| maskOf 0 0) (s.reg 0x35004) v) ∧
      exec .digest s = .next { s with mantel := { s.mantel with request := true } } ∧
      (∀ (v : Word) (n a : Nat), n = s.fld 0x35010 2 0 → a = s.fld 0x35014 18 2 →
        (n < 5 → (s.tableAt n).pending = false → s.mantel.commit ≠ some n →
          exec (.mantelTblData v) s =
            .next ((s.updTable n fun b =>
              if b.active then { b with bank0 := Memory.writeN b.bank0 (4 * a) (leBytes 4 v.toNat) }
              else { b with bank1 := Memory.writeN b.bank1 (4 * a) (leBytes 4 v.toNat) }).putField 0x35014 18 2
                ((a + 1) % 2 ^ 17))) ∧
        (n < 5 → (s.tableAt n).pending = true ∨ s.mantel.commit = some n →
          exec (.mantelTblData v) s = .next (s.setReg 0x3501C (s.reg 0x3501C ||| 0x100))) ∧
        (5 ≤ n → exec (.mantelTblData v) s = .next s)) ∧
      (∀ (v : Word) (t : State) (n : Nat), t = writeReg 0x35010 v s → n = t.fld 0x35010 2 0 →
        (bitOf v 4 = true → n < 5 → s.mantel.commit = none → (s.tableAt n).pending = false →
          exec (.commit v) s =
            .next (if commitCheck t n = 0 then { t with mantel := { s.mantel with commit := some n } }
                   else { t.setReg 0x3501C (t.reg 0x3501C ||| 8) with
                     mantel := { s.mantel with commit := none, cause := commitCheck t n } })) ∧
        (bitOf v 4 = false ∨ 5 ≤ n ∨ s.mantel.commit ≠ none ∨ (s.tableAt n).pending = true → exec (.commit v) s = .next t))) ∧
    exec .digestRequestEnd s = .next { s with mantel := { s.mantel with request := false } } ∧
    (∀ n, s.mantel.commit = some n → n < 5 →
      exec (.commitComplete false) s = .next { s.setReg 0x3501C (s.reg 0x3501C ||| 8) with
        mantel := { s.mantel with commit := none, cause := 4 } } ∧
      ∃ t, exec (.commitComplete true) s = .next t ∧ t = { s with fw := { s.fw with flash := t.fw.flash }, mantel := t.mantel } ∧
        t.mantel.commit = none ∧
        (∀ off size, off = copyOff n (!(s.tableAt n).copy) →
          size = (if n = 0 then Wave.size (s.tableAt n).spareBank else Map.size (s.tableAt n).spareBank) →
          Memory.readN t.fw.flash off size = Memory.readN (s.tableAt n).spareBank 0 size ∧
          ∀ a, a < off ∨ off + size ≤ a → Memory.read t.fw.flash a = Memory.read s.fw.flash a) ∧
        (canSwap s n = true → t.tableAt n = (s.tableAt n).swap) ∧
        (canSwap s n = false → t.tableAt n = { s.tableAt n with pending := true }) ∧
        (∀ k, k ≠ n → (s.tableAt k).pending = false → t.tableAt k = s.tableAt k))

/-- The course of a panel update (R394, R396, R404, R405, R407). UPDATE_START on an idle port, and TEMPERATURE_RETRY on one that waits
for a temperature, take up the next update where the engine is free: with a temperature read, or the last one where that is at most 60 s
old, the high voltage rises, the targets are planned and the journal is DIRTY; without one the port waits and sets TEMP_FAIL; a region
with nothing left to drive is dropped, and a timing outside the limits starts nothing and sets TIMING_ERR. HV_DLY_EXPIRY begins the
scan. UPDATE_END, at the zero frame, ends the high voltage, the targets are the panel's levels and the journal is CLEAN.
POWER_GOOD_CHECK after an abort reports 0xB2 where power-good is still high on a port that has its pin.
What may start an update, and where a failed read leaves it, are the model's reading (log entries 42, 43). -/
def Obligations.PanelUpdates : Prop :=
  ∀ (p : Fin 4) (s : State),
    (∀ (temp : TempRead) (c : Instr) (ph : PortPhase), engineFree s p = true →
      (c, ph) ∈ [(Instr.updateStart p temp, PortPhase.idle), (.temperatureRetry p temp, .waitTemp)] → (s.portAt p).phase = ph →
      ∀ n plan, nextUpdate (s.portAt p) = some n → plan = planUpdate s p n → mustWait s p n = false →
        (plan.1.isEmpty = true → exec c s = .next (takeNext p n (s.updPort p fun q => { q with phase := .idle }))) ∧
        (plan.1.isEmpty = false → timingOk s p = false →
          exec c s = .next (s.updPort p fun q => { q with phase := .idle, timingErr := true })) ∧
        (plan.1.isEmpty = false → timingOk s p = true → readTemp s p temp = none → lastTemp s p = none →
          ∃ t, exec c s = .next t ∧ t = { s with regs := t.regs, mantel := t.mantel } ∧ (t.portAt p).phase = .waitTemp ∧
            bitOf (t.reg (portReg p 0x10)) 2 = true) ∧
        (∀ deg, plan.1.isEmpty = false → timingOk s p = true →
          (readTemp s p temp = some deg ∨ readTemp s p temp = none ∧ lastTemp s p = some deg) →
          ∃ t u, exec c s = .next t ∧ t = { s with mantel := t.mantel, ember := t.ember, host := t.host, regs := t.regs } ∧
            (t.portAt p).phase = .rising u ∧ (t.portAt p).hven = true ∧
            (readTemp s p temp = some deg → (t.portAt p).temp = deg) ∧
            u.region = plan.1 ∧ u.mode = plan.2.1 ∧ u.kind = plan.2.2.1 ∧
            u.range = Wave.range (s.tableAt 0).activeBank deg ∧ u.frames = Wave.frames (s.tableAt 0).activeBank u.mode u.range ∧
            u.targets = Px.setAll [] (u.region.pixels.map fun px => (px, plan.2.2.2.2 px)) ∧
            t.ember = s.ember.putJournal p true u.kind.code u.mode u.region u.imageId u.frames u.range s.rtc.count ∧
            (∀ q : Fin 4, q ≠ p → t.portAt q = s.portAt q))) ∧
    (∀ u, (s.portAt p).phase = .rising u →
      exec (.hvDlyExpiry p) s = .next (s.updPort p fun q =>
        { q with phase := .scanning u, scanAt := s.fault.timeBase, pol := restPol s p, stopped := none })) ∧
    (∀ u, (s.portAt p).phase = .scanning u →
      ∃ t, exec (.updateEnd p) s = .next t ∧ t = { s with mantel := t.mantel, ember := t.ember } ∧
        (t.portAt p).phase = .idle ∧ (t.portAt p).hven = false ∧
        (t.portAt p).levels = Px.setAll ((s.portAt p).levels.filter fun c => !(u.region.has c.1)) u.targets ∧
        (t.portAt p).updates = ((s.portAt p).updates + 1) % 2 ^ 32 ∧
        t.ember = s.ember.putJournal p false u.kind.code u.mode u.region u.imageId u.frames u.range s.rtc.count ∧
        (∀ q : Fin 4, q ≠ p → t.portAt q = s.portAt q)) ∧
    ((s.portAt p).hvWatch = true → ∀ w, w = s.updPort p (fun q => { q with hvWatch := false }) →
      exec (.powerGoodCheck p false) s = .next w ∧
      (s.pgPin p < 16 → exec (.powerGoodCheck p true) s = .next (reportFault Isl.mantel 0xB2 0 (w.setFlag (portReg p 0x10) 3))) ∧
      (16 ≤ s.pgPin p → exec (.powerGoodCheck p true) s = .next w)) ∧
    ((s.portAt p).hvWatch = false → ∀ high, exec (.powerGoodCheck p high) s = .next s)

/-- LINK_POLLSET refuses a list with its first offending entry and byte, and otherwise writes the bank not in use, which comes into use at
the end of a running cycle, at once where none runs; without LINK_RX it finishes with NOT_IN_MODE; behind an unfinished LINK_POLLSET it
waits. LINK_SEND waits for the end of the exchange in progress; it finishes with NOT_IN_MODE where the link is not enabled, and with
BUSY_RETRY behind another. A buffer that cannot be read finishes either with DMA_ERROR, detail 1. LINK_EN and POLL_RUN set begin a cycle
where one should run, and one without an ENABLED entry ends at once; LINK_EN cleared waits for the end of a frame, and otherwise ends the
exchange, the cycle and every LINK_SEND not started; POLL_RUN cleared stops the polling at the end of the exchange (R366, R379, R380,
R381).
The status of a second LINK_SEND and the course of a cycle are the model's reading (log entries 30, 31). -/
def Obligations.LinkCommands : Prop :=
  ∀ s : State,
    (∀ (ord : Nat) (d : Inflight), StartsDma s ord Opc.linkPollset d →
      ((∃ e ∈ s.host.inflight, e.ord < ord ∧ e.opcode = Opc.linkPollset ∧ e.phase.isDone = false) →
        ∀ buf, exec (.linkPollset ord buf) s = .next s) ∧
      ((∀ e ∈ s.host.inflight, e.ord < ord → e.opcode = Opc.linkPollset → e.phase.isDone = true) →
        (s.linkRx = false → ∀ buf, exec (.linkPollset ord buf) s = .next (s.finish ord 0x0E 0 [])) ∧
        (s.linkRx = true → exec (.linkPollset ord none) s = .next (bufferError ord 1 s)) ∧
        (∀ bs l : List Byte, s.linkRx = true → l = padTo d.bufLen bs →
          (∀ e o, Poll.reject l = some (e, o) →
            exec (.linkPollset ord (some bs)) s =
              .next ({ s with link := { s.link with rejEntry := e, rejOffset := o } }.finish ord 0x02 8 [])) ∧
          (Poll.reject l = none → s.link.polling = true →
            exec (.linkPollset ord (some bs)) s =
              .next ({ s with link := { s.link with
                banks := Tab.upd s.link.banks (!s.link.bank).toNat (fun _ => l), swapOrd := some ord } }.setPhase ord .working)) ∧
          (Poll.reject l = none → s.link.polling = false → (Poll.nextFrom l 0).isSome = true →
            ∃ t, exec (.linkPollset ord (some bs)) s = .next t ∧ t = { s with link := t.link, host := t.host } ∧
              t.link.bank = (!s.link.bank) ∧ t.link.work = some l ∧ t.link.live = true ∧ t.link.swapOrd = none ∧
              t.link.polling = (s.pollRun && s.linkEnabled) ∧
              t.flight ord = some { d with phase := .done { status := 0, detail := 0, result := zeros 24 } })))) ∧
    (∀ (ord : Nat) (d : Inflight), StartsDma s ord Opc.linkSend d →
      (s.linkEnabled = false ∨ s.link.enPend = true → ∀ buf, exec (.linkSend ord buf) s = .next (s.finish ord 0x0E 0 [])) ∧
      (s.linkEnabled = true → s.link.enPend = false →
        (s.link.sends ≠ [] ∨ (∃ e, s.link.exch = some e ∧ e.send.isSome = true) → ∀ buf,
          exec (.linkSend ord buf) s = .next (s.finish ord 0x06 4 [])) ∧
        (s.link.sends = [] → (∀ e, s.link.exch = some e → e.send = none) →
          exec (.linkSend ord none) s = .next (bufferError ord 1 s) ∧
          ∀ bs, exec (.linkSend ord (some bs)) s =
            .next ({ s with link := { s.link with sends := [
              { ord := ord, outpost := d.op 20 1, robust := d.op 21 1 == 1, retries := d.op 22 1, timeout := d.op 36 2,
                req := padTo d.bufLen bs, respAddr := d.op 24 8, respLen := d.op 32 4 }] } }.setPhase ord .working)))) ∧
    (s.running Isl.link = true → ∀ (c : Instr) (u : State),
      (c = .linkEn true ∧ u = { s.putField 0x34004 0 0 1 with link := { s.link with en := true, enPend := false } } ∨
       c = .pollRun true ∧ u = s.putField 0x34004 1 1 1) →
      (u.pollRun = true → u.linkEnabled = true → s.link.live = true → s.link.polling = false →
        ((Poll.nextFrom s.pollList 0).isSome = true → exec c s =
          .next { u with link := { u.link with polling := true, wrote := false, next := 0 } }) ∧
        ((Poll.nextFrom s.pollList 0).isSome = false → ∃ t, exec c s = .next t ∧ t.link.polling = false ∧
          t.link.en = u.link.en ∧ t.link.cycles = (s.link.cycles + 1) % 2 ^ 32)) ∧
      (u.pollRun = false ∨ u.linkEnabled = false ∨ s.link.live = false ∨ s.link.polling = true → exec c s = .next u)) ∧
    (s.running Isl.link = true →
      (s.link.frame.isSome = true ∨ s.link.rx.frame.isSome = true → exec (.linkEn false) s =
        .next { s.putField 0x34004 0 0 0 with link := { s.link with enPend := s.link.en } }) ∧
      (s.link.frame = none → s.link.rx.frame = none → s.link.en = false →
        exec (.linkEn false) s = .next (s.putField 0x34004 0 0 0)) ∧
      (s.link.frame = none → s.link.rx.frame = none → s.link.en = true → ∃ t, exec (.linkEn false) s = .next t ∧
        t.link.en = false ∧ t.link.txen = false ∧ t.link.exch = none ∧ t.link.polling = false ∧ t.link.sends = [] ∧
        t.fld 0x34004 0 0 = 0 ∧ ∀ w ∈ s.link.sends, ∀ d, t.flight w.ord = some d → d.phase.isDone = true) ∧
      (s.link.exch.isSome = true ∨ s.link.polling = false → exec (.pollRun false) s = .next (s.putField 0x34004 1 1 0)) ∧
      (s.link.exch = none → s.link.polling = true → ∃ t, exec (.pollRun false) s = .next t ∧ t.link.polling = false ∧
        t.link.exch = none ∧ t.fld 0x34004 1 1 = 0))

/-- One attempt of an exchange (R369, R371, R374 to R378, R380 to R385). ATTEMPT_START raises LINK_TXEN and sends segment 0 from 2000
frames on, for the exchange in progress, else for the waiting LINK_SEND, else for the next ENABLED entry of the cycle; a new request
inverts TOGGLE and takes RESYNC with it. TRANSMIT_END counts the frame and records its interval; the next segment follows 14 400 frames
later, and after the last one LINK_TXEN is due to fall 1000 frames later and the reply is awaited; a clearing of EN that waited takes
effect instead. REPLY_TIMEOUT, SEGMENT_TIMEOUT and a FRAME_RECEIVED whose header or payload is lost fail the attempt: with retries left
the next one waits for silence, otherwise the exchange ends. FRAME_RECEIVED of a good segment counts it and waits for the next one, and
the last segment of a reply ends the exchange: the slot of a POLL is written, or dropped where its write fails, and a LINK_SEND
finishes. A frame that is no reply to the exchange sets BAD_KIND, and a reply that comes late sets LATE.
That a received frame is judged in one command at its end is the model's choice (log entries 30, 33, 123). -/
def Obligations.LinkExchange : Prop :=
  (∀ s : State, s.linkEnabled = true → s.link.txen = false → s.link.enPend = false → s.link.polling = true ∨ s.pollRun = false →
    (∀ e e1, s.link.exch = some e → e.wait = .silence →
      e1 = { e with attempt := e.attempt + 1, wait := .sending 0, replied := false, got := [], seg := 0 } →
      exec .attemptStart s = .next { s with link := { s.link with
        txen := true, rise := s.gridFrame, fall := none, exch := some e1, frame := some (e1.frame s 0 (s.gridFrame + 2000)) } }) ∧
    (∀ e0 e1 rest, s.link.exch = none →
      ((∃ w, s.link.sends = w :: rest ∧ e0 = sendExchange s w) ∨
       s.link.sends = [] ∧ rest = [] ∧ s.link.polling = true ∧ ∃ i, Poll.nextFrom s.pollList s.link.next = some i ∧
         e0 = pollExchange s.pollList i) →
      e1 = { e0 with toggle := !(s.link.toggles.testBit e0.outpost), resync := s.link.resync.testBit e0.outpost, attempt := 1,
                     wait := .sending 0 } →
      exec .attemptStart s = .next { s with link := { s.link with
        sends := rest, toggles := setBitN s.link.toggles e0.outpost (!(s.link.toggles.testBit e0.outpost)),
        resync := setBitN s.link.resync e0.outpost false,
        txen := true, rise := s.gridFrame, fall := none, exch := some e1, frame := some (e1.frame s 0 (s.gridFrame + 2000)) } })) ∧
  (∀ (s : State) (e : Exchange) (f : TxFrame) (k : Link), s.link.exch = some e → s.link.frame = some f →
    k = { s.link with txFrames := (s.link.txFrames + 1) % 2 ^ 32,
                      spans := (f.phases, s.gridFrame - 7200 * f.symbols, s.gridFrame) :: s.link.spans } →
    ∀ n, n = Hdr.seg f.header + 1 →
    (s.link.enPend = false → n < segCount e.req.length e.robust →
      exec .transmitEnd s = .next { s with link := { k with
        frame := some (e.frame s n (s.gridFrame + 14400)), exch := some { e with wait := .sending n } } }) ∧
    (s.link.enPend = false → segCount e.req.length e.robust ≤ n →
      exec .transmitEnd s = .next { s with link := { k with
        frame := none, txen := false, fall := some (s.gridFrame + 1000), exch := some { e with wait := .reply } } }) ∧
    (s.link.enPend = true → ∃ t, exec .transmitEnd s = .next t ∧ t.link.en = false ∧ t.link.txen = false ∧ t.link.frame = none ∧
      t.link.exch = none ∧ t.link.spans = k.spans)) ∧
  (∀ (s : State) (e : Exchange) (ok : Bool), s.link.exch = some e →
    (e.wait ≠ .reply → exec (.replyTimeout ok) s = .next s) ∧ (e.wait ≠ .segment → exec (.segmentTimeout ok) s = .next s) ∧
    (e.attempt < 1 + e.retries →
      (e.wait = .reply → exec (.replyTimeout ok) s =
        .next { s with link := { s.link with timeouts := (s.link.timeouts + 1) % 2 ^ 32,
                                             exch := some { e with allCrc := false, wait := .silence } } }) ∧
      (e.wait = .segment → exec (.segmentTimeout ok) s =
        .next { s with link := { s.link with exch := some { e with allCrc := false, wait := .silence } } })) ∧
    (1 + e.retries ≤ e.attempt → ∀ c, (c = Instr.replyTimeout ok ∧ e.wait = .reply ∨ c = .segmentTimeout ok ∧ e.wait = .segment) →
      ∃ t, exec c s = .next t ∧ t.link.exch = none ∧
        (∀ o d, e.send = some o → s.flight o = some d → d.phase.isDone = false → t.flight o =
          some { d with phase := .done { status := 0, detail := 0, result := padTo 24 (leBytes 1 1 ++ leBytes 1 e.attempt) } }) ∧
        (e.send = none → ok = true → canDma s = true → t.host.dma =
          ⟨e.respAddr, pollSlot s e 1 ((s.link.seqs.getD e.entry 0 + 1) % 2 ^ 32)⟩ :: s.host.dma) ∧
        (e.send = none → ok = false ∨ canDma s = false → t.host.dma = s.host.dma ∧ bitOf (t.reg 0x34040) 0 = true ∧
          t.link.dropped = (s.link.dropped + 1) % 2 ^ 32))) ∧
  (∀ (s : State) (x : RxSync) (f : RxFrame) (ok : Bool) (h n : Nat), s.running Isl.link = true → s.link.enPend = false →
    s.link.rx.frame = some x → 3 ≤ x.symbols.length → h = (decodeHeader x.headBits).getD f.header →
    n = ([8, 9].filter x.symbolHit).length →
    (n ≠ 0 ∨ judgeHeader h = .bad →
      (∀ e, s.link.exch = some e → e.awaits = true → e.attempt < 1 + e.retries → exec (.frameReceived f ok) s =
        .next { s with link := { s.link with
          rx := { s.link.rx with frame := none },
          erased := if n = 0 then s.link.erased else (s.link.erased + n) % 2 ^ 32,
          exch := some { e with allCrc := false, wait := .silence } } }) ∧
      (s.link.exch.any Exchange.awaits = false → exec (.frameReceived f ok) s =
        .next { s with link := { s.link with
          rx := { s.link.rx with frame := none },
          erased := if n = 0 then s.link.erased else (s.link.erased + n) % 2 ^ 32 } })) ∧
    (n = 0 → judgeHeader h = .kept →
      (x.symbols.length < 3 + Hdr.psym h → exec (.frameReceived f ok) s = .next s) ∧
      (3 + Hdr.psym h ≤ x.symbols.length → ∀ data, data = rxData x f h →
        (s.link.exch.any Exchange.awaits = false → ∃ t, exec (.frameReceived f ok) s = .next t ∧
          t.link.rxFrames = (s.link.rxFrames + 1) % 2 ^ 32 ∧ t.link.exch = s.link.exch ∧
          (Hdr.dir h = false → bitOf (t.reg 0x34040) 1 = true) ∧
          (Hdr.dir h = true → Hdr.kind h = 2 → bitOf (t.reg 0x34040) 2 = true)) ∧
        (∀ e, s.link.exch = some e → e.awaits = true →
          (Hdr.dir h = false ∨ Hdr.addr h ≠ e.outpost → ∃ t, exec (.frameReceived f ok) s = .next t ∧
            t.link.rxFrames = (s.link.rxFrames + 1) % 2 ^ 32 ∧ t.link.exch = some e ∧ bitOf (t.reg 0x34040) 1 = true) ∧
          (Hdr.dir h = true → Hdr.addr h = e.outpost → Hdr.kind h = 2 → Hdr.seg h = e.seg → Hdr.seg h < Hdr.nseg h →
            (data = none → e.attempt < 1 + e.retries → ∃ t, exec (.frameReceived f ok) s = .next t ∧ t = { s with link := t.link } ∧
              t.link.crcFails = (s.link.crcFails + 1) % 2 ^ 32 ∧ t.link.rx.frame = none ∧
              t.link.exch = some { e with replied := true, wait := .silence }) ∧
            (∀ bytes, data = some bytes → e.seg + 1 ≠ Hdr.nseg h →
              ∃ t, exec (.frameReceived f ok) s = .next t ∧ t = { s with link := t.link } ∧
                t.link.rxFrames = (s.link.rxFrames + 1) % 2 ^ 32 ∧ t.link.rx.frame = none ∧
                t.link.exch = some { e with replied := true, got := e.got ++ bytes, seg := e.seg + 1, wait := .segment }) ∧
            (∀ bytes e1, data = some bytes → e.seg + 1 = Hdr.nseg h → e1 = { e with got := e.got ++ bytes } →
              ∃ t, exec (.frameReceived f ok) s = .next t ∧ t.link.rxFrames = (s.link.rxFrames + 1) % 2 ^ 32 ∧ t.link.exch = none ∧
                (e.send = none → ok = true → canDma s = true → t.host.dma =
                  ⟨e.respAddr, pollSlot s e1 0 ((s.link.seqs.getD e.entry 0 + 1) % 2 ^ 32)⟩ :: s.host.dma) ∧
                (∀ o d, e.send = some o → s.flight o = some d → d.phase.isDone = false → ok = true → canDma s = true →
                  t.flight o = some { d with phase := .done (Completion.mk 0 0
                    (padTo 24 (leBytes 1 0 ++ leBytes 1 e.attempt ++ leBytes 2 (e1.got.take e.respMax).length))) } ∧
                  (e1.got.take e.respMax ≠ [] → t.host.dma = ⟨e.respAddr, e1.got.take e.respMax⟩ :: s.host.dma))))))))

/-! Images, firmware, trust. -/

/-- Staging and activation of a draught image (R202, R207, R208, R261). IMAGE_STAGE begins to load and discards what was staged, or
answers BUSY_RETRY while the buffer is in use. IMAGE_TRANSFER_COMPLETE hands what was transferred to admission; a failed transfer is
the descriptor's buffer error and empties the buffer. ADMISSION_COMPLETE leaves the image staged whole and answers OK, or refuses it
with reason, section and offset of the first failure, and the buffer empty. IMAGE_ACTIVATE without a staged image answers
NOT_IN_MODE; with an EXPECT that is not 0 and differs from the staged digest BAD_FIELD of DETAIL 20; with an activation pending
BUSY_RETRY; otherwise it makes the activation PENDING and waits. -/
def Obligations.ImageCommands : Prop :=
  ∀ (s : State) (ord : Nat) (d : Inflight),
    (StartsDma s ord Opc.imageStage d → s.running Isl.conv = true →
      (stageBusy s = false → exec (.imageStage ord) s =
        .next ({ s with damper := { s.damper with stage := .loading, staged := none, stageOrd := some ord } }.setPhase ord .working)) ∧
      (stageBusy s = true → exec (.imageStage ord) s = .next (s.finish ord 0x06 2 []))) ∧
    (s.damper.stage = .loading → s.damper.stageOrd = some ord → s.flight ord = some d →
      (∀ bs b : List Byte, b = padTo d.bufLen bs →
        ∃ t, exec (.imageTransferComplete (some bs)) s = .next t ∧ t = { s with damper := t.damper, fw := t.fw } ∧
          t.damper = { s.damper with stage := .admitting,
                                     staged := some { bytes := Memory.ofBytes (b.take 1048576), size := b.length } } ∧
          (s.running Isl.ctrl = false → t.fw = s.fw)) ∧
      exec (.imageTransferComplete none) s =
        .next (bufferError ord 1 { s with damper := { s.damper with stage := .empty, staged := none, stageOrd := none } })) ∧
    (∀ g, s.damper.stage = .admitting → s.damper.staged = some g → s.damper.stageOrd = some ord →
      exec .admissionComplete s = .next (match admission s g with
        | none => { s with damper := { s.damper with stage := .staged, stageOrd := none, stgSigned := g.hasSig,
                                                     stgMatch := keyMatches s g } }.finish ord 0 0
                    (zeros 4 ++ (bytes384 g.imageDigest).take 16)
        | some (r, sec, off) => { s with damper := { s.damper with
            stage := .rejected, staged := none, stageOrd := none, reason := r, sect := sec, offset := off } }.finish ord 0x09
              (r + 256 * sec) (leBytes 4 off))) ∧
    (Starts s ord Opc.imageActivate d →
      (s.damper.stage ≠ .staged → exec (.imageActivate ord) s = .next (s.finish ord 0x0E 0 [])) ∧
      (∀ g x, s.damper.stage = .staged → s.damper.staged = some g → x = sliceOf d.bytes 20 32 →
        (allZero x = true ∨ x = (bytes384 g.imageDigest).take 32 →
          (s.damper.pending = false → exec (.imageActivate ord) s =
            .next ({ s with damper := { s.damper with pending := true, latchedAct := false, actOrd := some ord } }.setPhase ord
              .working)) ∧
          (s.damper.pending = true → exec (.imageActivate ord) s = .next (s.finish ord 0x06 2 []))) ∧
        (allZero x = false → x ≠ (bytes384 g.imageDigest).take 32 → exec (.imageActivate ord) s =
          .next (s.finish ord 0x02 20 []))))

/-- FW_STAGE (R354, R355). A failed transfer is the descriptor's buffer error. A BUF_LEN that is not TOTAL_SIZE or exceeds the slot is
BAD_FIELD of DETAIL 16, and a stage beside another FW_STAGE or FW_ACTIVATE or with the layer on trial BUSY_RETRY of DETAIL 2; neither
touches a slot (the model's choice, log entry 120). Otherwise the image is checked: where it fails, the slot not in use is EMPTY, CAUSE
is the step of R354 and the status AUTH_FAIL; where it verifies, it is written to that slot and the copy read back is checked: the slot
is VALID and the completion carries the first 16 bytes of the digest, or it is EMPTY, with CAUSE 6 and AUTH_FAIL. The active slot with
its bytes and its state, ACTIVE, TRIAL and the other layer's record stay as they were. -/
def Obligations.FirmwareStaged : Prop :=
  ∀ (s : State) (ord layer : Nat) (d : Inflight) (bs fw back : List Byte), StartsDma s ord Opc.fwStage d → layer = d.op 20 1 →
    fw = padTo d.bufLen bs →
    exec (.fwStage ord none back) s = .next (bufferError ord 1 s) ∧
    (d.bufLen ≠ Fwh.totalSize fw ∨ slotSize layer < d.bufLen → exec (.fwStage ord (some bs) back) s =
      .next ({ s with fw := { s.fw with stageLayer := layer, stageCause := 0 } }.finish ord 0x02 16 [])) ∧
    (d.bufLen = Fwh.totalSize fw → d.bufLen ≤ slotSize layer →
      (s.fw.staging.isSome = true ∨ s.fw.ctlAct.isSome = true ∨ layerTrial s layer = true →
        exec (.fwStage ord (some bs) back) s =
          .next ({ s with fw := { s.fw with stageLayer := layer, stageCause := 0 } }.finish ord 0x06 2 [])) ∧
      (s.fw.staging = none → s.fw.ctlAct = none → layerTrial s layer = false → leField (bootBytes s) 4 8 + 2 < 2 ^ 64 →
        ∀ b copy good, b = !(activeSlot s layer) → copy = padTo fw.length back →
        good = decide (verifyStep s layer fw = 0 ∧ verifyStep s layer copy = 0) →
        ∃ t, exec (.fwStage ord (some bs) back) s = .next t ∧ t = { s with fw := t.fw, host := t.host } ∧
          t.fw = { s.fw with flash := t.fw.flash, stageLayer := layer,
                             stageCause := if verifyStep s layer fw ≠ 0 then verifyStep s layer fw else if good then 0 else 6 } ∧
          slotState t layer b = (if good then 1 else 0) ∧ slotState t layer (!b) = slotState s layer (!b) ∧
          activeSlot t layer = activeSlot s layer ∧ layerTrial t layer = false ∧ layerByte t (3 - layer) = layerByte s (3 - layer) ∧
          (verifyStep s layer fw = 0 → Memory.readN t.fw.flash (slotBase layer b) copy.length = copy) ∧
          (∀ a n, slotBase layer (!b) ≤ a → a + n ≤ slotBase layer (!b) + slotSize layer →
            Memory.readN t.fw.flash a n = Memory.readN s.fw.flash a n) ∧
          t.flight ord = some { d with phase := .done (if good then ⟨0, 0, padTo 24 ((bytes384 (Fwh.digest fw)).take 16)⟩
                                                       else ⟨0x08, 0, zeros 24⟩) }))

/-- The starts of the two firmware layers (R318, R356 to R358). FW_ACTIVATE_CONTROL without a VALID slot answers NOT_IN_MODE, beside
another one BUSY_RETRY of DETAIL 2; otherwise it is at work and waits for the other descriptors, and where none is left CTRL enters
reset on the other slot, made ACTIVE on trial, and PAUSED sets. CONTROL_FIRMWARE_RESTART counts a start, opens its window and runs the
active slot, measured into MREG3, with OK; where that slot fails it runs the other one, with ROLLBACK and AUTH_FAIL; where both fail,
the recovery loader, which closes the window (the statuses are the model's reading, log entry 100, the loader's START_OK is log entry
121); at the limit of starts it is an L1 instead. METROLOGY_LAYER_READY: where a layer of the plane verifies, the restore is complete
and the hold ready, and a start that is no fallback counts and opens its window; where neither slot does, pilot-light mode of cause 4,
with CONV, FLUE, METRO, DRAM, LINK and MANTEL held in reset. -/
def Obligations.LayerActivation : Prop :=
  ((∀ (s u : State) (ord : Nat) (d : Inflight), Starts s ord Opc.fwActivate d → d.op 20 1 = 2 →
     u = { s with fw := { s.fw with ctlAct := some ord, staging := some ord } }.setPhase ord .working →
     (slotState s 2 (!(activeSlot s 2)) ≠ 1 → exec (.fwActivateControl ord) s = .next (s.finish ord 0x0E 0 [])) ∧
     (slotState s 2 (!(activeSlot s 2)) = 1 →
       (s.fw.ctlAct.isSome = true → exec (.fwActivateControl ord) s = .next (s.finish ord 0x06 2 [])) ∧
       (s.fw.ctlAct = none → s.host.paused = true ∨ (∃ e ∈ s.host.inflight, e.ord ≠ ord) →
         exec (.fwActivateControl ord) s = .next u) ∧
       (s.fw.ctlAct = none → s.host.paused = false → (∀ e ∈ s.host.inflight, e.ord = ord) → leField (bootBytes s) 4 8 + 1 < 2 ^ 64 →
         ∃ t, exec (.fwActivateControl ord) s = .next t ∧ t.island Isl.ctrl = .inReset ∧ t.host.paused = true ∧
           t.fw.ctlAct = some ord ∧ t.rtc.trial = true ∧ activeSlot t 2 = (!(activeSlot s 2)) ∧ layerTrial t 2 = true ∧
           t.damper = s.damper ∧ t.ember = s.ember ∧ t.session = s.session ∧ t.point = s.point ∧ t.hearth = s.hearth))) ∧
   (∀ (s : State) (ord : Nat) (a : Bool), s.fw.ctlAct = some ord → s.island Isl.ctrl = .inReset →
     s.rst.episode = none → s.clk.bootSel < 2 → s.rtc.pilotReq = false → a = activeSlot s 2 →
     (s.rtc.starts < fuseLimit s → s.rst.pilot = false → s.fw.hostCtl = none → s.link.work = none →
       leField (bootBytes s) 4 8 + 1 < 2 ^ 64 →
       ∃ t, exec .controlFirmwareRestart s = .next t ∧ t.running Isl.ctrl = true ∧ t.damper = s.damper ∧ t.ember = s.ember ∧
         (slotVerifies s 2 a = true ∨ slotVerifies s 2 (!a) = true → t.fw.loader = false ∧ t.rst.window = true ∧
           t.rst.started = false ∧ t.rtc.starts = min (s.rtc.starts + 1) 255) ∧
         (slotVerifies s 2 a = true → t.fw.ctlSlot = a ∧ t.mreg 3 = ext 0 (Fwh.digest (slotImage s 2 a))) ∧
         (slotVerifies s 2 a = false → slotVerifies s 2 (!a) = true → t.fw.ctlSlot = (!a) ∧
           t.mreg 3 = ext 0 (Fwh.digest (slotImage s 2 (!a))) ∧ bitOf (t.reg 0x1000) 6 = true) ∧
         (slotVerifies s 2 a = false → slotVerifies s 2 (!a) = false → t.fw.loader = true ∧
           t.mreg 3 = ext 0 Config.recoveryDigest ∧ t.rst.window = false ∧ t.rst.started = true ∧ t.rtc.starts = 0) ∧
         ∀ d, s.flight ord = some d → d.phase.isDone = false → t.flight ord = some { d with
           phase := .done (if slotVerifies s 2 a then ⟨0, 0, padTo 24 ((bytes384 (Fwh.digest (slotImage s 2 a))).take 16)⟩
                           else ⟨0x08, 0, zeros 24⟩) }) ∧
     (fuseLimit s ≤ s.rtc.starts → ∃ t e, exec .controlFirmwareRestart s = .next t ∧ t.rst.episode = some e ∧ e.level = .l1 ∧
       e.sources = 0 ∧ t.island Isl.ctrl = .inReset))) ∧
  (∀ (s : State) (h : MetHold), s.fw.hold = some h → h.ready = false → s.ember.trigger = none →
     s.rst.episode = none → s.running Isl.metro = true →
     (∀ t0, loadMetrology (if h.fallback then s else s.putField 0x1000 6 6 0) = some t0 → h.fallback = true ∨
         (s.clk.bootSel < 2 ∧ s.rtc.pilotReq = false ∧ s.rtc.starts < fuseLimit s) →
       ∃ t, exec .metrologyLayerReady s = .next t ∧ t.fw.hold = some { h with ready := true } ∧ t.evals = [] ∧
         t.energyHi = none ∧ t.ember.restored = true ∧ t.damper = s.damper ∧ t.hearth = s.hearth ∧
         (h.fallback = false → t.rst.window = true ∧ t.rst.started = false ∧ t.rtc.starts = min (s.rtc.starts + 1) 255)) ∧
     (loadMetrology (if h.fallback then s else s.putField 0x1000 6 6 0) = none →
       ∃ t, exec .metrologyLayerReady s = .next t ∧ t.rst.pilot = true ∧ t.rst.pilotCause = 4 ∧ t.rtc.pilotReq = false ∧
         (∀ k ∈ [Isl.conv, Isl.flue, Isl.metro, Isl.dram, Isl.link, Isl.mantel], t.island k = .inReset) ∧
         t.fw.hold = none))

/-- Fuses and measurement registers (R345, R348). FUSE_PROGRAM: a GO with its key programs the 1 bits of DATA into word ADDR; it is
refused, with FUSE_REFUSED and nothing programmed, while SEALED, while another word is being programmed, where ADDR exceeds 18, and
where it would set SEALED without a fused key hash (the last is R344); a write without GO or its key does nothing.
FUSE_PROGRAM_COMPLETE: the bits are programmed, and the fuses as read stay until a release. EXTEND: a GO extends MREG5 to MREG7 with
the 48 data bytes, one that names MREG0 to MREG4 sets EXT_REFUSED, and a write without GO does nothing. -/
def Obligations.FusesAndRegisters : Prop :=
  (∀ (v : Word) (s : State) (a : Nat) (x : Word), s.running Isl.seal = true → a = s.fld 0x31004 4 0 → x = s.reg 0x31008 →
    (bitOf v 0 = false ∨ fieldOf v 31 16 ≠ 0xF05E → exec (.fuseProgram v) s = .next s) ∧
    (bitOf v 0 = true → fieldOf v 31 16 = 0xF05E →
      (sealState s ≠ .sealed → s.trust.program = none → a ≤ 18 → (a = 18 → bitOf x 0 = true → sealState s = .keyed) →
        exec (.fuseProgram v) s = .next { s with trust := { s.trust with program := some (a, x) } }) ∧
      (sealState s = .sealed ∨ s.trust.program.isSome = true ∨ 18 < a ∨ (a = 18 ∧ bitOf x 0 = true ∧ sealState s = .openState) →
        exec (.fuseProgram v) s = .next (s.setReg 0x31000 (s.reg 0x31000 ||| 8)))) ∧
    (bitOf v 31 = false → exec (.extend v) s = .next s) ∧
    (bitOf v 31 = true →
      (fieldOf v 2 0 < 5 → exec (.extend v) s = .next (s.setReg 0x31000 (s.reg 0x31000 ||| 16))) ∧
      (∀ n, n = fieldOf v 2 0 → 5 ≤ n → exec (.extend v) s =
        .next { s with trust := { s.trust with
          mreg := Tab.upd s.trust.mreg n fun _ => sha384 (bytes384 (s.mreg n) ++ bytes384 (extData s)) } }))) ∧
  (∀ (s : State) (w : Nat) (x : Word), s.trust.program = some (w, x) → exec .fuseProgramComplete s =
    .next { s with trust := { s.trust with program := none, blown := Tab.upd s.trust.blown w (fun old => old ||| x) } }) ∧
  (∀ s : State, s.trust.program = none → exec .fuseProgramComplete s = .next s)

/-- The loader window (R359, R364). BEGIN opens a transfer of TOTAL where host load or recovery allows it and otherwise answers RESULT 1;
with END in the same write it ends at once. FWUPD_WIN_DATA takes its four bytes in order; beyond TOTAL or outside a transfer they are
ignored and END then reports RESULT 2. END closes the transfer for verification, or with RESULT 2, or answers RESULT 1 where nothing is
allowed. While the loader verifies, or the auditor port has it open, all three do nothing. WINDOW_VERIFY_COMPLETE clears BUSY with its
RESULT, which a waiting LOAD_END answers: 2 for a wrong length, 2 and the step of R354 at which a layer fails, 9 for an image that is
not admitted, 8 for a copy that differs. Under host load nothing is written to flash and the item is kept; in recovery a layer that
verifies becomes VALID and ACTIVE, and COUNT clears.
Details are the model's reading (log entry 102). -/
def Obligations.LoaderWindow : Prop :=
  ∀ (s : State) (w : Loader), s.running Isl.sys = true → w = s.fw.win →
    (w.busy = true ∨ (w.isOpen = true ∧ w.auditor = true) → ∀ v : Word,
      exec (.begin v) s = .next s ∧ exec (.fwupdWinData v) s = .next s ∧ exec .endWindow s = .next s) ∧
    (w.busy = false → w.isOpen = false ∨ w.auditor = false →
      (∀ (v : Word) (w1 : Loader), bitOf v 2 = true → w1 = Loader.mk (fieldOf v 1 0) (4 * fieldOf v 28 5) [] true false false false 0 →
        (windowMode s = false → exec (.begin v) s = .next { s with fw := { s.fw with win := { w with result := 1 } } }) ∧
        (windowMode s = true →
          (bitOf v 3 = false → exec (.begin v) s = .next { s with fw := { s.fw with win := w1 } }) ∧
          (bitOf v 3 = true → w1.total = 0 → exec (.begin v) s =
            .next { s with fw := { s.fw with win := { w1 with isOpen := false, busy := true } } }) ∧
          (bitOf v 3 = true → w1.total ≠ 0 → exec (.begin v) s =
            .next { s with fw := { s.fw with win := { w1 with isOpen := false, result := 2 } } }))) ∧
      (∀ v : Word,
        (w.isOpen = true → w.data.length + 4 ≤ w.total → exec (.fwupdWinData v) s =
          .next { s with fw := { s.fw with win := { w with data := w.data ++ leBytes 4 v.toNat } } }) ∧
        (w.isOpen = false ∨ w.total < w.data.length + 4 → exec (.fwupdWinData v) s =
          .next { s with fw := { s.fw with win := { w with bad := true } } })) ∧
      (windowMode s = false → exec .endWindow s = .next { s with fw := { s.fw with win := { w with result := 1 } } }) ∧
      (windowMode s = true →
        (w.isOpen = true → w.bad = false → w.data.length = w.total → exec .endWindow s =
          .next { s with fw := { s.fw with win := { w with isOpen := false, busy := true } } }) ∧
        (w.isOpen = false ∨ w.bad = true ∨ w.data.length ≠ w.total → exec .endWindow s =
          .next { s with fw := { s.fw with win := { w with isOpen := false, bad := false, result := 2 } } }))) ∧
    (w.busy = true → s.running Isl.seal = true → windowMode s = true → leField (bootBytes s) 4 8 + 3 < 2 ^ 64 →
      ∀ (back : List Byte) (r : Nat),
      r = (match loadedItem w with
        | none => 2
        | some b =>
          if w.layer = 3 then (if (admission s ⟨Memory.ofBytes b, b.length⟩).isSome then 9 else if hostLoading s then 0 else
            if padTo b.length back = b then 0 else 8)
          else if w.layer = 0 then 3 else if verifyStep s w.layer b ≠ 0 then 2 + verifyStep s w.layer b else
            if hostLoading s then 0 else if verifyStep s w.layer (padTo b.length back) = 0 then 0 else 8) →
      ∃ t, exec (.windowVerifyComplete back) s = .next t ∧ t.fw.win = { w with busy := false, result := r, data := [] } ∧
        t.aud = (if s.aud.pend then { s.aud with pend := false, st := .ready (loadCode r) (leBytes 1 r) } else s.aud) ∧
        (r ≠ 0 → r ≠ 8 → t = { s with fw := { s.fw with win := t.fw.win }, aud := t.aud }) ∧
        (r = 0 → ∀ b, loadedItem w = some b →
          (hostLoading s = true → t.fw.flash = s.fw.flash ∧ t.rtc = s.rtc ∧ (w.layer = 1 → t.fw.hostMet = some b) ∧
            (w.layer = 2 → t.fw.hostCtl = some b) ∧ (w.layer = 3 → t.fw.hostImage = some ⟨Memory.ofBytes b, b.length⟩)) ∧
          (hostLoading s = false → t.rtc = { s.rtc with starts := 0 } ∧ (w.layer = 1 ∨ w.layer = 2 →
            activeSlot t w.layer = (!(activeSlot s w.layer)) ∧ slotState t w.layer (!(activeSlot s w.layer)) = 1 ∧
            layerTrial t w.layer = false))))

/-- The auditor port (R360, R361, R298). A whole request to the idle port is answered as its CMD says: IDENT, AUDITOR_READ, RECOVER in
every mode, AUDITOR_ATTEST while SEAL runs, LOAD_BEGIN, LOAD_DATA and LOAD_END in pilot-light mode and under the recovery loader, else
with 0x05; a payload out of its range with 0x02, an unknown CMD with 0x01, a wrong LEN or CRC with 0x03; while the port is not idle a
request is discarded. AUDITOR_POLL shifts the response out with its CRC and drops it; one cut short leaves it; after the response of
RECOVER, PILOT_REQ is set and source 14 asserts.
Details of the port are the model's reading (log entry 102). -/
def Obligations.AuditorPort : Prop :=
  ∀ s : State, portServed s = true →
   (∀ req p : List Byte, leField req 0 1 = 0x5A → p = requestPayload req →
     (s.aud.st ≠ .idle → ∀ c ∈ [Instr.ident req, .auditorRead req, .auditorAttest req, .recover req, .loadBegin req, .loadData req,
       .loadEnd req], exec c s = .next s) ∧
     (s.aud.st = .idle → ∀ bad, bad = { s with aud := { s.aud with st := .ready 2 [] } } →
       (requestWhole req = false → ∀ c ∈ [Instr.ident req, .auditorRead req, .auditorAttest req, .recover req, .loadBegin req,
         .loadData req, .loadEnd req], exec c s = .next { s with aud := { s.aud with st := .ready 3 [] } }) ∧
       (requestWhole req = true → leField req 1 1 ∉ [0x01, 0x02, 0x03, 0x04, 0x10, 0x11, 0x12] → ∀ c ∈ [Instr.ident req,
         .auditorRead req, .auditorAttest req, .recover req, .loadBegin req, .loadData req, .loadEnd req],
         exec c s = .next { s with aud := { s.aud with st := .ready 1 [] } }) ∧
       (requestWhole req = true →
         (leField req 1 1 = 0x01 → (p ≠ [] → exec (.ident req) s = .next bad) ∧ (p = [] → exec (.ident req) s =
           .next { s with aud := { s.aud with
             st := .ready 0 (deviceId ++ leBytes 4 0xB1600001 ++ leBytes 1 (modeCode s) ++ leBytes 1 (sealState s).code) } })) ∧
         (leField req 1 1 = 0x02 → ∀ a n, a = leField p 0 4 → n = leField p 4 2 →
           (p.length = 6 → 1 ≤ n → n ≤ 4096 → a + n ≤ 0x72000 → exec (.auditorRead req) s =
             .next { s with aud := { s.aud with st := .ready 0 (s.ember.readStore a n) } }) ∧
           (p.length ≠ 6 ∨ n = 0 ∨ 4096 < n ∨ 0x72000 < a + n → exec (.auditorRead req) s = .next bad)) ∧
         (leField req 1 1 = 0x03 →
           (s.running Isl.seal = true → p.length = 32 → exec (.auditorAttest req) s =
             .next { s with aud := { s.aud with st := .ready 0 (attestation s p 1) } }) ∧
           (s.running Isl.seal = true → p.length ≠ 32 → exec (.auditorAttest req) s = .next bad) ∧
           (s.running Isl.seal = false → exec (.auditorAttest req) s = .next { s with aud := { s.aud with st := .ready 5 [] } })) ∧
         (leField req 1 1 = 0x04 →
           (p = leBytes 4 0xB160A0D1 → exec (.recover req) s = .next { s with aud := { s.aud with st := .ready 0 [], recover := true } }) ∧
           (p ≠ leBytes 4 0xB160A0D1 → exec (.recover req) s = .next bad)) ∧
         (recoveryMode s = false → ∀ c, (leField req 1 1 = 0x10 ∧ c = Instr.loadBegin req ∨ leField req 1 1 = 0x11 ∧ c = .loadData req ∨
           leField req 1 1 = 0x12 ∧ c = .loadEnd req) → exec c s = .next { s with aud := { s.aud with st := .ready 5 [] } }) ∧
         (recoveryMode s = true → ∀ w, w = s.fw.win →
           (leField req 1 1 = 0x10 →
             (p.length = 5 → 1 ≤ leField p 0 1 → leField p 0 1 ≤ 3 → w.busy = false → w.isOpen = false ∨ w.auditor = true →
               exec (.loadBegin req) s = .next { s with
                 aud := { s.aud with st := .ready 0 [] },
                 fw := { s.fw with win := Loader.mk (leField p 0 1) (leField p 1 4) [] true false true false 0 } }) ∧
             (p.length ≠ 5 ∨ leField p 0 1 = 0 ∨ 3 < leField p 0 1 ∨ w.busy = true ∨ (w.isOpen = true ∧ w.auditor = false) →
               exec (.loadBegin req) s = .next bad)) ∧
           (leField req 1 1 = 0x11 → ∀ off b, off = leField p 0 4 → b = p.drop 4 →
             (4 ≤ p.length → b.length ≤ 4096 → w.isOpen = true → w.auditor = true → off ≤ w.data.length → off + b.length ≤ w.total →
               exec (.loadData req) s = .next { s with
                 aud := { s.aud with st := .ready 0 [] },
                 fw := { s.fw with win := { w with data := w.data.take off ++ b ++ w.data.drop (off + b.length) } } }) ∧
             (p.length < 4 ∨ 4096 < b.length ∨ w.isOpen = false ∨ w.auditor = false ∨ w.data.length < off ∨ w.total < off + b.length →
               exec (.loadData req) s = .next bad)) ∧
           (leField req 1 1 = 0x12 →
             (p ≠ [] ∨ w.isOpen = false ∨ w.auditor = false → exec (.loadEnd req) s = .next bad) ∧
             (p = [] → w.isOpen = true → w.auditor = true →
               (w.bad = false → w.data.length = w.total → exec (.loadEnd req) s = .next { s with
                 aud := { s.aud with st := .busy, pend := true },
                 fw := { s.fw with win := { w with isOpen := false, busy := true } } }) ∧
               (w.busy = false → w.bad = true ∨ w.data.length ≠ w.total → exec (.loadEnd req) s = .next { s with
                 aud := { s.aud with st := .ready 2 (leBytes 1 2) },
                 fw := { s.fw with win := { w with isOpen := false, bad := false, result := 2 } } }))))))) ∧
   (∀ (code : Nat) (data out : List Byte), s.aud.st = .ready code data →
     out = leBytes 1 2 ++ withCrc (leBytes 1 code ++ leBytes 2 data.length ++ data) →
     exec (.auditorPoll true) s = .next { s with aud := { s.aud with out := out.take 1 } } ∧
     (s.aud.recover = false → exec (.auditorPoll false) s =
       .next { s with aud := { s.aud with out := out, st := .idle, recover := false } }) ∧
     (s.aud.recover = true → exec (.auditorPoll false) s =
       .next (assertSource 14 { s with aud := { s.aud with out := out, st := .idle, recover := false },
                                       rtc := { s.rtc with pilotReq := true } }))) ∧
   (s.aud.st = .idle → exec (.auditorPoll false) s = .next { s with aud := { s.aud with out := leBytes 1 0 } }) ∧
   (s.aud.st = .busy → exec (.auditorPoll false) s = .next { s with aud := { s.aud with out := leBytes 1 1 } })

/-! The metrology plane. -/

/-- FRAME_BOUNDARY (R41, R85). Where the frames of the grid run, a frame ends and the next one starts: the frame number advances modulo
10 000 and the beat stays; outside the metrology plane, the link, the rings and the registers nothing changes, and where no capture's
write fails the fault collector, EMBER and DRAM do not either. Before that only the FRAME-class fields take effect (R12), and while
CONV is not running nothing does.
That one command does the work of the frame is the model's choice (log entry 84). -/
def Obligations.FrameAdvances : Prop :=
  ∀ (fc : FrameCodes) (s : State),
    (s.running Isl.conv = true → s.framesRun = true → ∃ t, exec (.frameBoundary fc) s = .next t ∧
      t = { s with regs := t.regs, hearth := t.hearth, flue := t.flue, chain := t.chain, window := t.window, evals := t.evals,
                   point := t.point, pulse := t.pulse, spectral := t.spectral, events := t.events, session := t.session,
                   host := t.host, link := t.link, fault := t.fault, ember := t.ember, dram := t.dram,
                   damper := { s.damper with frame := (s.damper.frame + 1) % 10000 } } ∧
      (CapWrite.failed ∉ fc.caps → t.fault = s.fault ∧ t.ember = s.ember ∧ t.dram = s.dram)) ∧
    (s.running Isl.conv = true → s.framesRun = false → ∃ t, exec (.frameBoundary fc) s = .next t ∧
      t = { s with regs := t.regs, hearth := t.hearth, flue := t.flue }) ∧
    (s.running Isl.conv = false → exec (.frameBoundary fc) s = .next s)

/-- BEAT_BOUNDARY and ROUND_BOUNDARY (R22, R180, R223): while the frames of the grid run the beat advances, the frame starts at 0 and
the latch takes the RTC count; the link changes only with an image that a round boundary decides on, and the auditor port, the clocks,
DRAM and the pins never. MAILBOX_LATCH at the last frame of a beat latches the entries posted so far and, in the last beat of a round, a
pending activation (R208); at another frame it does nothing.
The order of the two commands of that instant is the model's choice (log entry 84). -/
def Obligations.BeatsAndMailbox : Prop :=
  (∀ (refs : Vector Nat 8) (s : State), ∀ c ∈ [Instr.beatBoundary refs, Instr.roundBoundary refs],
     (s.framesRun = true → ∃ t, exec c s = .next t ∧ t.damper.beat = s.damper.beat + 1 ∧ t.damper.frame = 0 ∧
       t.damper.rtc = s.rtc.count ∧ t.damper.rtcBefore = s.damper.rtc ∧ t.aud = s.aud ∧ t.clk = s.clk ∧ t.dram = s.dram ∧
       t.pins = s.pins ∧ (c = .beatBoundary refs ∨ s.damper.latchedAct = false → t.link = s.link)) ∧
     (s.framesRun = false → exec c s = .next s)) ∧
  (∀ s : State, s.active = true →
     (s.damper.frame = 9999 → exec .mailboxLatch s =
       .next { s with damper := { s.damper with
         latched := s.damper.mailbox.length,
         latchedAct := s.damper.latchedAct || (s.damper.pending && decide (s.damper.beat % 1000 = 999)) } }) ∧
     (s.damper.frame ≠ 9999 → exec .mailboxLatch s = .next s))

/-- PUBLICATION_CYCLE publishes the beat that has ended, once (R26, R27, R128, R129, R247): every point window and the session window
are written and flip, with the number of that beat; the registers of a point that was METERING in it grow by the rounded increments,
every other point's stay; the session window holds the sessions as they then are. Outside METRO, EMBER and the registers nothing
changes. A cycle of a beat already published, or of the first beat of an epoch, changes nothing but EMBER, and one while the plane does
not meter nothing at all. -/
def Obligations.PublicationFlips : Prop :=
  ∀ (s : State) (b : Nat), b = s.damper.beat - 1 →
    (s.metering = true → s.damper.beat ≠ s.ember.firstBeat → s.ember.lastPub ≠ some b →
      ∃ t, exec .publicationCycle s = .next t ∧ t.ember.lastPub = some b ∧ t.ember.half = (!s.ember.half) ∧
        (if t.ember.half then t.ember.half1 else t.ember.half0).beat = b ∧
        (if t.ember.half then t.ember.half1 else t.ember.half0).sessions = t.session ∧
        (∀ (p : Fin 32) a, a = (s.pointAt p).closing → (t.pointAt p).half = (!(s.pointAt p).half) ∧
          (if (t.pointAt p).half then (t.pointAt p).half1 else (t.pointAt p).half0) =
            pointWindow s.imgOfBeat p b a.state a.doubt a (t.pointAt p).regs ∧
          (a.state = .metering ∧ s.imgOfBeat.isUsed p = true → ∀ inc, inc = ((s.pointAt p).round
            ((a.energies s.imgOfBeat p).increments (s.imgOfBeat.isDC p))).1 →
            ∀ k : Fin 9, (t.pointAt p).regs[k] = (s.pointAt p).regs[k] + inc[k]) ∧
          (a.state ≠ .metering ∨ s.imgOfBeat.isUsed p = false → (t.pointAt p).regs = (s.pointAt p).regs)) ∧
        t = { s with regs := t.regs, point := t.point, pulse := t.pulse, events := t.events, session := t.session,
                     ember := t.ember }) ∧
    (s.metering = true → s.damper.beat = s.ember.firstBeat ∨ s.ember.lastPub = some b →
      ∃ t, exec .publicationCycle s = .next t ∧ t = { s with ember := t.ember } ∧ t.ember.half = s.ember.half) ∧
    (s.metering = false → exec .publicationCycle s = .next s)

/-- RECORD_ISSUE (R221, R224, R227, R234): the first due record, once complete, becomes the queue entry of the next SEQ; while the queue
is LOW one of a type that may be skipped is counted and dropped, and while it is GATED a FW_CHANGE is dropped (it falls due again); a
full queue, a record that is not complete and a controller that is held or not running keep it waiting. RECORD_SIGNED (R225, R226): the
signature of the next entry to sign is posted to the mailbox, where there is room. BANKING_WRITE (R196, R236): a bank that is due goes
to the area that does not hold the newest valid one; one that is cut short leaves the sequence and the records that are due.
Which record is ready, and which is signed, are the model's reading (log entries 62, 63). -/
def Obligations.RecordsIssued : Prop :=
  ∀ s : State,
    (s.ember.due = [] → exec .recordIssue s = .next s) ∧
    (∀ r rest, s.ember.due = r :: rest →
      (s.running Isl.ember = false ∨ s.layerHeld = true ∨ r.ready = false → exec .recordIssue s = .next s) ∧
      (s.running Isl.ember = true → s.layerHeld = false → r.ready = true →
        (s.ember.low = true → r.type.skippable = true → ∃ t, exec .recordIssue s = .next t ∧
          t.ember = { s.ember with due := rest, skipped := min (s.ember.skipped + 1) (2 ^ 32 - 1) } ∧
          t = { s with ember := t.ember, session := t.session }) ∧
        (s.ember.gated = true → r.type = .fwChange → exec .recordIssue s =
          .next { s with ember := { s.ember with due := rest } }) ∧
        (s.ember.low = false ∨ r.type.skippable = false → s.ember.gated = false ∨ r.type ≠ .fwChange →
          (s.ember.free = 0 → exec .recordIssue s = .next s) ∧
          (s.ember.free ≠ 0 → ∃ t, exec .recordIssue s = .next t ∧ t.ember.nextSeq = s.ember.nextSeq + 1 ∧ t.ember.due = rest ∧
            t.ember.bytes (entryOff s.ember.nextSeq) 320 = entryBytes r s.ember.nextSeq ∧
            t = { s with ember := t.ember, session := t.session, host := t.host })))) ∧
    (s.ctrlServes = true → s.running Isl.seal = true → s.running Isl.ember = true → s.rst.pilot = false →
      (∀ q r, toSign s = some (q, r) →
        (s.mailRoom → exec .recordSigned s = .next (s.posted (.sign q (s.ember.sigFor q) r) none)) ∧
        (64 ≤ s.damper.mailbox.length → exec .recordSigned s = .next s)) ∧
      (toSign s = none → exec .recordSigned s = .next s)) ∧
    (bankDue s = false → ∀ cut, exec (.bankingWrite cut) s = .next s) ∧
    (bankDue s = true → ∀ cut, ∃ t, exec (.bankingWrite cut) s = .next t ∧ t = { s with ember := t.ember } ∧
      t.ember.nextSeq = s.ember.nextSeq ∧ t.ember.due = s.ember.due ∧
      (cut = none → t.ember.bankBeat = publishedBeat s ∧
        t.ember.area = (match s.ember.newestArea with | some b => !b | none => false)))

/-- Power fail and final banks (R240, R241, R405). PFW_N and POWER_FAIL_MONITOR follow their level; the first fall of one that is fused
freezes EMBER with its cause and the last published beat and aborts the panels; where there is nothing to bank it aborts the panels
only. MARKER_WRITTEN ends the trigger's writing: the metrology islands of a waiting episode enter reset, or the EMBER kept through POR
or BOR_CORE, and a metrology firmware activation goes on. FINAL_BANK_WAIT_TIMEOUT: after 1 ms the islands enter reset without a marker.
POWER_FAIL_TRIGGER_END: a supply trigger that has passed restarts by source 3, and one that has not leaves everything. -/
def Obligations.FinalBanks : Prop :=
  (∀ (s u : State) (low en was : Bool) (cause : Nat) (c : Instr),
     (c = .pfwN low ∧ u = { s with pins := { s.pins with pfw := low } } ∧ en = pinEn s ∧ was = s.pins.pfw ∧ cause = 0 ∨
      c = .powerFailMonitor low ∧ u = { s with pins := { s.pins with vddIo33Low := low } } ∧ en = monEn s ∧
        was = s.pins.vddIo33Low ∧ cause = 1) →
     (low = false ∨ was = true ∨ en = false → exec c s = .next u) ∧
     (low = true → was = false → en = true →
       (canBank s = true → s.ember.trigger.isSome = true → exec c s = .next u) ∧
       (canBank s = false ∨ s.ember.trigger = none → ∃ t, exec c s = .next t ∧ t = { u with mantel := t.mantel, ember := t.ember } ∧
         t.ember = (if canBank s then { s.ember with
           trigger := some { cause := cause, source := 0, beat := publishedBeat s, done := false } } else s.ember) ∧
         ∀ p v, p < 4 → (s.portAt p).phase = .rising v ∨ (s.portAt p).phase = .scanning v →
           (t.portAt p).phase = .idle ∧ (t.portAt p).hven = false ∧ (t.portAt p).aborted = true))) ∧
  (∀ s : State,
     (s.ember.trigger = none ∨ s.running Isl.ember = false → exec .markerWritten s = .next s) ∧
     (∀ x, s.ember.trigger = some x →
       (x.done = true → exec .markerWritten s = .next s) ∧
       (x.done = false → s.running Isl.ember = true →
         (∀ b, (finalBank s).ember.newestArea = some b → s.rst.episode = none →
           ∃ t, exec .markerWritten s = .next t ∧ t = { s with ember := t.ember } ∧
             t.ember.trigger = (if s.fw.hold.isSome then none else some { x with done := true })) ∧
         (∀ e, s.rst.episode = some e →
           (e.waiting = true → ∃ t, exec .markerWritten s = .next t ∧ t.rst.episode = some { e with waiting := false } ∧
             ∀ i ∈ [Isl.sys, Isl.conv, Isl.flue, Isl.metro, Isl.ember], t.island i = .inReset) ∧
           (e.waiting = false → e.bank = true → ∃ t, exec .markerWritten s = .next t ∧
             t.rst.episode = some { e with bank := false } ∧ t.island Isl.ember = .inReset)))) ∧
     (∀ e, s.rst.episode = some e →
       (e.waiting = true → 100000 ≤ e.deep.getD 0 → ∃ t, exec .finalBankWaitTimeout s = .next t ∧
         t.rst.episode = some { e with waiting := false } ∧
         ∀ i ∈ [Isl.sys, Isl.conv, Isl.flue, Isl.metro, Isl.ember], t.island i = .inReset) ∧
       (e.waiting = false ∨ e.deep.getD 0 < 100000 → exec .finalBankWaitTimeout s = .next s)) ∧
     (∀ x passed, s.ember.trigger = some x →
       passed = decide ((s.pins.pfw = false ∨ pinEn s = false) ∧ (s.pins.vddIo33Low = false ∨ monEn s = false)) →
       (x.cause ≤ 1 → x.done = true → s.rst.episode = none → s.rst.release = none → passed = true →
         Begins 3 (sourceLevel s 3) 0 (exec .powerFailTriggerEnd s)) ∧
       (1 < x.cause ∨ x.done = false ∨ s.rst.episode.isSome = true ∨ passed = false → exec .powerFailTriggerEnd s = .next s)))

/-! Hearths and flue. -/

/-- The hearths' commands (R56, R67 to R70, R78), while the hearths run. OVERRANGE of an enabled input sets its HEARTH_OVR bit and the
HEARTH_NSUSP bit of the input in the next slot, and marks the flue's next 24 wide-stream samples of it; of a disabled one it does nothing.
REF_TIMEOUT fails a kindling that waits for the reference, with cause 1. REBUILD_COMPLETE: a bank that meets R67 becomes active (at
start-up bank 0 and then bank 1, after which the hearth passes where both converters are done; in the background the other bank, which
counts a swap and clears the failures and the doubtful mark); one that does not meet it changes nothing. REBUILD_TIMEOUT: a start-up
rebuild without any bank that met R67 fails the kindling with its cause, one with bank 0 ends; a background rebuild counts, and the third
failure makes the converter doubtful. BACKGROUND_REKINDLE starts both converters' rebuilds after PASS where the period is not 0. RETRY
kindles the named hearths that are in FAIL, and no other. -/
def Obligations.HearthCommands : Prop :=
  ∀ (h : Fin 8) (s : State), s.hearthRunning = true →
    (∀ n : Fin 16,
      ((s.img.mask h).testBit n = true → ∃ t, exec (.overrange h n) s = .next t ∧
        t = { s with regs := t.regs, hearth := t.hearth, chain := t.chain } ∧
        (t.hearthAt h).ovrNow = setBitN (s.hearthAt h).ovrNow n true ∧ bitOf (t.reg (0x10020 + 0x1000 * h)) n = true ∧
        (∀ j, s.img.nextInSlot h n = some j → j < 16 → bitOf (t.reg (0x10024 + 0x1000 * h)) j = true) ∧
        (s.running Isl.flue = true → (t.chainAt (16 * h + n)).clampLeft = 24)) ∧
      ((s.img.mask h).testBit n = false → exec (.overrange h n) s = .next s)) ∧
    ((s.hearthAt h).kindle = .running → (s.hearthAt h).waitRef = true → ∃ t, exec (.refTimeout h) s = .next t ∧
      t = { s with hearth := t.hearth, fault := t.fault, ember := t.ember, host := t.host } ∧
      (t.hearthAt h).kindle = .fail ∧ (t.hearthAt h).cause = 1) ∧
    ((s.hearthAt h).kindle ≠ .running ∨ (s.hearthAt h).waitRef = false → exec (.refTimeout h) s = .next s) ∧
    (∀ (wit : Bool) (a : Rebuilt) (c o : Converter), c = (s.hearthAt h).conv wit → o = (s.hearthAt h).conv (!wit) →
      (a.good = false → exec (.rebuildComplete h wit a) s = .next s) ∧
      (a.good = true → c.rebuild ≠ .none → ∃ t, exec (.rebuildComplete h wit a) s = .next t ∧ t = { s with hearth := t.hearth } ∧
        ((t.hearthAt h).conv wit).table = a.table ∧ (t.hearthAt h).conv (!wit) = o ∧
        (c.rebuild = .background → ((t.hearthAt h).conv wit).active = (!c.active) ∧ ((t.hearthAt h).conv wit).bgFails = 0 ∧
          ((t.hearthAt h).conv wit).doubtful = false ∧ ((t.hearthAt h).conv wit).rebuild = .none ∧
          (t.hearthAt h).swaps = ((s.hearthAt h).swaps + 1) % 65536 ∧ (t.hearthAt h).kindle = (s.hearthAt h).kindle) ∧
        (∀ b, c.rebuild = .startup b → ((t.hearthAt h).conv wit).met = true ∧ ((t.hearthAt h).conv wit).active = b ∧
          ((t.hearthAt h).conv wit).rebuild = (if b then .none else .startup true)) ∧
        (c.rebuild = .startup true → (s.hearthAt h).kindle = .running → (s.hearthAt h).waitRef = false →
          (t.hearthAt h).kindle = (if o.rebuild = .none ∧ o.met = true then .pass else .running)) ∧
        (c.rebuild = .startup false → (t.hearthAt h).kindle = (s.hearthAt h).kindle)) ∧
      (c.rebuild ≠ .none → ∃ t, exec (.rebuildTimeout h wit a) s = .next t ∧
        t = { s with hearth := t.hearth, fault := t.fault, ember := t.ember, host := t.host } ∧
        (∀ b, c.rebuild = .startup b →
          (c.met = false → (t.hearthAt h).kindle = .fail ∧ (t.hearthAt h).cause = a.cause) ∧
          (c.met = true → ((t.hearthAt h).conv wit) = { c with rebuild := .none } ∧ t = { s with hearth := t.hearth } ∧
            ((s.hearthAt h).kindle = .running → (s.hearthAt h).waitRef = false →
              (t.hearthAt h).kindle = (if o.rebuild = .none ∧ o.met = true then .pass else .running)))) ∧
        (c.rebuild = .background → ((t.hearthAt h).conv wit).bgFails = min (c.bgFails + 1) 3 ∧
          ((t.hearthAt h).conv wit).active = c.active ∧ (t.hearthAt h).kindle = (s.hearthAt h).kindle ∧
          (t.hearthAt h).cause = a.cause ∧ (2 ≤ c.bgFails → ((t.hearthAt h).conv wit).doubtful = true)))) ∧
    ((s.hearthAt h).kindle = .pass → s.img.bgPeriod ≠ 0 → ∃ t, exec (.backgroundRekindle h) s = .next t ∧
      t = { s with hearth := t.hearth } ∧ (t.hearthAt h).main = { (s.hearthAt h).main with rebuild := .background } ∧
      (t.hearthAt h).wit = { (s.hearthAt h).wit with rebuild := .background }) ∧
    ((s.hearthAt h).kindle ≠ .pass ∨ s.img.bgPeriod = 0 → exec (.backgroundRekindle h) s = .next s) ∧
    (∀ mask : BitVec 8, ∃ t, exec (.retry mask) s = .next t ∧ t = { s with hearth := t.hearth } ∧ ∀ k : Fin 8,
      ((mask.toNat.testBit k = true ∧ (s.hearthAt k).kindle = .fail) → (t.hearthAt k).kindle = .running ∧ (t.hearthAt k).cause = 0) ∧
      (¬(mask.toNat.testBit k = true ∧ (s.hearthAt k).kindle = .fail) → t.hearthAt k = s.hearthAt k))

/-- TAP_LATCH (R72, R73): of the codes of the tapped input every 2^n-th is latched, n being TAP_DEC and at most 16: the code clamped to 14
bits with CLAMP, NSUSP, the next SEQ and NEW, and TAP_OVR where the one before had not been read; the others only count. A tap that is
off, of a disabled input, or of a witness that dwells elsewhere latches nothing.
Which code is the first one kept, and the first SEQ, are the model's reading (log entry 74). -/
def Obligations.TapLatches : Prop :=
  ∀ (h : Fin 8) (code : Int) (s : State) (x : Tap), x = (s.hearthAt h).tap →
    (tapLive s h = false → exec (.tapLatch h code) s = .next s) ∧
    (tapLive s h = true → x.count + 1 ≠ 2 ^ min (fieldOf x.ctl 12 8) 16 → ∃ t, exec (.tapLatch h code) s = .next t ∧
      t = { s with hearth := t.hearth } ∧ (t.hearthAt h).tap = { x with count := x.count + 1 }) ∧
    (tapLive s h = true → x.count + 1 = 2 ^ min (fieldOf x.ctl 12 8) 16 →
      ∃ t, exec (.tapLatch h code) s = .next t ∧ t = { s with regs := t.regs, hearth := t.hearth } ∧
        (t.hearthAt h).tap = { x with data := (t.hearthAt h).tap.data, seq := (x.seq + 1) % 256, count := 0 } ∧
        bitOf (t.hearthAt h).tap.data 31 = true ∧ fieldOf (t.hearthAt h).tap.data 23 16 = (x.seq + 1) % 256 ∧
        bitOf (t.hearthAt h).tap.data 15 = ((s.hearthAt h).nsusp s.img h).testBit (fieldOf x.ctl 7 4) ∧
        (-8192 ≤ code → code ≤ 8191 →
          bitOf (t.hearthAt h).tap.data 14 = false ∧ (fieldOf (t.hearthAt h).tap.data 13 0 : Int) = code % 16384) ∧
        (code < -8192 → bitOf (t.hearthAt h).tap.data 14 = true ∧ fieldOf (t.hearthAt h).tap.data 13 0 = 8192) ∧
        (8191 < code → bitOf (t.hearthAt h).tap.data 14 = true ∧ fieldOf (t.hearthAt h).tap.data 13 0 = 8191) ∧
        (bitOf x.data 31 = true → bitOf (t.reg (0x10048 + 0x1000 * h)) 0 = true) ∧
        (bitOf x.data 31 = false → t.regs = s.regs))

/-- The flue's commands (R95, R96, R101 to R104), while FLUE runs. FLUE_BANK_DATA: a coefficient goes to the bank not in use at ADDR,
which advances; while no bank is writable it is ignored and sets BANK_WRITE_LOCKED. SWAP requests a swap. BANK_HASH_COMPLETE: a target
that feeds a billing stream and is not in the image's list ends the swap with DIGEST_REFUSED, any other is hashed. SWAP_COMPLETE: once
every stream has faded the target is active, the swap is counted and a queued one starts. FILL_END and INTEGRATOR_FILL_END end the fill
marks. TRACKER_CROSSING reports a crossing that the tracker has found, and drops one that does not lie after the last. -/
def Obligations.FlueCommands : Prop :=
  ∀ (h : Fin 8) (s : State), s.running Isl.flue = true →
    (∀ v : Word,
      ((s.flueAt h).swap = none → (s.flueAt h).queued = false → ∀ a, a = s.fld (0x18038 + 0x1000 * h) 11 0 →
        ∃ t, exec (.flueBankData h v) s = .next t ∧ t = { s with regs := t.regs, flue := t.flue } ∧
          (t.flueAt h).bank (s.flueAt h).active = (s.flueAt h).bank (s.flueAt h).active ∧
          Sparse.get (fun _ => 0) ((t.flueAt h).bank (!(s.flueAt h).active)) a = v.setWidth 24 ∧
          (∀ b, b ≠ a → Sparse.get (fun _ => 0) ((t.flueAt h).bank (!(s.flueAt h).active)) b =
            Sparse.get (fun _ => 0) ((s.flueAt h).bank (!(s.flueAt h).active)) b) ∧
          t.fld (0x18038 + 0x1000 * h) 11 0 = (a + 1) % 4096) ∧
      ((s.flueAt h).swap ≠ none ∨ (s.flueAt h).queued = true →
        exec (.flueBankData h v) s = .next (s.setReg (0x18034 + 0x1000 * h) (s.reg (0x18034 + 0x1000 * h) ||| 32))) ∧
      (∃ t, exec (.swap h v) s = .next t ∧ t = { s with regs := t.regs, flue := t.flue } ∧
        t.flueAt h = { s.flueAt h with swapReq := (s.flueAt h).swapReq || bitOf v 0 })) ∧
    ((s.flueAt h).swap = none → exec (.bankHashComplete h) s = .next s ∧ exec (.swapComplete h) s = .next s) ∧
    (∀ sw, (s.flueAt h).swap = some sw →
      (sw.hashed = true → exec (.bankHashComplete h) s = .next s) ∧
      (sw.hashed = false → ∃ t, exec (.bankHashComplete h) s = .next t ∧
        t = { s with regs := t.regs, flue := t.flue, chain := t.chain } ∧
        (s.img.feedsBilling h = false ∨ ((s.flueAt h).bankMatch s.img h sw.target).isSome = true →
          t.flueAt h = { s.flueAt h with swap := some { sw with hashed := true } } ∧ t.regs = s.regs) ∧
        (s.img.feedsBilling h = true → (s.flueAt h).bankMatch s.img h sw.target = none →
          t.flueAt h = (s.flueAt h).endSwap ∧ bitOf (t.reg (0x18034 + 0x1000 * h)) 6 = true)) ∧
      (swapDone s h sw = false → exec (.swapComplete h) s = .next s) ∧
      (swapDone s h sw = true → ∃ t, exec (.swapComplete h) s = .next t ∧ t = { s with flue := t.flue } ∧
        t.flueAt h = { s.flueAt h with active := sw.target, swaps := ((s.flueAt h).swaps + 1) % 65536 }.endSwap)) ∧
    (∃ t, exec (.fillEnd h) s = .next t ∧ t = { s with flue := t.flue, chain := t.chain } ∧
      t.flueAt h = { s.flueAt h with filling := false } ∧ ∀ n : Fin 16, (t.chainAt (16 * h + n)).newFill = false) ∧
    (∀ n : Fin 128, exec (.integratorFillEnd n) s = .next (s.updChain n fun c => { c with intFill := false })) ∧
    (∀ (pos : Nat) (k : Tracker), s.engineRunning = true → s.img.trkEn h = true →
      k = { (s.flueAt h).tracker with found := (s.flueAt h).tracker.found.filter fun p => decide (pos < p) } →
      (pos ∉ (s.flueAt h).tracker.found → exec (.trackerCrossing h pos) s = .next s) ∧
      (pos ∈ (s.flueAt h).tracker.found → (∃ p, k.last = some p ∧ pos ≤ p) → ∃ t, exec (.trackerCrossing h pos) s = .next t ∧
        t = { s with flue := t.flue } ∧ t.flueAt h = { s.flueAt h with tracker := k }) ∧
      (pos ∈ (s.flueAt h).tracker.found → (∀ p, k.last = some p → p < pos) → ∃ t, exec (.trackerCrossing h pos) s = .next t ∧
        t = { s with flue := t.flue, events := t.events, session := t.session } ∧
        t.flueAt h = { s.flueAt h with tracker := k.cross pos }))

/-! Spectra, events, pulses. -/

/-- The spectral channels (R148, R150 to R156, R158, R159). CYCLE_CLOSE: a crossing of the locked tracker closes the open cycle nearest to
it: within 200 ppm the cycle is confirmed and hands its offset on; otherwise, while the window has a redo left and the ash buffer
holds the cycle, it is squashed and made again and the next one starts at the crossing; else it is confirmed as run. CYCLE_TIMEOUT
closes the oldest of twelve. HARMONIC_WINDOW_CLOSE gives a closed window its spectrum. HARMONIC_PUBLICATION writes the half that is not
published and publishes it, with ESTIMATED where the window is not final or carries a flag. SUPRAHARMONIC_BLOCK adds a block to every
channel of the image once its samples are formed. SUPRAHARMONIC_INTERVAL_PUBLICATION publishes a finished interval once its delay has
passed. SPECTRAL_RESTART_END ends the mark of a DRAM restart.
Details of the windows are the model's reading (log entry 79). -/
def Obligations.SpectralChannels : Prop :=
  (∀ (ch : Fin 48) (s : State), s.spectralRuns = true → ch.val ∈ s.img.harmChans →
     (∀ (pos lm : Nat) (ecc : Option Word) (k : Tracker),
       k = (s.flueAt (s.img.trkSel (s.img.harmInput ch))).tracker →
       (k.locked = false ∨ k.last ≠ some pos ∨ (s.harmAt ch).nearest pos = none → exec (.cycleClose ch pos ecc) s = .next s) ∧
       (k.locked = true → k.last = some pos → k.measured = some lm → ∀ (c : Cycle) (e : Int), (s.harmAt ch).nearest pos = some c →
         e = (c.start + c.len : Nat) - (pos : Int) →
         (5000 * e.natAbs ≤ lm → ∃ t, exec (.cycleClose ch pos ecc) s = .next t ∧ t = { s with spectral := t.spectral } ∧
           (t.harmAt ch).offset = e ∧ (∀ j, j ≠ ch.val → t.harmAt j = s.harmAt j) ∧ t.spectral.squashes = s.spectral.squashes) ∧
         (lm < 5000 * e.natAbs → ∀ (v : Window) (redo : Bool), v = (s.harmAt ch).window (c.num / s.img.harmM ch) →
           redo = (decide (v.redos < 2) && s.ashUp && !s.spectral.restart &&
             !(s.harmAt ch).published (s.img.harmM ch) (c.num / s.img.harmM ch) &&
             decide (resampleBase ((pos - lm) * 1024 + 1023 * lm) + 12 ≤ newestWide s.gridFrame) &&
             decide (newestWide s.gridFrame + 1 - (resampleBase ((pos - lm) * 1024) - 11) ≤ (s.harmAt ch).ash.length)) →
           (redo = true → ∃ t, exec (.cycleClose ch pos ecc) s = .next t ∧
             t = { s with spectral := t.spectral, chain := t.chain, dram := t.dram, fault := t.fault, ember := t.ember,
                          host := t.host } ∧
             t.spectral.squashes = (s.spectral.squashes + 1) % 2 ^ 32 ∧ t.spectral.redos = (s.spectral.redos + 1) % 2 ^ 32 ∧
             (t.harmAt ch).offset = 0 ∧ (t.harmAt ch).next = c.num + 2 ∧ (∀ j, j ≠ ch.val → t.harmAt j = s.harmAt j) ∧
             (s.img.harmInput ch < 128 → (t.chainAt (s.img.harmInput ch)).rs.start = pos ∧
               (t.chainAt (s.img.harmInput ch)).rs.len = lm ∧ (t.chainAt (s.img.harmInput ch)).rs.k = 0) ∧
             (ecc = none → t.dram = s.dram ∧ t.fault = s.fault ∧ t.ember = s.ember ∧ t.host = s.host) ∧
             (∀ a, ecc = some a → t.dram.eccAddr = a ∧ t.dram.uncorr = min (s.dram.uncorr + 1) (2 ^ 32 - 1))) ∧
           (redo = false → ∃ t, exec (.cycleClose ch pos ecc) s = .next t ∧ t = { s with spectral := t.spectral } ∧
             t.spectral.squashes = (s.spectral.squashes + 1) % 2 ^ 32 ∧ t.spectral.redos = s.spectral.redos ∧
             (t.harmAt ch).offset = e ∧ (∀ j, j ≠ ch.val → t.harmAt j = s.harmAt j))))) ∧
     (12 ≤ (s.harmAt ch).opened.length → (s.chainAt (s.img.harmInput ch)).rs.len = 0 →
       ∃ t, exec (.cycleTimeout ch) s = .next t ∧ t = { s with spectral := t.spectral } ∧ (t.harmAt ch).offset = 0 ∧
         (t.harmAt ch).opened.length < (s.harmAt ch).opened.length) ∧
     ((s.harmAt ch).opened.length < 12 ∨ (s.chainAt (s.img.harmInput ch)).rs.len ≠ 0 → exec (.cycleTimeout ch) s = .next s) ∧
     (∀ o, o = ((s.harmAt ch).windows.find? fun v => v.isClosed (s.img.harmM ch) && v.result.isNone) →
       (∀ v, o = some v → exec (.harmonicWindowClose ch) s =
         .next (s.updHarm ch fun x => x.setWindow { v with result := some (v.compute s.img ch) })) ∧
       (o = none → exec (.harmonicWindowClose ch) s = .next s)) ∧
     (∀ o, o = ((s.harmAt ch).windows.find? fun v => v.lastClosed (s.img.harmM ch) && decide (v.beatC + s.img.dH ≤ s.damper.beat)) →
       (s.ember.trigger.isSome = true ∨ o = none → exec (.harmonicPublication ch) s = .next s) ∧
       (∀ v est, s.ember.trigger = none → o = some v →
         est = (v.budget || v.timeout || v.dramErr || v.restart || v.result.isNone) →
         ∃ t w, exec (.harmonicPublication ch) s = .next t ∧ t = { s with spectral := t.spectral } ∧
           (t.harmAt ch).half = (!(s.harmAt ch).half) ∧ w = (if (t.harmAt ch).half then (t.harmAt ch).half1 else (t.harmAt ch).half0) ∧
           w.num = v.num ∧ bitOf (w.words.getD 0 0) 16 = est ∧ (∀ r, v.result = some r → w.words.drop 3 = r) ∧
           t.spectral.estimated = (if est then (s.spectral.estimated + 1) % 2 ^ 32 else s.spectral.estimated) ∧
           (if (t.harmAt ch).half then (t.harmAt ch).half0 else (t.harmAt ch).half1) =
             (if (t.harmAt ch).half then (s.harmAt ch).half0 else (s.harmAt ch).half1)))) ∧
  (∀ s : State, s.spectralRuns = true →
     (newestWide s.gridFrame < supraNeeds (160 * (2 * s.spectral.base + s.spectral.block) + 159) →
       exec .supraharmonicBlock s = .next s) ∧
     (supraNeeds (160 * (2 * s.spectral.base + s.spectral.block) + 159) ≤ newestWide s.gridFrame →
       ∃ t, exec .supraharmonicBlock s = .next t ∧ t = { s with spectral := t.spectral } ∧
         t.spectral.block = s.spectral.block + 1 ∧ t.spectral.harm = s.spectral.harm ∧
         ∀ ch : Fin 24, ch.val ∉ s.img.supraChans → t.supraAt ch = s.supraAt ch) ∧
     (∀ ch : Fin 24, ch.val ∈ s.img.supraChans →
       (s.ember.trigger.isSome = true ∨ (s.supraAt ch).ready = [] → exec (.supraharmonicIntervalPublication ch) s = .next s) ∧
       (∀ (j : Nat) (power : List Rat) (inv est : Bool) (rest : List (Nat × List Rat × Bool × Bool)),
         s.ember.trigger = none → (s.supraAt ch).ready = (j, power, inv, est) :: rest →
         (s.spectral.base + 200 * (j + 1) + s.img.dS ≤ s.damper.beat →
           ∃ t w, exec (.supraharmonicIntervalPublication ch) s = .next t ∧ t = { s with spectral := t.spectral } ∧
             (t.supraAt ch).ready = rest ∧ (t.supraAt ch).half = (!(s.supraAt ch).half) ∧
             w = (if (t.supraAt ch).half then (t.supraAt ch).half1 else (t.supraAt ch).half0) ∧ w.num = j ∧
             bitOf (w.words.getD 0 0) 16 = est ∧ bitOf (w.words.getD 0 0) 17 = inv ∧
             t.spectral.estimated = (if est then (s.spectral.estimated + 1) % 2 ^ 32 else s.spectral.estimated)) ∧
         (s.damper.beat < s.spectral.base + 200 * (j + 1) + s.img.dS →
           exec (.supraharmonicIntervalPublication ch) s = .next s))) ∧
     exec .spectralRestartEnd s = .next { s with spectral := { s.spectral with restart := false } })

/-- The evaluations of a point (R162 to R164) and the impulses (R137 to R139). URMS_EVALUATION ends a half-cycle RMS at its sample, over
the point's window length, and the next one is due half that length later. FUNDAMENTAL_CROSSING judges a rising zero of the fundamental
once and begins the next cycle of the neutral's test. IMPULSE_START starts a pending impulse of a channel that may: low for half the
spacing and at most 10 ms (100 000 frames), the first one for 10 ms, RATE_LIMITED where it fell due in an earlier frame. IMPULSE_END
releases the pin once the low time has passed. Each of them does nothing before its time. -/
def Obligations.EvaluationsAndImpulses : Prop :=
  (∀ (p : Fin 32) (s : State), s.metering = true → s.img.isAC p = true →
     ((s.eventsAt p).urmsNext = 0 ∨ newestWide s.gridFrame < (s.eventsAt p).urmsNext → exec (.urmsEvaluation p) s = .next s) ∧
     ((s.eventsAt p).urmsNext ≠ 0 → (s.eventsAt p).urmsNext ≤ newestWide s.gridFrame →
       ∀ (n : Nat) (sq : Nat → Rat), n = urmsLength s p →
       (∀ q, sq q = urmsSquare s p q (newestWide s.gridFrame - (s.eventsAt p).urmsNext) n) →
       ∃ t, exec (.urmsEvaluation p) s = .next t ∧ t = { s with events := t.events, session := t.session } ∧
         (t.eventsAt p).urmsDone = true ∧ (t.eventsAt p).urmsHalf = (!(s.eventsAt p).urmsHalf) ∧
         (t.eventsAt p).urmsSq = #v[sq 4, sq 5, sq 6] ∧
         (t.eventsAt p).urmsNext = (s.eventsAt p).urmsNext + (if (s.eventsAt p).urmsHalf then n - n / 2 else n / 2)) ∧
     ((s.eventsAt p).fresh = false ∨ 0 ≤ (s.eventsAt p).f4Prev ∨ (s.eventsAt p).f4Now < 0 →
       exec (.fundamentalCrossing p) s = .next s) ∧
     ((s.eventsAt p).fresh = true → (s.eventsAt p).f4Prev < 0 → 0 ≤ (s.eventsAt p).f4Now →
       ∃ t, exec (.fundamentalCrossing p) s = .next t ∧ t = { s with events := t.events, session := t.session } ∧
         (t.eventsAt p).fresh = false ∧ (t.eventsAt p).u0Run = true ∧ (t.eventsAt p).u0N = 1 ∧
         (t.eventsAt p).u0Sq = (s.eventsAt p).u0Last)) ∧
  (∀ (c : Fin 8) (s : State),
     (pulseReady s c s.gridFrame = false → exec (.impulseStart c) s = .next s) ∧
     (pulseReady s c s.gridFrame = true → ∃ t, exec (.impulseStart c) s = .next t ∧ t = { s with regs := t.regs, pulse := t.pulse } ∧
       (t.pulseAt c).low = true ∧ (t.pulseAt c).count = ((s.pulseAt c).count + 1) % 2 ^ 32 ∧
       (t.pulseAt c).pending = (s.pulseAt c).pending - 1 ∧ (t.pulseAt c).lastAt = some s.gridFrame ∧
       (t.pulseAt c).lowFor ≤ 100000 ∧ ((s.pulseAt c).fresh = true → (t.pulseAt c).lowFor = 100000) ∧
       (∀ x, (s.pulseAt c).fresh = false → (s.pulseAt c).lastAt = some x → (t.pulseAt c).lowFor = min 100000 ((s.gridFrame - x) / 2)) ∧
       ((s.pulseAt c).dueNow < (s.pulseAt c).pending → bitOf (t.reg (pulseReg c 0x00C)) 16 = true) ∧
       (∀ d : Fin 8, d ≠ c → t.pulseAt d = s.pulseAt d)) ∧
     (s.running Isl.metro = true → (s.pulseAt c).low = true →
       ((∀ x, (s.pulseAt c).lastAt = some x → x + (s.pulseAt c).lowFor ≤ s.gridFrame) →
         exec (.impulseEnd c) s = .next (s.updPulse c fun x => { x with low := false, freeAt := some s.gridFrame })) ∧
       (∀ x, (s.pulseAt c).lastAt = some x → s.gridFrame < x + (s.pulseAt c).lowFor → exec (.impulseEnd c) s = .next s)) ∧
     ((s.pulseAt c).low = false → exec (.impulseEnd c) s = .next s))

/-! Resets, starts, faults. -/

/-- The reset sources outside an episode and a release (R298 to R301, R304, R306, R311, R325, R344). POR, BOR_CORE, BOR_IO, RESET_N_PIN,
CTRL_WATCHDOG, DAMPER_WATCHDOG, THERMAL_TRIP, TAMPER, PERST_N, PCIE_HOT_RESET, RESET_SOFT, DEBUG_RESET and CLOCK_LOSS: a source that
asserts begins an episode at its level and holds the control plane in reset; one whose condition does not hold does not: a low pulse of
RESET_N below 1 µs or while the device drives the pin, a watchdog that is off or not run out, a temperature below the trip, a hot reset
without a link, a wrong key, a sealed device. The end of a level-sensitive condition releases its source. A rise above 105 °C is logged.
The detail of a clock loss and the one command for a RESET_N low are the model's reading (log entries 14, 96). -/
def Obligations.SourcesBeginEpisodes : Prop :=
  ∀ s : State, s.rst.episode = none → s.rst.release = none →
    (s.rst.asserted.testBit 0 = false → Begins 1 .l0 0 (exec (.por true) s)) ∧
    (s.rst.asserted.testBit 0 = false → s.rst.porDone = true → exec (.por false) s = .next s) ∧
    (s.rst.asserted.testBit 0 = true ∨ s.rst.porDone = false → exec (.por false) s =
      .next { s with rst := { s.rst with asserted := setBitN s.rst.asserted 0 false, porDone := true },
                     clk := { s.clk with refOk := true } }) ∧
    (s.rst.asserted.testBit 0 = true → ∀ low, exec (.borCore low) s = .next s ∧ exec (.borIo low) s = .next s) ∧
    (s.rst.asserted.testBit 0 = false →
      (s.rst.asserted.testBit 1 = false → Begins 2 .l0 0 (exec (.borCore true) s)) ∧
      exec (.borCore false) s = .next { s with rst := { s.rst with asserted := setBitN s.rst.asserted 1 false } } ∧
      (s.rst.asserted.testBit 2 = false → Begins 3 (sourceLevel s 3) 0 (exec (.borIo true) s)) ∧
      exec (.borIo false) s = .next { s with rst := { s.rst with asserted := setBitN s.rst.asserted 2 false } }) ∧
    (∀ ns, (resetIgnored s = true ∨ ns < 1000 → exec (.resetNPin ns) s = .next s) ∧
      (resetIgnored s = false → 1200 ≤ ns → Begins 4 (sourceLevel s 4) 0 (exec (.resetNPin ns) s)) ∧
      (resetIgnored s = false → 1000 ≤ ns → ns < 1200 → ∀ u : State, u = { s with rst := { s.rst with nDraws := s.rst.nDraws + 1 } } →
        exec (.resetNPin ns) s = .next u ∨ Begins 4 (sourceLevel s 4) 0 (exec (.resetNPin ns) s))) ∧
    (bitOf (s.reg 0x1028) 31 = true → s.rst.wdtRemain = 0 → Begins 5 (sourceLevel s 5) 0 (exec .ctrlWatchdog s)) ∧
    (bitOf (s.reg 0x1028) 31 = false ∨ s.rst.wdtRemain ≠ 0 → exec .ctrlWatchdog s = .next s) ∧
    (s.active = true → s.running Isl.conv = true → Begins 6 .l1 0 (exec .damperWatchdog s)) ∧
    (s.active = false ∨ s.running Isl.conv = false → exec .damperWatchdog s = .next s) ∧
    (∀ tj : Int, (480 ≤ tj → s.rst.asserted.testBit 6 = false → Begins 7 (sourceLevel s 7) 0 (exec (.thermalTrip tj) s)) ∧
      (420 < tj → tj < 480 → s.fault.hotTj = false → s.running Isl.sys = true → ∃ t, exec (.thermalTrip tj) s = .next t ∧
        t.rst = { s.rst with tj := tj } ∧ t.fault.hotTj = true ∧ t.fault.fseq = (s.fault.fseq + 1) % 2 ^ 32 ∧
        Tab.at t.fault.corr Isl.sys 0 = min (Tab.at s.fault.corr Isl.sys 0 + 1) (2 ^ 32 - 1)) ∧
      (400 ≤ tj → tj ≤ 420 → exec (.thermalTrip tj) s =
        .next { s with rst := { s.rst with tj := tj }, fault := { s.fault with hotTj := false } }) ∧
      (tj < 400 → exec (.thermalTrip tj) s =
        .next { s with rst := { s.rst with tj := tj, asserted := setBitN s.rst.asserted 6 false },
                       fault := { s.fault with hotTj := false } })) ∧
    (s.rst.asserted.testBit 7 = false → Begins 8 (sourceLevel s 8) 0 (exec (.tamper true) s)) ∧
    exec (.tamper false) s = .next { s with pins := { s.pins with tamper := false },
                                            rst := { s.rst with asserted := setBitN s.rst.asserted 7 false } } ∧
    (s.rst.asserted.testBit 8 = false → Begins 9 (sourceLevel s 9) 0 (exec (.perstN true) s)) ∧
    exec (.perstN false) s = .next { s with pins := { s.pins with perst := false },
                                            rst := { s.rst with asserted := setBitN s.rst.asserted 8 false } } ∧
    (s.running Isl.host = true → s.host.linkUp = true → Begins 10 (sourceLevel s 10) 0 (exec .pcieHotReset s)) ∧
    (s.running Isl.host = false ∨ s.host.linkUp = false → exec .pcieHotReset s = .next s) ∧
    (∀ v : Word, (s.running Isl.sys = true → fieldOf v 31 16 = 0xB160 →
        (fieldOf v 1 0 = 1 → Begins 12 (Level.l1.deeper (sourceLevel s 12)) 0 (exec (.resetSoft v) s)) ∧
        (fieldOf v 1 0 = 2 → Begins 12 (sourceLevel s 12) 0 (exec (.resetSoft v) s))) ∧
      (fieldOf v 31 16 ≠ 0xB160 ∨ fieldOf v 1 0 = 0 ∨ fieldOf v 1 0 = 3 → exec (.resetSoft v) s = .next s)) ∧
    (sealState s ≠ .sealed → Begins 13 (sourceLevel s 13) 0 (exec .debugReset s)) ∧
    (sealState s = .sealed → exec .debugReset s = .next s) ∧
    (s.rst.asserted.testBit 15 = false → ∀ r m c : Bool,
      (s.clk.refOk = true → r = false → Begins 16 (sourceLevel s 16) 1 (exec (.clockLoss r m c) s)) ∧
      (s.clk.refOk = false ∨ r = true → s.clk.pllM = true → m = false → Begins 16 (sourceLevel s 16) 2 (exec (.clockLoss r m c) s)) ∧
      (s.clk.refOk = false ∨ r = true → s.clk.pllM = false ∨ m = true → s.clk.pllC = true → c = false →
        Begins 16 (sourceLevel s 16) 3 (exec (.clockLoss r m c) s))) ∧
    exec (.clockLoss true true true) s = .next { s with clk := { s.clk with refOk := true, pllM := true, pllC := true },
                                                        rst := { s.rst with asserted := setBitN s.rst.asserted 15 false } }

/-- START_OK: RESET_START_OK with its key while the start window is open clears COUNT and TRIAL, closes the window and sets STARTED;
without a window it sets START_LATE; without the key it does nothing. START_WINDOW_EXPIRY: a window that is open asserts source 5, and
without one it does nothing (R319).
That a write with no window ever opened sets START_LATE is the model's reading (log entry 97). -/
def Obligations.StartConfirmed : Prop :=
  ∀ (s : State) (v : Word),
    (s.running Isl.sys = true → fieldOf v 31 16 = 0x5A17 → bitOf v 0 = true →
      (s.rst.window = true → ∃ t, exec (.startOk v) s = .next t ∧ t = { s with rtc := t.rtc, rst := t.rst, fw := t.fw } ∧
        t.rtc = { s.rtc with starts := 0, trial := false } ∧ t.rst = { s.rst with window := false, started := true } ∧
        (layerTrial s 1 = false → layerTrial s 2 = false → t.fw = s.fw) ∧
        (leField (bootBytes s) 4 8 + 2 < 2 ^ 64 → layerTrial t 1 = false ∧ layerTrial t 2 = false ∧
          activeSlot t 1 = activeSlot s 1 ∧ activeSlot t 2 = activeSlot s 2)) ∧
      (s.rst.window = false → exec (.startOk v) s = .next (s.setReg 0x1000 (s.reg 0x1000 ||| 0x200)))) ∧
    (fieldOf v 31 16 ≠ 0x5A17 ∨ bitOf v 0 = false → exec (.startOk v) s = .next s) ∧
    (s.rst.window = true → s.rst.episode = none → s.rst.release = none →
      Begins 5 (sourceLevel s 5) 0 (exec .startWindowExpiry s)) ∧
    (s.rst.window = false → exec .startWindowExpiry s = .next s)

/-- FAULT (R34, R40, R280, R281, R288, R289) of a running island: a CORRECTABLE one counts in its island's counter and is recorded; a
POINT one is recorded and acts on its point; an ISLAND one outside any recovery is recorded and isolates its island, and as the third
repeat it resets by source 15 one level deeper; a DEVICE one asserts source 15 at its level. A code of another island, one that another
command raises, an occupancy within its declared bound, and an island in reset report nothing.
The layout of DETAIL is the model's reading (log entry 103). -/
def Obligations.FaultsByClass : Prop :=
  ∀ (k : Fin 12) (code : BitVec 8) (x : Word) (s : State),
    (faultIsland code.toNat ≠ k ∨ faultClass code.toNat = none ∨ code.toNat ∈ foundElsewhere ∨ withinBound code.toNat x s = true ∨
      s.island k = .inReset ∨ s.running Isl.sys = false → exec (.fault k code x) s = .next s) ∧
    (s.running k = true → s.running Isl.sys = true → faultIsland code.toNat = k → code.toNat ∉ foundElsewhere →
      withinBound code.toNat x s = false → ∀ l,
      (faultClass code.toNat = some (.correctable, l) → ∃ t, exec (.fault k code x) s = .next t ∧
        Tab.at t.fault.corr k 0 = min (Tab.at s.fault.corr k 0 + 1) (2 ^ 32 - 1) ∧ t.fault.fseq = (s.fault.fseq + 1) % 2 ^ 32 ∧
        t = { s with dram := t.dram, fault := t.fault, ember := t.ember, host := t.host }) ∧
      (faultClass code.toNat = some (.point, l) → ∃ t, exec (.fault k code x) s = .next t ∧
        t.fault.fseq = (s.fault.fseq + 1) % 2 ^ 32 ∧ (t.pointAt (fieldOf x 4 0)).missNext = true ∧
        t = { s with point := t.point, fault := t.fault, ember := t.ember, host := t.host }) ∧
      (faultClass code.toNat = some (.island, l) → inRecovery s = false →
        ((s.reps k).cls ≠ some .island ∨ (s.reps k).count < 2 → ∃ t, exec (.fault k code x) s = .next t ∧ t.island k = .isolated ∧
          t.rst.episode = none ∧ t.fault.fseq = (s.fault.fseq + 1) % 2 ^ 32 ∧
          (t.reps k).count = (if (s.reps k).cls = some .island then (s.reps k).count + 1 else 0) ∧
          (∀ j : Fin 12, j ≠ k → t.island j = s.island j)) ∧
        ((s.reps k).cls = some .island → 2 ≤ (s.reps k).count →
          Begins 15 (if k.val = Isl.flue then .l1 else .l2) 0 (exec (.fault k code x) s))) ∧
      (faultClass code.toNat = some (.device, l) → inRecovery s = false → (s.reps k).cls ≠ some .device →
        Begins 15 (match mapField s 15 with | some m => m.deeper l | none => l) 0 (exec (.fault k code x) s)))

/-- The fault collector's other commands (R34, R283, R284, R288, R295). FAULT_POP drops the oldest record. REPEAT_COUNT_CLEAR clears the
count of an island that no recovery holds. ISLAND_RECOVERY_COMPLETE brings an isolated island back, but not FLUE, which a beat boundary
brings back. FAULT_INJECT writes its register; with GO, in a device that is not sealed, a CORRECTABLE fault of any island, and outside
recovery a first ISLAND fault of the islands 6 to 11, is handled as detected; nothing else is injected. -/
def Obligations.FaultCollector : Prop :=
  ∀ s : State,
    (s.running Isl.sys = true → exec .faultPop s = .next { s with fault := { s.fault with queue := s.fault.queue.tail } }) ∧
    (∀ k : Fin 12,
      (s.island k ≠ .isolated → s.rst.episode = none → s.rst.release = none →
        exec (.repeatCountClear k) s = .next (s.setReps k RepeatState.init)) ∧
      (s.island k = .isolated ∨ s.rst.episode.isSome = true ∨ s.rst.release.isSome = true →
        exec (.repeatCountClear k) s = .next s) ∧
      (k.val ≠ Isl.flue → s.island k = .isolated → ∃ t, exec (.islandRecoveryComplete k) s = .next t ∧
        t.running k = true ∧ (∀ j : Fin 12, j ≠ k → t.island j = s.island j) ∧ t.damper = s.damper ∧ t.ember = s.ember) ∧
      (k.val = Isl.flue ∨ s.island k ≠ .isolated → exec (.islandRecoveryComplete k) s = .next s)) ∧
    (∀ (v : Word) (w : State) (k code : Nat), s.running Isl.sys = true → w = writeReg 0x37060 v s → k = fieldOf v 3 0 →
      code = fieldOf v 15 8 →
      (bitOf v 31 = false ∨ sealState s = .sealed ∨ 12 ≤ k ∨ faultIsland code ≠ k ∨ faultClass code = none →
        exec (.faultInject v) s = .next w) ∧
      (∀ c l, faultClass code = some (c, l) → c ≠ .correctable → k < 6 → exec (.faultInject v) s = .next w) ∧
      (∀ l, bitOf v 31 = true → sealState s ≠ .sealed → k < 12 → faultIsland code = k → s.running k = true →
        (faultClass code = some (.correctable, l) →
          ∃ t, exec (.faultInject v) s = .next t ∧ t.fault.fseq = (s.fault.fseq + 1) % 2 ^ 32 ∧
            Tab.at t.fault.corr k 0 = min (Tab.at s.fault.corr k 0 + 1) (2 ^ 32 - 1)) ∧
        (faultClass code = some (.island, l) → 6 ≤ k → inRecovery s = false → (s.reps k).cls = none →
          ∃ t, exec (.faultInject v) s = .next t ∧ t.fault.fseq = (s.fault.fseq + 1) % 2 ^ 32 ∧ t.island k = .isolated ∧
            ∀ j, j < 12 → j ≠ k → t.island j = s.island j)))

/-- EPISODE_RELEASE (R304, R308, R318, R320, R325): an episode that may not be released yet stays. After L1 or L0 the straps and fuses
are taken and the sequence begins with AON; after L2 it begins with DRAM and both stay. BOOT_SEL 2 or 3 starts pilot-light mode of cause
2, PILOT_REQ of cause 3, a deep start at the limit of cause 1; an L2 start at the limit is an L1 instead; any other counts and opens its
window. STEP_READY (R203, R313, R321): the awaited step's island runs and the next step of the sequence is awaited; after the last one
the sequence is over. Step 5 without a layer is pilot-light mode of cause 4, with an image that is not admitted of cause 5 and the
reason of the rejection, else the image is active.
The instant at which the registers are loaded and what each step does besides are the model's reading (log entries 98, 99). -/
def Obligations.Releases : Prop :=
  (∀ (straps : Straps) (s : State), (s.rst.episode = none → exec (.episodeRelease straps) s = .next s) ∧
     ∀ e, s.rst.episode = some e →
     (canRelease s e = false → exec (.episodeRelease straps) s = .next s) ∧
     (canRelease s e = true → e.deepened = false →
       (e.level ≠ .l2 → ∀ u : State, u = { s with trust := { s.trust with fuses := s.trust.blown } } →
         ∃ t r, exec (.episodeRelease straps) s = .next t ∧ t.rst.episode = none ∧ t.rst.release = some r ∧ r.level = e.level ∧
           r.step = 1 ∧ t.clk.bootSel = straps.bootSel ∧ t.clk.clkMode = straps.clkMode ∧ t.trust.fuses = s.trust.blown ∧
           t.rst.cause = e.sources ∧ t.rst.first = e.first ∧ t.rst.lastLevel = e.level ∧ t.rst.pinDrive = false ∧
           (∀ c, (2 ≤ straps.bootSel ∧ c = 2 ∨ straps.bootSel < 2 ∧ s.rtc.pilotReq = true ∧ c = 3 ∨
               straps.bootSel < 2 ∧ s.rtc.pilotReq = false ∧ fuseLimit u ≤ s.rtc.starts ∧ c = 1) →
             t.rst.pilot = true ∧ t.rst.pilotCause = c ∧ r.pilot = true ∧ t.rtc.starts = s.rtc.starts ∧ t.rtc.pilotReq = false ∧
               t.rst.window = false) ∧
           (straps.bootSel < 2 → s.rtc.pilotReq = false → s.rtc.starts < fuseLimit u →
             t.rst.pilot = false ∧ t.rst.window = true ∧ t.rtc.starts = min (s.rtc.starts + 1) 255 ∧ r.pilot = false)) ∧
       (e.level = .l2 → s.rst.pilot = false → s.clk.bootSel < 2 → s.rtc.pilotReq = false →
         (s.rtc.starts < fuseLimit s → ∃ t r, exec (.episodeRelease straps) s = .next t ∧ t.rst.episode = none ∧
           t.rst.release = some r ∧ r.level = .l2 ∧ r.step = 9 ∧ r.pilot = false ∧ t.rst.window = true ∧
           t.rtc.starts = min (s.rtc.starts + 1) 255 ∧ t.clk = s.clk ∧ t.trust.fuses = s.trust.fuses) ∧
         (fuseLimit s ≤ s.rtc.starts → ∃ t e1, exec (.episodeRelease straps) s = .next t ∧ t.rst.episode = some e1 ∧
           e1.level = .l1 ∧ e1.deepened = true ∧ t.rst.release = none)))) ∧
  (∀ (rep : StepReport) (s : State) (r : Release), s.rst.release = some r →
     (∀ k i, (k, i) ∈ [(1, Isl.aon), (2, Isl.sys), (4, Isl.ember), (6, Isl.conv), (7, Isl.flue), (8, Isl.metro), (10, Isl.seal),
                       (11, Isl.ctrl), (12, Isl.host)] → r.step = k → ∀ j, stepAfter k r.steps = some j →
       ∃ t, exec (.stepReady rep) s = .next t ∧ t.running i = true ∧ t.rst.release = some { r with step := j }) ∧
     (r.step = 3 → ∀ j, stepAfter 3 r.steps = some j → exec (.stepReady rep) s =
       .next { s with clk := { s.clk with pllM := true, pllC := true, pllD := true },
                      rst := { s.rst with release := some { r with step := j } } }) ∧
     (r.step = 9 → 1 ≤ rep.rate → ∀ j, stepAfter 9 r.steps = some j → ∃ t, exec (.stepReady rep) s = .next t ∧
       t.running Isl.dram = true ∧ t.dram.trained = true ∧ t.dram.rate = min rep.rate (dramCap (dramSetup s)) ∧
       t.rst.release = some { r with step := j }) ∧
     (r.step = 5 → r.hostLoad = true → s.fw.hostMet = none ∨ s.fw.hostCtl = none ∨ s.fw.hostImage = none →
       exec (.stepReady rep) s = .next s) ∧
     (r.step = 5 → r.hostLoad = false →
       (loadMetrology s = none → ∃ t, exec (.stepReady rep) s = .next t ∧ t.rst.pilot = true ∧ t.rst.pilotCause = 4 ∧
         t.rst.release = some { r with pilot := true, outcome := 1, step := 10 }) ∧
       (∀ u g, loadMetrology s = some u → g = u.fw.hostImage.getD (flashImage u (slotWith u u.ember.heldImage)) →
         (∀ reason sec off, admission u g = some (reason, sec, off) → ∃ t, exec (.stepReady rep) s = .next t ∧ t.rst.pilot = true ∧
           t.rst.pilotCause = 5 ∧ t.damper.reason = reason ∧ t.damper.sect = sec ∧ t.damper.offset = off) ∧
         (admission u g = none → ∀ j, stepAfter 5 r.steps = some j → ∃ t r1, exec (.stepReady rep) s = .next t ∧
           t.damper.image = some g ∧ t.rst.release = some r1 ∧ r1.step = j ∧ r1.pilot = r.pilot))) ∧
     (r.step = 13 → stepAfter 13 r.steps = none → ∃ t, exec (.stepReady rep) s = .next t ∧ t.running Isl.link = true ∧
       t.running Isl.mantel = true ∧ t.rst.release = none))
end

