-- ==== Sys2Proof/Laws/Sparse.lean ====
section
/-! SUPPORT. Sparse contents: the canonical form is kept by every operation, a read after a write to the same address gives the
value written, and a write leaves every other address alone. -/

namespace Sys2Proof.Machine

variable {β : Type} [DecidableEq β] {dflt : Nat → β}

theorem Sparse.wf_iff (m : List (Nat × β)) :
    Sparse.wf dflt m = true ↔ (∀ c ∈ m, c.2 ≠ dflt c.1) ∧ m.Pairwise (fun c d => c.1 < d.1) := by
  induction m with
  | nil => simp [Sparse.wf]
  | cons c r ih =>
    obtain ⟨k, v⟩ := c
    simp only [Sparse.wf, Bool.and_eq_true, bne_iff_ne, ne_eq, List.all_eq_true, decide_eq_true_eq, ih,
      List.mem_cons, forall_eq_or_imp, List.pairwise_cons]
    tauto

theorem Sparse.wf_filter {m : List (Nat × β)} (p : Nat × β → Bool) (h : Sparse.wf dflt m = true) :
    Sparse.wf dflt (m.filter p) = true := by
  rw [Sparse.wf_iff] at *
  exact ⟨fun c hc => h.1 c (List.mem_of_mem_filter hc), h.2.filter p⟩

omit [DecidableEq β] in
theorem Sparse.mem_insert {m : List (Nat × β)} {a : Nat} {v : β} {c : Nat × β} (h : c ∈ Sparse.insert m a v) :
    c = (a, v) ∨ c ∈ m := by
  induction m with
  | nil => simpa [Sparse.insert] using h
  | cons d r ih =>
    unfold Sparse.insert at h
    split at h
    · simpa using h
    · rcases List.mem_cons.mp h with h | h
      · exact .inr (by simp [h])
      · exact (ih h).imp id (List.mem_cons_of_mem _)

omit [DecidableEq β] in
theorem Sparse.pairwise_insert {m : List (Nat × β)} {a : Nat} {v : β} (hs : m.Pairwise (fun c d => c.1 < d.1))
    (ha : ∀ c ∈ m, c.1 ≠ a) : (Sparse.insert m a v).Pairwise (fun c d => c.1 < d.1) := by
  induction m with
  | nil => simp [Sparse.insert]
  | cons d r ih =>
    obtain ⟨k, x⟩ := d
    have hk := List.pairwise_cons.mp hs
    unfold Sparse.insert
    split
    · rename_i h
      refine List.pairwise_cons.mpr ⟨fun c hc => ?_, hs⟩
      rcases List.mem_cons.mp hc with rfl | hc
      · exact h
      · exact Nat.lt_trans h (hk.1 c hc)
    · rename_i h
      refine List.pairwise_cons.mpr ⟨fun c hc => ?_, ih hk.2 fun c hc => ha c (List.mem_cons_of_mem _ hc)⟩
      rcases Sparse.mem_insert hc with rfl | hc
      · have := ha (k, x) (by simp)
        simp only [ne_eq] at this
        simp only; omega
      · exact hk.1 c hc

theorem Sparse.wf_set {m : List (Nat × β)} (a : Nat) (v : β) (h : Sparse.wf dflt m = true) :
    Sparse.wf dflt (Sparse.set dflt m a v) = true := by
  unfold Sparse.set
  split
  · exact Sparse.wf_filter _ h
  · rename_i hv
    have hd := (Sparse.wf_iff (dflt := dflt) _).mp (Sparse.wf_filter (fun c => c.1 != a) h)
    rw [Sparse.wf_iff]
    refine ⟨fun c hc => ?_, Sparse.pairwise_insert hd.2 fun c hc => ?_⟩
    · rcases Sparse.mem_insert hc with rfl | hc
      · exact hv
      · exact hd.1 c hc
    · have := List.of_mem_filter hc
      simpa using this

omit [DecidableEq β] in
theorem Sparse.get_insert (m : List (Nat × β)) (a b : Nat) (v : β) (ha : ∀ c ∈ m, c.1 ≠ a) :
    Sparse.get dflt (Sparse.insert m a v) b = if a = b then v else Sparse.get dflt m b := by
  induction m with
  | nil => simp [Sparse.insert, Sparse.get]
  | cons d r ih =>
    obtain ⟨k, x⟩ := d
    have hk := ha (k, x) (by simp)
    have ih := ih fun c hc => ha c (List.mem_cons_of_mem _ hc)
    unfold Sparse.insert
    split
    · simp [Sparse.get]
    · simp only [Sparse.get, ih]
      by_cases h1 : k = b
      · subst h1; simp [Ne.symm hk]
      · simp [h1]

omit [DecidableEq β] in
theorem Sparse.get_drop (m : List (Nat × β)) (a b : Nat) :
    Sparse.get dflt (Sparse.drop m a) b = if a = b then dflt b else Sparse.get dflt m b := by
  induction m with
  | nil => simp [Sparse.drop, Sparse.get]
  | cons d r ih =>
    obtain ⟨k, x⟩ := d
    unfold Sparse.drop at ih ⊢
    by_cases h : k = a
    · subst h
      simp only [List.filter_cons, bne_self_eq_false, Bool.false_eq_true, if_false, ih, Sparse.get]
      by_cases hb : k = b <;> simp [hb]
    · have : ((k, x).1 != a) = true := by simpa using h
      simp only [List.filter_cons, this, if_true, Sparse.get, ih]
      by_cases hb : k = b
      · subst hb; simp [Ne.symm h]
      · simp [hb]

/-- A read after a write: the value written there, what stood there elsewhere. -/
theorem Sparse.get_set (m : List (Nat × β)) (a b : Nat) (v : β) :
    Sparse.get dflt (Sparse.set dflt m a v) b = if a = b then v else Sparse.get dflt m b := by
  unfold Sparse.set
  split
  · rename_i h
    rw [Sparse.get_drop]
    by_cases hb : a = b
    · subst hb; simp [h]
    · simp [hb]
  · rw [Sparse.get_insert _ _ _ _ (fun c hc => by simpa using List.of_mem_filter hc), Sparse.get_drop]
    by_cases hb : a = b <;> simp [hb]

/-! Memory. -/

omit [DecidableEq β] in
/-- In a canonical list, an address that no entry has reads as unlisted. -/
theorem Sparse.get_absent {m : List (Nat × β)} {a : Nat} (h : ∀ c ∈ m, c.1 ≠ a) : Sparse.get dflt m a = dflt a := by
  induction m with
  | nil => rfl
  | cons c m ih =>
    obtain ⟨k, x⟩ := c
    rw [Sparse.get, if_neg (h (k, x) (List.mem_cons_self ..))]
    exact ih fun c hc => h c (List.mem_cons_of_mem _ hc)

omit [DecidableEq β] in
theorem Sparse.drop_absent {m : List (Nat × β)} {a : Nat} (h : ∀ c ∈ m, c.1 ≠ a) : Sparse.drop m a = m := by
  unfold Sparse.drop
  exact List.filter_eq_self.mpr fun c hc => by simpa using h c hc

omit [DecidableEq β] in
theorem Sparse.insert_below {m : List (Nat × β)} {a : Nat} {v : β} (h : ∀ c ∈ m, a < c.1) : Sparse.insert m a v = (a, v) :: m := by
  cases m with
  | nil => rfl
  | cons c m => obtain ⟨k, x⟩ := c; rw [Sparse.insert, if_pos (h (k, x) (List.mem_cons_self ..))]

/-- Writing the value that an address of a canonical list holds changes nothing. -/
theorem Sparse.set_get {m : List (Nat × β)} (a : Nat) (h : Sparse.wf dflt m = true) :
    Sparse.set dflt m a (Sparse.get dflt m a) = m := by
  induction m with
  | nil => simp [Sparse.set, Sparse.get, Sparse.drop]
  | cons c m ih =>
    obtain ⟨k, x⟩ := c
    have h' := (Sparse.wf_iff _).mp h
    have hk : ∀ c ∈ m, k < c.1 := fun c hc => (List.pairwise_cons.mp h'.2).1 c hc
    have hm : Sparse.wf dflt m = true := (Sparse.wf_iff _).mpr ⟨fun c hc => h'.1 c (List.mem_cons_of_mem _ hc),
      (List.pairwise_cons.mp h'.2).2⟩
    by_cases e : k = a
    · subst e
      have hd : Sparse.drop ((k, x) :: m) k = m := by
        have : Sparse.drop ((k, x) :: m) k = Sparse.drop m k := by simp [Sparse.drop]
        rw [this, Sparse.drop_absent fun c hc => Nat.ne_of_gt (hk c hc)]
      have hx : x ≠ dflt k := h'.1 (k, x) (List.mem_cons_self ..)
      rw [Sparse.get, if_pos rfl, Sparse.set, if_neg hx, hd, Sparse.insert_below hk]
    · have hd : Sparse.drop ((k, x) :: m) a = (k, x) :: Sparse.drop m a := by simp [Sparse.drop, e]
      have i := ih hm
      rw [Sparse.get, if_neg e]
      unfold Sparse.set at i ⊢
      rw [hd]
      split
      · next hv => rw [if_pos hv] at i; rw [i]
      · next hv =>
        rw [if_neg hv] at i
        rw [Sparse.insert]
        split
        · next ha =>
          exact absurd (Sparse.get_absent (dflt := dflt) fun c hc => Nat.ne_of_gt (Nat.lt_trans ha (hk c hc))) hv
        · rw [i]

theorem Memory.read_write (m : List Host.Cell) (a b : Nat) (v : Byte) :
    Memory.read (Memory.write m a v) b = if a = b then v else Memory.read m b := Sparse.get_set m a b v
theorem Memory.wf_write {m : List Host.Cell} (a : Nat) (v : Byte) (h : Memory.wf m = true) :
    Memory.wf (Memory.write m a v) = true := Sparse.wf_set a v h
theorem Memory.wf_writeN {m : List Host.Cell} (a : Nat) (bs : List Byte) (h : Memory.wf m = true) :
    Memory.wf (Memory.writeN m a bs) = true := by
  induction bs generalizing m a with
  | nil => exact h
  | cons b bs ih => exact ih (a + 1) (Memory.wf_write a b h)
theorem Memory.wf_nil : Memory.wf [] = true := rfl
theorem Memory.wf_ofBytes (bs : List Byte) : Memory.wf (Memory.ofBytes bs) = true := Memory.wf_writeN 0 bs rfl

/-- Writing a byte string leaves every address outside it alone. -/
theorem Memory.read_writeN_out (m : List Host.Cell) (a : Nat) (bs : List Byte) (b : Nat) (h : b < a ∨ a + bs.length ≤ b) :
    Memory.read (Memory.writeN m a bs) b = Memory.read m b := by
  induction bs generalizing m a with
  | nil => rfl
  | cons x bs ih =>
    simp only [List.length_cons] at h
    rw [Memory.writeN, ih _ _ (by omega), Memory.read_write, if_neg (by omega)]

/-! The register file. -/

theorem Regs.get_set (m : List (Nat × Word)) (a b : Nat) (v : Word) :
    Regs.get (Regs.set m a v) b = if a = b then v else Regs.get m b := Sparse.get_set m a b v
theorem Regs.wf_set {m : List (Nat × Word)} (a : Nat) (v : Word) (h : Regs.wf m = true) : Regs.wf (Regs.set m a v) = true :=
  Sparse.wf_set a v h
theorem Regs.wf_clear {m : List (Nat × Word)} (base size : Nat) (h : Regs.wf m = true) : Regs.wf (Regs.clear m base size) = true :=
  Sparse.wf_filter _ h
theorem Regs.wf_clearIsland {m : List (Nat × Word)} (isl : Nat) (h : Regs.wf m = true) :
    Regs.wf (Regs.clearIsland m isl) = true := by
  unfold Regs.clearIsland
  generalize RegMap.blocks.filter _ = l
  induction l generalizing m with
  | nil => exact h
  | cons b l ih => exact ih (Regs.wf_clear _ _ h)
theorem Regs.wf_reject {m : List (Nat × Word)} (b : BlockSpec) (a : Nat) (h : Regs.wf m = true) :
    Regs.wf (Regs.reject m b a) = true := by
  unfold Regs.reject
  split
  · dsimp only
    split
    · exact h
    · exact Regs.wf_set _ _ (Regs.wf_set _ _ h)
  · exact h

/-- A canonical register file is left as it is by a write of what a register holds. -/
theorem Regs.set_get {m : List (Nat × Word)} (a : Nat) (h : Regs.wf m = true) : Regs.set m a (Regs.get m a) = m := Sparse.set_get a h

end Sys2Proof.Machine
end

