-- ==== Sys2Proof/Laws/Bytes.lean ====
section
/-! SUPPORT. Byte strings: what is written to a byte memory reads back, and a string with its CRC-32 is whole. -/

namespace Sys2Proof.Machine

theorem Memory.read_writeN_in (m : List Host.Cell) (a : Nat) (bs : List Byte) (i : Nat) (h : i < bs.length) :
    Memory.read (Memory.writeN m a bs) (a + i) = bs[i] := by
  induction bs generalizing m a i with
  | nil => simp at h
  | cons b bs ih =>
    cases i with
    | zero =>
      rw [Memory.writeN, Memory.read_writeN_out _ _ _ _ (.inl (by omega)), Memory.read_write]
      simp
    | succ i =>
      have := ih (Memory.write m a b) (a + 1) i (by simpa using h)
      rw [Memory.writeN, show a + (i + 1) = a + 1 + i by omega, this]
      simp

/-- A part of what was written, read back. -/
theorem Memory.readN_writeN (m : List Host.Cell) (a : Nat) (bs : List Byte) (i n : Nat) (h : i + n ≤ bs.length) :
    Memory.readN (Memory.writeN m a bs) (a + i) n = (bs.drop i).take n := by
  apply List.ext_getElem
  · simp [Memory.readN]; omega
  · intro k h1 h2
    have hk : k < n := by simpa [Memory.readN] using h1
    simp only [Memory.readN, List.getElem_map, List.getElem_range, List.getElem_take, List.getElem_drop]
    rw [Nat.add_assoc]
    exact Memory.read_writeN_in m a bs (i + k) (by omega)

/-- Bytes outside what is written, read back. -/
theorem Memory.readN_writeN_out (m : List Host.Cell) (a b n : Nat) (bs : List Byte) (h : b + n ≤ a ∨ a + bs.length ≤ b) :
    Memory.readN (Memory.writeN m a bs) b n = Memory.readN m b n := by
  unfold Memory.readN
  refine List.map_congr_left fun k hk => ?_
  have hk' : k < n := List.mem_range.mp hk
  exact Memory.read_writeN_out _ _ _ _ (by omega)

@[simp] theorem leBytes_length (n v : Nat) : (leBytes n v).length = n := by
  induction n generalizing v with
  | zero => rfl
  | succ n ih => simp [leBytes, ih]

theorem leNat_leBytes (n v : Nat) : leNat (leBytes n v) = v % 256 ^ n := by
  induction n generalizing v with
  | zero => simp [leBytes, leNat, Nat.mod_one]
  | succ n ih =>
    rw [leBytes, leNat, ih, BitVec.toNat_ofNat, show (256 : Nat) ^ (n + 1) = 256 * 256 ^ n from Nat.pow_succ']
    exact (Nat.mod_mul (x := v) (a := 256) (b := 256 ^ n)).symm

theorem crc32_lt (bs : List Byte) : crc32 bs < 2 ^ 32 := BitVec.isLt _

/-- A byte string followed by its CRC-32 ends with the CRC-32 of what precedes it. -/
theorem crcOk_withCrc (bs : List Byte) : crcOk (withCrc bs) = true := by
  have h : (withCrc bs).length - 4 = bs.length := by simp [withCrc]
  unfold crcOk
  rw [h]
  simp only [withCrc, List.drop_left, List.take_left, leNat_leBytes, List.length_append, leBytes_length]
  rw [Nat.mod_eq_of_lt (by have := crc32_lt bs; omega)]
  simp

end Sys2Proof.Machine
end

