-- ==== Sys2Proof/Laws/Boot.lean ====
section
/-! SUPPORT. The boot record (R351): what is written is in force from then on, and a slot's state is the one written. -/

namespace Sys2Proof.Machine

theorem zeros_length (n : Nat) : (zeros n).length = n := by simp [zeros]

theorem bootCopy_length (s : State) (k : Bool) : (bootCopy s k).length = 4096 := by
  simp [bootCopy, Flash.bytes, Memory.readN]

theorem bootBytes_length (s : State) : (bootBytes s).length = 4096 := by
  unfold bootBytes
  split
  · exact bootCopy_length _ _
  · exact zeros_length _

/-- A field within the first part of a byte string. -/
theorem sliceOf_append (a b : List Byte) (off n : Nat) (h : off + n ≤ a.length) : sliceOf (a ++ b) off n = sliceOf a off n := by
  unfold sliceOf
  refine List.map_congr_left fun i hi => ?_
  have := List.mem_range.mp hi
  rw [List.getD_append _ _ _ _ (by omega)]

/-- A field within the second part. -/
theorem sliceOf_append_right (a b : List Byte) (off n : Nat) (h : a.length ≤ off) :
    sliceOf (a ++ b) off n = sliceOf b (off - a.length) n := by
  unfold sliceOf
  refine List.map_congr_left fun i _ => ?_
  rw [List.getD_append_right _ _ _ _ (by omega), Nat.sub_add_comm h]

theorem sliceOf_self (a : List Byte) : sliceOf a 0 a.length = a := by
  apply List.ext_getElem
  · simp [sliceOf]
  · intro i h1 h2
    simp [sliceOf, h2]

/-- A field written as bytes reads back. -/
theorem leField_part (a b : List Byte) (n v : Nat) : leField (a ++ leBytes n v ++ b) a.length n = v % 256 ^ n := by
  have h : sliceOf (leBytes n v) 0 n = leBytes n v := by simpa using sliceOf_self (leBytes n v)
  rw [leField, sliceOf_append _ _ _ _ (by simp), sliceOf_append_right _ _ _ _ (Nat.le_refl _), Nat.sub_self, h, leNat_leBytes]

theorem bootBody_length (cur : List Byte) (l1 l2 img : Nat) (h : cur.length = 4096) : (bootBody cur l1 l2 img).length = 4092 := by
  simp [bootBody, h]

theorem bootTarget_none {s : State} (h : bootInForce s = none) : bootTarget s = false := by
  unfold bootTarget; rw [h]
theorem bootTarget_some {s : State} {k : Bool} (h : bootInForce s = some k) : bootTarget s = !k := by
  unfold bootTarget; rw [h]
theorem bootBytes_some {s : State} {k : Bool} (h : bootInForce s = some k) : bootBytes s = bootCopy s k := by
  unfold bootBytes; rw [h]

/-- The copy in force: valid, and no valid copy has a higher GEN. -/
theorem bootInForce_some {s : State} {k : Bool} (hv : bootValid s k = true)
    (hg : bootValid s (!k) = true → bootGen s (!k) < bootGen s k) : bootInForce s = some k := by
  cases k <;> simp only [Bool.not_false, Bool.not_true] at hg <;> unfold bootInForce
  · cases h : bootValid s true <;> simp_all; omega
  · cases h : bootValid s false <;> simp_all

/-- What is in force is valid, and has the highest GEN of the valid copies. -/
theorem bootGen_le {s : State} {k : Bool} (h : bootInForce s = some k) (j : Bool) (hv : bootValid s j = true) :
    bootGen s j ≤ bootGen s k := by
  revert h
  unfold bootInForce
  cases j <;> cases k <;> cases h0 : bootValid s false <;> cases h1 : bootValid s true <;> simp_all <;> omega

theorem bootValid_none {s : State} (h : bootInForce s = none) (j : Bool) : bootValid s j = false := by
  revert h
  unfold bootInForce
  cases j <;> cases h0 : bootValid s false <;> cases h1 : bootValid s true <;> simp

theorem bootCopy_writeBoot (l1 l2 img : Nat) (s : State) (k : Bool) : bootCopy (writeBoot l1 l2 img s) k =
    if k = bootTarget s then withCrc (bootBody (bootBytes s) l1 l2 img) else bootCopy s k := by
  have hl : (withCrc (bootBody (bootBytes s) l1 l2 img)).length = 4096 := by
    simp [withCrc, bootBody_length _ _ _ _ (bootBytes_length s)]
  have hw : bootCopy (writeBoot l1 l2 img s) k = Memory.readN (Memory.writeN s.fw.flash (if bootTarget s then 0x1000 else 0)
    (withCrc (bootBody (bootBytes s) l1 l2 img))) (if k then 0x1000 else 0) 4096 := by
    simp only [bootCopy, Flash.bytes, writeBoot]
  rw [hw]
  by_cases h : k = bootTarget s
  · rw [if_pos h, h]
    generalize withCrc (bootBody (bootBytes s) l1 l2 img) = w at hl ⊢
    have := Memory.readN_writeN s.fw.flash (if bootTarget s then 0x1000 else 0) w 0 w.length (by omega)
    rw [hl] at this
    simpa [List.take_of_length_le (Nat.le_of_eq hl)] using this
  · rw [if_neg h, Memory.readN_writeN_out]
    · simp only [bootCopy, Flash.bytes]
    · rw [hl]
      revert h
      cases k <;> cases bootTarget s <;> simp

/-- A new boot record is in force as written, unless GEN wraps. -/
theorem bootBytes_writeBoot (l1 l2 img : Nat) (s : State) (hg : leField (bootBytes s) 4 8 + 1 < 2 ^ 64) :
    bootBytes (writeBoot l1 l2 img s) = withCrc (bootBody (bootBytes s) l1 l2 img) := by
  have hm : ∀ x, leField (withCrc (bootBody x l1 l2 img)) 0 4 = 0x424F4F54 := fun x => by
    simpa [withCrc, bootBody] using leField_part [] (leBytes 8 (leField x 4 8 + 1) ++ leBytes 1 l1 ++ leBytes 1 l2 ++
      leBytes 1 img ++ (x.drop 15).take 4077 ++ leBytes 4 (crc32 (bootBody x l1 l2 img))) 4 0x424F4F54
  have hgen : ∀ x, leField (withCrc (bootBody x l1 l2 img)) 4 8 = (leField x 4 8 + 1) % 2 ^ 64 := fun x => by
    simpa [withCrc, bootBody] using leField_part (leBytes 4 0x424F4F54) (leBytes 1 l1 ++ leBytes 1 l2 ++
      leBytes 1 img ++ (x.drop 15).take 4077 ++ leBytes 4 (crc32 (bootBody x l1 l2 img))) 8 (leField x 4 8 + 1)
  have hv : ∀ k, bootValid (writeBoot l1 l2 img s) k = (decide (k = bootTarget s) || bootValid s k) := fun k => by
    unfold bootValid
    rw [bootCopy_writeBoot]
    split
    next h => simp [h, hm, crcOk_withCrc]
    next h => simp [h]
  have hgn : ∀ k, bootGen (writeBoot l1 l2 img s) k =
      if k = bootTarget s then leField (bootBytes s) 4 8 + 1 else bootGen s k := fun k => by
    unfold bootGen
    rw [bootCopy_writeBoot]
    split
    · rw [hgen, Nat.mod_eq_of_lt hg]
    · rfl
  have hf : bootInForce (writeBoot l1 l2 img s) = some (bootTarget s) := by
    have hne : (!bootTarget s) = bootTarget s ↔ False := by cases bootTarget s <;> simp
    apply bootInForce_some
    · simp [hv]
    · rw [hv, hgn, hgn, if_pos rfl, if_neg (by simp)]
      simp only [hne, decide_false, Bool.false_or]
      intro hj
      rcases hq : bootInForce s with _ | k
      · rw [bootValid_none hq] at hj
        cases hj
      · have := bootGen_le hq _ hj
        rw [bootBytes_some hq]
        exact Nat.lt_succ_of_le this
  rw [bootBytes_some hf, bootCopy_writeBoot, if_pos rfl]

theorem layerByte_writeBoot (l1 l2 img layer : Nat) (s : State) (hg : leField (bootBytes s) 4 8 + 1 < 2 ^ 64)
    (hl : layer = 1 ∨ layer = 2) : layerByte (writeBoot l1 l2 img s) layer = (if layer = 1 then l1 else l2) % 256 := by
  unfold layerByte bootByte
  rw [bootBytes_writeBoot _ _ _ _ hg]
  rcases hl with rfl | rfl
  · simpa [withCrc, bootBody] using leField_part (leBytes 4 0x424F4F54 ++ leBytes 8 (leField (bootBytes s) 4 8 + 1)) (leBytes 1 l2 ++
      leBytes 1 img ++ ((bootBytes s).drop 15).take 4077 ++ leBytes 4 (crc32 (bootBody (bootBytes s) l1 l2 img))) 1 l1
  · simpa [withCrc, bootBody] using leField_part (leBytes 4 0x424F4F54 ++ leBytes 8 (leField (bootBytes s) 4 8 + 1) ++ leBytes 1 l1) (
      leBytes 1 img ++ ((bootBytes s).drop 15).take 4077 ++ leBytes 4 (crc32 (bootBody (bootBytes s) l1 l2 img))) 1 l2

theorem layerByte_lt (s : State) (layer : Nat) : layerByte s layer < 256 := by
  simp only [layerByte, bootByte, leField, sliceOf, List.range_one, List.map_cons, List.map_nil, leNat]
  omega

theorem slotState_lt (s : State) (layer : Nat) (b : Bool) : slotState s layer b < 4 := Nat.mod_lt _ (by omega)

/-- A layer byte as written, and the other layer's as it was. -/
theorem layerByte_writeLayer (layer v : Nat) (s : State) (hg : leField (bootBytes s) 4 8 + 1 < 2 ^ 64) (hl : layer = 1 ∨ layer = 2)
    (hv : v < 256) : layerByte (writeLayer layer v s) layer = v ∧ layerByte (writeLayer layer v s) (3 - layer) = layerByte s (3 - layer) := by
  have hb := layerByte_lt s (3 - layer)
  unfold writeLayer
  rw [layerByte_writeBoot _ _ _ _ _ hg hl, layerByte_writeBoot _ _ _ _ _ hg (by omega)]
  rcases hl with rfl | rfl <;> simp_all [Nat.mod_eq_of_lt hv, Nat.mod_eq_of_lt hb]

/-- The parts of a layer byte. -/
theorem packLayer_parts : ∀ act tri : Bool, ∀ x < 4, ∀ y < 4,
    packLayer act tri x y < 256 ∧ packLayer act tri x y / 4 % 4 = x ∧ packLayer act tri x y / 16 % 4 = y ∧
    (packLayer act tri x y).testBit 0 = act ∧ (packLayer act tri x y).testBit 1 = tri := by decide

/-- Setting a slot's state sets it and leaves the layer's ACTIVE and TRIAL, its other slot, and the other layer. -/
theorem layerByte_setSlot (layer : Nat) (b : Bool) (st : Nat) (s : State) (hg : leField (bootBytes s) 4 8 + 1 < 2 ^ 64)
    (hl : layer = 1 ∨ layer = 2) (hs : st < 4) :
    slotState (setSlot layer b st s) layer b = st ∧ slotState (setSlot layer b st s) layer (!b) = slotState s layer (!b) ∧
    activeSlot (setSlot layer b st s) layer = activeSlot s layer ∧ layerTrial (setSlot layer b st s) layer = layerTrial s layer ∧
    layerByte (setSlot layer b st s) (3 - layer) = layerByte s (3 - layer) := by
  have h0 := slotState_lt s layer false
  have h1 := slotState_lt s layer true
  have hq := packLayer_parts (activeSlot s layer) (layerTrial s layer) (if b then slotState s layer false else st)
    (by cases b <;> simp_all) (if b then st else slotState s layer true) (by cases b <;> simp_all)
  have hm := layerByte_writeLayer layer _ s hg hl hq.1
  refine ⟨?_, ?_, ?_, ?_, hm.2⟩
  · cases b <;> simp_all [slotState, setSlot]
  · cases b <;> simp_all [slotState, setSlot]
  · rw [activeSlot, setSlot, hm.1]; exact hq.2.2.2.1
  · rw [layerTrial, setSlot, hm.1]; exact hq.2.2.2.2

/-- Making a slot ACTIVE leaves the slots' states and the other layer. -/
theorem layerByte_activateSlot (layer : Nat) (b trial : Bool) (s : State) (hg : leField (bootBytes s) 4 8 + 1 < 2 ^ 64)
    (hl : layer = 1 ∨ layer = 2) :
    activeSlot (activateSlot layer b trial s) layer = b ∧ layerTrial (activateSlot layer b trial s) layer = trial ∧
    (∀ k, slotState (activateSlot layer b trial s) layer k = slotState s layer k) ∧
    layerByte (activateSlot layer b trial s) (3 - layer) = layerByte s (3 - layer) := by
  have hq := packLayer_parts b trial _ (slotState_lt s layer false) _ (slotState_lt s layer true)
  have hm := layerByte_writeLayer layer _ s hg hl hq.1
  refine ⟨?_, ?_, fun k => ?_, hm.2⟩
  · rw [activeSlot, activateSlot, hm.1]; exact hq.2.2.2.1
  · rw [layerTrial, activateSlot, hm.1]; exact hq.2.2.2.2
  · cases k
    · rw [slotState, activateSlot, hm.1]; exact hq.2.1
    · rw [slotState, activateSlot, hm.1]; exact hq.2.2.1

/-- The boot record depends on the flash below the slots only. -/
theorem bootBytes_congr {s t : State} (h : ∀ k, bootCopy t k = bootCopy s k) : bootBytes t = bootBytes s := by
  have hv : ∀ k, bootValid t k = bootValid s k := fun k => by unfold bootValid; rw [h]
  have hg : ∀ k, bootGen t k = bootGen s k := fun k => by unfold bootGen; rw [h]
  have hf : bootInForce t = bootInForce s := by unfold bootInForce; rw [hv, hv, hg, hg]
  rcases hq : bootInForce s with _ | k
  · rw [hq] at hf
    unfold bootBytes
    rw [hf, hq]
  · rw [hq] at hf
    rw [bootBytes_some hf, bootBytes_some hq, h]

/-- Writing a slot leaves the boot record. -/
theorem bootBytes_writeSlot (layer : Nat) (b : Bool) (bs : List Byte) (s : State) : bootBytes (writeSlot layer b bs s) = bootBytes s :=
  bootBytes_congr fun k => by
    have hb : 0x100000 ≤ slotBase layer b := by unfold slotBase; split <;> split <;> omega
    unfold bootCopy Flash.bytes writeSlot
    exact Memory.readN_writeN_out _ _ _ _ _ (.inl (by split <;> omega))

end Sys2Proof.Machine
end

