-- ==== Sys2Proof/Laws/Descriptors.lean ====
section
/-! SUPPORT. What a descriptor's command does, said once: a descriptor that starts runs its body; one that does not start
leaves the state. -/

namespace Sys2Proof.Machine

/-- A descriptor that starts runs the body of its command. -/
theorem withDescriptor_starts {op ord : Nat} {s : State} {d : Inflight} (h : Starts s ord op d) (f : Inflight → State) :
    withDescriptor [op] ord s f = .next (f d) := by
  obtain ⟨h1, h2, h3, h4, h5⟩ := h
  subst h2
  simp [withDescriptor, h1, h3, h4, h5]

/-- As `withDescriptor_starts`, for a command that moves a buffer. -/
theorem withBuffer_starts {op ord : Nat} {s : State} {d : Inflight} (h : StartsDma s ord op d) (f : Inflight → State) :
    withBuffer [op] ord s f = .next (f d) := by
  simp [withBuffer, withDescriptor_starts h.toStarts, h.dma]

/-- A descriptor that the order rules hold back waits: nothing changes. -/
theorem withDescriptor_waits {op ord : Nat} {s : State} {d : Inflight} (hd : s.flight ord = some d)
    (h : mayStart s d = false) (f : Inflight → State) : withDescriptor [op] ord s f = .next s := by
  simp [withDescriptor, hd, h]

/-- With no such descriptor in flight nothing changes. -/
theorem withDescriptor_absent {ops : List Nat} {ord : Nat} {s : State} (hd : s.flight ord = none) (f : Inflight → State) :
    withDescriptor ops ord s f = .next s := by
  simp [withDescriptor, hd]

/-- Where the device cannot reach host memory nothing changes. -/
theorem withBuffer_noDma {ops : List Nat} {ord : Nat} {s : State} (h : canDma s = false) (f : Inflight → State) :
    withBuffer ops ord s f = .next s := by
  simp [withBuffer, h]

/-- Progress leaves a descriptor's number, ring and content. -/
@[simp] theorem Inflight.toPhase_ord (d : Inflight) (ph : Phase) : (d.toPhase ph).ord = d.ord := by
  unfold Inflight.toPhase; split <;> rfl
@[simp] theorem Inflight.toPhase_sq (d : Inflight) (ph : Phase) : (d.toPhase ph).sq = d.sq := by
  unfold Inflight.toPhase; split <;> rfl
@[simp] theorem Inflight.toPhase_bytes (d : Inflight) (ph : Phase) : (d.toPhase ph).bytes = d.bytes := by
  unfold Inflight.toPhase; split <;> rfl
/-- A descriptor that has not finished takes its new phase. -/
theorem Inflight.toPhase_open {d : Inflight} (h : d.phase.isDone = false) (ph : Phase) : d.toPhase ph = { d with phase := ph } := by
  simp [Inflight.toPhase, h]

/-- A descriptor that starts is waiting. -/
theorem Starts.waiting {s : State} {ord op : Nat} {d : Inflight} (h : Starts s ord op d) : d.phase = .waiting := by
  have := h.order
  simp only [mayStart, Bool.and_eq_true, beq_iff_eq] at this
  exact this.1.1.1.1

/-- Setting the phase of one descriptor finds it with that phase, unless it has finished. -/
theorem flight_setPhase_same (s : State) (ord : Nat) (ph : Phase) :
    (s.setPhase ord ph).flight ord = (s.flight ord).map fun d => d.toPhase ph := by
  simp only [State.flight, State.setPhase, State.updHost]
  generalize s.host.inflight = l
  induction l with
  | nil => rfl
  | cons d l ih =>
    by_cases h : d.ord = ord
    · simp [h]
    · simpa [h] using ih

/-- The other descriptors keep theirs. -/
theorem flight_setPhase_other (s : State) (ord : Nat) (ph : Phase) (o : Nat) (ho : o ≠ ord) :
    (s.setPhase ord ph).flight o = s.flight o := by
  simp only [State.flight, State.setPhase, State.updHost]
  generalize s.host.inflight = l
  induction l with
  | nil => rfl
  | cons d l ih =>
    by_cases h : d.ord = ord
    · have h' : (d.ord == o) = false := by simp [h, Ne.symm ho]
      simpa [List.find?_cons, h, h', Ne.symm ho] using ih
    · by_cases h2 : d.ord = o
      · simp [h2, ho]
      · simpa [h, h2] using ih

end Sys2Proof.Machine
end

