-- ==== Sys2Proof/Laws/State.lean ====
section
/-! SUPPORT. What each update of the state leaves and what it writes, field by field, and how a table reads after an update. -/

namespace Sys2Proof.Machine

/-! Tables. -/

@[simp] theorem Tab.at_upd_same {α : Type} {n : Nat} {v : Vector α n} {i : Nat} {f : α → α} {d : α} (h : i < n) :
    Tab.at (Tab.upd v i f) i d = f (Tab.at v i d) := by
  unfold Tab.at Tab.upd
  simp [List.getD, h]
theorem Tab.at_upd_other {α : Type} {n : Nat} {v : Vector α n} {i j : Nat} {f : α → α} {d : α} (h : j ≠ i) :
    Tab.at (Tab.upd v i f) j d = Tab.at v j d := by
  unfold Tab.at Tab.upd
  by_cases hj : j < n
  · by_cases hi : i < n
    · simp [List.getD, hj, hi, h.symm]
    · simp [List.getD, hj, hi]
  · simp [List.getD, hj]

/-! setReg writes `regs`. -/

section
variable (s : State) (a : Nat) (v : Word)
@[simp] theorem State.setReg_pending : (s.setReg a v).pending = s.pending := rfl
@[simp] theorem State.setReg_regs : (s.setReg a v).regs = Regs.set s.regs a v := rfl
@[simp] theorem State.setReg_hearth : (s.setReg a v).hearth = s.hearth := rfl
@[simp] theorem State.setReg_flue : (s.setReg a v).flue = s.flue := rfl
@[simp] theorem State.setReg_chain : (s.setReg a v).chain = s.chain := rfl
@[simp] theorem State.setReg_evals : (s.setReg a v).evals = s.evals := rfl
@[simp] theorem State.setReg_point : (s.setReg a v).point = s.point := rfl
@[simp] theorem State.setReg_energyHi : (s.setReg a v).energyHi = s.energyHi := rfl
@[simp] theorem State.setReg_pulse : (s.setReg a v).pulse = s.pulse := rfl
@[simp] theorem State.setReg_spectral : (s.setReg a v).spectral = s.spectral := rfl
@[simp] theorem State.setReg_events : (s.setReg a v).events = s.events := rfl
@[simp] theorem State.setReg_damper : (s.setReg a v).damper = s.damper := rfl
@[simp] theorem State.setReg_session : (s.setReg a v).session = s.session := rfl
@[simp] theorem State.setReg_ember : (s.setReg a v).ember = s.ember := rfl
@[simp] theorem State.setReg_host : (s.setReg a v).host = s.host := rfl
@[simp] theorem State.setReg_fault : (s.setReg a v).fault = s.fault := rfl
@[simp] theorem State.setReg_rst : (s.setReg a v).rst = s.rst := rfl
@[simp] theorem State.setReg_clk : (s.setReg a v).clk = s.clk := rfl
@[simp] theorem State.setReg_rtc : (s.setReg a v).rtc = s.rtc := rfl
@[simp] theorem State.setReg_trust : (s.setReg a v).trust = s.trust := rfl
@[simp] theorem State.setReg_fw : (s.setReg a v).fw = s.fw := rfl
@[simp] theorem State.setReg_aud : (s.setReg a v).aud = s.aud := rfl
@[simp] theorem State.setReg_link : (s.setReg a v).link = s.link := rfl
@[simp] theorem State.setReg_mantel : (s.setReg a v).mantel = s.mantel := rfl
@[simp] theorem State.setReg_dram : (s.setReg a v).dram = s.dram := rfl
@[simp] theorem State.setReg_pins : (s.setReg a v).pins = s.pins := rfl
end

/-! setBits writes `regs`. -/

section
variable (s : State) (a : Nat) (m : Word)
@[simp] theorem State.setBits_pending : (s.setBits a m).pending = s.pending := rfl
@[simp] theorem State.setBits_regs : (s.setBits a m).regs = Regs.set s.regs a (s.reg a ||| m) := rfl
@[simp] theorem State.setBits_hearth : (s.setBits a m).hearth = s.hearth := rfl
@[simp] theorem State.setBits_flue : (s.setBits a m).flue = s.flue := rfl
@[simp] theorem State.setBits_chain : (s.setBits a m).chain = s.chain := rfl
@[simp] theorem State.setBits_evals : (s.setBits a m).evals = s.evals := rfl
@[simp] theorem State.setBits_point : (s.setBits a m).point = s.point := rfl
@[simp] theorem State.setBits_energyHi : (s.setBits a m).energyHi = s.energyHi := rfl
@[simp] theorem State.setBits_pulse : (s.setBits a m).pulse = s.pulse := rfl
@[simp] theorem State.setBits_spectral : (s.setBits a m).spectral = s.spectral := rfl
@[simp] theorem State.setBits_events : (s.setBits a m).events = s.events := rfl
@[simp] theorem State.setBits_damper : (s.setBits a m).damper = s.damper := rfl
@[simp] theorem State.setBits_session : (s.setBits a m).session = s.session := rfl
@[simp] theorem State.setBits_ember : (s.setBits a m).ember = s.ember := rfl
@[simp] theorem State.setBits_host : (s.setBits a m).host = s.host := rfl
@[simp] theorem State.setBits_fault : (s.setBits a m).fault = s.fault := rfl
@[simp] theorem State.setBits_rst : (s.setBits a m).rst = s.rst := rfl
@[simp] theorem State.setBits_clk : (s.setBits a m).clk = s.clk := rfl
@[simp] theorem State.setBits_rtc : (s.setBits a m).rtc = s.rtc := rfl
@[simp] theorem State.setBits_trust : (s.setBits a m).trust = s.trust := rfl
@[simp] theorem State.setBits_fw : (s.setBits a m).fw = s.fw := rfl
@[simp] theorem State.setBits_aud : (s.setBits a m).aud = s.aud := rfl
@[simp] theorem State.setBits_link : (s.setBits a m).link = s.link := rfl
@[simp] theorem State.setBits_mantel : (s.setBits a m).mantel = s.mantel := rfl
@[simp] theorem State.setBits_dram : (s.setBits a m).dram = s.dram := rfl
@[simp] theorem State.setBits_pins : (s.setBits a m).pins = s.pins := rfl
end

/-! setFlag writes `regs`. -/

section
variable (s : State) (a i : Nat)
@[simp] theorem State.setFlag_pending : (s.setFlag a i).pending = s.pending := rfl
@[simp] theorem State.setFlag_regs : (s.setFlag a i).regs = Regs.set s.regs a (s.reg a ||| putAt 1 i) := rfl
@[simp] theorem State.setFlag_hearth : (s.setFlag a i).hearth = s.hearth := rfl
@[simp] theorem State.setFlag_flue : (s.setFlag a i).flue = s.flue := rfl
@[simp] theorem State.setFlag_chain : (s.setFlag a i).chain = s.chain := rfl
@[simp] theorem State.setFlag_evals : (s.setFlag a i).evals = s.evals := rfl
@[simp] theorem State.setFlag_point : (s.setFlag a i).point = s.point := rfl
@[simp] theorem State.setFlag_energyHi : (s.setFlag a i).energyHi = s.energyHi := rfl
@[simp] theorem State.setFlag_pulse : (s.setFlag a i).pulse = s.pulse := rfl
@[simp] theorem State.setFlag_spectral : (s.setFlag a i).spectral = s.spectral := rfl
@[simp] theorem State.setFlag_events : (s.setFlag a i).events = s.events := rfl
@[simp] theorem State.setFlag_damper : (s.setFlag a i).damper = s.damper := rfl
@[simp] theorem State.setFlag_session : (s.setFlag a i).session = s.session := rfl
@[simp] theorem State.setFlag_ember : (s.setFlag a i).ember = s.ember := rfl
@[simp] theorem State.setFlag_host : (s.setFlag a i).host = s.host := rfl
@[simp] theorem State.setFlag_fault : (s.setFlag a i).fault = s.fault := rfl
@[simp] theorem State.setFlag_rst : (s.setFlag a i).rst = s.rst := rfl
@[simp] theorem State.setFlag_clk : (s.setFlag a i).clk = s.clk := rfl
@[simp] theorem State.setFlag_rtc : (s.setFlag a i).rtc = s.rtc := rfl
@[simp] theorem State.setFlag_trust : (s.setFlag a i).trust = s.trust := rfl
@[simp] theorem State.setFlag_fw : (s.setFlag a i).fw = s.fw := rfl
@[simp] theorem State.setFlag_aud : (s.setFlag a i).aud = s.aud := rfl
@[simp] theorem State.setFlag_link : (s.setFlag a i).link = s.link := rfl
@[simp] theorem State.setFlag_mantel : (s.setFlag a i).mantel = s.mantel := rfl
@[simp] theorem State.setFlag_dram : (s.setFlag a i).dram = s.dram := rfl
@[simp] theorem State.setFlag_pins : (s.setFlag a i).pins = s.pins := rfl
end

/-! putField writes `regs`. -/

section
variable (s : State) (a hi lo v : Nat)
@[simp] theorem State.putField_pending : (s.putField a hi lo v).pending = s.pending := rfl
@[simp] theorem State.putField_regs : (s.putField a hi lo v).regs = Regs.set s.regs a (mergeMask (maskOf hi lo) (s.reg a) (putAt v lo)) := rfl
@[simp] theorem State.putField_hearth : (s.putField a hi lo v).hearth = s.hearth := rfl
@[simp] theorem State.putField_flue : (s.putField a hi lo v).flue = s.flue := rfl
@[simp] theorem State.putField_chain : (s.putField a hi lo v).chain = s.chain := rfl
@[simp] theorem State.putField_evals : (s.putField a hi lo v).evals = s.evals := rfl
@[simp] theorem State.putField_point : (s.putField a hi lo v).point = s.point := rfl
@[simp] theorem State.putField_energyHi : (s.putField a hi lo v).energyHi = s.energyHi := rfl
@[simp] theorem State.putField_pulse : (s.putField a hi lo v).pulse = s.pulse := rfl
@[simp] theorem State.putField_spectral : (s.putField a hi lo v).spectral = s.spectral := rfl
@[simp] theorem State.putField_events : (s.putField a hi lo v).events = s.events := rfl
@[simp] theorem State.putField_damper : (s.putField a hi lo v).damper = s.damper := rfl
@[simp] theorem State.putField_session : (s.putField a hi lo v).session = s.session := rfl
@[simp] theorem State.putField_ember : (s.putField a hi lo v).ember = s.ember := rfl
@[simp] theorem State.putField_host : (s.putField a hi lo v).host = s.host := rfl
@[simp] theorem State.putField_fault : (s.putField a hi lo v).fault = s.fault := rfl
@[simp] theorem State.putField_rst : (s.putField a hi lo v).rst = s.rst := rfl
@[simp] theorem State.putField_clk : (s.putField a hi lo v).clk = s.clk := rfl
@[simp] theorem State.putField_rtc : (s.putField a hi lo v).rtc = s.rtc := rfl
@[simp] theorem State.putField_trust : (s.putField a hi lo v).trust = s.trust := rfl
@[simp] theorem State.putField_fw : (s.putField a hi lo v).fw = s.fw := rfl
@[simp] theorem State.putField_aud : (s.putField a hi lo v).aud = s.aud := rfl
@[simp] theorem State.putField_link : (s.putField a hi lo v).link = s.link := rfl
@[simp] theorem State.putField_mantel : (s.putField a hi lo v).mantel = s.mantel := rfl
@[simp] theorem State.putField_dram : (s.putField a hi lo v).dram = s.dram := rfl
@[simp] theorem State.putField_pins : (s.putField a hi lo v).pins = s.pins := rfl
end

/-! setIsland writes `rst`. -/

section
variable (s : State) (i : Nat) (v : IslandState)
@[simp] theorem State.setIsland_pending : (s.setIsland i v).pending = s.pending := rfl
@[simp] theorem State.setIsland_regs : (s.setIsland i v).regs = s.regs := rfl
@[simp] theorem State.setIsland_hearth : (s.setIsland i v).hearth = s.hearth := rfl
@[simp] theorem State.setIsland_flue : (s.setIsland i v).flue = s.flue := rfl
@[simp] theorem State.setIsland_chain : (s.setIsland i v).chain = s.chain := rfl
@[simp] theorem State.setIsland_evals : (s.setIsland i v).evals = s.evals := rfl
@[simp] theorem State.setIsland_point : (s.setIsland i v).point = s.point := rfl
@[simp] theorem State.setIsland_energyHi : (s.setIsland i v).energyHi = s.energyHi := rfl
@[simp] theorem State.setIsland_pulse : (s.setIsland i v).pulse = s.pulse := rfl
@[simp] theorem State.setIsland_spectral : (s.setIsland i v).spectral = s.spectral := rfl
@[simp] theorem State.setIsland_events : (s.setIsland i v).events = s.events := rfl
@[simp] theorem State.setIsland_damper : (s.setIsland i v).damper = s.damper := rfl
@[simp] theorem State.setIsland_session : (s.setIsland i v).session = s.session := rfl
@[simp] theorem State.setIsland_ember : (s.setIsland i v).ember = s.ember := rfl
@[simp] theorem State.setIsland_host : (s.setIsland i v).host = s.host := rfl
@[simp] theorem State.setIsland_fault : (s.setIsland i v).fault = s.fault := rfl
@[simp] theorem State.setIsland_rst : (s.setIsland i v).rst = { s.rst with islands := Tab.upd s.rst.islands i fun _ => v } := rfl
@[simp] theorem State.setIsland_clk : (s.setIsland i v).clk = s.clk := rfl
@[simp] theorem State.setIsland_rtc : (s.setIsland i v).rtc = s.rtc := rfl
@[simp] theorem State.setIsland_trust : (s.setIsland i v).trust = s.trust := rfl
@[simp] theorem State.setIsland_fw : (s.setIsland i v).fw = s.fw := rfl
@[simp] theorem State.setIsland_aud : (s.setIsland i v).aud = s.aud := rfl
@[simp] theorem State.setIsland_link : (s.setIsland i v).link = s.link := rfl
@[simp] theorem State.setIsland_mantel : (s.setIsland i v).mantel = s.mantel := rfl
@[simp] theorem State.setIsland_dram : (s.setIsland i v).dram = s.dram := rfl
@[simp] theorem State.setIsland_pins : (s.setIsland i v).pins = s.pins := rfl
end

/-! updHearth writes `hearth`. -/

section
variable (s : State) (h : Nat) (f : Hearth → Hearth)
@[simp] theorem State.updHearth_pending : (s.updHearth h f).pending = s.pending := rfl
@[simp] theorem State.updHearth_regs : (s.updHearth h f).regs = s.regs := rfl
@[simp] theorem State.updHearth_hearth : (s.updHearth h f).hearth = Tab.upd s.hearth h f := rfl
@[simp] theorem State.updHearth_flue : (s.updHearth h f).flue = s.flue := rfl
@[simp] theorem State.updHearth_chain : (s.updHearth h f).chain = s.chain := rfl
@[simp] theorem State.updHearth_evals : (s.updHearth h f).evals = s.evals := rfl
@[simp] theorem State.updHearth_point : (s.updHearth h f).point = s.point := rfl
@[simp] theorem State.updHearth_energyHi : (s.updHearth h f).energyHi = s.energyHi := rfl
@[simp] theorem State.updHearth_pulse : (s.updHearth h f).pulse = s.pulse := rfl
@[simp] theorem State.updHearth_spectral : (s.updHearth h f).spectral = s.spectral := rfl
@[simp] theorem State.updHearth_events : (s.updHearth h f).events = s.events := rfl
@[simp] theorem State.updHearth_damper : (s.updHearth h f).damper = s.damper := rfl
@[simp] theorem State.updHearth_session : (s.updHearth h f).session = s.session := rfl
@[simp] theorem State.updHearth_ember : (s.updHearth h f).ember = s.ember := rfl
@[simp] theorem State.updHearth_host : (s.updHearth h f).host = s.host := rfl
@[simp] theorem State.updHearth_fault : (s.updHearth h f).fault = s.fault := rfl
@[simp] theorem State.updHearth_rst : (s.updHearth h f).rst = s.rst := rfl
@[simp] theorem State.updHearth_clk : (s.updHearth h f).clk = s.clk := rfl
@[simp] theorem State.updHearth_rtc : (s.updHearth h f).rtc = s.rtc := rfl
@[simp] theorem State.updHearth_trust : (s.updHearth h f).trust = s.trust := rfl
@[simp] theorem State.updHearth_fw : (s.updHearth h f).fw = s.fw := rfl
@[simp] theorem State.updHearth_aud : (s.updHearth h f).aud = s.aud := rfl
@[simp] theorem State.updHearth_link : (s.updHearth h f).link = s.link := rfl
@[simp] theorem State.updHearth_mantel : (s.updHearth h f).mantel = s.mantel := rfl
@[simp] theorem State.updHearth_dram : (s.updHearth h f).dram = s.dram := rfl
@[simp] theorem State.updHearth_pins : (s.updHearth h f).pins = s.pins := rfl
end

/-! updFlue writes `flue`. -/

section
variable (s : State) (h : Nat) (f : Flue → Flue)
@[simp] theorem State.updFlue_pending : (s.updFlue h f).pending = s.pending := rfl
@[simp] theorem State.updFlue_regs : (s.updFlue h f).regs = s.regs := rfl
@[simp] theorem State.updFlue_hearth : (s.updFlue h f).hearth = s.hearth := rfl
@[simp] theorem State.updFlue_flue : (s.updFlue h f).flue = Tab.upd s.flue h f := rfl
@[simp] theorem State.updFlue_chain : (s.updFlue h f).chain = s.chain := rfl
@[simp] theorem State.updFlue_evals : (s.updFlue h f).evals = s.evals := rfl
@[simp] theorem State.updFlue_point : (s.updFlue h f).point = s.point := rfl
@[simp] theorem State.updFlue_energyHi : (s.updFlue h f).energyHi = s.energyHi := rfl
@[simp] theorem State.updFlue_pulse : (s.updFlue h f).pulse = s.pulse := rfl
@[simp] theorem State.updFlue_spectral : (s.updFlue h f).spectral = s.spectral := rfl
@[simp] theorem State.updFlue_events : (s.updFlue h f).events = s.events := rfl
@[simp] theorem State.updFlue_damper : (s.updFlue h f).damper = s.damper := rfl
@[simp] theorem State.updFlue_session : (s.updFlue h f).session = s.session := rfl
@[simp] theorem State.updFlue_ember : (s.updFlue h f).ember = s.ember := rfl
@[simp] theorem State.updFlue_host : (s.updFlue h f).host = s.host := rfl
@[simp] theorem State.updFlue_fault : (s.updFlue h f).fault = s.fault := rfl
@[simp] theorem State.updFlue_rst : (s.updFlue h f).rst = s.rst := rfl
@[simp] theorem State.updFlue_clk : (s.updFlue h f).clk = s.clk := rfl
@[simp] theorem State.updFlue_rtc : (s.updFlue h f).rtc = s.rtc := rfl
@[simp] theorem State.updFlue_trust : (s.updFlue h f).trust = s.trust := rfl
@[simp] theorem State.updFlue_fw : (s.updFlue h f).fw = s.fw := rfl
@[simp] theorem State.updFlue_aud : (s.updFlue h f).aud = s.aud := rfl
@[simp] theorem State.updFlue_link : (s.updFlue h f).link = s.link := rfl
@[simp] theorem State.updFlue_mantel : (s.updFlue h f).mantel = s.mantel := rfl
@[simp] theorem State.updFlue_dram : (s.updFlue h f).dram = s.dram := rfl
@[simp] theorem State.updFlue_pins : (s.updFlue h f).pins = s.pins := rfl
end

/-! updChain writes `chain`. -/

section
variable (s : State) (i : Nat) (f : Chain → Chain)
@[simp] theorem State.updChain_pending : (s.updChain i f).pending = s.pending := rfl
@[simp] theorem State.updChain_regs : (s.updChain i f).regs = s.regs := rfl
@[simp] theorem State.updChain_hearth : (s.updChain i f).hearth = s.hearth := rfl
@[simp] theorem State.updChain_flue : (s.updChain i f).flue = s.flue := rfl
@[simp] theorem State.updChain_chain : (s.updChain i f).chain = Tab.upd s.chain i f := rfl
@[simp] theorem State.updChain_evals : (s.updChain i f).evals = s.evals := rfl
@[simp] theorem State.updChain_point : (s.updChain i f).point = s.point := rfl
@[simp] theorem State.updChain_energyHi : (s.updChain i f).energyHi = s.energyHi := rfl
@[simp] theorem State.updChain_pulse : (s.updChain i f).pulse = s.pulse := rfl
@[simp] theorem State.updChain_spectral : (s.updChain i f).spectral = s.spectral := rfl
@[simp] theorem State.updChain_events : (s.updChain i f).events = s.events := rfl
@[simp] theorem State.updChain_damper : (s.updChain i f).damper = s.damper := rfl
@[simp] theorem State.updChain_session : (s.updChain i f).session = s.session := rfl
@[simp] theorem State.updChain_ember : (s.updChain i f).ember = s.ember := rfl
@[simp] theorem State.updChain_host : (s.updChain i f).host = s.host := rfl
@[simp] theorem State.updChain_fault : (s.updChain i f).fault = s.fault := rfl
@[simp] theorem State.updChain_rst : (s.updChain i f).rst = s.rst := rfl
@[simp] theorem State.updChain_clk : (s.updChain i f).clk = s.clk := rfl
@[simp] theorem State.updChain_rtc : (s.updChain i f).rtc = s.rtc := rfl
@[simp] theorem State.updChain_trust : (s.updChain i f).trust = s.trust := rfl
@[simp] theorem State.updChain_fw : (s.updChain i f).fw = s.fw := rfl
@[simp] theorem State.updChain_aud : (s.updChain i f).aud = s.aud := rfl
@[simp] theorem State.updChain_link : (s.updChain i f).link = s.link := rfl
@[simp] theorem State.updChain_mantel : (s.updChain i f).mantel = s.mantel := rfl
@[simp] theorem State.updChain_dram : (s.updChain i f).dram = s.dram := rfl
@[simp] theorem State.updChain_pins : (s.updChain i f).pins = s.pins := rfl
end

/-! updPoint writes `point`. -/

section
variable (s : State) (p : Nat) (f : Point → Point)
@[simp] theorem State.updPoint_pending : (s.updPoint p f).pending = s.pending := rfl
@[simp] theorem State.updPoint_regs : (s.updPoint p f).regs = s.regs := rfl
@[simp] theorem State.updPoint_hearth : (s.updPoint p f).hearth = s.hearth := rfl
@[simp] theorem State.updPoint_flue : (s.updPoint p f).flue = s.flue := rfl
@[simp] theorem State.updPoint_chain : (s.updPoint p f).chain = s.chain := rfl
@[simp] theorem State.updPoint_evals : (s.updPoint p f).evals = s.evals := rfl
@[simp] theorem State.updPoint_point : (s.updPoint p f).point = Tab.upd s.point p f := rfl
@[simp] theorem State.updPoint_energyHi : (s.updPoint p f).energyHi = s.energyHi := rfl
@[simp] theorem State.updPoint_pulse : (s.updPoint p f).pulse = s.pulse := rfl
@[simp] theorem State.updPoint_spectral : (s.updPoint p f).spectral = s.spectral := rfl
@[simp] theorem State.updPoint_events : (s.updPoint p f).events = s.events := rfl
@[simp] theorem State.updPoint_damper : (s.updPoint p f).damper = s.damper := rfl
@[simp] theorem State.updPoint_session : (s.updPoint p f).session = s.session := rfl
@[simp] theorem State.updPoint_ember : (s.updPoint p f).ember = s.ember := rfl
@[simp] theorem State.updPoint_host : (s.updPoint p f).host = s.host := rfl
@[simp] theorem State.updPoint_fault : (s.updPoint p f).fault = s.fault := rfl
@[simp] theorem State.updPoint_rst : (s.updPoint p f).rst = s.rst := rfl
@[simp] theorem State.updPoint_clk : (s.updPoint p f).clk = s.clk := rfl
@[simp] theorem State.updPoint_rtc : (s.updPoint p f).rtc = s.rtc := rfl
@[simp] theorem State.updPoint_trust : (s.updPoint p f).trust = s.trust := rfl
@[simp] theorem State.updPoint_fw : (s.updPoint p f).fw = s.fw := rfl
@[simp] theorem State.updPoint_aud : (s.updPoint p f).aud = s.aud := rfl
@[simp] theorem State.updPoint_link : (s.updPoint p f).link = s.link := rfl
@[simp] theorem State.updPoint_mantel : (s.updPoint p f).mantel = s.mantel := rfl
@[simp] theorem State.updPoint_dram : (s.updPoint p f).dram = s.dram := rfl
@[simp] theorem State.updPoint_pins : (s.updPoint p f).pins = s.pins := rfl
end

/-! updSession writes `session`. -/

section
variable (s : State) (k : Nat) (f : Session → Session)
@[simp] theorem State.updSession_pending : (s.updSession k f).pending = s.pending := rfl
@[simp] theorem State.updSession_regs : (s.updSession k f).regs = s.regs := rfl
@[simp] theorem State.updSession_hearth : (s.updSession k f).hearth = s.hearth := rfl
@[simp] theorem State.updSession_flue : (s.updSession k f).flue = s.flue := rfl
@[simp] theorem State.updSession_chain : (s.updSession k f).chain = s.chain := rfl
@[simp] theorem State.updSession_evals : (s.updSession k f).evals = s.evals := rfl
@[simp] theorem State.updSession_point : (s.updSession k f).point = s.point := rfl
@[simp] theorem State.updSession_energyHi : (s.updSession k f).energyHi = s.energyHi := rfl
@[simp] theorem State.updSession_pulse : (s.updSession k f).pulse = s.pulse := rfl
@[simp] theorem State.updSession_spectral : (s.updSession k f).spectral = s.spectral := rfl
@[simp] theorem State.updSession_events : (s.updSession k f).events = s.events := rfl
@[simp] theorem State.updSession_damper : (s.updSession k f).damper = s.damper := rfl
@[simp] theorem State.updSession_session : (s.updSession k f).session = Tab.upd s.session k f := rfl
@[simp] theorem State.updSession_ember : (s.updSession k f).ember = s.ember := rfl
@[simp] theorem State.updSession_host : (s.updSession k f).host = s.host := rfl
@[simp] theorem State.updSession_fault : (s.updSession k f).fault = s.fault := rfl
@[simp] theorem State.updSession_rst : (s.updSession k f).rst = s.rst := rfl
@[simp] theorem State.updSession_clk : (s.updSession k f).clk = s.clk := rfl
@[simp] theorem State.updSession_rtc : (s.updSession k f).rtc = s.rtc := rfl
@[simp] theorem State.updSession_trust : (s.updSession k f).trust = s.trust := rfl
@[simp] theorem State.updSession_fw : (s.updSession k f).fw = s.fw := rfl
@[simp] theorem State.updSession_aud : (s.updSession k f).aud = s.aud := rfl
@[simp] theorem State.updSession_link : (s.updSession k f).link = s.link := rfl
@[simp] theorem State.updSession_mantel : (s.updSession k f).mantel = s.mantel := rfl
@[simp] theorem State.updSession_dram : (s.updSession k f).dram = s.dram := rfl
@[simp] theorem State.updSession_pins : (s.updSession k f).pins = s.pins := rfl
end

/-! updPulse writes `pulse`. -/

section
variable (s : State) (c : Nat) (f : Pulse → Pulse)
@[simp] theorem State.updPulse_pending : (s.updPulse c f).pending = s.pending := rfl
@[simp] theorem State.updPulse_regs : (s.updPulse c f).regs = s.regs := rfl
@[simp] theorem State.updPulse_hearth : (s.updPulse c f).hearth = s.hearth := rfl
@[simp] theorem State.updPulse_flue : (s.updPulse c f).flue = s.flue := rfl
@[simp] theorem State.updPulse_chain : (s.updPulse c f).chain = s.chain := rfl
@[simp] theorem State.updPulse_evals : (s.updPulse c f).evals = s.evals := rfl
@[simp] theorem State.updPulse_point : (s.updPulse c f).point = s.point := rfl
@[simp] theorem State.updPulse_energyHi : (s.updPulse c f).energyHi = s.energyHi := rfl
@[simp] theorem State.updPulse_pulse : (s.updPulse c f).pulse = Tab.upd s.pulse c f := rfl
@[simp] theorem State.updPulse_spectral : (s.updPulse c f).spectral = s.spectral := rfl
@[simp] theorem State.updPulse_events : (s.updPulse c f).events = s.events := rfl
@[simp] theorem State.updPulse_damper : (s.updPulse c f).damper = s.damper := rfl
@[simp] theorem State.updPulse_session : (s.updPulse c f).session = s.session := rfl
@[simp] theorem State.updPulse_ember : (s.updPulse c f).ember = s.ember := rfl
@[simp] theorem State.updPulse_host : (s.updPulse c f).host = s.host := rfl
@[simp] theorem State.updPulse_fault : (s.updPulse c f).fault = s.fault := rfl
@[simp] theorem State.updPulse_rst : (s.updPulse c f).rst = s.rst := rfl
@[simp] theorem State.updPulse_clk : (s.updPulse c f).clk = s.clk := rfl
@[simp] theorem State.updPulse_rtc : (s.updPulse c f).rtc = s.rtc := rfl
@[simp] theorem State.updPulse_trust : (s.updPulse c f).trust = s.trust := rfl
@[simp] theorem State.updPulse_fw : (s.updPulse c f).fw = s.fw := rfl
@[simp] theorem State.updPulse_aud : (s.updPulse c f).aud = s.aud := rfl
@[simp] theorem State.updPulse_link : (s.updPulse c f).link = s.link := rfl
@[simp] theorem State.updPulse_mantel : (s.updPulse c f).mantel = s.mantel := rfl
@[simp] theorem State.updPulse_dram : (s.updPulse c f).dram = s.dram := rfl
@[simp] theorem State.updPulse_pins : (s.updPulse c f).pins = s.pins := rfl
end

/-! updDamper writes `damper`. -/

section
variable (s : State) (f : Damper → Damper)
@[simp] theorem State.updDamper_pending : (s.updDamper f).pending = s.pending := rfl
@[simp] theorem State.updDamper_regs : (s.updDamper f).regs = s.regs := rfl
@[simp] theorem State.updDamper_hearth : (s.updDamper f).hearth = s.hearth := rfl
@[simp] theorem State.updDamper_flue : (s.updDamper f).flue = s.flue := rfl
@[simp] theorem State.updDamper_chain : (s.updDamper f).chain = s.chain := rfl
@[simp] theorem State.updDamper_evals : (s.updDamper f).evals = s.evals := rfl
@[simp] theorem State.updDamper_point : (s.updDamper f).point = s.point := rfl
@[simp] theorem State.updDamper_energyHi : (s.updDamper f).energyHi = s.energyHi := rfl
@[simp] theorem State.updDamper_pulse : (s.updDamper f).pulse = s.pulse := rfl
@[simp] theorem State.updDamper_spectral : (s.updDamper f).spectral = s.spectral := rfl
@[simp] theorem State.updDamper_events : (s.updDamper f).events = s.events := rfl
@[simp] theorem State.updDamper_damper : (s.updDamper f).damper = f s.damper := rfl
@[simp] theorem State.updDamper_session : (s.updDamper f).session = s.session := rfl
@[simp] theorem State.updDamper_ember : (s.updDamper f).ember = s.ember := rfl
@[simp] theorem State.updDamper_host : (s.updDamper f).host = s.host := rfl
@[simp] theorem State.updDamper_fault : (s.updDamper f).fault = s.fault := rfl
@[simp] theorem State.updDamper_rst : (s.updDamper f).rst = s.rst := rfl
@[simp] theorem State.updDamper_clk : (s.updDamper f).clk = s.clk := rfl
@[simp] theorem State.updDamper_rtc : (s.updDamper f).rtc = s.rtc := rfl
@[simp] theorem State.updDamper_trust : (s.updDamper f).trust = s.trust := rfl
@[simp] theorem State.updDamper_fw : (s.updDamper f).fw = s.fw := rfl
@[simp] theorem State.updDamper_aud : (s.updDamper f).aud = s.aud := rfl
@[simp] theorem State.updDamper_link : (s.updDamper f).link = s.link := rfl
@[simp] theorem State.updDamper_mantel : (s.updDamper f).mantel = s.mantel := rfl
@[simp] theorem State.updDamper_dram : (s.updDamper f).dram = s.dram := rfl
@[simp] theorem State.updDamper_pins : (s.updDamper f).pins = s.pins := rfl
end

/-! updEmber writes `ember`. -/

section
variable (s : State) (f : Ember → Ember)
@[simp] theorem State.updEmber_pending : (s.updEmber f).pending = s.pending := rfl
@[simp] theorem State.updEmber_regs : (s.updEmber f).regs = s.regs := rfl
@[simp] theorem State.updEmber_hearth : (s.updEmber f).hearth = s.hearth := rfl
@[simp] theorem State.updEmber_flue : (s.updEmber f).flue = s.flue := rfl
@[simp] theorem State.updEmber_chain : (s.updEmber f).chain = s.chain := rfl
@[simp] theorem State.updEmber_evals : (s.updEmber f).evals = s.evals := rfl
@[simp] theorem State.updEmber_point : (s.updEmber f).point = s.point := rfl
@[simp] theorem State.updEmber_energyHi : (s.updEmber f).energyHi = s.energyHi := rfl
@[simp] theorem State.updEmber_pulse : (s.updEmber f).pulse = s.pulse := rfl
@[simp] theorem State.updEmber_spectral : (s.updEmber f).spectral = s.spectral := rfl
@[simp] theorem State.updEmber_events : (s.updEmber f).events = s.events := rfl
@[simp] theorem State.updEmber_damper : (s.updEmber f).damper = s.damper := rfl
@[simp] theorem State.updEmber_session : (s.updEmber f).session = s.session := rfl
@[simp] theorem State.updEmber_ember : (s.updEmber f).ember = f s.ember := rfl
@[simp] theorem State.updEmber_host : (s.updEmber f).host = s.host := rfl
@[simp] theorem State.updEmber_fault : (s.updEmber f).fault = s.fault := rfl
@[simp] theorem State.updEmber_rst : (s.updEmber f).rst = s.rst := rfl
@[simp] theorem State.updEmber_clk : (s.updEmber f).clk = s.clk := rfl
@[simp] theorem State.updEmber_rtc : (s.updEmber f).rtc = s.rtc := rfl
@[simp] theorem State.updEmber_trust : (s.updEmber f).trust = s.trust := rfl
@[simp] theorem State.updEmber_fw : (s.updEmber f).fw = s.fw := rfl
@[simp] theorem State.updEmber_aud : (s.updEmber f).aud = s.aud := rfl
@[simp] theorem State.updEmber_link : (s.updEmber f).link = s.link := rfl
@[simp] theorem State.updEmber_mantel : (s.updEmber f).mantel = s.mantel := rfl
@[simp] theorem State.updEmber_dram : (s.updEmber f).dram = s.dram := rfl
@[simp] theorem State.updEmber_pins : (s.updEmber f).pins = s.pins := rfl
end

/-! updHost writes `host`. -/

section
variable (s : State) (f : HostIf → HostIf)
@[simp] theorem State.updHost_pending : (s.updHost f).pending = s.pending := rfl
@[simp] theorem State.updHost_regs : (s.updHost f).regs = s.regs := rfl
@[simp] theorem State.updHost_hearth : (s.updHost f).hearth = s.hearth := rfl
@[simp] theorem State.updHost_flue : (s.updHost f).flue = s.flue := rfl
@[simp] theorem State.updHost_chain : (s.updHost f).chain = s.chain := rfl
@[simp] theorem State.updHost_evals : (s.updHost f).evals = s.evals := rfl
@[simp] theorem State.updHost_point : (s.updHost f).point = s.point := rfl
@[simp] theorem State.updHost_energyHi : (s.updHost f).energyHi = s.energyHi := rfl
@[simp] theorem State.updHost_pulse : (s.updHost f).pulse = s.pulse := rfl
@[simp] theorem State.updHost_spectral : (s.updHost f).spectral = s.spectral := rfl
@[simp] theorem State.updHost_events : (s.updHost f).events = s.events := rfl
@[simp] theorem State.updHost_damper : (s.updHost f).damper = s.damper := rfl
@[simp] theorem State.updHost_session : (s.updHost f).session = s.session := rfl
@[simp] theorem State.updHost_ember : (s.updHost f).ember = s.ember := rfl
@[simp] theorem State.updHost_host : (s.updHost f).host = f s.host := rfl
@[simp] theorem State.updHost_fault : (s.updHost f).fault = s.fault := rfl
@[simp] theorem State.updHost_rst : (s.updHost f).rst = s.rst := rfl
@[simp] theorem State.updHost_clk : (s.updHost f).clk = s.clk := rfl
@[simp] theorem State.updHost_rtc : (s.updHost f).rtc = s.rtc := rfl
@[simp] theorem State.updHost_trust : (s.updHost f).trust = s.trust := rfl
@[simp] theorem State.updHost_fw : (s.updHost f).fw = s.fw := rfl
@[simp] theorem State.updHost_aud : (s.updHost f).aud = s.aud := rfl
@[simp] theorem State.updHost_link : (s.updHost f).link = s.link := rfl
@[simp] theorem State.updHost_mantel : (s.updHost f).mantel = s.mantel := rfl
@[simp] theorem State.updHost_dram : (s.updHost f).dram = s.dram := rfl
@[simp] theorem State.updHost_pins : (s.updHost f).pins = s.pins := rfl
end

/-! readBack writes `host`. -/

section
variable (s : State) (v : Word)
@[simp] theorem State.readBack_pending : (s.readBack v).pending = s.pending := rfl
@[simp] theorem State.readBack_regs : (s.readBack v).regs = s.regs := rfl
@[simp] theorem State.readBack_hearth : (s.readBack v).hearth = s.hearth := rfl
@[simp] theorem State.readBack_flue : (s.readBack v).flue = s.flue := rfl
@[simp] theorem State.readBack_chain : (s.readBack v).chain = s.chain := rfl
@[simp] theorem State.readBack_evals : (s.readBack v).evals = s.evals := rfl
@[simp] theorem State.readBack_point : (s.readBack v).point = s.point := rfl
@[simp] theorem State.readBack_energyHi : (s.readBack v).energyHi = s.energyHi := rfl
@[simp] theorem State.readBack_pulse : (s.readBack v).pulse = s.pulse := rfl
@[simp] theorem State.readBack_spectral : (s.readBack v).spectral = s.spectral := rfl
@[simp] theorem State.readBack_events : (s.readBack v).events = s.events := rfl
@[simp] theorem State.readBack_damper : (s.readBack v).damper = s.damper := rfl
@[simp] theorem State.readBack_session : (s.readBack v).session = s.session := rfl
@[simp] theorem State.readBack_ember : (s.readBack v).ember = s.ember := rfl
@[simp] theorem State.readBack_host : (s.readBack v).host = { s.host with lastRead := some v } := rfl
@[simp] theorem State.readBack_fault : (s.readBack v).fault = s.fault := rfl
@[simp] theorem State.readBack_rst : (s.readBack v).rst = s.rst := rfl
@[simp] theorem State.readBack_clk : (s.readBack v).clk = s.clk := rfl
@[simp] theorem State.readBack_rtc : (s.readBack v).rtc = s.rtc := rfl
@[simp] theorem State.readBack_trust : (s.readBack v).trust = s.trust := rfl
@[simp] theorem State.readBack_fw : (s.readBack v).fw = s.fw := rfl
@[simp] theorem State.readBack_aud : (s.readBack v).aud = s.aud := rfl
@[simp] theorem State.readBack_link : (s.readBack v).link = s.link := rfl
@[simp] theorem State.readBack_mantel : (s.readBack v).mantel = s.mantel := rfl
@[simp] theorem State.readBack_dram : (s.readBack v).dram = s.dram := rfl
@[simp] theorem State.readBack_pins : (s.readBack v).pins = s.pins := rfl
end

/-! readAbort writes `host`. -/

section
variable (s : State)
@[simp] theorem State.readAbort_pending : (s.readAbort).pending = s.pending := rfl
@[simp] theorem State.readAbort_regs : (s.readAbort).regs = s.regs := rfl
@[simp] theorem State.readAbort_hearth : (s.readAbort).hearth = s.hearth := rfl
@[simp] theorem State.readAbort_flue : (s.readAbort).flue = s.flue := rfl
@[simp] theorem State.readAbort_chain : (s.readAbort).chain = s.chain := rfl
@[simp] theorem State.readAbort_evals : (s.readAbort).evals = s.evals := rfl
@[simp] theorem State.readAbort_point : (s.readAbort).point = s.point := rfl
@[simp] theorem State.readAbort_energyHi : (s.readAbort).energyHi = s.energyHi := rfl
@[simp] theorem State.readAbort_pulse : (s.readAbort).pulse = s.pulse := rfl
@[simp] theorem State.readAbort_spectral : (s.readAbort).spectral = s.spectral := rfl
@[simp] theorem State.readAbort_events : (s.readAbort).events = s.events := rfl
@[simp] theorem State.readAbort_damper : (s.readAbort).damper = s.damper := rfl
@[simp] theorem State.readAbort_session : (s.readAbort).session = s.session := rfl
@[simp] theorem State.readAbort_ember : (s.readAbort).ember = s.ember := rfl
@[simp] theorem State.readAbort_host : (s.readAbort).host = { s.host with lastRead := none } := rfl
@[simp] theorem State.readAbort_fault : (s.readAbort).fault = s.fault := rfl
@[simp] theorem State.readAbort_rst : (s.readAbort).rst = s.rst := rfl
@[simp] theorem State.readAbort_clk : (s.readAbort).clk = s.clk := rfl
@[simp] theorem State.readAbort_rtc : (s.readAbort).rtc = s.rtc := rfl
@[simp] theorem State.readAbort_trust : (s.readAbort).trust = s.trust := rfl
@[simp] theorem State.readAbort_fw : (s.readAbort).fw = s.fw := rfl
@[simp] theorem State.readAbort_aud : (s.readAbort).aud = s.aud := rfl
@[simp] theorem State.readAbort_link : (s.readAbort).link = s.link := rfl
@[simp] theorem State.readAbort_mantel : (s.readAbort).mantel = s.mantel := rfl
@[simp] theorem State.readAbort_dram : (s.readAbort).dram = s.dram := rfl
@[simp] theorem State.readAbort_pins : (s.readAbort).pins = s.pins := rfl
end

/-! dmaWrite writes `host`. -/

section
variable (s : State) (a : Nat) (bs : List Byte)
@[simp] theorem State.dmaWrite_pending : (s.dmaWrite a bs).pending = s.pending := rfl
@[simp] theorem State.dmaWrite_regs : (s.dmaWrite a bs).regs = s.regs := rfl
@[simp] theorem State.dmaWrite_hearth : (s.dmaWrite a bs).hearth = s.hearth := rfl
@[simp] theorem State.dmaWrite_flue : (s.dmaWrite a bs).flue = s.flue := rfl
@[simp] theorem State.dmaWrite_chain : (s.dmaWrite a bs).chain = s.chain := rfl
@[simp] theorem State.dmaWrite_evals : (s.dmaWrite a bs).evals = s.evals := rfl
@[simp] theorem State.dmaWrite_point : (s.dmaWrite a bs).point = s.point := rfl
@[simp] theorem State.dmaWrite_energyHi : (s.dmaWrite a bs).energyHi = s.energyHi := rfl
@[simp] theorem State.dmaWrite_pulse : (s.dmaWrite a bs).pulse = s.pulse := rfl
@[simp] theorem State.dmaWrite_spectral : (s.dmaWrite a bs).spectral = s.spectral := rfl
@[simp] theorem State.dmaWrite_events : (s.dmaWrite a bs).events = s.events := rfl
@[simp] theorem State.dmaWrite_damper : (s.dmaWrite a bs).damper = s.damper := rfl
@[simp] theorem State.dmaWrite_session : (s.dmaWrite a bs).session = s.session := rfl
@[simp] theorem State.dmaWrite_ember : (s.dmaWrite a bs).ember = s.ember := rfl
@[simp] theorem State.dmaWrite_host : (s.dmaWrite a bs).host = { s.host with dma := ⟨a, bs⟩ :: s.host.dma } := rfl
@[simp] theorem State.dmaWrite_fault : (s.dmaWrite a bs).fault = s.fault := rfl
@[simp] theorem State.dmaWrite_rst : (s.dmaWrite a bs).rst = s.rst := rfl
@[simp] theorem State.dmaWrite_clk : (s.dmaWrite a bs).clk = s.clk := rfl
@[simp] theorem State.dmaWrite_rtc : (s.dmaWrite a bs).rtc = s.rtc := rfl
@[simp] theorem State.dmaWrite_trust : (s.dmaWrite a bs).trust = s.trust := rfl
@[simp] theorem State.dmaWrite_fw : (s.dmaWrite a bs).fw = s.fw := rfl
@[simp] theorem State.dmaWrite_aud : (s.dmaWrite a bs).aud = s.aud := rfl
@[simp] theorem State.dmaWrite_link : (s.dmaWrite a bs).link = s.link := rfl
@[simp] theorem State.dmaWrite_mantel : (s.dmaWrite a bs).mantel = s.mantel := rfl
@[simp] theorem State.dmaWrite_dram : (s.dmaWrite a bs).dram = s.dram := rfl
@[simp] theorem State.dmaWrite_pins : (s.dmaWrite a bs).pins = s.pins := rfl
end

/-! setPhase writes `host`. -/

section
variable (s : State) (ord : Nat) (ph : Phase)
@[simp] theorem State.setPhase_pending : (s.setPhase ord ph).pending = s.pending := rfl
@[simp] theorem State.setPhase_regs : (s.setPhase ord ph).regs = s.regs := rfl
@[simp] theorem State.setPhase_hearth : (s.setPhase ord ph).hearth = s.hearth := rfl
@[simp] theorem State.setPhase_flue : (s.setPhase ord ph).flue = s.flue := rfl
@[simp] theorem State.setPhase_chain : (s.setPhase ord ph).chain = s.chain := rfl
@[simp] theorem State.setPhase_evals : (s.setPhase ord ph).evals = s.evals := rfl
@[simp] theorem State.setPhase_point : (s.setPhase ord ph).point = s.point := rfl
@[simp] theorem State.setPhase_energyHi : (s.setPhase ord ph).energyHi = s.energyHi := rfl
@[simp] theorem State.setPhase_pulse : (s.setPhase ord ph).pulse = s.pulse := rfl
@[simp] theorem State.setPhase_spectral : (s.setPhase ord ph).spectral = s.spectral := rfl
@[simp] theorem State.setPhase_events : (s.setPhase ord ph).events = s.events := rfl
@[simp] theorem State.setPhase_damper : (s.setPhase ord ph).damper = s.damper := rfl
@[simp] theorem State.setPhase_session : (s.setPhase ord ph).session = s.session := rfl
@[simp] theorem State.setPhase_ember : (s.setPhase ord ph).ember = s.ember := rfl
@[simp] theorem State.setPhase_host : (s.setPhase ord ph).host = { s.host with inflight := s.host.inflight.map fun d => if d.ord = ord then d.toPhase ph else d } := rfl
@[simp] theorem State.setPhase_fault : (s.setPhase ord ph).fault = s.fault := rfl
@[simp] theorem State.setPhase_rst : (s.setPhase ord ph).rst = s.rst := rfl
@[simp] theorem State.setPhase_clk : (s.setPhase ord ph).clk = s.clk := rfl
@[simp] theorem State.setPhase_rtc : (s.setPhase ord ph).rtc = s.rtc := rfl
@[simp] theorem State.setPhase_trust : (s.setPhase ord ph).trust = s.trust := rfl
@[simp] theorem State.setPhase_fw : (s.setPhase ord ph).fw = s.fw := rfl
@[simp] theorem State.setPhase_aud : (s.setPhase ord ph).aud = s.aud := rfl
@[simp] theorem State.setPhase_link : (s.setPhase ord ph).link = s.link := rfl
@[simp] theorem State.setPhase_mantel : (s.setPhase ord ph).mantel = s.mantel := rfl
@[simp] theorem State.setPhase_dram : (s.setPhase ord ph).dram = s.dram := rfl
@[simp] theorem State.setPhase_pins : (s.setPhase ord ph).pins = s.pins := rfl
end

/-! finish writes `host`. -/

section
variable (s : State) (ord st det : Nat) (r : List Byte)
@[simp] theorem State.finish_pending : (s.finish ord st det r).pending = s.pending := rfl
@[simp] theorem State.finish_regs : (s.finish ord st det r).regs = s.regs := rfl
@[simp] theorem State.finish_hearth : (s.finish ord st det r).hearth = s.hearth := rfl
@[simp] theorem State.finish_flue : (s.finish ord st det r).flue = s.flue := rfl
@[simp] theorem State.finish_chain : (s.finish ord st det r).chain = s.chain := rfl
@[simp] theorem State.finish_evals : (s.finish ord st det r).evals = s.evals := rfl
@[simp] theorem State.finish_point : (s.finish ord st det r).point = s.point := rfl
@[simp] theorem State.finish_energyHi : (s.finish ord st det r).energyHi = s.energyHi := rfl
@[simp] theorem State.finish_pulse : (s.finish ord st det r).pulse = s.pulse := rfl
@[simp] theorem State.finish_spectral : (s.finish ord st det r).spectral = s.spectral := rfl
@[simp] theorem State.finish_events : (s.finish ord st det r).events = s.events := rfl
@[simp] theorem State.finish_damper : (s.finish ord st det r).damper = s.damper := rfl
@[simp] theorem State.finish_session : (s.finish ord st det r).session = s.session := rfl
@[simp] theorem State.finish_ember : (s.finish ord st det r).ember = s.ember := rfl
@[simp] theorem State.finish_host : (s.finish ord st det r).host =
    { s.host with
        inflight := s.host.inflight.map fun d =>
          if d.ord = ord then d.toPhase (.done { status := st, detail := det, result := padTo 24 r }) else d } := rfl
@[simp] theorem State.finish_fault : (s.finish ord st det r).fault = s.fault := rfl
@[simp] theorem State.finish_rst : (s.finish ord st det r).rst = s.rst := rfl
@[simp] theorem State.finish_clk : (s.finish ord st det r).clk = s.clk := rfl
@[simp] theorem State.finish_rtc : (s.finish ord st det r).rtc = s.rtc := rfl
@[simp] theorem State.finish_trust : (s.finish ord st det r).trust = s.trust := rfl
@[simp] theorem State.finish_fw : (s.finish ord st det r).fw = s.fw := rfl
@[simp] theorem State.finish_aud : (s.finish ord st det r).aud = s.aud := rfl
@[simp] theorem State.finish_link : (s.finish ord st det r).link = s.link := rfl
@[simp] theorem State.finish_mantel : (s.finish ord st det r).mantel = s.mantel := rfl
@[simp] theorem State.finish_dram : (s.finish ord st det r).dram = s.dram := rfl
@[simp] theorem State.finish_pins : (s.finish ord st det r).pins = s.pins := rfl
end

/-! finishOk writes `host`. -/

section
variable (s : State) (ord : Nat) (r : List Byte)
@[simp] theorem State.finishOk_pending : (s.finishOk ord r).pending = s.pending := rfl
@[simp] theorem State.finishOk_regs : (s.finishOk ord r).regs = s.regs := rfl
@[simp] theorem State.finishOk_hearth : (s.finishOk ord r).hearth = s.hearth := rfl
@[simp] theorem State.finishOk_flue : (s.finishOk ord r).flue = s.flue := rfl
@[simp] theorem State.finishOk_chain : (s.finishOk ord r).chain = s.chain := rfl
@[simp] theorem State.finishOk_evals : (s.finishOk ord r).evals = s.evals := rfl
@[simp] theorem State.finishOk_point : (s.finishOk ord r).point = s.point := rfl
@[simp] theorem State.finishOk_energyHi : (s.finishOk ord r).energyHi = s.energyHi := rfl
@[simp] theorem State.finishOk_pulse : (s.finishOk ord r).pulse = s.pulse := rfl
@[simp] theorem State.finishOk_spectral : (s.finishOk ord r).spectral = s.spectral := rfl
@[simp] theorem State.finishOk_events : (s.finishOk ord r).events = s.events := rfl
@[simp] theorem State.finishOk_damper : (s.finishOk ord r).damper = s.damper := rfl
@[simp] theorem State.finishOk_session : (s.finishOk ord r).session = s.session := rfl
@[simp] theorem State.finishOk_ember : (s.finishOk ord r).ember = s.ember := rfl
@[simp] theorem State.finishOk_host : (s.finishOk ord r).host = (s.finish ord 0 0 r).host := rfl
@[simp] theorem State.finishOk_fault : (s.finishOk ord r).fault = s.fault := rfl
@[simp] theorem State.finishOk_rst : (s.finishOk ord r).rst = s.rst := rfl
@[simp] theorem State.finishOk_clk : (s.finishOk ord r).clk = s.clk := rfl
@[simp] theorem State.finishOk_rtc : (s.finishOk ord r).rtc = s.rtc := rfl
@[simp] theorem State.finishOk_trust : (s.finishOk ord r).trust = s.trust := rfl
@[simp] theorem State.finishOk_fw : (s.finishOk ord r).fw = s.fw := rfl
@[simp] theorem State.finishOk_aud : (s.finishOk ord r).aud = s.aud := rfl
@[simp] theorem State.finishOk_link : (s.finishOk ord r).link = s.link := rfl
@[simp] theorem State.finishOk_mantel : (s.finishOk ord r).mantel = s.mantel := rfl
@[simp] theorem State.finishOk_dram : (s.finishOk ord r).dram = s.dram := rfl
@[simp] theorem State.finishOk_pins : (s.finishOk ord r).pins = s.pins := rfl
end

/-! finishFail writes `host`. -/

section
variable (s : State) (ord st det : Nat)
@[simp] theorem State.finishFail_pending : (s.finishFail ord st det).pending = s.pending := rfl
@[simp] theorem State.finishFail_regs : (s.finishFail ord st det).regs = s.regs := rfl
@[simp] theorem State.finishFail_hearth : (s.finishFail ord st det).hearth = s.hearth := rfl
@[simp] theorem State.finishFail_flue : (s.finishFail ord st det).flue = s.flue := rfl
@[simp] theorem State.finishFail_chain : (s.finishFail ord st det).chain = s.chain := rfl
@[simp] theorem State.finishFail_evals : (s.finishFail ord st det).evals = s.evals := rfl
@[simp] theorem State.finishFail_point : (s.finishFail ord st det).point = s.point := rfl
@[simp] theorem State.finishFail_energyHi : (s.finishFail ord st det).energyHi = s.energyHi := rfl
@[simp] theorem State.finishFail_pulse : (s.finishFail ord st det).pulse = s.pulse := rfl
@[simp] theorem State.finishFail_spectral : (s.finishFail ord st det).spectral = s.spectral := rfl
@[simp] theorem State.finishFail_events : (s.finishFail ord st det).events = s.events := rfl
@[simp] theorem State.finishFail_damper : (s.finishFail ord st det).damper = s.damper := rfl
@[simp] theorem State.finishFail_session : (s.finishFail ord st det).session = s.session := rfl
@[simp] theorem State.finishFail_ember : (s.finishFail ord st det).ember = s.ember := rfl
@[simp] theorem State.finishFail_host : (s.finishFail ord st det).host = (s.finish ord st det []).host := rfl
@[simp] theorem State.finishFail_fault : (s.finishFail ord st det).fault = s.fault := rfl
@[simp] theorem State.finishFail_rst : (s.finishFail ord st det).rst = s.rst := rfl
@[simp] theorem State.finishFail_clk : (s.finishFail ord st det).clk = s.clk := rfl
@[simp] theorem State.finishFail_rtc : (s.finishFail ord st det).rtc = s.rtc := rfl
@[simp] theorem State.finishFail_trust : (s.finishFail ord st det).trust = s.trust := rfl
@[simp] theorem State.finishFail_fw : (s.finishFail ord st det).fw = s.fw := rfl
@[simp] theorem State.finishFail_aud : (s.finishFail ord st det).aud = s.aud := rfl
@[simp] theorem State.finishFail_link : (s.finishFail ord st det).link = s.link := rfl
@[simp] theorem State.finishFail_mantel : (s.finishFail ord st det).mantel = s.mantel := rfl
@[simp] theorem State.finishFail_dram : (s.finishFail ord st det).dram = s.dram := rfl
@[simp] theorem State.finishFail_pins : (s.finishFail ord st det).pins = s.pins := rfl
end

/-! setReps writes `fault`. -/

section
variable (s : State) (i : Nat) (r : RepeatState)
@[simp] theorem State.setReps_pending : (s.setReps i r).pending = s.pending := rfl
@[simp] theorem State.setReps_regs : (s.setReps i r).regs = s.regs := rfl
@[simp] theorem State.setReps_hearth : (s.setReps i r).hearth = s.hearth := rfl
@[simp] theorem State.setReps_flue : (s.setReps i r).flue = s.flue := rfl
@[simp] theorem State.setReps_chain : (s.setReps i r).chain = s.chain := rfl
@[simp] theorem State.setReps_evals : (s.setReps i r).evals = s.evals := rfl
@[simp] theorem State.setReps_point : (s.setReps i r).point = s.point := rfl
@[simp] theorem State.setReps_energyHi : (s.setReps i r).energyHi = s.energyHi := rfl
@[simp] theorem State.setReps_pulse : (s.setReps i r).pulse = s.pulse := rfl
@[simp] theorem State.setReps_spectral : (s.setReps i r).spectral = s.spectral := rfl
@[simp] theorem State.setReps_events : (s.setReps i r).events = s.events := rfl
@[simp] theorem State.setReps_damper : (s.setReps i r).damper = s.damper := rfl
@[simp] theorem State.setReps_session : (s.setReps i r).session = s.session := rfl
@[simp] theorem State.setReps_ember : (s.setReps i r).ember = s.ember := rfl
@[simp] theorem State.setReps_host : (s.setReps i r).host = s.host := rfl
@[simp] theorem State.setReps_rst : (s.setReps i r).rst = s.rst := rfl
@[simp] theorem State.setReps_clk : (s.setReps i r).clk = s.clk := rfl
@[simp] theorem State.setReps_rtc : (s.setReps i r).rtc = s.rtc := rfl
@[simp] theorem State.setReps_trust : (s.setReps i r).trust = s.trust := rfl
@[simp] theorem State.setReps_fw : (s.setReps i r).fw = s.fw := rfl
@[simp] theorem State.setReps_aud : (s.setReps i r).aud = s.aud := rfl
@[simp] theorem State.setReps_link : (s.setReps i r).link = s.link := rfl
@[simp] theorem State.setReps_mantel : (s.setReps i r).mantel = s.mantel := rfl
@[simp] theorem State.setReps_dram : (s.setReps i r).dram = s.dram := rfl
@[simp] theorem State.setReps_pins : (s.setReps i r).pins = s.pins := rfl
end

/-! updRtc writes `rtc`. -/

section
variable (s : State) (f : Rtc → Rtc)
@[simp] theorem State.updRtc_pending : (s.updRtc f).pending = s.pending := rfl
@[simp] theorem State.updRtc_regs : (s.updRtc f).regs = s.regs := rfl
@[simp] theorem State.updRtc_hearth : (s.updRtc f).hearth = s.hearth := rfl
@[simp] theorem State.updRtc_flue : (s.updRtc f).flue = s.flue := rfl
@[simp] theorem State.updRtc_chain : (s.updRtc f).chain = s.chain := rfl
@[simp] theorem State.updRtc_evals : (s.updRtc f).evals = s.evals := rfl
@[simp] theorem State.updRtc_point : (s.updRtc f).point = s.point := rfl
@[simp] theorem State.updRtc_energyHi : (s.updRtc f).energyHi = s.energyHi := rfl
@[simp] theorem State.updRtc_pulse : (s.updRtc f).pulse = s.pulse := rfl
@[simp] theorem State.updRtc_spectral : (s.updRtc f).spectral = s.spectral := rfl
@[simp] theorem State.updRtc_events : (s.updRtc f).events = s.events := rfl
@[simp] theorem State.updRtc_damper : (s.updRtc f).damper = s.damper := rfl
@[simp] theorem State.updRtc_session : (s.updRtc f).session = s.session := rfl
@[simp] theorem State.updRtc_ember : (s.updRtc f).ember = s.ember := rfl
@[simp] theorem State.updRtc_host : (s.updRtc f).host = s.host := rfl
@[simp] theorem State.updRtc_fault : (s.updRtc f).fault = s.fault := rfl
@[simp] theorem State.updRtc_rst : (s.updRtc f).rst = s.rst := rfl
@[simp] theorem State.updRtc_clk : (s.updRtc f).clk = s.clk := rfl
@[simp] theorem State.updRtc_rtc : (s.updRtc f).rtc = f s.rtc := rfl
@[simp] theorem State.updRtc_trust : (s.updRtc f).trust = s.trust := rfl
@[simp] theorem State.updRtc_fw : (s.updRtc f).fw = s.fw := rfl
@[simp] theorem State.updRtc_aud : (s.updRtc f).aud = s.aud := rfl
@[simp] theorem State.updRtc_link : (s.updRtc f).link = s.link := rfl
@[simp] theorem State.updRtc_mantel : (s.updRtc f).mantel = s.mantel := rfl
@[simp] theorem State.updRtc_dram : (s.updRtc f).dram = s.dram := rfl
@[simp] theorem State.updRtc_pins : (s.updRtc f).pins = s.pins := rfl
end

/-! updLink writes `link`. -/

section
variable (s : State) (f : Link → Link)
@[simp] theorem State.updLink_pending : (s.updLink f).pending = s.pending := rfl
@[simp] theorem State.updLink_regs : (s.updLink f).regs = s.regs := rfl
@[simp] theorem State.updLink_hearth : (s.updLink f).hearth = s.hearth := rfl
@[simp] theorem State.updLink_flue : (s.updLink f).flue = s.flue := rfl
@[simp] theorem State.updLink_chain : (s.updLink f).chain = s.chain := rfl
@[simp] theorem State.updLink_evals : (s.updLink f).evals = s.evals := rfl
@[simp] theorem State.updLink_point : (s.updLink f).point = s.point := rfl
@[simp] theorem State.updLink_energyHi : (s.updLink f).energyHi = s.energyHi := rfl
@[simp] theorem State.updLink_pulse : (s.updLink f).pulse = s.pulse := rfl
@[simp] theorem State.updLink_spectral : (s.updLink f).spectral = s.spectral := rfl
@[simp] theorem State.updLink_events : (s.updLink f).events = s.events := rfl
@[simp] theorem State.updLink_damper : (s.updLink f).damper = s.damper := rfl
@[simp] theorem State.updLink_session : (s.updLink f).session = s.session := rfl
@[simp] theorem State.updLink_ember : (s.updLink f).ember = s.ember := rfl
@[simp] theorem State.updLink_host : (s.updLink f).host = s.host := rfl
@[simp] theorem State.updLink_fault : (s.updLink f).fault = s.fault := rfl
@[simp] theorem State.updLink_rst : (s.updLink f).rst = s.rst := rfl
@[simp] theorem State.updLink_clk : (s.updLink f).clk = s.clk := rfl
@[simp] theorem State.updLink_rtc : (s.updLink f).rtc = s.rtc := rfl
@[simp] theorem State.updLink_trust : (s.updLink f).trust = s.trust := rfl
@[simp] theorem State.updLink_fw : (s.updLink f).fw = s.fw := rfl
@[simp] theorem State.updLink_aud : (s.updLink f).aud = s.aud := rfl
@[simp] theorem State.updLink_link : (s.updLink f).link = f s.link := rfl
@[simp] theorem State.updLink_mantel : (s.updLink f).mantel = s.mantel := rfl
@[simp] theorem State.updLink_dram : (s.updLink f).dram = s.dram := rfl
@[simp] theorem State.updLink_pins : (s.updLink f).pins = s.pins := rfl
end

/-! updPort writes `mantel`. -/

section
variable (s : State) (p : Nat) (f : Port → Port)
@[simp] theorem State.updPort_pending : (s.updPort p f).pending = s.pending := rfl
@[simp] theorem State.updPort_regs : (s.updPort p f).regs = s.regs := rfl
@[simp] theorem State.updPort_hearth : (s.updPort p f).hearth = s.hearth := rfl
@[simp] theorem State.updPort_flue : (s.updPort p f).flue = s.flue := rfl
@[simp] theorem State.updPort_chain : (s.updPort p f).chain = s.chain := rfl
@[simp] theorem State.updPort_evals : (s.updPort p f).evals = s.evals := rfl
@[simp] theorem State.updPort_point : (s.updPort p f).point = s.point := rfl
@[simp] theorem State.updPort_energyHi : (s.updPort p f).energyHi = s.energyHi := rfl
@[simp] theorem State.updPort_pulse : (s.updPort p f).pulse = s.pulse := rfl
@[simp] theorem State.updPort_spectral : (s.updPort p f).spectral = s.spectral := rfl
@[simp] theorem State.updPort_events : (s.updPort p f).events = s.events := rfl
@[simp] theorem State.updPort_damper : (s.updPort p f).damper = s.damper := rfl
@[simp] theorem State.updPort_session : (s.updPort p f).session = s.session := rfl
@[simp] theorem State.updPort_ember : (s.updPort p f).ember = s.ember := rfl
@[simp] theorem State.updPort_host : (s.updPort p f).host = s.host := rfl
@[simp] theorem State.updPort_fault : (s.updPort p f).fault = s.fault := rfl
@[simp] theorem State.updPort_rst : (s.updPort p f).rst = s.rst := rfl
@[simp] theorem State.updPort_clk : (s.updPort p f).clk = s.clk := rfl
@[simp] theorem State.updPort_rtc : (s.updPort p f).rtc = s.rtc := rfl
@[simp] theorem State.updPort_trust : (s.updPort p f).trust = s.trust := rfl
@[simp] theorem State.updPort_fw : (s.updPort p f).fw = s.fw := rfl
@[simp] theorem State.updPort_aud : (s.updPort p f).aud = s.aud := rfl
@[simp] theorem State.updPort_link : (s.updPort p f).link = s.link := rfl
@[simp] theorem State.updPort_mantel : (s.updPort p f).mantel = { s.mantel with ports := Tab.upd s.mantel.ports p f } := rfl
@[simp] theorem State.updPort_dram : (s.updPort p f).dram = s.dram := rfl
@[simp] theorem State.updPort_pins : (s.updPort p f).pins = s.pins := rfl
end

/-! updTable writes `mantel`. -/

section
variable (s : State) (t : Nat) (f : TableSlot → TableSlot)
@[simp] theorem State.updTable_pending : (s.updTable t f).pending = s.pending := rfl
@[simp] theorem State.updTable_regs : (s.updTable t f).regs = s.regs := rfl
@[simp] theorem State.updTable_hearth : (s.updTable t f).hearth = s.hearth := rfl
@[simp] theorem State.updTable_flue : (s.updTable t f).flue = s.flue := rfl
@[simp] theorem State.updTable_chain : (s.updTable t f).chain = s.chain := rfl
@[simp] theorem State.updTable_evals : (s.updTable t f).evals = s.evals := rfl
@[simp] theorem State.updTable_point : (s.updTable t f).point = s.point := rfl
@[simp] theorem State.updTable_energyHi : (s.updTable t f).energyHi = s.energyHi := rfl
@[simp] theorem State.updTable_pulse : (s.updTable t f).pulse = s.pulse := rfl
@[simp] theorem State.updTable_spectral : (s.updTable t f).spectral = s.spectral := rfl
@[simp] theorem State.updTable_events : (s.updTable t f).events = s.events := rfl
@[simp] theorem State.updTable_damper : (s.updTable t f).damper = s.damper := rfl
@[simp] theorem State.updTable_session : (s.updTable t f).session = s.session := rfl
@[simp] theorem State.updTable_ember : (s.updTable t f).ember = s.ember := rfl
@[simp] theorem State.updTable_host : (s.updTable t f).host = s.host := rfl
@[simp] theorem State.updTable_fault : (s.updTable t f).fault = s.fault := rfl
@[simp] theorem State.updTable_rst : (s.updTable t f).rst = s.rst := rfl
@[simp] theorem State.updTable_clk : (s.updTable t f).clk = s.clk := rfl
@[simp] theorem State.updTable_rtc : (s.updTable t f).rtc = s.rtc := rfl
@[simp] theorem State.updTable_trust : (s.updTable t f).trust = s.trust := rfl
@[simp] theorem State.updTable_fw : (s.updTable t f).fw = s.fw := rfl
@[simp] theorem State.updTable_aud : (s.updTable t f).aud = s.aud := rfl
@[simp] theorem State.updTable_link : (s.updTable t f).link = s.link := rfl
@[simp] theorem State.updTable_mantel : (s.updTable t f).mantel = { s.mantel with tables := Tab.upd s.mantel.tables t f } := rfl
@[simp] theorem State.updTable_dram : (s.updTable t f).dram = s.dram := rfl
@[simp] theorem State.updTable_pins : (s.updTable t f).pins = s.pins := rfl
end

/-! updHarm writes `spectral`. -/

section
variable (s : State) (ch : Nat) (f : HarmChan → HarmChan)
@[simp] theorem State.updHarm_pending : (s.updHarm ch f).pending = s.pending := rfl
@[simp] theorem State.updHarm_regs : (s.updHarm ch f).regs = s.regs := rfl
@[simp] theorem State.updHarm_hearth : (s.updHarm ch f).hearth = s.hearth := rfl
@[simp] theorem State.updHarm_flue : (s.updHarm ch f).flue = s.flue := rfl
@[simp] theorem State.updHarm_chain : (s.updHarm ch f).chain = s.chain := rfl
@[simp] theorem State.updHarm_evals : (s.updHarm ch f).evals = s.evals := rfl
@[simp] theorem State.updHarm_point : (s.updHarm ch f).point = s.point := rfl
@[simp] theorem State.updHarm_energyHi : (s.updHarm ch f).energyHi = s.energyHi := rfl
@[simp] theorem State.updHarm_pulse : (s.updHarm ch f).pulse = s.pulse := rfl
@[simp] theorem State.updHarm_spectral : (s.updHarm ch f).spectral = { s.spectral with harm := Tab.upd s.spectral.harm ch f } := rfl
@[simp] theorem State.updHarm_events : (s.updHarm ch f).events = s.events := rfl
@[simp] theorem State.updHarm_damper : (s.updHarm ch f).damper = s.damper := rfl
@[simp] theorem State.updHarm_session : (s.updHarm ch f).session = s.session := rfl
@[simp] theorem State.updHarm_ember : (s.updHarm ch f).ember = s.ember := rfl
@[simp] theorem State.updHarm_host : (s.updHarm ch f).host = s.host := rfl
@[simp] theorem State.updHarm_fault : (s.updHarm ch f).fault = s.fault := rfl
@[simp] theorem State.updHarm_rst : (s.updHarm ch f).rst = s.rst := rfl
@[simp] theorem State.updHarm_clk : (s.updHarm ch f).clk = s.clk := rfl
@[simp] theorem State.updHarm_rtc : (s.updHarm ch f).rtc = s.rtc := rfl
@[simp] theorem State.updHarm_trust : (s.updHarm ch f).trust = s.trust := rfl
@[simp] theorem State.updHarm_fw : (s.updHarm ch f).fw = s.fw := rfl
@[simp] theorem State.updHarm_aud : (s.updHarm ch f).aud = s.aud := rfl
@[simp] theorem State.updHarm_link : (s.updHarm ch f).link = s.link := rfl
@[simp] theorem State.updHarm_mantel : (s.updHarm ch f).mantel = s.mantel := rfl
@[simp] theorem State.updHarm_dram : (s.updHarm ch f).dram = s.dram := rfl
@[simp] theorem State.updHarm_pins : (s.updHarm ch f).pins = s.pins := rfl
end

/-! updSupra writes `spectral`. -/

section
variable (s : State) (ch : Nat) (f : SupraChan → SupraChan)
@[simp] theorem State.updSupra_pending : (s.updSupra ch f).pending = s.pending := rfl
@[simp] theorem State.updSupra_regs : (s.updSupra ch f).regs = s.regs := rfl
@[simp] theorem State.updSupra_hearth : (s.updSupra ch f).hearth = s.hearth := rfl
@[simp] theorem State.updSupra_flue : (s.updSupra ch f).flue = s.flue := rfl
@[simp] theorem State.updSupra_chain : (s.updSupra ch f).chain = s.chain := rfl
@[simp] theorem State.updSupra_evals : (s.updSupra ch f).evals = s.evals := rfl
@[simp] theorem State.updSupra_point : (s.updSupra ch f).point = s.point := rfl
@[simp] theorem State.updSupra_energyHi : (s.updSupra ch f).energyHi = s.energyHi := rfl
@[simp] theorem State.updSupra_pulse : (s.updSupra ch f).pulse = s.pulse := rfl
@[simp] theorem State.updSupra_spectral : (s.updSupra ch f).spectral = { s.spectral with supra := Tab.upd s.spectral.supra ch f } := rfl
@[simp] theorem State.updSupra_events : (s.updSupra ch f).events = s.events := rfl
@[simp] theorem State.updSupra_damper : (s.updSupra ch f).damper = s.damper := rfl
@[simp] theorem State.updSupra_session : (s.updSupra ch f).session = s.session := rfl
@[simp] theorem State.updSupra_ember : (s.updSupra ch f).ember = s.ember := rfl
@[simp] theorem State.updSupra_host : (s.updSupra ch f).host = s.host := rfl
@[simp] theorem State.updSupra_fault : (s.updSupra ch f).fault = s.fault := rfl
@[simp] theorem State.updSupra_rst : (s.updSupra ch f).rst = s.rst := rfl
@[simp] theorem State.updSupra_clk : (s.updSupra ch f).clk = s.clk := rfl
@[simp] theorem State.updSupra_rtc : (s.updSupra ch f).rtc = s.rtc := rfl
@[simp] theorem State.updSupra_trust : (s.updSupra ch f).trust = s.trust := rfl
@[simp] theorem State.updSupra_fw : (s.updSupra ch f).fw = s.fw := rfl
@[simp] theorem State.updSupra_aud : (s.updSupra ch f).aud = s.aud := rfl
@[simp] theorem State.updSupra_link : (s.updSupra ch f).link = s.link := rfl
@[simp] theorem State.updSupra_mantel : (s.updSupra ch f).mantel = s.mantel := rfl
@[simp] theorem State.updSupra_dram : (s.updSupra ch f).dram = s.dram := rfl
@[simp] theorem State.updSupra_pins : (s.updSupra ch f).pins = s.pins := rfl
end

/-! updEvents writes `events`. -/

section
variable (s : State) (p : Nat) (f : PointEvents → PointEvents)
@[simp] theorem State.updEvents_pending : (s.updEvents p f).pending = s.pending := rfl
@[simp] theorem State.updEvents_regs : (s.updEvents p f).regs = s.regs := rfl
@[simp] theorem State.updEvents_hearth : (s.updEvents p f).hearth = s.hearth := rfl
@[simp] theorem State.updEvents_flue : (s.updEvents p f).flue = s.flue := rfl
@[simp] theorem State.updEvents_chain : (s.updEvents p f).chain = s.chain := rfl
@[simp] theorem State.updEvents_evals : (s.updEvents p f).evals = s.evals := rfl
@[simp] theorem State.updEvents_point : (s.updEvents p f).point = s.point := rfl
@[simp] theorem State.updEvents_energyHi : (s.updEvents p f).energyHi = s.energyHi := rfl
@[simp] theorem State.updEvents_pulse : (s.updEvents p f).pulse = s.pulse := rfl
@[simp] theorem State.updEvents_spectral : (s.updEvents p f).spectral = s.spectral := rfl
@[simp] theorem State.updEvents_damper : (s.updEvents p f).damper = s.damper := rfl
@[simp] theorem State.updEvents_session : (s.updEvents p f).session = s.session := rfl
@[simp] theorem State.updEvents_ember : (s.updEvents p f).ember = s.ember := rfl
@[simp] theorem State.updEvents_host : (s.updEvents p f).host = s.host := rfl
@[simp] theorem State.updEvents_fault : (s.updEvents p f).fault = s.fault := rfl
@[simp] theorem State.updEvents_rst : (s.updEvents p f).rst = s.rst := rfl
@[simp] theorem State.updEvents_clk : (s.updEvents p f).clk = s.clk := rfl
@[simp] theorem State.updEvents_rtc : (s.updEvents p f).rtc = s.rtc := rfl
@[simp] theorem State.updEvents_trust : (s.updEvents p f).trust = s.trust := rfl
@[simp] theorem State.updEvents_fw : (s.updEvents p f).fw = s.fw := rfl
@[simp] theorem State.updEvents_aud : (s.updEvents p f).aud = s.aud := rfl
@[simp] theorem State.updEvents_link : (s.updEvents p f).link = s.link := rfl
@[simp] theorem State.updEvents_mantel : (s.updEvents p f).mantel = s.mantel := rfl
@[simp] theorem State.updEvents_dram : (s.updEvents p f).dram = s.dram := rfl
@[simp] theorem State.updEvents_pins : (s.updEvents p f).pins = s.pins := rfl
end

/-! setCapture writes `host`. -/

section
variable (s : State) (n : Nat) (c : Option Capture)
@[simp] theorem State.setCapture_pending : (s.setCapture n c).pending = s.pending := rfl
@[simp] theorem State.setCapture_regs : (s.setCapture n c).regs = s.regs := rfl
@[simp] theorem State.setCapture_hearth : (s.setCapture n c).hearth = s.hearth := rfl
@[simp] theorem State.setCapture_flue : (s.setCapture n c).flue = s.flue := rfl
@[simp] theorem State.setCapture_chain : (s.setCapture n c).chain = s.chain := rfl
@[simp] theorem State.setCapture_evals : (s.setCapture n c).evals = s.evals := rfl
@[simp] theorem State.setCapture_point : (s.setCapture n c).point = s.point := rfl
@[simp] theorem State.setCapture_energyHi : (s.setCapture n c).energyHi = s.energyHi := rfl
@[simp] theorem State.setCapture_pulse : (s.setCapture n c).pulse = s.pulse := rfl
@[simp] theorem State.setCapture_spectral : (s.setCapture n c).spectral = s.spectral := rfl
@[simp] theorem State.setCapture_events : (s.setCapture n c).events = s.events := rfl
@[simp] theorem State.setCapture_damper : (s.setCapture n c).damper = s.damper := rfl
@[simp] theorem State.setCapture_session : (s.setCapture n c).session = s.session := rfl
@[simp] theorem State.setCapture_ember : (s.setCapture n c).ember = s.ember := rfl
@[simp] theorem State.setCapture_fault : (s.setCapture n c).fault = s.fault := rfl
@[simp] theorem State.setCapture_rst : (s.setCapture n c).rst = s.rst := rfl
@[simp] theorem State.setCapture_clk : (s.setCapture n c).clk = s.clk := rfl
@[simp] theorem State.setCapture_rtc : (s.setCapture n c).rtc = s.rtc := rfl
@[simp] theorem State.setCapture_trust : (s.setCapture n c).trust = s.trust := rfl
@[simp] theorem State.setCapture_fw : (s.setCapture n c).fw = s.fw := rfl
@[simp] theorem State.setCapture_aud : (s.setCapture n c).aud = s.aud := rfl
@[simp] theorem State.setCapture_link : (s.setCapture n c).link = s.link := rfl
@[simp] theorem State.setCapture_mantel : (s.setCapture n c).mantel = s.mantel := rfl
@[simp] theorem State.setCapture_dram : (s.setCapture n c).dram = s.dram := rfl
@[simp] theorem State.setCapture_pins : (s.setCapture n c).pins = s.pins := rfl
end

/-! updSq writes `host`. -/

section
variable (s : State) (n : Nat) (f : SqRing → SqRing)
@[simp] theorem State.updSq_pending : (s.updSq n f).pending = s.pending := rfl
@[simp] theorem State.updSq_regs : (s.updSq n f).regs = s.regs := rfl
@[simp] theorem State.updSq_hearth : (s.updSq n f).hearth = s.hearth := rfl
@[simp] theorem State.updSq_flue : (s.updSq n f).flue = s.flue := rfl
@[simp] theorem State.updSq_chain : (s.updSq n f).chain = s.chain := rfl
@[simp] theorem State.updSq_evals : (s.updSq n f).evals = s.evals := rfl
@[simp] theorem State.updSq_point : (s.updSq n f).point = s.point := rfl
@[simp] theorem State.updSq_energyHi : (s.updSq n f).energyHi = s.energyHi := rfl
@[simp] theorem State.updSq_pulse : (s.updSq n f).pulse = s.pulse := rfl
@[simp] theorem State.updSq_spectral : (s.updSq n f).spectral = s.spectral := rfl
@[simp] theorem State.updSq_events : (s.updSq n f).events = s.events := rfl
@[simp] theorem State.updSq_damper : (s.updSq n f).damper = s.damper := rfl
@[simp] theorem State.updSq_session : (s.updSq n f).session = s.session := rfl
@[simp] theorem State.updSq_ember : (s.updSq n f).ember = s.ember := rfl
@[simp] theorem State.updSq_host : (s.updSq n f).host = { s.host with sq := Tab.upd s.host.sq n f } := rfl
@[simp] theorem State.updSq_fault : (s.updSq n f).fault = s.fault := rfl
@[simp] theorem State.updSq_rst : (s.updSq n f).rst = s.rst := rfl
@[simp] theorem State.updSq_clk : (s.updSq n f).clk = s.clk := rfl
@[simp] theorem State.updSq_rtc : (s.updSq n f).rtc = s.rtc := rfl
@[simp] theorem State.updSq_trust : (s.updSq n f).trust = s.trust := rfl
@[simp] theorem State.updSq_fw : (s.updSq n f).fw = s.fw := rfl
@[simp] theorem State.updSq_aud : (s.updSq n f).aud = s.aud := rfl
@[simp] theorem State.updSq_link : (s.updSq n f).link = s.link := rfl
@[simp] theorem State.updSq_mantel : (s.updSq n f).mantel = s.mantel := rfl
@[simp] theorem State.updSq_dram : (s.updSq n f).dram = s.dram := rfl
@[simp] theorem State.updSq_pins : (s.updSq n f).pins = s.pins := rfl
end

/-! updOq writes `host`. -/

section
variable (s : State) (m : Nat) (f : OqRing → OqRing)
@[simp] theorem State.updOq_pending : (s.updOq m f).pending = s.pending := rfl
@[simp] theorem State.updOq_regs : (s.updOq m f).regs = s.regs := rfl
@[simp] theorem State.updOq_hearth : (s.updOq m f).hearth = s.hearth := rfl
@[simp] theorem State.updOq_flue : (s.updOq m f).flue = s.flue := rfl
@[simp] theorem State.updOq_chain : (s.updOq m f).chain = s.chain := rfl
@[simp] theorem State.updOq_evals : (s.updOq m f).evals = s.evals := rfl
@[simp] theorem State.updOq_point : (s.updOq m f).point = s.point := rfl
@[simp] theorem State.updOq_energyHi : (s.updOq m f).energyHi = s.energyHi := rfl
@[simp] theorem State.updOq_pulse : (s.updOq m f).pulse = s.pulse := rfl
@[simp] theorem State.updOq_spectral : (s.updOq m f).spectral = s.spectral := rfl
@[simp] theorem State.updOq_events : (s.updOq m f).events = s.events := rfl
@[simp] theorem State.updOq_damper : (s.updOq m f).damper = s.damper := rfl
@[simp] theorem State.updOq_session : (s.updOq m f).session = s.session := rfl
@[simp] theorem State.updOq_ember : (s.updOq m f).ember = s.ember := rfl
@[simp] theorem State.updOq_host : (s.updOq m f).host = { s.host with oq := Tab.upd s.host.oq m f } := rfl
@[simp] theorem State.updOq_fault : (s.updOq m f).fault = s.fault := rfl
@[simp] theorem State.updOq_rst : (s.updOq m f).rst = s.rst := rfl
@[simp] theorem State.updOq_clk : (s.updOq m f).clk = s.clk := rfl
@[simp] theorem State.updOq_rtc : (s.updOq m f).rtc = s.rtc := rfl
@[simp] theorem State.updOq_trust : (s.updOq m f).trust = s.trust := rfl
@[simp] theorem State.updOq_fw : (s.updOq m f).fw = s.fw := rfl
@[simp] theorem State.updOq_aud : (s.updOq m f).aud = s.aud := rfl
@[simp] theorem State.updOq_link : (s.updOq m f).link = s.link := rfl
@[simp] theorem State.updOq_mantel : (s.updOq m f).mantel = s.mantel := rfl
@[simp] theorem State.updOq_dram : (s.updOq m f).dram = s.dram := rfl
@[simp] theorem State.updOq_pins : (s.updOq m f).pins = s.pins := rfl
end

/-! updWin writes `fw`. -/

section
variable (s : State) (f : Loader → Loader)
@[simp] theorem State.updWin_pending : (s.updWin f).pending = s.pending := rfl
@[simp] theorem State.updWin_regs : (s.updWin f).regs = s.regs := rfl
@[simp] theorem State.updWin_hearth : (s.updWin f).hearth = s.hearth := rfl
@[simp] theorem State.updWin_flue : (s.updWin f).flue = s.flue := rfl
@[simp] theorem State.updWin_chain : (s.updWin f).chain = s.chain := rfl
@[simp] theorem State.updWin_evals : (s.updWin f).evals = s.evals := rfl
@[simp] theorem State.updWin_point : (s.updWin f).point = s.point := rfl
@[simp] theorem State.updWin_energyHi : (s.updWin f).energyHi = s.energyHi := rfl
@[simp] theorem State.updWin_pulse : (s.updWin f).pulse = s.pulse := rfl
@[simp] theorem State.updWin_spectral : (s.updWin f).spectral = s.spectral := rfl
@[simp] theorem State.updWin_events : (s.updWin f).events = s.events := rfl
@[simp] theorem State.updWin_damper : (s.updWin f).damper = s.damper := rfl
@[simp] theorem State.updWin_session : (s.updWin f).session = s.session := rfl
@[simp] theorem State.updWin_ember : (s.updWin f).ember = s.ember := rfl
@[simp] theorem State.updWin_host : (s.updWin f).host = s.host := rfl
@[simp] theorem State.updWin_fault : (s.updWin f).fault = s.fault := rfl
@[simp] theorem State.updWin_rst : (s.updWin f).rst = s.rst := rfl
@[simp] theorem State.updWin_clk : (s.updWin f).clk = s.clk := rfl
@[simp] theorem State.updWin_rtc : (s.updWin f).rtc = s.rtc := rfl
@[simp] theorem State.updWin_trust : (s.updWin f).trust = s.trust := rfl
@[simp] theorem State.updWin_fw : (s.updWin f).fw = { s.fw with win := f s.fw.win } := rfl
@[simp] theorem State.updWin_aud : (s.updWin f).aud = s.aud := rfl
@[simp] theorem State.updWin_link : (s.updWin f).link = s.link := rfl
@[simp] theorem State.updWin_mantel : (s.updWin f).mantel = s.mantel := rfl
@[simp] theorem State.updWin_dram : (s.updWin f).dram = s.dram := rfl
@[simp] theorem State.updWin_pins : (s.updWin f).pins = s.pins := rfl
end

end Sys2Proof.Machine
end

