-- ==== Sys2Proof/Laws/Episodes.lean ====
section
/-! SUPPORT. What the operations of a reset do to the reset controller: which islands they hold, and the episode. -/

namespace Sys2Proof.Machine

@[simp] theorem clearIsland_rst (i : Nat) (s : State) : (clearIsland i s).rst = s.rst := by
  unfold clearIsland; split <;> rfl

/-- Holding an island in reset changes, in the reset controller, that island alone. -/
@[simp] theorem enterReset_rst (i : Nat) (s : State) :
    (enterReset i s).rst = { s.rst with islands := Tab.upd s.rst.islands i fun _ => .inReset } := by
  unfold enterReset State.setIsland; rw [clearIsland_rst]

theorem enterReset_island_same {i : Nat} (s : State) (h : i < 12) : (enterReset i s).island i = .inReset := by
  unfold State.island; rw [enterReset_rst]; exact Tab.at_upd_same h
theorem enterReset_island_other {i j : Nat} (s : State) (h : j ≠ i) : (enterReset i s).island j = s.island j := by
  unfold State.island; rw [enterReset_rst]; exact Tab.at_upd_other h

/-- An island that is in reset stays so while others enter. -/
theorem foldl_enterReset_stays (l : List Nat) (s : State) (j : Nat) (h : s.island j = .inReset) :
    (l.foldl (fun s i => enterReset i s) s).island j = .inReset := by
  induction l generalizing s with
  | nil => exact h
  | cons a l ih =>
    refine ih _ ?_
    by_cases e : j = a
    · subst e
      by_cases hj : j < 12
      · exact enterReset_island_same s hj
      · unfold State.island Tab.at; simp [List.getD, hj]
    · rw [enterReset_island_other s e]; exact h

/-- The islands of a list enter reset; the others stay as they are. -/
theorem foldl_enterReset_island (l : List Nat) (s : State) (j : Nat) (h : j ∈ l) (hj : j < 12) :
    (l.foldl (fun s i => enterReset i s) s).island j = .inReset := by
  induction l generalizing s with
  | nil => cases h
  | cons a l ih =>
    rcases List.mem_cons.mp h with e | e
    · subst e; exact foldl_enterReset_stays l _ _ (enterReset_island_same s hj)
    · exact ih _ e
theorem foldl_enterReset_other (l : List Nat) (s : State) (j : Nat) (h : j ∉ l) :
    (l.foldl (fun s i => enterReset i s) s).island j = s.island j := by
  induction l generalizing s with
  | nil => rfl
  | cons a l ih =>
    rw [List.foldl_cons, ih _ (fun e => h (List.mem_cons_of_mem _ e)),
      enterReset_island_other s (fun e => h (by subst e; exact List.mem_cons_self ..))]

/-- The reset controller but for the islands and the watchdog. -/
theorem foldl_enterReset_rst (l : List Nat) (s : State) :
    (l.foldl (fun s i => enterReset i s) s).rst =
      { s.rst with islands := (l.foldl (fun s i => enterReset i s) s).rst.islands } := by
  induction l generalizing s with
  | nil => rfl
  | cons a l ih => rw [List.foldl_cons, ih]; simp

theorem foldl_setReg_rst (l : List (Nat × Word)) (s : State) : (l.foldl (fun s c => s.setReg c.1 c.2) s).rst = s.rst := by
  induction l generalizing s with
  | nil => rfl
  | cons a l ih => rw [List.foldl_cons, ih]; rfl

@[simp] theorem abortPanels_rst (s : State) : (abortPanels s).rst = s.rst := rfl
@[simp] theorem endTransfer_rst (s : State) : (endTransfer s).rst = s.rst := by
  unfold endTransfer; split <;> rfl
@[simp] theorem dropLoading_rst (s : State) : (dropLoading s).rst = s.rst := by
  unfold dropLoading; split <;> rfl
@[simp] theorem triggerBank_rst (c d : Nat) (s : State) : (triggerBank c d s).rst = s.rst := by
  unfold triggerBank; split <;> rfl

/-- The control plane enters reset: its islands are held, the others are not touched, and the start window and the
watchdog end. -/
theorem enterControlReset_rst (s : State) :
    (enterControlReset s).rst =
      { s.rst with islands := (enterControlReset s).rst.islands, window := false, wdtRemain := 0, wdtTick := 0 } := by
  unfold enterControlReset
  simp only [State.setReg_rst]
  rw [foldl_enterReset_rst]; simp
theorem enterControlReset_island (s : State) (j : Nat) (h : j ∈ controlIslands) : (enterControlReset s).island j = .inReset := by
  have hj : j < 12 := by simp [controlIslands] at h; omega
  unfold State.island enterControlReset
  rw [State.setReg_rst]
  exact foldl_enterReset_island controlIslands _ j h hj
theorem enterControlReset_island_other (s : State) (j : Nat) (h : j ∉ controlIslands) :
    (enterControlReset s).island j = s.island j := by
  unfold State.island enterControlReset
  rw [State.setReg_rst]
  refine (foldl_enterReset_other controlIslands _ j h).trans ?_
  simp [State.island]

/-- An L0 clears the supervisors' verdict and nothing else of the reset controller. -/
theorem clearPower_rst (s : State) : (clearPower s).rst = { s.rst with porDone := (clearPower s).rst.porDone } := by
  unfold clearPower; split <;> rfl
@[simp] theorem clearPower_island (s : State) (j : Nat) : (clearPower s).island j = s.island j := by
  unfold State.island; rw [clearPower_rst]

/-- The metrology plane enters reset. -/
theorem enterMetrologyReset_rst (keep : Bool) (s : State) :
    (enterMetrologyReset keep s).rst =
      { s.rst with islands := (enterMetrologyReset keep s).rst.islands, porDone := (enterMetrologyReset keep s).rst.porDone } := by
  unfold enterMetrologyReset
  dsimp only
  rw [clearPower_rst, foldl_setReg_rst]
  simp only [enterReset_rst]
  rw [foldl_enterReset_rst]
theorem enterMetrologyReset_island_other (keep : Bool) (s : State) (j : Nat) (h : j ∉ [1, 2, 3, 4, 5]) :
    (enterMetrologyReset keep s).island j = s.island j := by
  unfold enterMetrologyReset
  refine (clearPower_island _ j).trans ?_
  show Tab.at (State.rst _).islands j .inReset = _
  rw [foldl_setReg_rst]
  refine (enterReset_island_other (i := 1) _ (by rintro rfl; simp at h)).trans ?_
  refine (foldl_enterReset_other _ s j ?_)
  cases keep <;> (simp at h ⊢; omega)
theorem enterMetrologyReset_island (s : State) (j : Nat) (h : j ∈ [1, 2, 3, 4, 5]) :
    (enterMetrologyReset false s).island j = .inReset := by
  unfold enterMetrologyReset
  refine (clearPower_island _ j).trans ?_
  show Tab.at (State.rst _).islands j .inReset = _
  rw [foldl_setReg_rst]
  by_cases e : j = 1
  · subst e; exact enterReset_island_same _ (by omega)
  · refine (enterReset_island_other (i := 1) _ e).trans ?_
    exact foldl_enterReset_island _ s j (by simp at h ⊢; omega) (by simp at h; omega)

/-- An episode is one begun by a source, but for its wait for the final bank. -/
def Episode.Is (c : Nat) (l : Level) (clk : Nat) (o : Option Episode) : Prop :=
  ∃ e, o = some e ∧ e.level = l ∧ e.first = c ∧ e.sources = 2 ^ (c - 1) ∧ e.clkLoss = clk

theorem Episode.Is.map {c : Nat} {l : Level} {clk : Nat} {o : Option Episode} (h : Episode.Is c l clk o) (f : Episode → Episode)
    (hf : ∀ e, (f e).level = e.level ∧ (f e).first = e.first ∧ (f e).sources = e.sources ∧ (f e).clkLoss = e.clkLoss) :
    Episode.Is c l clk (o.map f) := by
  obtain ⟨e, rfl, h1, h2, h3, h4⟩ := h
  obtain ⟨g1, g2, g3, g4⟩ := hf e
  exact ⟨f e, rfl, g1.trans h1, g2.trans h2, g3.trans h3, g4.trans h4⟩

/-- What `Begins` says of a state. -/
def Began (c : Nat) (l : Level) (clk : Nat) (t : State) : Prop :=
  Episode.Is c l clk t.rst.episode ∧ t.rst.release = none ∧ ∀ i ∈ controlIslands, t.island i = .inReset

theorem Began.begins {c : Nat} {l : Level} {clk : Nat} {t : State} (h : Began c l clk t) : Begins c l clk (.next t) := by
  obtain ⟨⟨e, h1, h2, h3, h4, h5⟩, h6, h7⟩ := h
  exact ⟨t, e, rfl, h1, h2, h3, h4, h5, h6, h7⟩

theorem Began.metrology {c : Nat} {l : Level} {clk : Nat} {t : State} (keep : Bool) (h : Began c l clk t) :
    Began c l clk (enterMetrologyReset keep t) := by
  obtain ⟨h1, h2, h3⟩ := h
  refine ⟨?_, ?_, fun i hi => ?_⟩
  · rw [enterMetrologyReset_rst]; exact h1
  · rw [enterMetrologyReset_rst]; exact h2
  · rw [enterMetrologyReset_island_other _ _ _ (by simp [controlIslands] at hi ⊢; omega)]; exact h3 i hi

theorem Began.trigger {c : Nat} {l : Level} {clk : Nat} {t : State} (a b : Nat) (h : Began c l clk t) :
    Began c l clk (triggerBank a b t) := by
  unfold Began State.island at *; rw [triggerBank_rst]; exact h

theorem Began.await {c : Nat} {l : Level} {clk : Nat} {t : State} (b : Nat) (h : Began c l clk t) :
    Began c l clk (awaitBank b t) := by
  unfold awaitBank
  have h' := h.trigger 2 b
  split
  · dsimp only
    split
    · exact h'.metrology false
    · exact ⟨h'.1.map _ fun _ => ⟨rfl, rfl, rfl, rfl⟩, h'.2.1, h'.2.2⟩
  · exact h.metrology false

/-- Entering the control plane's reset leaves the episode and the release as they are. -/
theorem Began.control {c : Nat} {l : Level} {clk : Nat} {t : State} (h : Episode.Is c l clk t.rst.episode)
    (hr : t.rst.release = none) : Began c l clk (enterControlReset t) := by
  refine ⟨?_, ?_, enterControlReset_island t⟩
  · rw [enterControlReset_rst]; exact h
  · rw [enterControlReset_rst]; exact hr

@[simp] theorem writeBank_rst (final : Bool) (cut : Option Nat) (s : State) : (writeBank final cut s).rst = s.rst := by
  unfold writeBank
  exact (apply_ite State.rst _ _ _).trans (ite_self _)
@[simp] theorem finalBank_rst (s : State) : (finalBank s).rst = s.rst := by
  unfold finalBank
  split
  · split
    · rfl
    · exact writeBank_rst ..
  · exact writeBank_rst ..

/-- Any of the three depths of reset that begins an episode keeps it. -/
theorem enterLevel_began (c : Nat) (l : Level) (clk : Nat) (s : State) (he : Episode.Is c l clk s.rst.episode)
    (hr : s.rst.release = none) : Began c l clk (enterLevel c none l s) := by
  unfold enterLevel
  dsimp only
  split
  · generalize hb : (if (s.running Isl.ember && s.ember.trigger.any fun t => !t.done) = true then finalBank s else s) = u
    have hu : u.rst = s.rst := by
      rw [← hb]
      split
      · exact finalBank_rst s
      · rfl
    generalize hk : (s.running Isl.ember && s.ember.trigger.any fun t => !t.done) = keep
    have g := (Began.control (t := u) (c := c) (l := l) (clk := clk) (by rw [hu]; exact he) (by rw [hu]; exact hr)).metrology keep
    generalize enterMetrologyReset keep (enterControlReset u) = w at g
    exact ⟨g.1.map _ fun _ => ⟨rfl, rfl, rfl, rfl⟩, g.2.1, g.2.2⟩
  · rw [if_neg (by simp)]
    split
    · exact Began.control he hr
    · simp only [Option.isNone_none, if_true, Option.any_none]
      rw [if_neg (by simp)]
      exact (Began.control he hr).await c

/-- Outside an episode and a release sequence, an assertion begins an episode. -/
theorem assertAt_began (c : Nat) (l : Level) (clk : Nat) (s : State) (he : s.rst.episode = none) (hr : s.rst.release = none) :
    Began c l clk (assertAt c l clk s) := by
  unfold assertAt
  rw [he, hr]
  exact enterLevel_began c l clk _ ⟨_, rfl, rfl, rfl, rfl, rfl⟩ rfl

theorem assertSource_began (c : Nat) (s : State) (he : s.rst.episode = none) (hr : s.rst.release = none) :
    Began c (sourceLevel s c) 0 (assertSource c s) := by
  unfold assertSource
  dsimp only
  split
  · exact assertAt_began c _ 0 s he hr
  · exact assertAt_began c _ 0 _ he hr

end Sys2Proof.Machine
end

