-- ==== Sys2Proof/Laws/InvBase.lean ====
section
/-! SUPPORT. The invariant, part by part, and the rules by which an operation keeps it. -/

namespace Sys2Proof.Machine

section
variable {s : State}

theorem State.inv_iff : s.Inv ↔ Regs.wf s.regs = true ∧ Memory.wf s.ember.store = true ∧ Memory.wf s.fw.flash = true ∧
    s.damper.frame < 10000 ∧ s.damper.mailbox.length ≤ 64 ∧ s.fault.queue.length ≤ 32 ∧ s.host.inflight.length ≤ 64 := by
  simp only [State.Inv, State.memOk, State.queuesOk, Bool.and_eq_true, decide_eq_true_eq]
  tauto

theorem State.Inv.regs (h : s.Inv) : Regs.wf s.regs = true := (State.inv_iff.mp h).1
theorem State.Inv.store (h : s.Inv) : Memory.wf s.ember.store = true := (State.inv_iff.mp h).2.1
theorem State.Inv.flash (h : s.Inv) : Memory.wf s.fw.flash = true := (State.inv_iff.mp h).2.2.1
theorem State.Inv.frame (h : s.Inv) : s.damper.frame < 10000 := (State.inv_iff.mp h).2.2.2.1
theorem State.Inv.mail (h : s.Inv) : s.damper.mailbox.length ≤ 64 := (State.inv_iff.mp h).2.2.2.2.1
theorem State.Inv.queue (h : s.Inv) : s.fault.queue.length ≤ 32 := (State.inv_iff.mp h).2.2.2.2.2.1
theorem State.Inv.flight (h : s.Inv) : s.host.inflight.length ≤ 64 := (State.inv_iff.mp h).2.2.2.2.2.2
end

/-- A state is sound when the parts that the invariant speaks of are. -/
theorem State.Inv.intro {pending regs hearth flue chain window evals point energyHi pulse spectral events damper session ember host
    fault rst clk rtc trust fw aud link mantel dram pins}
    (h1 : Regs.wf regs = true) (h2 : Memory.wf (Ember.store ember) = true) (h3 : Memory.wf (Firmware.flash fw) = true)
    (h4 : Damper.frame damper < 10000) (h5 : (Damper.mailbox damper).length ≤ 64) (h6 : (Faults.queue fault).length ≤ 32)
    (h7 : (HostIf.inflight host).length ≤ 64) :
    (State.mk pending regs hearth flue chain window evals point energyHi pulse spectral events damper session ember host
      fault rst clk rtc trust fw aud link mantel dram pins).Inv :=
  State.inv_iff.mpr ⟨h1, h2, h3, h4, h5, h6, h7⟩

/-- A state all of whose parts that the invariant speaks of are those of a sound one. -/
theorem State.foldl_inv {α : Type} {f : State → α → State} {l : List α} {s : State} (h : s.Inv)
    (hf : ∀ s a, s.Inv → (f s a).Inv) : (l.foldl f s).Inv := by
  induction l generalizing s with
  | nil => exact h
  | cons a l ih => exact ih (hf s a h)

theorem State.ite_inv {c : Prop} [Decidable c] {s t : State} (hs : c → s.Inv) (ht : ¬c → t.Inv) : (if c then s else t).Inv := by
  split
  · exact hs ‹_›
  · exact ht ‹_›

theorem State.getD_inv {o : Option State} {s : State} (hs : s.Inv) (ho : ∀ t, o = some t → t.Inv) : (o.getD s).Inv := by
  cases o with
  | none => exact hs
  | some t => exact ho t rfl

/-- An outcome keeps the invariant when its next state, if it has one, is sound. -/
structure Keeps (o : Host.Outcome State Fault Refusal) : Prop where
  inv : ∀ t, o = .next t → t.Inv

theorem Keeps.next {t : State} (h : t.Inv) : Keeps (.next t) := ⟨fun _ e => by cases e; exact h⟩

theorem Keeps.ite {c : Prop} [Decidable c] {o p : Host.Outcome State Fault Refusal} (ho : c → Keeps o) (hp : ¬c → Keeps p) :
    Keeps (if c then o else p) := by
  split
  · exact ho ‹_›
  · exact hp ‹_›

theorem State.setReg_inv {s : State} {a : Nat} {v : Word} (h : s.Inv) : (s.setReg a v).Inv :=
  State.Inv.intro (Regs.wf_set _ _ h.regs) h.store h.flash h.frame h.mail h.queue h.flight


/-- Writing what a register holds changes nothing in a canonical register file. -/
theorem State.setReg_reg {s : State} (a : Nat) (h : Regs.wf s.regs = true) : s.setReg a (s.reg a) = s := by
  unfold State.setReg State.reg; rw [Regs.set_get a h]

/-- A change of the host interface, the ember controller or the damper keeps the invariant when it keeps the parts that the
invariant speaks of. -/
theorem State.updHost_inv {s : State} {f : HostIf → HostIf} (h : s.Inv)
    (hf : s.host.inflight.length ≤ 64 → (f s.host).inflight.length ≤ 64) : (s.updHost f).Inv :=
  State.Inv.intro h.regs h.store h.flash h.frame h.mail h.queue (hf h.flight)
theorem State.updEmber_inv {s : State} {f : Ember → Ember} (h : s.Inv)
    (hf : Memory.wf s.ember.store = true → Memory.wf (f s.ember).store = true) : (s.updEmber f).Inv :=
  State.Inv.intro h.regs (hf h.store) h.flash h.frame h.mail h.queue h.flight
theorem State.updDamper_inv {s : State} {f : Damper → Damper} (h : s.Inv)
    (hf : s.damper.frame < 10000 ∧ s.damper.mailbox.length ≤ 64 →
      (f s.damper).frame < 10000 ∧ (f s.damper).mailbox.length ≤ 64) : (s.updDamper f).Inv :=
  have g := hf ⟨h.frame, h.mail⟩
  State.Inv.intro h.regs h.store h.flash g.1 g.2 h.queue h.flight

/-! The ember store keeps its canonical form. -/

section
variable {e : Ember}
theorem Ember.wf_put (off : Nat) (bs : List Byte) (h : Memory.wf e.store = true) : Memory.wf (e.put off bs).store = true :=
  Memory.wf_writeN _ _ h
theorem Ember.wf_putCounter (a b : Nat) (h : Memory.wf e.store = true) : Memory.wf (e.putCounter a b).store = true := by
  unfold Ember.putCounter; exact Ember.wf_put _ _ h
theorem Ember.wf_dropMarker (h : Memory.wf e.store = true) : Memory.wf e.dropMarker.store = true := Ember.wf_put _ _ h
theorem Ember.wf_markEntry (a b : Nat) (h : Memory.wf e.store = true) : Memory.wf (e.markEntry a b).store = true :=
  Ember.wf_put _ _ h
theorem Ember.wf_storeSig (a : Nat) (b : BitVec 512) (h : Memory.wf e.store = true) : Memory.wf (e.storeSig a b).store = true :=
  Ember.wf_markEntry _ _ (Ember.wf_put _ _ h)
theorem Ember.wf_putCfg (a b : BitVec 384) (h : Memory.wf e.store = true) : Memory.wf (e.putCfg a b).store = true := by
  unfold Ember.putCfg; exact Ember.wf_put _ _ h
theorem Ember.wf_putFault (r : FaultRecord) (h : Memory.wf e.store = true) : Memory.wf (e.putFault r).store = true :=
  Ember.wf_put _ _ h
theorem Ember.wf_putJournal (p : Nat) (d : Bool) (k m : Nat) (r : Rect) (i f g t : Nat) (h : Memory.wf e.store = true) :
    Memory.wf (e.putJournal p d k m r i f g t).store = true := by
  unfold Ember.putJournal; exact Ember.wf_put _ _ h
theorem Ember.wf_init {st : List Host.Cell} (h : Memory.wf st = true) : Memory.wf (Ember.init st).store = true := h
theorem Ember.wf_foldl {α : Type} {f : Ember → α → Ember} {l : List α} (h : Memory.wf e.store = true)
    (hf : ∀ e a, Memory.wf (Ember.store e) = true → Memory.wf (f e a).store = true) : Memory.wf (l.foldl f e).store = true := by
  induction l generalizing e with
  | nil => exact h
  | cons a l ih => exact ih (hf e a h)
end

theorem Faults.init_queue : Faults.init.queue.length ≤ 32 := Nat.zero_le _
theorem Damper.init_frame : Damper.init.frame < 10000 := by decide
theorem Damper.init_mail : Damper.init.mailbox.length ≤ 64 := Nat.zero_le _
theorem HostIf.init_flight : HostIf.init.inflight.length ≤ 64 := Nat.zero_le _

end Sys2Proof.Machine
end

