-- ==== Sys2Proof/Laws/InvOps.lean ====
section
/-! SUPPORT. What the shared operations leave of the invariant: all of it. -/

namespace Sys2Proof.Machine

/-! Ops. -/

theorem State.setBits_inv (s : State) (a : Nat) (m : Word) (hI : s.Inv) : (State.setBits s a m).Inv := by
  unfold State.setBits
  repeat' first | with_reducible assumption | with_reducible apply State.setReg_inv

theorem State.setFlag_inv (s : State) (a i : Nat) (hI : s.Inv) : (State.setFlag s a i).Inv := by
  unfold State.setFlag
  repeat' first | with_reducible assumption | with_reducible apply State.setBits_inv

theorem State.putField_inv (s : State) (a hi lo v : Nat) (hI : s.Inv) : (State.putField s a hi lo v).Inv := by
  unfold State.putField
  repeat' first | with_reducible assumption | with_reducible apply State.setReg_inv

theorem State.setIsland_inv (s : State) (i : Nat) (v : IslandState) (hI : s.Inv) : (State.setIsland s i v).Inv := by
  unfold State.setIsland
  repeat' first
    | with_reducible assumption | intro _ | with_reducible apply State.Inv.intro
    | with_reducible apply State.Inv.regs | with_reducible apply State.Inv.store
    | with_reducible apply State.Inv.flash | with_reducible apply State.Inv.frame
    | with_reducible apply State.Inv.mail | with_reducible apply State.Inv.queue
    | with_reducible apply State.Inv.flight

theorem State.updHearth_inv (s : State) (h : Nat) (f : Hearth → Hearth) (hI : s.Inv) : (State.updHearth s h f).Inv :=
  by
  unfold State.updHearth
  repeat' first
    | with_reducible assumption | intro _ | with_reducible apply State.Inv.intro
    | with_reducible apply State.Inv.regs | with_reducible apply State.Inv.store
    | with_reducible apply State.Inv.flash | with_reducible apply State.Inv.frame
    | with_reducible apply State.Inv.mail | with_reducible apply State.Inv.queue
    | with_reducible apply State.Inv.flight

theorem State.updFlue_inv (s : State) (h : Nat) (f : Flue → Flue) (hI : s.Inv) : (State.updFlue s h f).Inv := by
  unfold State.updFlue
  repeat' first
    | with_reducible assumption | intro _ | with_reducible apply State.Inv.intro
    | with_reducible apply State.Inv.regs | with_reducible apply State.Inv.store
    | with_reducible apply State.Inv.flash | with_reducible apply State.Inv.frame
    | with_reducible apply State.Inv.mail | with_reducible apply State.Inv.queue
    | with_reducible apply State.Inv.flight

theorem State.updChain_inv (s : State) (i : Nat) (f : Chain → Chain) (hI : s.Inv) : (State.updChain s i f).Inv := by
  unfold State.updChain
  repeat' first
    | with_reducible assumption | intro _ | with_reducible apply State.Inv.intro
    | with_reducible apply State.Inv.regs | with_reducible apply State.Inv.store
    | with_reducible apply State.Inv.flash | with_reducible apply State.Inv.frame
    | with_reducible apply State.Inv.mail | with_reducible apply State.Inv.queue
    | with_reducible apply State.Inv.flight

theorem State.updPoint_inv (s : State) (p : Nat) (f : Point → Point) (hI : s.Inv) : (State.updPoint s p f).Inv := by
  unfold State.updPoint
  repeat' first
    | with_reducible assumption | intro _ | with_reducible apply State.Inv.intro
    | with_reducible apply State.Inv.regs | with_reducible apply State.Inv.store
    | with_reducible apply State.Inv.flash | with_reducible apply State.Inv.frame
    | with_reducible apply State.Inv.mail | with_reducible apply State.Inv.queue
    | with_reducible apply State.Inv.flight

theorem State.updSession_inv (s : State) (k : Nat) (f : Session → Session) (hI : s.Inv) : (State.updSession s k
  f).Inv := by
  unfold State.updSession
  repeat' first
    | with_reducible assumption | intro _ | with_reducible apply State.Inv.intro
    | with_reducible apply State.Inv.regs | with_reducible apply State.Inv.store
    | with_reducible apply State.Inv.flash | with_reducible apply State.Inv.frame
    | with_reducible apply State.Inv.mail | with_reducible apply State.Inv.queue
    | with_reducible apply State.Inv.flight

theorem State.updPulse_inv (s : State) (c : Nat) (f : Pulse → Pulse) (hI : s.Inv) : (State.updPulse s c f).Inv := by
  unfold State.updPulse
  repeat' first
    | with_reducible assumption | intro _ | with_reducible apply State.Inv.intro
    | with_reducible apply State.Inv.regs | with_reducible apply State.Inv.store
    | with_reducible apply State.Inv.flash | with_reducible apply State.Inv.frame
    | with_reducible apply State.Inv.mail | with_reducible apply State.Inv.queue
    | with_reducible apply State.Inv.flight

theorem State.readBack_inv (s : State) (v : Word) (hI : s.Inv) : (State.readBack s v).Inv := by
  unfold State.readBack
  repeat' first
    | with_reducible assumption | intro _ | with_reducible apply State.Inv.intro
    | with_reducible apply State.Inv.regs | with_reducible apply State.Inv.store
    | with_reducible apply State.Inv.flash | with_reducible apply State.Inv.frame
    | with_reducible apply State.Inv.mail | with_reducible apply State.Inv.queue
    | with_reducible apply State.Inv.flight

theorem State.readAbort_inv (s : State) (hI : s.Inv) : (State.readAbort s).Inv := by
  unfold State.readAbort
  repeat' first
    | with_reducible assumption | intro _ | with_reducible apply State.Inv.intro
    | with_reducible apply State.Inv.regs | with_reducible apply State.Inv.store
    | with_reducible apply State.Inv.flash | with_reducible apply State.Inv.frame
    | with_reducible apply State.Inv.mail | with_reducible apply State.Inv.queue
    | with_reducible apply State.Inv.flight

theorem readRow_inv (isl : Nat) (s : State) (f : State → State) (hI : s.Inv) (hf : ∀ x, x.Inv → (f x).Inv) : (readRow
  isl s f).Inv := by
  unfold readRow
  repeat' first
    | with_reducible assumption | with_reducible apply hf | with_reducible apply State.readAbort_inv | intro _
    | with_reducible apply State.ite_inv

theorem State.dmaWrite_inv (s : State) (addr : Nat) (bs : List Byte) (hI : s.Inv) : (State.dmaWrite s addr bs).Inv :=
  by
  unfold State.dmaWrite
  repeat' first | with_reducible assumption | with_reducible apply State.updHost_inv | intro _

theorem State.raiseVector_inv (s : State) (v : Nat) (hI : s.Inv) : (State.raiseVector s v).Inv := by
  unfold State.raiseVector
  repeat' first
    | with_reducible assumption | with_reducible apply State.updHost_inv | intro _
    | with_reducible apply State.ite_inv

theorem State.hostErrs_inv (s : State) (bits : Word) (ring : Nat) (hI : s.Inv) :
    (State.hostErrs s bits ring).Inv := by
  unfold State.hostErrs
  repeat' first
    | with_reducible assumption | with_reducible apply State.setBits_inv | with_reducible apply State.updHost_inv
    | with_reducible apply State.raiseVector_inv | intro _ | with_reducible apply State.ite_inv | split

theorem State.hostErr_inv (s : State) (bit ring : Nat) (hI : s.Inv) : (State.hostErr s bit ring).Inv := by
  unfold State.hostErr
  repeat' first | with_reducible assumption | with_reducible apply State.hostErrs_inv

theorem State.aerError_inv (s : State) (hI : s.Inv) : (State.aerError s).Inv := by
  unfold State.aerError
  repeat' first | with_reducible assumption | with_reducible apply State.updHost_inv | intro _

theorem State.setPhase_inv (s : State) (ord : Nat) (ph : Phase) (hI : s.Inv) : (State.setPhase s ord ph).Inv := by
  unfold State.setPhase
  repeat' first
    | with_reducible assumption | with_reducible apply State.updHost_inv | intro _
    | with_reducible apply State.ite_inv | split | with_reducible apply State.Inv.intro
    | with_reducible apply State.Inv.regs | with_reducible apply State.Inv.store
    | with_reducible apply State.Inv.flash | with_reducible apply State.Inv.frame
    | with_reducible apply State.Inv.mail | with_reducible apply State.Inv.queue
    | with_reducible apply State.Inv.flight | with_reducible apply Regs.wf_set | with_reducible apply Regs.wf_clear
    | with_reducible apply Regs.wf_clearIsland | with_reducible apply Regs.wf_reject
    | with_reducible apply Memory.wf_writeN | with_reducible apply Memory.wf_write
    | with_reducible apply Ember.wf_init | with_reducible apply Ember.wf_put
    | with_reducible apply Ember.wf_putCounter | with_reducible apply Ember.wf_dropMarker
    | with_reducible apply Ember.wf_markEntry | with_reducible apply Ember.wf_storeSig
    | with_reducible apply Ember.wf_putCfg | with_reducible apply Ember.wf_putFault
    | with_reducible apply Ember.wf_putJournal | with_reducible apply Ember.wf_foldl
    | with_reducible apply Faults.init_queue | with_reducible apply Damper.init_frame
    | with_reducible apply Damper.init_mail | with_reducible apply HostIf.init_flight | simp only [List.length_map]

theorem State.finish_inv (s : State) (ord status detail : Nat) (result : List Byte) (hI : s.Inv) : (State.finish s
  ord status detail result).Inv := by
  unfold State.finish
  repeat' first | with_reducible assumption | with_reducible apply State.setPhase_inv

theorem State.finishOk_inv (s : State) (ord : Nat) (result : List Byte) (hI : s.Inv) : (State.finishOk s ord
  result).Inv := by
  unfold State.finishOk
  repeat' first | with_reducible assumption | with_reducible apply State.finish_inv

theorem State.finishFail_inv (s : State) (ord status detail : Nat) (hI : s.Inv) : (State.finishFail s ord status
  detail).Inv := by
  unfold State.finishFail
  repeat' first | with_reducible assumption | with_reducible apply State.finish_inv

theorem State.finishOpt_inv (s : State) (ord : Option Nat) (status detail : Nat) (result : List Byte) (hI : s.Inv) :
  (State.finishOpt s ord status detail result).Inv := by
  unfold State.finishOpt
  repeat' first | with_reducible assumption | with_reducible apply State.finish_inv | intro _ | split

/-! Bank. -/

theorem writeBank_inv (final : Bool) (cut : Option Nat) (s : State) (hI : s.Inv) : (writeBank final cut s).Inv := by
  have key : ∀ (l : List (Nat × List Byte)) (x : Ember × Nat), Memory.wf x.1.store = true →
      Memory.wf (l.foldl (fun (acc : Ember × Nat) (w : Nat × List Byte) => (acc.1.put w.1 (w.2.take acc.2), acc.2 - w.2.length)) x).1.store = true := by
    intro l
    induction l with
    | nil => intro x h; exact h
    | cons a l ih => intro x h; exact ih _ (Ember.wf_put _ _ h)
  unfold writeBank
  dsimp only
  generalize hE : List.foldl _ (s.ember, _) _ = acc
  have hA : Memory.wf acc.1.store = true := by rw [← hE]; exact key _ _ hI.store
  refine State.ite_inv (fun _ => ?_) (fun _ => ?_)
  · exact State.Inv.intro hI.regs hA hI.flash hI.frame hI.mail hI.queue hI.flight
  · exact State.Inv.intro hI.regs hA hI.flash hI.frame hI.mail hI.queue hI.flight

theorem finalBank_inv (s : State) (hI : s.Inv) : (finalBank s).Inv := by
  unfold finalBank
  repeat' first
    | with_reducible assumption | with_reducible apply writeBank_inv | intro _ | with_reducible apply State.ite_inv
    | split

theorem writeMarker_inv (s : State) (hI : s.Inv) : (writeMarker s).Inv := by
  unfold writeMarker
  repeat' first
    | with_reducible assumption | with_reducible apply State.updEmber_inv | intro _ | split
    | with_reducible apply State.Inv.intro | with_reducible apply State.Inv.regs
    | with_reducible apply State.Inv.store | with_reducible apply State.Inv.flash
    | with_reducible apply State.Inv.frame | with_reducible apply State.Inv.mail
    | with_reducible apply State.Inv.queue | with_reducible apply State.Inv.flight | with_reducible apply Regs.wf_set
    | with_reducible apply Regs.wf_clear | with_reducible apply Regs.wf_clearIsland
    | with_reducible apply Regs.wf_reject | with_reducible apply Memory.wf_writeN
    | with_reducible apply Memory.wf_write | with_reducible apply Ember.wf_init | with_reducible apply Ember.wf_put

/-! ResetOps. -/

theorem clearIsland_inv (i : Nat) (s : State) (hI : s.Inv) : (clearIsland i s).Inv := by
  unfold clearIsland
  repeat' first
    | with_reducible assumption | intro _ | split | with_reducible apply State.Inv.intro
    | with_reducible apply State.Inv.regs | with_reducible apply State.Inv.store
    | with_reducible apply State.Inv.flash | with_reducible apply State.Inv.frame
    | with_reducible apply State.Inv.mail | with_reducible apply State.Inv.queue
    | with_reducible apply State.Inv.flight | with_reducible apply Regs.wf_set | with_reducible apply Regs.wf_clear
    | with_reducible apply Regs.wf_clearIsland | with_reducible apply Regs.wf_reject
    | with_reducible apply Memory.wf_writeN | with_reducible apply Memory.wf_write
    | with_reducible apply Ember.wf_init | with_reducible apply Ember.wf_put
    | with_reducible apply Ember.wf_putCounter | with_reducible apply Ember.wf_dropMarker
    | with_reducible apply Ember.wf_markEntry | with_reducible apply Ember.wf_storeSig
    | with_reducible apply Ember.wf_putCfg | with_reducible apply Ember.wf_putFault
    | with_reducible apply Ember.wf_putJournal | with_reducible apply Ember.wf_foldl
    | with_reducible apply Faults.init_queue | with_reducible apply Damper.init_frame
    | with_reducible apply Damper.init_mail | with_reducible apply HostIf.init_flight

theorem enterReset_inv (i : Nat) (s : State) (hI : s.Inv) : (enterReset i s).Inv := by
  unfold enterReset
  repeat' first
    | with_reducible assumption | with_reducible apply State.setIsland_inv | with_reducible apply clearIsland_inv

theorem endTransfer_inv (s : State) (hI : s.Inv) : (endTransfer s).Inv := by
  unfold endTransfer
  repeat' first
    | with_reducible assumption | intro _ | with_reducible apply State.ite_inv | split
    | with_reducible apply State.Inv.intro | with_reducible apply State.Inv.regs
    | with_reducible apply State.Inv.store | with_reducible apply State.Inv.flash
    | with_reducible apply State.Inv.frame | with_reducible apply State.Inv.mail
    | with_reducible apply State.Inv.queue | with_reducible apply State.Inv.flight

theorem abortPanels_inv (s : State) (hI : s.Inv) : (abortPanels s).Inv := by
  unfold abortPanels
  repeat' first
    | with_reducible assumption | intro _ | with_reducible apply State.Inv.intro
    | with_reducible apply State.Inv.regs | with_reducible apply State.Inv.store
    | with_reducible apply State.Inv.flash | with_reducible apply State.Inv.frame
    | with_reducible apply State.Inv.mail | with_reducible apply State.Inv.queue
    | with_reducible apply State.Inv.flight

theorem dropLoading_inv (s : State) (hI : s.Inv) : (dropLoading s).Inv := by
  unfold dropLoading
  repeat' first
    | with_reducible assumption | with_reducible apply State.updDamper_inv | intro _
    | with_reducible apply State.ite_inv

theorem enterControlReset_inv (s : State) (hI : s.Inv) : (enterControlReset s).Inv := by
  unfold enterControlReset
  repeat' first
    | with_reducible assumption | with_reducible apply State.setReg_inv | with_reducible apply enterReset_inv
    | with_reducible apply endTransfer_inv | with_reducible apply abortPanels_inv
    | with_reducible apply dropLoading_inv | with_reducible apply State.foldl_inv | intro _ _ _ | intro _
    | with_reducible apply State.Inv.intro | with_reducible apply State.Inv.regs
    | with_reducible apply State.Inv.store | with_reducible apply State.Inv.flash
    | with_reducible apply State.Inv.frame | with_reducible apply State.Inv.mail
    | with_reducible apply State.Inv.queue | with_reducible apply State.Inv.flight

theorem clearPower_inv (s : State) (hI : s.Inv) : (clearPower s).Inv := by
  unfold clearPower
  repeat' first
    | with_reducible assumption | intro _ | with_reducible apply State.ite_inv | split
    | with_reducible apply State.Inv.intro | with_reducible apply State.Inv.regs
    | with_reducible apply State.Inv.store | with_reducible apply State.Inv.flash
    | with_reducible apply State.Inv.frame | with_reducible apply State.Inv.mail
    | with_reducible apply State.Inv.queue | with_reducible apply State.Inv.flight

theorem enterMetrologyReset_inv (keepEmber : Bool) (s : State) (hI : s.Inv) :
    (enterMetrologyReset keepEmber s).Inv := by
  unfold enterMetrologyReset
  repeat' first
    | with_reducible assumption | with_reducible apply enterReset_inv | with_reducible apply clearPower_inv
    | with_reducible apply State.setReg_inv | with_reducible apply State.foldl_inv | intro _ _ _ | intro _
    | with_reducible apply State.ite_inv | split | with_reducible apply State.Inv.intro
    | with_reducible apply State.Inv.regs | with_reducible apply State.Inv.store
    | with_reducible apply State.Inv.flash | with_reducible apply State.Inv.frame
    | with_reducible apply State.Inv.mail | with_reducible apply State.Inv.queue
    | with_reducible apply State.Inv.flight

theorem triggerBank_inv (cause source : Nat) (s : State) (hI : s.Inv) : (triggerBank cause source s).Inv := by
  unfold triggerBank
  repeat' first
    | with_reducible assumption | with_reducible apply State.updEmber_inv | with_reducible apply abortPanels_inv
    | intro _ | with_reducible apply State.ite_inv

theorem awaitBank_inv (source : Nat) (s : State) (hI : s.Inv) : (awaitBank source s).Inv := by
  unfold awaitBank
  repeat' first
    | with_reducible assumption | with_reducible apply triggerBank_inv | with_reducible apply enterMetrologyReset_inv
    | intro _ | with_reducible apply State.ite_inv | split | with_reducible apply State.Inv.intro
    | with_reducible apply State.Inv.regs | with_reducible apply State.Inv.store
    | with_reducible apply State.Inv.flash | with_reducible apply State.Inv.frame
    | with_reducible apply State.Inv.mail | with_reducible apply State.Inv.queue
    | with_reducible apply State.Inv.flight

theorem enterLevel_inv (c : Nat) (old : Option Level) (new : Level) (s : State) (hI : s.Inv) :
    (enterLevel c old new s).Inv := by
  unfold enterLevel
  repeat' first
    | with_reducible assumption | with_reducible apply finalBank_inv | with_reducible apply enterMetrologyReset_inv
    | with_reducible apply enterControlReset_inv | with_reducible apply clearPower_inv
    | with_reducible apply awaitBank_inv | intro _ | with_reducible apply State.ite_inv | split
    | with_reducible apply State.Inv.intro | with_reducible apply State.Inv.regs
    | with_reducible apply State.Inv.store | with_reducible apply State.Inv.flash
    | with_reducible apply State.Inv.frame | with_reducible apply State.Inv.mail
    | with_reducible apply State.Inv.queue | with_reducible apply State.Inv.flight | with_reducible apply Regs.wf_set
    | with_reducible apply Regs.wf_clear

theorem assertAt_inv (c : Nat) (l : Level) (clk : Nat) (s : State) (hI : s.Inv) : (assertAt c l clk s).Inv := by
  unfold assertAt
  repeat' first
    | with_reducible assumption | with_reducible apply enterLevel_inv | intro _ | with_reducible apply State.ite_inv
    | split | with_reducible apply State.Inv.intro | with_reducible apply State.Inv.regs
    | with_reducible apply State.Inv.store | with_reducible apply State.Inv.flash
    | with_reducible apply State.Inv.frame | with_reducible apply State.Inv.mail
    | with_reducible apply State.Inv.queue | with_reducible apply State.Inv.flight

theorem assertSource_inv (c : Nat) (s : State) (hI : s.Inv) : (assertSource c s).Inv := by
  unfold assertSource
  repeat' first
    | with_reducible assumption | with_reducible apply assertAt_inv | intro _ | with_reducible apply State.ite_inv
    | split | with_reducible apply State.Inv.intro | with_reducible apply State.Inv.regs
    | with_reducible apply State.Inv.store | with_reducible apply State.Inv.flash
    | with_reducible apply State.Inv.frame | with_reducible apply State.Inv.mail
    | with_reducible apply State.Inv.queue | with_reducible apply State.Inv.flight

theorem releaseSource_inv (c : Nat) (s : State) (hI : s.Inv) : (releaseSource c s).Inv := by
  unfold releaseSource
  repeat' first
    | with_reducible assumption | intro _ | with_reducible apply State.Inv.intro
    | with_reducible apply State.Inv.regs | with_reducible apply State.Inv.store
    | with_reducible apply State.Inv.flash | with_reducible apply State.Inv.frame
    | with_reducible apply State.Inv.mail | with_reducible apply State.Inv.queue
    | with_reducible apply State.Inv.flight

theorem failInflight_inv (i : Nat) (s : State) (hI : s.Inv) : (failInflight i s).Inv := by
  unfold failInflight
  repeat' first
    | with_reducible assumption | with_reducible apply State.updHost_inv | intro _
    | with_reducible apply State.ite_inv | split | with_reducible apply State.Inv.intro
    | with_reducible apply State.Inv.regs | with_reducible apply State.Inv.store
    | with_reducible apply State.Inv.flash | with_reducible apply State.Inv.frame
    | with_reducible apply State.Inv.mail | with_reducible apply State.Inv.queue
    | with_reducible apply State.Inv.flight | with_reducible apply Regs.wf_set | with_reducible apply Regs.wf_clear
    | with_reducible apply Regs.wf_clearIsland | with_reducible apply Regs.wf_reject
    | with_reducible apply Memory.wf_writeN | with_reducible apply Memory.wf_write
    | with_reducible apply Ember.wf_init | with_reducible apply Ember.wf_put
    | with_reducible apply Ember.wf_putCounter | with_reducible apply Ember.wf_dropMarker
    | with_reducible apply Ember.wf_markEntry | with_reducible apply Ember.wf_storeSig
    | with_reducible apply Ember.wf_putCfg | with_reducible apply Ember.wf_putFault
    | with_reducible apply Ember.wf_putJournal | with_reducible apply Ember.wf_foldl
    | with_reducible apply Faults.init_queue | with_reducible apply Damper.init_frame
    | with_reducible apply Damper.init_mail | with_reducible apply HostIf.init_flight | simp only [List.length_map]

theorem endCapture_inv (n cause : Nat) (s : State) (hI : s.Inv) : (endCapture n cause s).Inv := by
  unfold endCapture
  repeat' first | with_reducible assumption | with_reducible apply State.updHost_inv | intro _ | split

theorem endCaptures_inv (cause : Nat) (s : State) (hI : s.Inv) : (endCaptures cause s).Inv := by
  unfold endCaptures
  repeat' first
    | with_reducible assumption | with_reducible apply endCapture_inv | with_reducible apply State.foldl_inv
    | intro _ _ _

theorem isolate_inv (i : Nat) (s : State) (hI : s.Inv) : (isolate i s).Inv := by
  unfold isolate
  repeat' first
    | with_reducible assumption | with_reducible apply State.setReg_inv | with_reducible apply State.setIsland_inv
    | with_reducible apply clearIsland_inv | with_reducible apply endTransfer_inv
    | with_reducible apply dropLoading_inv | with_reducible apply failInflight_inv
    | with_reducible apply endCaptures_inv | intro _ | split | with_reducible apply State.Inv.intro
    | with_reducible apply State.Inv.regs | with_reducible apply State.Inv.store
    | with_reducible apply State.Inv.flash | with_reducible apply State.Inv.frame
    | with_reducible apply State.Inv.mail | with_reducible apply State.Inv.queue
    | with_reducible apply State.Inv.flight

/-! FaultOps. -/

theorem State.setReps_inv (s : State) (i : Nat) (r : RepeatState) (hI : s.Inv) : (State.setReps s i r).Inv := by
  unfold State.setReps
  repeat' first
    | with_reducible assumption | intro _ | with_reducible apply State.Inv.intro
    | with_reducible apply State.Inv.regs | with_reducible apply State.Inv.store
    | with_reducible apply State.Inv.flash | with_reducible apply State.Inv.frame
    | with_reducible apply State.Inv.mail | with_reducible apply State.Inv.queue
    | with_reducible apply State.Inv.flight

/-- Renumbering records keeps how many they are. -/
@[simp] theorem renumber_length (n : Nat) (l : List FaultRecord) : (renumber n l).length = l.length := by
  induction l generalizing n with
  | nil => rfl
  | cons r l ih => simp [renumber, ih]

/-- A list cut after its first elements that pass a test, with one more put between, is one longer. -/
theorem takeWhile_insert_length {α : Type} (p : α → Bool) (l : List α) :
    (l.takeWhile p).length + ((l.drop (l.takeWhile p).length).length + 1) = l.length + 1 := by
  have h := (List.takeWhile_sublist p (l := l)).length_le
  simp only [List.length_drop]; omega

theorem addRecord_inv (key island code : Nat) (cls : FaultClass) (action detail rep flags : Nat) (s : State) (hI : s.Inv) :
    (addRecord key island code cls action detail rep flags s).Inv := by
  unfold addRecord
  dsimp only
  generalize hm : (if decide (s.fault.queue.length < 32) = true then renumber _ _ else [_]) = moved
  have hq : (if decide (s.fault.queue.length < 32) = true then
      s.fault.queue.takeWhile (fun x => !(x.follows s.fault.timeBase key)) ++ moved else s.fault.queue).length ≤ 32 := by
    split
    · next h =>
      rw [if_pos h] at hm
      rw [List.length_append, ← hm, renumber_length, List.length_cons, takeWhile_insert_length]
      exact Nat.succ_le_of_lt (of_decide_eq_true h)
    · exact hI.queue
  have hS : ∀ (held : List FaultRecord) (o n : Nat) (q : List FaultRecord), q.length ≤ 32 →
      ({ s with fault := { s.fault with fseq := n, queue := q, overflow := o, held := held } } : State).Inv := fun _ _ _ _ h =>
    State.Inv.intro hI.regs hI.store hI.flash hI.frame hI.mail h hI.flight
  have hE : ∀ u : State, u.Inv → (u.updEmber fun e => moved.foldl (fun e r => e.putFault r) e).Inv := fun u hu =>
    State.updEmber_inv hu fun h => Ember.wf_foldl h fun _ _ => Ember.wf_putFault _
  refine State.ite_inv (fun _ => ?_) fun _ => State.ite_inv (fun _ => State.raiseVector_inv _ _ ?_) fun _ => State.updHost_inv ?_ id
  all_goals exact State.ite_inv (fun _ => hE _ (hS _ _ _ _ hq)) (fun _ => hS _ _ _ _ hq)

theorem flushRecords_inv (s : State) (hI : s.Inv) : (flushRecords s).Inv := by
  unfold flushRecords
  repeat' first
    | with_reducible assumption | with_reducible apply State.foldl_inv | intro _ _ _ | intro _
    | with_reducible apply State.ite_inv | split | with_reducible apply State.Inv.intro
    | with_reducible apply State.Inv.regs | with_reducible apply State.Inv.store
    | with_reducible apply State.Inv.flash | with_reducible apply State.Inv.frame
    | with_reducible apply State.Inv.mail | with_reducible apply State.Inv.queue
    | with_reducible apply State.Inv.flight | with_reducible apply Regs.wf_set | with_reducible apply Regs.wf_clear
    | with_reducible apply Regs.wf_clearIsland | with_reducible apply Regs.wf_reject
    | with_reducible apply Memory.wf_writeN | with_reducible apply Memory.wf_write
    | with_reducible apply Ember.wf_init | with_reducible apply Ember.wf_put
    | with_reducible apply Ember.wf_putCounter | with_reducible apply Ember.wf_dropMarker
    | with_reducible apply Ember.wf_markEntry | with_reducible apply Ember.wf_storeSig
    | with_reducible apply Ember.wf_putCfg | with_reducible apply Ember.wf_putFault
    | with_reducible apply Ember.wf_putJournal | with_reducible apply Ember.wf_foldl

theorem escalate_inv (key : Nat) (l : List (Nat × Level)) (s : State) (hI : s.Inv) : (escalate key l s).Inv := by
  unfold escalate
  repeat' first
    | with_reducible assumption | with_reducible apply addRecord_inv | with_reducible apply State.setBits_inv
    | with_reducible apply State.setReps_inv | with_reducible apply assertAt_inv
    | with_reducible apply State.foldl_inv | intro _ _ _

theorem islandFault_inv (island code detail : Nat) (s : State) (hI : s.Inv) :
    (islandFault island code detail s).Inv := by
  unfold islandFault
  repeat' first
    | with_reducible assumption | with_reducible apply addRecord_inv | with_reducible apply isolate_inv
    | with_reducible apply State.setReps_inv | with_reducible apply escalate_inv | intro _
    | with_reducible apply State.ite_inv

theorem deviceFault_inv (island code detail : Nat) (own : Level) (s : State) (hI : s.Inv) :
    (deviceFault island code detail own s).Inv := by
  unfold deviceFault
  repeat' first
    | with_reducible assumption | with_reducible apply escalate_inv | with_reducible apply addRecord_inv
    | with_reducible apply State.setReps_inv | with_reducible apply assertAt_inv
    | with_reducible apply State.setIsland_inv | intro _ | with_reducible apply State.ite_inv

theorem reportFault_inv (island code detail : Nat) (s : State) (hI : s.Inv) :
    (reportFault island code detail s).Inv := by
  unfold reportFault
  repeat' first
    | with_reducible assumption | with_reducible apply addRecord_inv | with_reducible apply islandFault_inv
    | with_reducible apply deviceFault_inv | intro _ | with_reducible apply State.ite_inv | split
    | with_reducible apply State.Inv.intro | with_reducible apply State.Inv.regs
    | with_reducible apply State.Inv.store | with_reducible apply State.Inv.flash
    | with_reducible apply State.Inv.frame | with_reducible apply State.Inv.mail
    | with_reducible apply State.Inv.queue | with_reducible apply State.Inv.flight

/-! RegOps. -/

theorem writeReg_inv (a : Nat) (v : Word) (s : State) (hI : s.Inv) : (writeReg a v s).Inv := by
  unfold writeReg
  repeat' first
    | with_reducible assumption | with_reducible apply State.setReg_inv | intro _
    | with_reducible apply State.ite_inv | split | with_reducible apply State.Inv.intro
    | with_reducible apply State.Inv.regs | with_reducible apply State.Inv.store
    | with_reducible apply State.Inv.flash | with_reducible apply State.Inv.frame
    | with_reducible apply State.Inv.mail | with_reducible apply State.Inv.queue
    | with_reducible apply State.Inv.flight | with_reducible apply Regs.wf_set | with_reducible apply Regs.wf_clear
    | with_reducible apply Regs.wf_clearIsland | with_reducible apply Regs.wf_reject

/-! HostOps. -/

theorem State.finishStatic_inv (s : State) (d : Inflight) (x : Nat × Nat) (hI : s.Inv) :
    (State.finishStatic s d x).Inv := by
  unfold State.finishStatic
  repeat' first | with_reducible assumption | with_reducible apply State.finish_inv

theorem withDescriptor_inv (ops : List Nat) (ord : Nat) (s : State) (f : Inflight → State) (hI : s.Inv) (hf : ∀ x0, (f x0).Inv) :
    Keeps (withDescriptor ops ord s f) := by
  unfold withDescriptor
  repeat' first
    | with_reducible assumption | with_reducible apply Keeps.next | with_reducible apply hf
    | with_reducible apply State.finishStatic_inv | with_reducible apply State.finishFail_inv | intro _
    | with_reducible apply Keeps.ite | with_reducible apply State.ite_inv | split

theorem withBuffer_inv (ops : List Nat) (ord : Nat) (s : State) (f : Inflight → State) (hI : s.Inv) (hf : ∀ x0, (f
  x0).Inv) : Keeps (withBuffer ops ord s f) := by
  unfold withBuffer
  repeat' first
    | with_reducible assumption | with_reducible apply hf | with_reducible apply Keeps.next
    | with_reducible apply withDescriptor_inv | intro _ | with_reducible apply Keeps.ite

theorem transferError_inv (bit ring : Nat) (s : State) (hI : s.Inv) : (transferError bit ring s).Inv := by
  unfold transferError
  repeat' first
    | with_reducible assumption | with_reducible apply reportFault_inv | with_reducible apply State.hostErr_inv
    | with_reducible apply State.aerError_inv

theorem bufferError_inv (ord detail : Nat) (s : State) (hI : s.Inv) : (bufferError ord detail s).Inv := by
  unfold bufferError
  repeat' first
    | with_reducible assumption | with_reducible apply transferError_inv | with_reducible apply State.finishFail_inv

theorem writeBuffer_inv (d : Inflight) (ok : Bool) (data result : List Byte) (s : State) (hI : s.Inv) : (writeBuffer
  d ok data result s).Inv := by
  unfold writeBuffer
  repeat' first
    | with_reducible assumption | with_reducible apply State.dmaWrite_inv | with_reducible apply State.finishOk_inv
    | with_reducible apply bufferError_inv | intro _ | with_reducible apply State.ite_inv

theorem payReply_inv (s : State) (w : OwedReply) (hI : s.Inv) : (payReply s w).Inv := by
  unfold payReply
  repeat' first
    | with_reducible assumption | with_reducible apply State.dmaWrite_inv | with_reducible apply State.finishOk_inv
    | with_reducible apply bufferError_inv | intro _ | with_reducible apply State.ite_inv | split
    | with_reducible apply State.Inv.intro | with_reducible apply State.Inv.regs
    | with_reducible apply State.Inv.store | with_reducible apply State.Inv.flash
    | with_reducible apply State.Inv.frame | with_reducible apply State.Inv.mail
    | with_reducible apply State.Inv.queue | with_reducible apply State.Inv.flight

theorem payOwed_inv (s : State) (hI : s.Inv) : (payOwed s).Inv := by
  unfold payOwed
  repeat' first
    | with_reducible assumption | with_reducible apply payReply_inv | with_reducible apply State.foldl_inv
    | intro _ _ _ | intro _ | with_reducible apply State.ite_inv | split | with_reducible apply State.Inv.intro
    | with_reducible apply State.Inv.regs | with_reducible apply State.Inv.store
    | with_reducible apply State.Inv.flash | with_reducible apply State.Inv.frame
    | with_reducible apply State.Inv.mail | with_reducible apply State.Inv.queue
    | with_reducible apply State.Inv.flight

theorem post_inv (cmd : MailCmd) (ord : Option Nat) (s t : State) (hI : s.Inv) (e : post cmd ord s = some t) : t.Inv
  := by
  unfold post at e
  split at e
  · rename_i hc
    simp only [Bool.and_eq_true, decide_eq_true_eq] at hc
    cases e
    exact State.updDamper_inv hI fun h => ⟨h.1, by simp only [List.length_append, List.length_cons, List.length_nil]; omega⟩
  · cases e

theorem postFor_inv (d : Inflight) (cmd : MailCmd) (s : State) (hI : s.Inv) : (postFor d cmd s).Inv := by
  unfold postFor
  split
  · exact State.setPhase_inv _ _ _ (post_inv _ _ _ _ hI ‹_›)
  · exact hI

/-! TrustOps. -/

theorem writeBoot_inv (l1 l2 img : Nat) (s : State) (hI : s.Inv) : (writeBoot l1 l2 img s).Inv := by
  unfold writeBoot
  repeat' first
    | with_reducible assumption | intro _ | with_reducible apply State.ite_inv | split
    | with_reducible apply State.Inv.intro | with_reducible apply State.Inv.regs
    | with_reducible apply State.Inv.store | with_reducible apply State.Inv.flash
    | with_reducible apply State.Inv.frame | with_reducible apply State.Inv.mail
    | with_reducible apply State.Inv.queue | with_reducible apply State.Inv.flight | with_reducible apply Regs.wf_set
    | with_reducible apply Regs.wf_clear | with_reducible apply Regs.wf_clearIsland
    | with_reducible apply Regs.wf_reject | with_reducible apply Memory.wf_writeN

theorem writeLayer_inv (layer v : Nat) (s : State) (hI : s.Inv) : (writeLayer layer v s).Inv := by
  unfold writeLayer
  repeat' first | with_reducible assumption | with_reducible apply writeBoot_inv

theorem setSlot_inv (layer : Nat) (b : Bool) (st : Nat) (s : State) (hI : s.Inv) : (setSlot layer b st s).Inv := by
  unfold setSlot
  repeat' first | with_reducible assumption | with_reducible apply writeLayer_inv

theorem activateSlot_inv (layer : Nat) (b trial : Bool) (s : State) (hI : s.Inv) : (activateSlot layer b trial s).Inv
  := by
  unfold activateSlot
  repeat' first | with_reducible assumption | with_reducible apply writeLayer_inv

theorem setImageSlot_inv (b : Bool) (s : State) (hI : s.Inv) : (setImageSlot b s).Inv := by
  unfold setImageSlot
  repeat' first | with_reducible assumption | with_reducible apply writeBoot_inv

theorem clearTrial_inv (s : State) (hI : s.Inv) : (clearTrial s).Inv := by
  unfold clearTrial
  repeat' first
    | with_reducible assumption | with_reducible apply activateSlot_inv | intro _ | with_reducible apply State.ite_inv

theorem acceptStart_inv (s : State) (hI : s.Inv) : (acceptStart s).Inv := by
  unfold acceptStart
  repeat' first
    | with_reducible assumption | with_reducible apply clearTrial_inv | intro _ | with_reducible apply State.ite_inv
    | split | with_reducible apply State.Inv.intro | with_reducible apply State.Inv.regs
    | with_reducible apply State.Inv.store | with_reducible apply State.Inv.flash
    | with_reducible apply State.Inv.frame | with_reducible apply State.Inv.mail
    | with_reducible apply State.Inv.queue | with_reducible apply State.Inv.flight

theorem writeSlot_inv (layer : Nat) (b : Bool) (bs : List Byte) (s : State) (hI : s.Inv) : (writeSlot layer b bs
  s).Inv := by
  unfold writeSlot
  repeat' first
    | with_reducible assumption | intro _ | with_reducible apply State.Inv.intro
    | with_reducible apply State.Inv.regs | with_reducible apply State.Inv.store
    | with_reducible apply State.Inv.flash | with_reducible apply State.Inv.frame
    | with_reducible apply State.Inv.mail | with_reducible apply State.Inv.queue
    | with_reducible apply State.Inv.flight | with_reducible apply Regs.wf_set | with_reducible apply Regs.wf_clear
    | with_reducible apply Regs.wf_clearIsland | with_reducible apply Regs.wf_reject
    | with_reducible apply Memory.wf_writeN

theorem setMreg_inv (i : Nat) (v : BitVec 384) (s : State) (hI : s.Inv) : (setMreg i v s).Inv := by
  unfold setMreg
  repeat' first
    | with_reducible assumption | intro _ | with_reducible apply State.ite_inv | split
    | with_reducible apply State.Inv.intro | with_reducible apply State.Inv.regs
    | with_reducible apply State.Inv.store | with_reducible apply State.Inv.flash
    | with_reducible apply State.Inv.frame | with_reducible apply State.Inv.mail
    | with_reducible apply State.Inv.queue | with_reducible apply State.Inv.flight

theorem measuredBoot_inv (s : State) (hI : s.Inv) : (measuredBoot s).Inv := by
  unfold measuredBoot
  repeat' first | with_reducible assumption | with_reducible apply setMreg_inv

/-! EmberOps. -/

theorem saveContext_inv (k : Nat) (s : State) (hI : s.Inv) : (saveContext k s).Inv := by
  unfold saveContext
  repeat' first
    | with_reducible assumption | with_reducible apply State.updEmber_inv | intro _
    | with_reducible apply State.Inv.intro | with_reducible apply State.Inv.regs
    | with_reducible apply State.Inv.store | with_reducible apply State.Inv.flash
    | with_reducible apply State.Inv.frame | with_reducible apply State.Inv.mail
    | with_reducible apply State.Inv.queue | with_reducible apply State.Inv.flight | with_reducible apply Regs.wf_set
    | with_reducible apply Regs.wf_clear | with_reducible apply Regs.wf_clearIsland
    | with_reducible apply Regs.wf_reject | with_reducible apply Memory.wf_writeN
    | with_reducible apply Memory.wf_write | with_reducible apply Ember.wf_init | with_reducible apply Ember.wf_put

theorem State.setSession_inv (s : State) (k : Nat) (f : Session → Session) (hI : s.Inv) : (State.setSession s k
  f).Inv := by
  unfold State.setSession
  repeat' first
    | with_reducible assumption | with_reducible apply State.updSession_inv | with_reducible apply saveContext_inv

theorem flagSession_inv (k bits : Nat) (s : State) (hI : s.Inv) : (flagSession k bits s).Inv := by
  unfold flagSession
  repeat' first | with_reducible assumption | with_reducible apply State.updSession_inv

theorem Ember.wf_restored' {e : Ember} (h : Memory.wf e.store = true) : Memory.wf e.restored'.store = true := h

theorem restoreStore_inv (s : State) (hI : s.Inv) : (restoreStore s).Inv := by
  have herr : ∀ (b : Bool) (i : Nat) (s : State), s.Inv → (if b then s.setFlag 0x30038 i else s).Inv :=
    fun b i s h => State.ite_inv (fun _ => State.setFlag_inv _ _ _ h) (fun _ => h)
  unfold restoreStore
  dsimp only
  exact State.foldl_inv (herr _ 0 _ (herr _ 1 _ (herr _ 2 _ (herr _ 3 _ (State.Inv.intro hI.regs (Ember.wf_restored' hI.store)
    hI.flash hI.frame hI.mail hI.queue hI.flight))))) fun s k h => reportFault_inv _ _ _ _ h

theorem restorePoint_inv (s : State) (p : Nat) (hI : s.Inv) : (restorePoint s p).Inv := by
  unfold restorePoint
  repeat' first
    | with_reducible assumption | with_reducible apply State.updPoint_inv | with_reducible apply State.updEmber_inv
    | with_reducible apply reportFault_inv | with_reducible apply State.setFlag_inv | intro _
    | with_reducible apply State.ite_inv | split

theorem restorePoints_inv (s : State) (hI : s.Inv) : (restorePoints s).Inv := by
  unfold restorePoints
  repeat' first
    | with_reducible assumption | with_reducible apply State.updEmber_inv | with_reducible apply restorePoint_inv
    | with_reducible apply State.foldl_inv | intro _ _ _ | intro _

theorem addDue_inv (r : DueRecord) (s : State) (hI : s.Inv) : (addDue r s).Inv := by
  unfold addDue
  repeat' first | with_reducible assumption | with_reducible apply State.updEmber_inv | intro _

theorem gapSession_inv (s : State) (k : Nat) (hI : s.Inv) : (gapSession s k).Inv := by
  unfold gapSession
  repeat' first | with_reducible assumption | with_reducible apply State.setSession_inv

theorem outageRecords_inv (r : Restore) (s : State) (hI : s.Inv) : (outageRecords r s).Inv := by
  unfold outageRecords
  repeat' first
    | with_reducible assumption | with_reducible apply State.updEmber_inv | with_reducible apply addDue_inv | intro _
    | with_reducible apply State.ite_inv | split | with_reducible apply State.Inv.intro
    | with_reducible apply State.Inv.regs | with_reducible apply State.Inv.store
    | with_reducible apply State.Inv.flash | with_reducible apply State.Inv.frame
    | with_reducible apply State.Inv.mail | with_reducible apply State.Inv.queue
    | with_reducible apply State.Inv.flight | with_reducible apply Regs.wf_set | with_reducible apply Regs.wf_clear
    | with_reducible apply Regs.wf_clearIsland | with_reducible apply Regs.wf_reject
    | with_reducible apply Memory.wf_writeN | with_reducible apply Memory.wf_write
    | with_reducible apply Ember.wf_init | with_reducible apply Ember.wf_put
    | with_reducible apply Ember.wf_putCounter | with_reducible apply Ember.wf_dropMarker

theorem beginEpoch_inv (s : State) (hI : s.Inv) : (beginEpoch s).Inv := by
  unfold beginEpoch
  repeat' first
    | with_reducible assumption | with_reducible apply State.updEmber_inv | with_reducible apply gapSession_inv
    | with_reducible apply outageRecords_inv | with_reducible apply State.foldl_inv | intro _ _ _ | intro _
    | with_reducible apply State.ite_inv | split | with_reducible apply State.Inv.intro
    | with_reducible apply State.Inv.regs | with_reducible apply State.Inv.store
    | with_reducible apply State.Inv.flash | with_reducible apply State.Inv.frame
    | with_reducible apply State.Inv.mail | with_reducible apply State.Inv.queue
    | with_reducible apply State.Inv.flight | with_reducible apply Regs.wf_set | with_reducible apply Regs.wf_clear
    | with_reducible apply Regs.wf_clearIsland | with_reducible apply Regs.wf_reject
    | with_reducible apply Memory.wf_writeN | with_reducible apply Memory.wf_write
    | with_reducible apply Ember.wf_init | with_reducible apply Ember.wf_put
    | with_reducible apply Ember.wf_putCounter

theorem checkFwChange_inv (s : State) (hI : s.Inv) : (checkFwChange s).Inv := by
  unfold checkFwChange
  repeat' first
    | with_reducible assumption | with_reducible apply addDue_inv | intro _ | with_reducible apply State.ite_inv

end Sys2Proof.Machine
end

