-- ==== Sys2Proof/Laws/InvMeter.lean ====
section
/-! SUPPORT. What the metering path, the link and their commands leave of the invariant: all of it. -/

namespace Sys2Proof.Machine

/-! Hearths. -/

theorem markOver_inv (h i : Nat) (s : State) (hI : s.Inv) : (markOver h i s).Inv := by
  unfold markOver
  repeat' first
    | with_reducible assumption | with_reducible apply State.setFlag_inv | with_reducible apply State.updHearth_inv
    | intro _ | split | with_reducible apply State.Inv.intro | with_reducible apply State.Inv.regs
    | with_reducible apply State.Inv.store | with_reducible apply State.Inv.flash
    | with_reducible apply State.Inv.frame | with_reducible apply State.Inv.mail
    | with_reducible apply State.Inv.queue | with_reducible apply State.Inv.flight

theorem overFrame_inv (h : Nat) (s : State) (hI : s.Inv) : (overFrame h s).Inv := by
  unfold overFrame
  repeat' first
    | with_reducible assumption | with_reducible apply State.setBits_inv | with_reducible apply State.updHearth_inv
    | intro _ | with_reducible apply State.ite_inv

theorem execRebuildComplete_inv (h : Fin 8) (wit : Bool) (a : Rebuilt) (s : State) (hI : s.Inv) : Keeps
  (execRebuildComplete h wit a s) := by
  unfold execRebuildComplete
  repeat' first
    | with_reducible assumption | with_reducible apply Keeps.next | with_reducible apply State.updHearth_inv
    | intro _ | with_reducible apply Keeps.ite

theorem rebuildEnd_inv (h : Nat) (wit : Bool) (cause : Nat) (s : State) (hI : s.Inv) : (rebuildEnd h wit cause s).Inv
  := by
  unfold rebuildEnd
  repeat' first
    | with_reducible assumption | with_reducible apply State.updHearth_inv | with_reducible apply reportFault_inv
    | intro _ | with_reducible apply State.ite_inv | split

theorem execRebuildTimeout_inv (h : Fin 8) (wit : Bool) (a : Rebuilt) (s : State) (hI : s.Inv) : Keeps
  (execRebuildTimeout h wit a s) := by
  unfold execRebuildTimeout
  repeat' first
    | with_reducible assumption | with_reducible apply Keeps.next | with_reducible apply rebuildEnd_inv | intro _
    | with_reducible apply Keeps.ite

theorem execRefTimeout_inv (h : Fin 8) (s : State) (hI : s.Inv) : Keeps (execRefTimeout h s) := by
  unfold execRefTimeout
  repeat' first
    | with_reducible assumption | with_reducible apply Keeps.next | with_reducible apply State.updHearth_inv
    | with_reducible apply reportFault_inv | intro _ | with_reducible apply Keeps.ite

theorem execBackgroundRekindle_inv (h : Fin 8) (s : State) (hI : s.Inv) : Keeps (execBackgroundRekindle h s) := by
  unfold execBackgroundRekindle
  repeat' first
    | with_reducible assumption | with_reducible apply Keeps.next | with_reducible apply State.updHearth_inv
    | intro _ | with_reducible apply Keeps.ite

theorem execRetry_inv (mask : BitVec 8) (s : State) (hI : s.Inv) : Keeps (execRetry mask s) := by
  unfold execRetry
  repeat' first
    | with_reducible assumption | with_reducible apply Keeps.next | with_reducible apply State.updHearth_inv
    | with_reducible apply State.foldl_inv | intro _ _ _ | intro _ | with_reducible apply Keeps.ite
    | with_reducible apply State.ite_inv

theorem execTapLatch_inv (h : Fin 8) (code : Int) (s : State) (hI : s.Inv) : Keeps (execTapLatch h code s) := by
  unfold execTapLatch
  repeat' first
    | with_reducible assumption | with_reducible apply Keeps.next | with_reducible apply State.setFlag_inv
    | with_reducible apply State.updHearth_inv | intro _ | with_reducible apply Keeps.ite
    | with_reducible apply State.ite_inv

theorem execTapDataRead_inv (h : Fin 8) (s : State) (hI : s.Inv) : Keeps (execTapDataRead h s) := by
  unfold execTapDataRead
  repeat' first
    | with_reducible assumption | with_reducible apply Keeps.next | with_reducible apply State.updHearth_inv
    | with_reducible apply State.readBack_inv | with_reducible apply readRow_inv | intro _

/-! Flue. -/

theorem flueFrame_inv (h : Nat) (s : State) (hI : s.Inv) : (flueFrame h s).Inv := by
  unfold flueFrame
  repeat' first
    | with_reducible assumption | with_reducible apply State.setFlag_inv | with_reducible apply State.updFlue_inv
    | intro _ | with_reducible apply State.ite_inv

theorem engineStart_inv (h : Nat) (s : State) (hI : s.Inv) : (engineStart h s).Inv := by
  unfold engineStart
  repeat' first
    | with_reducible assumption | with_reducible apply State.updFlue_inv | with_reducible apply State.updChain_inv
    | with_reducible apply State.foldl_inv | intro _ _ _

theorem chainStart_inv (i : Nat) (s : State) (hI : s.Inv) : (chainStart i s).Inv := by
  unfold chainStart
  repeat' first | with_reducible assumption | with_reducible apply State.updChain_inv

theorem execFlueBankData_inv (h : Fin 8) (v : Word) (s : State) (hI : s.Inv) : Keeps (execFlueBankData h v s) := by
  unfold execFlueBankData
  repeat' first
    | with_reducible assumption | with_reducible apply Keeps.next | with_reducible apply State.setFlag_inv
    | with_reducible apply State.putField_inv | with_reducible apply State.updFlue_inv | intro _
    | with_reducible apply Keeps.ite

theorem execSwap_inv (h : Fin 8) (v : Word) (s : State) (hI : s.Inv) : Keeps (execSwap h v s) := by
  unfold execSwap
  repeat' first
    | with_reducible assumption | with_reducible apply Keeps.next | with_reducible apply State.updFlue_inv
    | with_reducible apply writeReg_inv | intro _ | with_reducible apply Keeps.ite
    | with_reducible apply State.ite_inv

theorem execBankHashComplete_inv (h : Fin 8) (s : State) (hI : s.Inv) : Keeps (execBankHashComplete h s) := by
  unfold execBankHashComplete
  repeat' first
    | with_reducible assumption | with_reducible apply Keeps.next | with_reducible apply State.setFlag_inv
    | with_reducible apply State.updFlue_inv | with_reducible apply State.updChain_inv
    | with_reducible apply State.foldl_inv | intro _ _ _ | intro _ | with_reducible apply Keeps.ite
    | with_reducible apply State.ite_inv | split | with_reducible apply State.Inv.intro
    | with_reducible apply State.Inv.regs | with_reducible apply State.Inv.store
    | with_reducible apply State.Inv.flash | with_reducible apply State.Inv.frame
    | with_reducible apply State.Inv.mail | with_reducible apply State.Inv.queue
    | with_reducible apply State.Inv.flight | with_reducible apply Regs.wf_set | with_reducible apply Regs.wf_clear
    | with_reducible apply Regs.wf_clearIsland | with_reducible apply Regs.wf_reject
    | with_reducible apply Memory.wf_writeN | with_reducible apply Memory.wf_write
    | with_reducible apply Ember.wf_init | with_reducible apply Ember.wf_put
    | with_reducible apply Ember.wf_putCounter | with_reducible apply Ember.wf_dropMarker
    | with_reducible apply Ember.wf_markEntry | with_reducible apply Ember.wf_storeSig
    | with_reducible apply Ember.wf_putCfg | with_reducible apply Ember.wf_putFault
    | with_reducible apply Ember.wf_putJournal | with_reducible apply Ember.wf_foldl
    | with_reducible apply Faults.init_queue | with_reducible apply Damper.init_frame
    | with_reducible apply Damper.init_mail | with_reducible apply HostIf.init_flight | dsimp only

theorem execSwapComplete_inv (h : Fin 8) (s : State) (hI : s.Inv) : Keeps (execSwapComplete h s) := by
  unfold execSwapComplete
  repeat' first
    | with_reducible assumption | with_reducible apply Keeps.next | with_reducible apply State.updFlue_inv | intro _
    | with_reducible apply Keeps.ite | with_reducible apply State.ite_inv | split

theorem execFillEnd_inv (h : Fin 8) (s : State) (hI : s.Inv) : Keeps (execFillEnd h s) := by
  unfold execFillEnd
  repeat' first
    | with_reducible assumption | with_reducible apply Keeps.next | with_reducible apply State.updFlue_inv
    | with_reducible apply State.updChain_inv | with_reducible apply State.foldl_inv | intro _ _ _ | intro _
    | with_reducible apply Keeps.ite

theorem execIntegratorFillEnd_inv (i : Fin 128) (s : State) (hI : s.Inv) : Keeps (execIntegratorFillEnd i s) := by
  unfold execIntegratorFillEnd
  repeat' first
    | with_reducible assumption | with_reducible apply Keeps.next | with_reducible apply State.updChain_inv | intro _
    | with_reducible apply Keeps.ite

theorem execFlueTrkLenLoRead_inv (h : Fin 8) (hi : Bool) (s : State) (hI : s.Inv) : Keeps (execFlueTrkLenLoRead h hi
  s) := by
  unfold execFlueTrkLenLoRead
  repeat' first
    | with_reducible assumption | with_reducible apply Keeps.next | with_reducible apply State.updFlue_inv
    | with_reducible apply State.readBack_inv | with_reducible apply readRow_inv | intro _
    | with_reducible apply Keeps.ite | with_reducible apply State.ite_inv

/-! Energy. -/

theorem takeSamples_inv (f : Nat) (s : State) (hI : s.Inv) : (takeSamples f s).Inv := by
  unfold takeSamples
  repeat' first
    | with_reducible assumption | with_reducible apply State.foldl_inv | intro _ _ _ | intro _
    | with_reducible apply State.ite_inv | split | with_reducible apply State.Inv.intro
    | with_reducible apply State.Inv.regs | with_reducible apply State.Inv.store
    | with_reducible apply State.Inv.flash | with_reducible apply State.Inv.frame
    | with_reducible apply State.Inv.mail | with_reducible apply State.Inv.queue
    | with_reducible apply State.Inv.flight

theorem dropDelivered_inv (f : Nat) (s : State) (hI : s.Inv) : (dropDelivered f s).Inv := by
  unfold dropDelivered
  repeat' first
    | with_reducible assumption | intro _ | with_reducible apply State.Inv.intro
    | with_reducible apply State.Inv.regs | with_reducible apply State.Inv.store
    | with_reducible apply State.Inv.flash | with_reducible apply State.Inv.frame
    | with_reducible apply State.Inv.mail | with_reducible apply State.Inv.queue
    | with_reducible apply State.Inv.flight

theorem pointSample_inv (f : Nat) (s : State) (p : Nat) (hI : s.Inv) : (pointSample f s p).Inv := by
  unfold pointSample
  repeat' first
    | with_reducible assumption | with_reducible apply State.updPoint_inv | intro _
    | with_reducible apply State.ite_inv | split | with_reducible apply State.Inv.intro
    | with_reducible apply State.Inv.regs | with_reducible apply State.Inv.store
    | with_reducible apply State.Inv.flash | with_reducible apply State.Inv.frame
    | with_reducible apply State.Inv.mail | with_reducible apply State.Inv.queue
    | with_reducible apply State.Inv.flight

theorem missTaken_inv (f : Nat) (s : State) (p : Nat) (hI : s.Inv) : (missTaken f s p).Inv := by
  unfold missTaken
  repeat' first
    | with_reducible assumption | with_reducible apply State.updPoint_inv | intro _
    | with_reducible apply State.ite_inv

theorem countInput_inv (s : State) (i : Nat) (hI : s.Inv) : (countInput s i).Inv := by
  unfold countInput
  repeat' first | with_reducible assumption | with_reducible apply State.updChain_inv

theorem pulseFrame_inv (f : Nat) (s : State) (c : Nat) (hI : s.Inv) : (pulseFrame f s c).Inv := by
  unfold pulseFrame
  repeat' first
    | with_reducible assumption | with_reducible apply State.setFlag_inv | with_reducible apply State.updPulse_inv
    | intro _ | with_reducible apply State.ite_inv

theorem execImpulseStart_inv (c : Fin 8) (s : State) (hI : s.Inv) : Keeps (execImpulseStart c s) := by
  unfold execImpulseStart
  repeat' first
    | with_reducible assumption | with_reducible apply Keeps.next | with_reducible apply State.setFlag_inv
    | with_reducible apply State.updPulse_inv | intro _ | with_reducible apply Keeps.ite
    | with_reducible apply State.ite_inv

theorem execImpulseEnd_inv (c : Fin 8) (s : State) (hI : s.Inv) : Keeps (execImpulseEnd c s) := by
  unfold execImpulseEnd
  repeat' first
    | with_reducible assumption | with_reducible apply Keeps.next | with_reducible apply State.updPulse_inv | intro _
    | with_reducible apply Keeps.ite

theorem execEnergyBeatLoRead_inv (hi : Bool) (s : State) (hI : s.Inv) : Keeps (execEnergyBeatLoRead hi s) := by
  unfold execEnergyBeatLoRead
  repeat' first
    | with_reducible assumption | with_reducible apply Keeps.next | with_reducible apply State.readBack_inv
    | with_reducible apply readRow_inv | intro _ | with_reducible apply Keeps.ite
    | with_reducible apply State.ite_inv | split | with_reducible apply State.Inv.intro
    | with_reducible apply State.Inv.regs | with_reducible apply State.Inv.store
    | with_reducible apply State.Inv.flash | with_reducible apply State.Inv.frame
    | with_reducible apply State.Inv.mail | with_reducible apply State.Inv.queue
    | with_reducible apply State.Inv.flight

/-! Spectral. -/

theorem State.updHarm_inv (s : State) (j : Nat) (f : HarmChan → HarmChan) (hI : s.Inv) : (State.updHarm s j f).Inv :=
  by
  unfold State.updHarm
  repeat' first
    | with_reducible assumption | intro _ | with_reducible apply State.Inv.intro
    | with_reducible apply State.Inv.regs | with_reducible apply State.Inv.store
    | with_reducible apply State.Inv.flash | with_reducible apply State.Inv.frame
    | with_reducible apply State.Inv.mail | with_reducible apply State.Inv.queue
    | with_reducible apply State.Inv.flight

theorem State.updSupra_inv (s : State) (j : Nat) (f : SupraChan → SupraChan) (hI : s.Inv) : (State.updSupra s j
  f).Inv := by
  unfold State.updSupra
  repeat' first
    | with_reducible assumption | intro _ | with_reducible apply State.Inv.intro
    | with_reducible apply State.Inv.regs | with_reducible apply State.Inv.store
    | with_reducible apply State.Inv.flash | with_reducible apply State.Inv.frame
    | with_reducible apply State.Inv.mail | with_reducible apply State.Inv.queue
    | with_reducible apply State.Inv.flight

theorem ashInput_inv (s : State) (j : Nat) (hI : s.Inv) : (ashInput s j).Inv := by
  unfold ashInput
  repeat' first | with_reducible assumption | with_reducible apply State.updHarm_inv | intro _ | split

theorem ashEcc_inv (a : Word) (s : State) (hI : s.Inv) : (ashEcc a s).Inv := by
  unfold ashEcc
  repeat' first
    | with_reducible assumption | with_reducible apply reportFault_inv | intro _
    | with_reducible apply State.Inv.intro | with_reducible apply State.Inv.regs
    | with_reducible apply State.Inv.store | with_reducible apply State.Inv.flash
    | with_reducible apply State.Inv.frame | with_reducible apply State.Inv.mail
    | with_reducible apply State.Inv.queue | with_reducible apply State.Inv.flight

theorem closeMeasured_inv (j : Nat) (c : Cycle) (pos lm : Nat) (ecc : Option Word) (s : State) (hI : s.Inv) :
  (closeMeasured j c pos lm ecc s).Inv := by
  unfold closeMeasured
  repeat' first
    | with_reducible assumption | with_reducible apply State.updChain_inv | with_reducible apply State.updHarm_inv
    | with_reducible apply ashEcc_inv | intro _ | with_reducible apply State.ite_inv | split
    | with_reducible apply State.Inv.intro | with_reducible apply State.Inv.regs
    | with_reducible apply State.Inv.store | with_reducible apply State.Inv.flash
    | with_reducible apply State.Inv.frame | with_reducible apply State.Inv.mail
    | with_reducible apply State.Inv.queue | with_reducible apply State.Inv.flight

theorem execCycleClose_inv (ch : Fin 48) (pos : Nat) (ecc : Option Word) (s : State) (hI : s.Inv) : Keeps
  (execCycleClose ch pos ecc s) := by
  unfold execCycleClose
  repeat' first
    | with_reducible assumption | with_reducible apply Keeps.next | with_reducible apply closeMeasured_inv | intro _
    | with_reducible apply Keeps.ite | with_reducible apply State.ite_inv | split

theorem execCycleTimeout_inv (ch : Fin 48) (s : State) (hI : s.Inv) : Keeps (execCycleTimeout ch s) := by
  unfold execCycleTimeout
  repeat' first
    | with_reducible assumption | with_reducible apply Keeps.next | with_reducible apply State.updHarm_inv | intro _
    | with_reducible apply Keeps.ite

theorem execHarmonicWindowClose_inv (ch : Fin 48) (s : State) (hI : s.Inv) : Keeps (execHarmonicWindowClose ch s) :=
  by
  unfold execHarmonicWindowClose
  repeat' first
    | with_reducible assumption | with_reducible apply Keeps.next | with_reducible apply State.updHarm_inv | intro _
    | with_reducible apply Keeps.ite | with_reducible apply State.ite_inv | split

theorem execHarmonicPublication_inv (ch : Fin 48) (s : State) (hI : s.Inv) : Keeps (execHarmonicPublication ch s) :=
  by
  unfold execHarmonicPublication
  repeat' first
    | with_reducible assumption | with_reducible apply Keeps.next | with_reducible apply State.updHarm_inv | intro _
    | with_reducible apply Keeps.ite | with_reducible apply State.ite_inv | split
    | with_reducible apply State.Inv.intro | with_reducible apply State.Inv.regs
    | with_reducible apply State.Inv.store | with_reducible apply State.Inv.flash
    | with_reducible apply State.Inv.frame | with_reducible apply State.Inv.mail
    | with_reducible apply State.Inv.queue | with_reducible apply State.Inv.flight

theorem supraBlock_inv (t : Nat) (s : State) (j : Nat) (hI : s.Inv) : (supraBlock t s j).Inv := by
  unfold supraBlock
  repeat' first | with_reducible assumption | with_reducible apply State.updSupra_inv

theorem execSupraharmonicBlock_inv (s : State) (hI : s.Inv) : Keeps (execSupraharmonicBlock s) := by
  unfold execSupraharmonicBlock
  repeat' first
    | with_reducible assumption | with_reducible apply Keeps.next | with_reducible apply supraBlock_inv
    | with_reducible apply State.foldl_inv | intro _ _ _ | intro _ | with_reducible apply Keeps.ite
    | with_reducible apply State.ite_inv | split | with_reducible apply State.Inv.intro
    | with_reducible apply State.Inv.regs | with_reducible apply State.Inv.store
    | with_reducible apply State.Inv.flash | with_reducible apply State.Inv.frame
    | with_reducible apply State.Inv.mail | with_reducible apply State.Inv.queue
    | with_reducible apply State.Inv.flight

theorem execSupraharmonicIntervalPublication_inv (ch : Fin 24) (s : State) (hI : s.Inv) : Keeps
  (execSupraharmonicIntervalPublication ch s) := by
  unfold execSupraharmonicIntervalPublication
  repeat' first
    | with_reducible assumption | with_reducible apply Keeps.next | with_reducible apply State.updSupra_inv | intro _
    | with_reducible apply Keeps.ite | with_reducible apply State.ite_inv | split
    | with_reducible apply State.Inv.intro | with_reducible apply State.Inv.regs
    | with_reducible apply State.Inv.store | with_reducible apply State.Inv.flash
    | with_reducible apply State.Inv.frame | with_reducible apply State.Inv.mail
    | with_reducible apply State.Inv.queue | with_reducible apply State.Inv.flight

theorem restartHarm_inv (h : Nat) (s : State) (hI : s.Inv) : (restartHarm h s).Inv := by
  unfold restartHarm
  repeat' first
    | with_reducible assumption | with_reducible apply State.updHarm_inv | with_reducible apply State.foldl_inv
    | intro _ _ _

theorem spectralDramStart_inv (s : State) (hI : s.Inv) : (spectralDramStart s).Inv := by
  unfold spectralDramStart
  repeat' first
    | with_reducible assumption | intro _ | with_reducible apply State.Inv.intro
    | with_reducible apply State.Inv.regs | with_reducible apply State.Inv.store
    | with_reducible apply State.Inv.flash | with_reducible apply State.Inv.frame
    | with_reducible apply State.Inv.mail | with_reducible apply State.Inv.queue
    | with_reducible apply State.Inv.flight

theorem execSpectralRestartEnd_inv (s : State) (hI : s.Inv) : Keeps (execSpectralRestartEnd s) := by
  unfold execSpectralRestartEnd
  repeat' first
    | with_reducible assumption | with_reducible apply Keeps.next | intro _ | with_reducible apply Keeps.ite
    | with_reducible apply State.ite_inv | split | with_reducible apply State.Inv.intro
    | with_reducible apply State.Inv.regs | with_reducible apply State.Inv.store
    | with_reducible apply State.Inv.flash | with_reducible apply State.Inv.frame
    | with_reducible apply State.Inv.mail | with_reducible apply State.Inv.queue
    | with_reducible apply State.Inv.flight

/-! Sessions. -/

theorem execSessionOpen_inv (ord : Nat) (buf : HostRead) (s : State) (hI : s.Inv) : Keeps (execSessionOpen ord buf s)
  := by
  unfold execSessionOpen
  repeat' first
    | with_reducible assumption | with_reducible apply Keeps.next | with_reducible apply withBuffer_inv
    | with_reducible apply bufferError_inv | with_reducible apply postFor_inv | intro _ | split

theorem execSessionTariff_inv (ord : Nat) (s : State) (hI : s.Inv) : Keeps (execSessionTariff ord s) := by
  unfold execSessionTariff
  repeat' first
    | with_reducible assumption | with_reducible apply Keeps.next | with_reducible apply withDescriptor_inv
    | with_reducible apply postFor_inv | intro _

theorem execSessionPause_inv (ord : Nat) (s : State) (hI : s.Inv) : Keeps (execSessionPause ord s) := by
  unfold execSessionPause
  repeat' first
    | with_reducible assumption | with_reducible apply Keeps.next | with_reducible apply withDescriptor_inv
    | with_reducible apply postFor_inv | intro _

theorem execSessionResume_inv (ord : Nat) (s : State) (hI : s.Inv) : Keeps (execSessionResume ord s) := by
  unfold execSessionResume
  repeat' first
    | with_reducible assumption | with_reducible apply Keeps.next | with_reducible apply withDescriptor_inv
    | with_reducible apply postFor_inv | intro _

theorem execSessionClose_inv (ord : Nat) (s : State) (hI : s.Inv) : Keeps (execSessionClose ord s) := by
  unfold execSessionClose
  repeat' first
    | with_reducible assumption | with_reducible apply Keeps.next | with_reducible apply withDescriptor_inv
    | with_reducible apply postFor_inv | intro _

theorem execSessionRelease_inv (ord : Nat) (s : State) (hI : s.Inv) : Keeps (execSessionRelease ord s) := by
  unfold execSessionRelease
  repeat' first
    | with_reducible assumption | with_reducible apply Keeps.next | with_reducible apply withDescriptor_inv
    | with_reducible apply postFor_inv | intro _

theorem execSessionRead_inv (ord : Nat) (ok : Bool) (s : State) (hI : s.Inv) : Keeps (execSessionRead ord ok s) := by
  unfold execSessionRead
  repeat' first
    | with_reducible assumption | with_reducible apply Keeps.next | with_reducible apply withBuffer_inv
    | with_reducible apply writeBuffer_inv | intro _

theorem execMailboxLatch_inv (s : State) (hI : s.Inv) : Keeps (execMailboxLatch s) := by
  unfold execMailboxLatch
  repeat' first
    | with_reducible assumption | with_reducible apply Keeps.next | with_reducible apply State.updDamper_inv
    | intro _ | with_reducible apply Keeps.ite

theorem fallDue_inv (k : Nat) (g : Segment) (replace : Bool) (s : State) (hI : s.Inv) : (fallDue k g replace s).Inv
  := by
  unfold fallDue
  repeat' first
    | with_reducible assumption | with_reducible apply State.setSession_inv | with_reducible apply addDue_inv
    | intro _ | with_reducible apply State.ite_inv

theorem dueChanges_inv (s : State) (k : Nat) (hI : s.Inv) : (dueChanges s k).Inv := by
  unfold dueChanges
  repeat' first
    | with_reducible assumption | with_reducible apply fallDue_inv | with_reducible apply State.foldl_inv
    | intro _ _ _ | intro _ | with_reducible apply State.ite_inv

theorem failEntry_inv (m : MailEntry) (status detail : Nat) (s : State) (hI : s.Inv) : (failEntry m status detail
  s).Inv := by
  unfold failEntry
  repeat' first | with_reducible assumption | with_reducible apply State.finishOpt_inv

theorem awaitRecord_inv (m : MailEntry) (signed : Bool) (k : Nat) (s : State) (hI : s.Inv) : (awaitRecord m signed k
  s).Inv := by
  unfold awaitRecord
  repeat' first
    | with_reducible assumption | with_reducible apply State.setPhase_inv | intro _
    | with_reducible apply State.ite_inv | split

theorem applyOpen_inv (m : MailEntry) (p : Nat) (onCur : Bool) (iStart interval tariff : Nat) (token : BitVec 256) (s
  : State) (hI : s.Inv) : (applyOpen m p onCur iStart interval tariff token s).Inv := by
  unfold applyOpen
  repeat' first
    | with_reducible assumption | with_reducible apply State.setPhase_inv | with_reducible apply State.setSession_inv
    | with_reducible apply failEntry_inv | intro _ | with_reducible apply State.ite_inv | split

theorem applyTariff_inv (m : MailEntry) (k : Nat) (programmed : Bool) (t tariff : Nat) (s : State) (hI : s.Inv) :
  (applyTariff m k programmed t tariff s).Inv := by
  unfold applyTariff
  repeat' first
    | with_reducible assumption | with_reducible apply State.finishOpt_inv
    | with_reducible apply State.setSession_inv | with_reducible apply addDue_inv
    | with_reducible apply failEntry_inv | intro _ | with_reducible apply State.ite_inv

theorem applyMove_inv (m : MailEntry) (k : Nat) (src dst : SessState) (t : RecType) (gate : Bool) (s : State) (hI :
  s.Inv) : (applyMove m k src dst t gate s).Inv := by
  unfold applyMove
  repeat' first
    | with_reducible assumption | with_reducible apply State.setSession_inv | with_reducible apply addDue_inv
    | with_reducible apply failEntry_inv | with_reducible apply awaitRecord_inv | intro _
    | with_reducible apply State.ite_inv

theorem applyClose_inv (m : MailEntry) (k : Nat) (s : State) (hI : s.Inv) : (applyClose m k s).Inv := by
  unfold applyClose
  repeat' first
    | with_reducible assumption | with_reducible apply State.setSession_inv | with_reducible apply addDue_inv
    | with_reducible apply failEntry_inv | with_reducible apply awaitRecord_inv | intro _
    | with_reducible apply State.ite_inv

theorem applyRelease_inv (m : MailEntry) (k : Nat) (s : State) (hI : s.Inv) : (applyRelease m k s).Inv := by
  unfold applyRelease
  repeat' first
    | with_reducible assumption | with_reducible apply State.finishOpt_inv
    | with_reducible apply State.setSession_inv | with_reducible apply failEntry_inv | intro _
    | with_reducible apply State.ite_inv

theorem signedDone_inv (seq : Nat) (s : State) (hI : s.Inv) : (signedDone seq s).Inv := by
  unfold signedDone
  repeat' first
    | with_reducible assumption | with_reducible apply State.finishOk_inv | with_reducible apply State.foldl_inv
    | intro _ _ _ | intro _ | with_reducible apply State.ite_inv | split

theorem applySign_inv (seq : Nat) (sig : BitVec 512) (replace : Bool) (s : State) (hI : s.Inv) : (applySign seq sig
  replace s).Inv := by
  unfold applySign
  repeat' first
    | with_reducible assumption | with_reducible apply State.updEmber_inv | with_reducible apply State.setSession_inv
    | with_reducible apply signedDone_inv | with_reducible apply State.foldl_inv | intro _ _ _ | intro _
    | with_reducible apply State.ite_inv | split | with_reducible apply State.Inv.intro
    | with_reducible apply State.Inv.regs | with_reducible apply State.Inv.store
    | with_reducible apply State.Inv.flash | with_reducible apply State.Inv.frame
    | with_reducible apply State.Inv.mail | with_reducible apply State.Inv.queue
    | with_reducible apply State.Inv.flight | with_reducible apply Regs.wf_set | with_reducible apply Regs.wf_clear
    | with_reducible apply Regs.wf_clearIsland | with_reducible apply Regs.wf_reject
    | with_reducible apply Memory.wf_writeN | with_reducible apply Memory.wf_write
    | with_reducible apply Ember.wf_init | with_reducible apply Ember.wf_put
    | with_reducible apply Ember.wf_putCounter | with_reducible apply Ember.wf_dropMarker
    | with_reducible apply Ember.wf_markEntry | with_reducible apply Ember.wf_storeSig

theorem applyAck_inv (seq : Nat) (s : State) (hI : s.Inv) : (applyAck seq s).Inv := by
  unfold applyAck
  repeat' first
    | with_reducible assumption | with_reducible apply State.updEmber_inv | with_reducible apply State.foldl_inv
    | intro _ _ _ | intro _ | with_reducible apply State.ite_inv | split | with_reducible apply State.Inv.intro
    | with_reducible apply State.Inv.regs | with_reducible apply State.Inv.store
    | with_reducible apply State.Inv.flash | with_reducible apply State.Inv.frame
    | with_reducible apply State.Inv.mail | with_reducible apply State.Inv.queue
    | with_reducible apply State.Inv.flight | with_reducible apply Regs.wf_set | with_reducible apply Regs.wf_clear
    | with_reducible apply Regs.wf_clearIsland | with_reducible apply Regs.wf_reject
    | with_reducible apply Memory.wf_writeN | with_reducible apply Memory.wf_write
    | with_reducible apply Ember.wf_init | with_reducible apply Ember.wf_put
    | with_reducible apply Ember.wf_putCounter | with_reducible apply Ember.wf_dropMarker
    | with_reducible apply Ember.wf_markEntry | with_reducible apply Ember.wf_storeSig
    | with_reducible apply Ember.wf_putCfg | with_reducible apply Ember.wf_putFault
    | with_reducible apply Ember.wf_putJournal | with_reducible apply Ember.wf_foldl

theorem beginHold_inv (slot fallback : Bool) (ord : Option Nat) (s : State) (hI : s.Inv) : (beginHold slot fallback
  ord s).Inv := by
  unfold beginHold
  repeat' first
    | with_reducible assumption | with_reducible apply triggerBank_inv | with_reducible apply activateSlot_inv
    | intro _ | with_reducible apply State.Inv.intro | with_reducible apply State.Inv.regs
    | with_reducible apply State.Inv.store | with_reducible apply State.Inv.flash
    | with_reducible apply State.Inv.frame | with_reducible apply State.Inv.mail
    | with_reducible apply State.Inv.queue | with_reducible apply State.Inv.flight

theorem applyActivate_inv (m : MailEntry) (s : State) (hI : s.Inv) : (applyActivate m s).Inv := by
  unfold applyActivate
  repeat' first
    | with_reducible assumption | with_reducible apply State.finishOpt_inv | with_reducible apply beginHold_inv
    | intro _ | split | with_reducible apply State.Inv.intro | with_reducible apply State.Inv.regs
    | with_reducible apply State.Inv.store | with_reducible apply State.Inv.flash
    | with_reducible apply State.Inv.frame | with_reducible apply State.Inv.mail
    | with_reducible apply State.Inv.queue | with_reducible apply State.Inv.flight

theorem applyEntry_inv (s : State) (m : MailEntry) (hI : s.Inv) : (applyEntry s m).Inv := by
  unfold applyEntry
  repeat' first
    | with_reducible assumption | with_reducible apply applyOpen_inv | with_reducible apply applyTariff_inv
    | with_reducible apply applyMove_inv | with_reducible apply applyClose_inv
    | with_reducible apply applyRelease_inv | with_reducible apply applySign_inv | with_reducible apply applyAck_inv
    | with_reducible apply applyActivate_inv | intro _ | split

theorem rollSessions_inv (s : State) (hI : s.Inv) : (rollSessions s).Inv := by
  unfold rollSessions
  repeat' first
    | with_reducible assumption | with_reducible apply saveContext_inv | with_reducible apply State.foldl_inv
    | intro _ _ _ | intro _ | with_reducible apply State.Inv.intro | with_reducible apply State.Inv.regs
    | with_reducible apply State.Inv.store | with_reducible apply State.Inv.flash
    | with_reducible apply State.Inv.frame | with_reducible apply State.Inv.mail
    | with_reducible apply State.Inv.queue | with_reducible apply State.Inv.flight

theorem startSession_inv (k b : Nat) (s : State) (hI : s.Inv) : (startSession k b s).Inv := by
  unfold startSession
  repeat' first
    | with_reducible assumption | with_reducible apply State.setSession_inv | with_reducible apply addDue_inv

theorem startImmediate_inv (s : State) (k : Nat) (hI : s.Inv) : (startImmediate s k).Inv := by
  unfold startImmediate
  repeat' first
    | with_reducible assumption | with_reducible apply startSession_inv | intro _ | with_reducible apply State.ite_inv

theorem intervalDue_inv (s : State) (k : Nat) (hI : s.Inv) : (intervalDue s k).Inv := by
  unfold intervalDue
  repeat' first
    | with_reducible assumption | with_reducible apply State.setSession_inv | with_reducible apply addDue_inv
    | intro _ | with_reducible apply State.ite_inv

theorem openDone_inv (s : State) (hI : s.Inv) : (openDone s).Inv := by
  unfold openDone
  repeat' first
    | with_reducible assumption | with_reducible apply State.setPhase_inv | with_reducible apply State.finishOk_inv
    | with_reducible apply State.foldl_inv | intro _ _ _ | intro _ | with_reducible apply State.ite_inv | split

theorem sessionBoundary_inv (s : State) (hI : s.Inv) : (sessionBoundary s).Inv := by
  unfold sessionBoundary
  repeat' first
    | with_reducible assumption | with_reducible apply dueChanges_inv | with_reducible apply startImmediate_inv
    | with_reducible apply intervalDue_inv | with_reducible apply openDone_inv | with_reducible apply State.foldl_inv

theorem judgeCurrent_inv (reading : Nat → Nat) (metered : Nat → Bool) (s : State) (k : Nat) (hI : s.Inv) :
  (judgeCurrent reading metered s k).Inv := by
  unfold judgeCurrent
  repeat' first
    | with_reducible assumption | with_reducible apply State.updSession_inv | with_reducible apply fallDue_inv
    | with_reducible apply startSession_inv | with_reducible apply State.foldl_inv | intro _ _ _ | intro _
    | with_reducible apply State.ite_inv

theorem fillRecords_inv (senseFb : Nat → Bool) (s : State) (hI : s.Inv) : (fillRecords senseFb s).Inv := by
  unfold fillRecords
  repeat' first | with_reducible assumption | with_reducible apply State.updEmber_inv | intro _

/-! Events. -/

theorem State.updEvents_inv (s : State) (p : Nat) (f : PointEvents → PointEvents) (hI : s.Inv) : (State.updEvents s p
  f).Inv := by
  unfold State.updEvents
  repeat' first
    | with_reducible assumption | intro _ | with_reducible apply State.Inv.intro
    | with_reducible apply State.Inv.regs | with_reducible apply State.Inv.store
    | with_reducible apply State.Inv.flash | with_reducible apply State.Inv.frame
    | with_reducible apply State.Inv.mail | with_reducible apply State.Inv.queue
    | with_reducible apply State.Inv.flight

theorem addEntry_inv (e : EventEntry) (s : State) (hI : s.Inv) : (addEntry e s).Inv := by
  unfold addEntry
  repeat' first
    | with_reducible assumption | intro _ | with_reducible apply State.Inv.intro
    | with_reducible apply State.Inv.regs | with_reducible apply State.Inv.store
    | with_reducible apply State.Inv.flash | with_reducible apply State.Inv.frame
    | with_reducible apply State.Inv.mail | with_reducible apply State.Inv.queue
    | with_reducible apply State.Inv.flight

theorem flagOpen_inv (p code : Nat) (s : State) (hI : s.Inv) : (flagOpen p code s).Inv := by
  unfold flagOpen
  repeat' first | with_reducible assumption | with_reducible apply State.updSession_inv | intro _ | split

theorem declare_inv (p code kind : Nat) (d : Detector) (ts pos : Nat) (s : State) (hI : s.Inv) : (declare p code kind
  d ts pos s).Inv := by
  unfold declare
  repeat' first
    | with_reducible assumption | with_reducible apply addEntry_inv | with_reducible apply flagOpen_inv | intro _
    | with_reducible apply State.ite_inv

theorem runDetector_inv (p code minStart minEnd : Nat) (hit clear : Bool) (onset ts : Nat) (value : Rat) (pick : Rat
  → Rat → Rat) (pos : Nat) (s : State) (hI : s.Inv) : (runDetector p code minStart minEnd hit clear onset ts value
  pick pos s).Inv := by
  unfold runDetector
  repeat' first
    | with_reducible assumption | with_reducible apply State.updEvents_inv | with_reducible apply declare_inv
    | intro _ | split

theorem judgeUrms_inv (p ts : Nat) (s : State) (hI : s.Inv) : (judgeUrms p ts s).Inv := by
  unfold judgeUrms
  repeat' first
    | with_reducible assumption | with_reducible apply runDetector_inv | with_reducible apply State.foldl_inv
    | intro _ _ _ | intro _ | with_reducible apply State.ite_inv

theorem execUrmsEvaluation_inv (p : Fin 32) (s : State) (hI : s.Inv) : Keeps (execUrmsEvaluation p s) := by
  unfold execUrmsEvaluation
  repeat' first
    | with_reducible assumption | with_reducible apply Keeps.next | with_reducible apply State.updEvents_inv
    | with_reducible apply judgeUrms_inv | with_reducible apply step_inv | intro _ | with_reducible apply Keeps.ite

theorem scheduleUrms_inv (w : Nat) (s : State) (p : Nat) (hI : s.Inv) : (scheduleUrms w s p).Inv := by
  unfold scheduleUrms
  repeat' first
    | with_reducible assumption | with_reducible apply State.updEvents_inv | intro _
    | with_reducible apply State.ite_inv

theorem noteSample_inv (f : Nat) (s : State) (p : Nat) (hI : s.Inv) : (noteSample f s p).Inv := by
  unfold noteSample
  repeat' first
    | with_reducible assumption | with_reducible apply State.updEvents_inv | intro _
    | with_reducible apply State.ite_inv | split

theorem execFundamentalCrossing_inv (p : Fin 32) (s : State) (hI : s.Inv) : Keeps (execFundamentalCrossing p s) := by
  unfold execFundamentalCrossing
  repeat' first
    | with_reducible assumption | with_reducible apply Keeps.next | with_reducible apply State.updEvents_inv
    | with_reducible apply runDetector_inv | intro _ | with_reducible apply Keeps.ite
    | with_reducible apply State.ite_inv

theorem judgeFreq_inv (ts : Nat) (f : Rat) (locked : Bool) (s : State) (p : Nat) (hI : s.Inv) : (judgeFreq ts f
  locked s p).Inv := by
  unfold judgeFreq
  repeat' first
    | with_reducible assumption | with_reducible apply runDetector_inv | intro _ | with_reducible apply State.ite_inv

theorem reportCrossing_inv (t pos : Nat) (s : State) (hI : s.Inv) : (reportCrossing t pos s).Inv := by
  unfold reportCrossing
  repeat' first
    | with_reducible assumption | with_reducible apply State.updFlue_inv | with_reducible apply judgeFreq_inv
    | with_reducible apply State.foldl_inv | intro _ _ _ | intro _ | with_reducible apply State.ite_inv

theorem execTrackerCrossing_inv (t : Fin 8) (pos : Nat) (s : State) (hI : s.Inv) :
    Keeps (execTrackerCrossing t pos s) := by
  unfold execTrackerCrossing
  repeat' first
    | with_reducible assumption | with_reducible apply Keeps.next | with_reducible apply State.updFlue_inv
    | with_reducible apply reportCrossing_inv | intro _ | with_reducible apply Keeps.ite
    | with_reducible apply State.ite_inv

theorem nominalTick_inv (w : Nat) (s : State) (p : Nat) (hI : s.Inv) : (nominalTick w s p).Inv := by
  unfold nominalTick
  repeat' first
    | with_reducible assumption | with_reducible apply State.updEvents_inv | with_reducible apply judgeFreq_inv
    | intro _ | with_reducible apply State.ite_inv

theorem clampInput_inv (h i : Nat) (s : State) (hI : s.Inv) : (clampInput h i s).Inv := by
  unfold clampInput
  repeat' first
    | with_reducible assumption | with_reducible apply State.updChain_inv | with_reducible apply markOver_inv
    | intro _ | with_reducible apply State.ite_inv

theorem execOverrange_inv (h : Fin 8) (i : Fin 16) (s : State) (hI : s.Inv) : Keeps (execOverrange h i s) := by
  unfold execOverrange
  repeat' first
    | with_reducible assumption | with_reducible apply Keeps.next | with_reducible apply clampInput_inv | intro _
    | with_reducible apply Keeps.ite

theorem overrangeWide_inv (w : Nat) (s : State) (p : Nat) (hI : s.Inv) : (overrangeWide w s p).Inv := by
  unfold overrangeWide
  repeat' first
    | with_reducible assumption | with_reducible apply State.updEvents_inv | with_reducible apply declare_inv
    | intro _ | with_reducible apply State.ite_inv

theorem judgeDc_inv (g : Image) (s : State) (p : Nat) (hI : s.Inv) : (judgeDc g s p).Inv := by
  unfold judgeDc
  repeat' first
    | with_reducible assumption | with_reducible apply State.updPoint_inv | with_reducible apply runDetector_inv
    | intro _ | with_reducible apply State.ite_inv

theorem witnessEvents_inv (g : Image) (i beat meanAbs : Nat) (s : State) (hI : s.Inv) : (witnessEvents g i beat
  meanAbs s).Inv := by
  unfold witnessEvents
  repeat' first
    | with_reducible assumption | with_reducible apply addEntry_inv | with_reducible apply State.foldl_inv
    | intro _ _ _ | intro _ | split

theorem truncateEvents_inv (b : Nat) (s : State) (p : Nat) (hI : s.Inv) : (truncateEvents b s p).Inv := by
  unfold truncateEvents
  repeat' first
    | with_reducible assumption | with_reducible apply State.updEvents_inv | with_reducible apply declare_inv
    | with_reducible apply State.foldl_inv | intro _ _ _ | intro _ | with_reducible apply State.ite_inv

theorem pushEntry_inv (s : State) (e : EventEntry) (hI : s.Inv) : (pushEntry s e).Inv := by
  unfold pushEntry
  repeat' first
    | with_reducible assumption | intro _ | with_reducible apply State.ite_inv | split
    | with_reducible apply State.Inv.intro | with_reducible apply State.Inv.regs
    | with_reducible apply State.Inv.store | with_reducible apply State.Inv.flash
    | with_reducible apply State.Inv.frame | with_reducible apply State.Inv.mail
    | with_reducible apply State.Inv.queue | with_reducible apply State.Inv.flight

theorem eventRecord_inv (s : State) (e : EventEntry) (hI : s.Inv) : (eventRecord s e).Inv := by
  unfold eventRecord
  repeat' first
    | with_reducible assumption | with_reducible apply addDue_inv | intro _ | with_reducible apply State.ite_inv
    | split

theorem publishEvents_inv (s : State) (hI : s.Inv) : (publishEvents s).Inv := by
  unfold publishEvents
  repeat' first
    | with_reducible assumption | with_reducible apply pushEntry_inv | with_reducible apply eventRecord_inv
    | with_reducible apply State.foldl_inv | intro _ _ _ | intro _ | with_reducible apply State.Inv.intro
    | with_reducible apply State.Inv.regs | with_reducible apply State.Inv.store
    | with_reducible apply State.Inv.flash | with_reducible apply State.Inv.frame
    | with_reducible apply State.Inv.mail | with_reducible apply State.Inv.queue
    | with_reducible apply State.Inv.flight

theorem execEventTbBeatLoRead_inv (hi : Bool) (s : State) (hI : s.Inv) : Keeps (execEventTbBeatLoRead hi s) := by
  unfold execEventTbBeatLoRead
  repeat' first
    | with_reducible assumption | with_reducible apply Keeps.next | with_reducible apply State.readBack_inv
    | with_reducible apply readRow_inv | intro _ | with_reducible apply Keeps.ite
    | with_reducible apply State.ite_inv | split | with_reducible apply State.Inv.intro
    | with_reducible apply State.Inv.regs | with_reducible apply State.Inv.store
    | with_reducible apply State.Inv.flash | with_reducible apply State.Inv.frame
    | with_reducible apply State.Inv.mail | with_reducible apply State.Inv.queue
    | with_reducible apply State.Inv.flight

/-! Captures. -/

theorem State.setCapture_inv (s : State) (n : Nat) (c : Option Capture) (hI : s.Inv) : (State.setCapture s n c).Inv
  := by
  unfold State.setCapture
  repeat' first | with_reducible assumption | with_reducible apply State.updHost_inv | intro _

theorem captureTake_inv (out : CapWrite) (n idx : Nat) (x : Samp) (s : State) (hI : s.Inv) :
    (captureTake out n idx x s).Inv := by
  unfold captureTake
  repeat' first
    | with_reducible assumption | with_reducible apply endCapture_inv | with_reducible apply transferError_inv
    | with_reducible apply State.dmaWrite_inv | with_reducible apply State.updHost_inv
    | with_reducible apply State.setCapture_inv | intro _ | with_reducible apply State.ite_inv | split

theorem captureAsh_inv (out : CapWrite) (n j w : Nat) (c : Capture) (s : State) (hI : s.Inv) :
    (captureAsh out n j w c s).Inv := by
  unfold captureAsh
  repeat' first
    | with_reducible assumption | with_reducible apply captureTake_inv | with_reducible apply State.foldl_inv
    | intro _ _ _ | intro _ | with_reducible apply State.ite_inv | split

theorem captureOne_inv (caps : List CapWrite) (w : Nat) (s : State) (n : Nat) (hI : s.Inv) :
    (captureOne caps w s n).Inv := by
  unfold captureOne
  repeat' first
    | with_reducible assumption | with_reducible apply captureAsh_inv | with_reducible apply captureTake_inv
    | intro _ | with_reducible apply State.ite_inv | split

theorem captureFrame_inv (caps : List CapWrite) (w : Nat) (s : State) (hI : s.Inv) : (captureFrame caps w s).Inv := by
  unfold captureFrame
  repeat' first
    | with_reducible assumption | with_reducible apply captureOne_inv | with_reducible apply State.foldl_inv

theorem captureSwap_inv (s : State) (hI : s.Inv) : (captureSwap s).Inv := by
  unfold captureSwap
  repeat' first
    | with_reducible assumption | with_reducible apply endCapture_inv | with_reducible apply State.foldl_inv
    | intro _ _ _ | intro _ | with_reducible apply State.ite_inv | split

theorem execCaptureStart_inv (ord : Nat) (s : State) (hI : s.Inv) : Keeps (execCaptureStart ord s) := by
  unfold execCaptureStart
  repeat' first
    | with_reducible assumption | with_reducible apply Keeps.next | with_reducible apply State.finishOk_inv
    | with_reducible apply State.finishFail_inv | with_reducible apply withDescriptor_inv
    | with_reducible apply State.setCapture_inv | with_reducible apply captureAsh_inv | intro _
    | with_reducible apply Keeps.ite | with_reducible apply State.ite_inv | split

theorem execCaptureTrigger_inv (n : Fin 4) (s : State) (hI : s.Inv) : Keeps (execCaptureTrigger n s) := by
  unfold execCaptureTrigger
  repeat' first
    | with_reducible assumption | with_reducible apply Keeps.next | with_reducible apply State.setCapture_inv
    | intro _ | with_reducible apply Keeps.ite | with_reducible apply State.ite_inv | split

theorem execCaptureStop_inv (ord : Nat) (s : State) (hI : s.Inv) : Keeps (execCaptureStop ord s) := by
  unfold execCaptureStop
  repeat' first
    | with_reducible assumption | with_reducible apply Keeps.next | with_reducible apply State.setPhase_inv
    | with_reducible apply State.finishOk_inv | with_reducible apply endCapture_inv
    | with_reducible apply withDescriptor_inv | with_reducible apply State.setCapture_inv | intro _ | split
    | with_reducible apply State.Inv.intro | with_reducible apply State.Inv.regs
    | with_reducible apply State.Inv.store | with_reducible apply State.Inv.flash
    | with_reducible apply State.Inv.frame | with_reducible apply State.Inv.mail
    | with_reducible apply State.Inv.queue | with_reducible apply State.Inv.flight

/-! Link. -/

theorem State.updLink_inv (s : State) (f : Link → Link) (hI : s.Inv) : (State.updLink s f).Inv := by
  unfold State.updLink
  repeat' first
    | with_reducible assumption | intro _ | with_reducible apply State.Inv.intro
    | with_reducible apply State.Inv.regs | with_reducible apply State.Inv.store
    | with_reducible apply State.Inv.flash | with_reducible apply State.Inv.frame
    | with_reducible apply State.Inv.mail | with_reducible apply State.Inv.queue
    | with_reducible apply State.Inv.flight

theorem bankSwap_inv (s : State) (hI : s.Inv) : (bankSwap s).Inv := by
  unfold bankSwap
  repeat' first
    | with_reducible assumption | with_reducible apply State.finishOk_inv | with_reducible apply State.updLink_inv
    | intro _ | split

theorem cycleMessage_inv (s : State) (hI : s.Inv) : (cycleMessage s).Inv := by
  unfold cycleMessage
  repeat' first
    | with_reducible assumption | with_reducible apply State.raiseVector_inv | intro _
    | with_reducible apply State.ite_inv

theorem endCycle_inv (whole : Bool) (s : State) (hI : s.Inv) : (endCycle whole s).Inv := by
  unfold endCycle
  repeat' first
    | with_reducible assumption | with_reducible apply State.updLink_inv | with_reducible apply bankSwap_inv
    | with_reducible apply cycleMessage_inv

theorem startCycle_inv (s : State) (hI : s.Inv) : (startCycle s).Inv := by
  unfold startCycle
  repeat' first
    | with_reducible assumption | with_reducible apply State.updLink_inv | with_reducible apply endCycle_inv
    | intro _ | with_reducible apply State.ite_inv

theorem pqInput_inv (w : Nat) (s : State) (i : Nat) (hI : s.Inv) : (pqInput w s i).Inv := by
  unfold pqInput
  repeat' first
    | with_reducible assumption | with_reducible apply State.updHarm_inv | with_reducible apply startCycle_inv
    | with_reducible apply State.setFlag_inv | with_reducible apply State.updChain_inv | intro _
    | with_reducible apply State.ite_inv | split | with_reducible apply State.Inv.intro
    | with_reducible apply State.Inv.regs | with_reducible apply State.Inv.store
    | with_reducible apply State.Inv.flash | with_reducible apply State.Inv.frame
    | with_reducible apply State.Inv.mail | with_reducible apply State.Inv.queue
    | with_reducible apply State.Inv.flight

theorem spectralFrame_inv (w : Nat) (s : State) (hI : s.Inv) : (spectralFrame w s).Inv := by
  unfold spectralFrame
  repeat' first
    | with_reducible assumption | with_reducible apply pqInput_inv | with_reducible apply ashInput_inv
    | with_reducible apply State.foldl_inv | intro _ _ _ | intro _ | with_reducible apply State.ite_inv

theorem betweenExchanges_inv (s : State) (hI : s.Inv) : (betweenExchanges s).Inv := by
  unfold betweenExchanges
  repeat' first
    | with_reducible assumption | with_reducible apply endCycle_inv | with_reducible apply startCycle_inv | intro _
    | with_reducible apply State.ite_inv

theorem finishPoll_inv (e : Exchange) (code : Nat) (ok : Bool) (s : State) (hI : s.Inv) : (finishPoll e code ok
  s).Inv := by
  unfold finishPoll
  repeat' first
    | with_reducible assumption | with_reducible apply State.setFlag_inv | with_reducible apply State.dmaWrite_inv
    | with_reducible apply State.updLink_inv | intro _ | with_reducible apply State.ite_inv

theorem finishSend_inv (o : Nat) (e : Exchange) (code : Nat) (ok : Bool) (s : State) (hI : s.Inv) : (finishSend o e
  code ok s).Inv := by
  unfold finishSend
  repeat' first
    | with_reducible assumption | with_reducible apply State.dmaWrite_inv | with_reducible apply State.finishOk_inv
    | with_reducible apply bufferError_inv | with_reducible apply State.updLink_inv | intro _
    | with_reducible apply State.ite_inv

theorem finishExchange_inv (e : Exchange) (code : Nat) (ok : Bool) (s : State) (hI : s.Inv) : (finishExchange e code
  ok s).Inv := by
  unfold finishExchange
  repeat' first
    | with_reducible assumption | with_reducible apply betweenExchanges_inv | with_reducible apply finishPoll_inv
    | with_reducible apply finishSend_inv | intro _ | split

theorem failAttempt_inv (e : Exchange) (crc ok : Bool) (s : State) (hI : s.Inv) : (failAttempt e crc ok s).Inv := by
  unfold failAttempt
  repeat' first
    | with_reducible assumption | with_reducible apply State.updLink_inv | with_reducible apply finishExchange_inv
    | intro _ | with_reducible apply State.ite_inv

theorem linkOff_inv (s : State) (hI : s.Inv) : (linkOff s).Inv := by
  unfold linkOff
  repeat' first
    | with_reducible assumption | with_reducible apply State.updLink_inv | with_reducible apply finishExchange_inv
    | with_reducible apply endCycle_inv | with_reducible apply State.finishFail_inv
    | with_reducible apply State.foldl_inv | intro _ _ _ | intro _ | with_reducible apply State.ite_inv | split

theorem linkDisable_inv (s : State) (hI : s.Inv) : (linkDisable s).Inv := by
  unfold linkDisable
  repeat' first
    | with_reducible assumption | with_reducible apply linkOff_inv | with_reducible apply State.updLink_inv

theorem switchLink_inv (old new : Image) (s : State) (hI : s.Inv) : (switchLink old new s).Inv := by
  unfold switchLink
  repeat' first
    | with_reducible assumption | with_reducible apply linkDisable_inv | with_reducible apply linkOff_inv
    | with_reducible apply startCycle_inv | intro _ | with_reducible apply State.ite_inv

theorem afterFrame_inv (s : State) (hI : s.Inv) : (afterFrame s).Inv := by
  unfold afterFrame
  repeat' first
    | with_reducible assumption | with_reducible apply linkDisable_inv | intro _ | with_reducible apply State.ite_inv

theorem execLinkEn_inv (on : Bool) (s : State) (hI : s.Inv) : Keeps (execLinkEn on s) := by
  unfold execLinkEn
  repeat' first
    | with_reducible assumption | with_reducible apply Keeps.next | with_reducible apply State.putField_inv
    | with_reducible apply State.updLink_inv | with_reducible apply startCycle_inv
    | with_reducible apply linkDisable_inv | intro _ | with_reducible apply Keeps.ite
    | with_reducible apply State.ite_inv

theorem execPollRun_inv (on : Bool) (s : State) (hI : s.Inv) : Keeps (execPollRun on s) := by
  unfold execPollRun
  repeat' first
    | with_reducible assumption | with_reducible apply Keeps.next | with_reducible apply State.putField_inv
    | with_reducible apply startCycle_inv | with_reducible apply betweenExchanges_inv | intro _
    | with_reducible apply Keeps.ite | with_reducible apply State.ite_inv

theorem beginExchange_inv (e : Exchange) (s : State) (hI : s.Inv) : (beginExchange e s).Inv := by
  unfold beginExchange
  repeat' first | with_reducible assumption | with_reducible apply State.updLink_inv

theorem nextExchange_inv (s : State) (hI : s.Inv) : (nextExchange s).Inv := by
  unfold nextExchange
  repeat' first
    | with_reducible assumption | with_reducible apply State.updLink_inv | with_reducible apply beginExchange_inv
    | intro _ | with_reducible apply State.ite_inv | split

theorem execAttemptStart_inv (s : State) (hI : s.Inv) : Keeps (execAttemptStart s) := by
  unfold execAttemptStart
  repeat' first
    | with_reducible assumption | with_reducible apply Keeps.next | with_reducible apply State.updLink_inv
    | with_reducible apply startCycle_inv | with_reducible apply nextExchange_inv | intro _
    | with_reducible apply Keeps.ite | with_reducible apply State.ite_inv | split
    | with_reducible apply State.Inv.intro | with_reducible apply State.Inv.regs
    | with_reducible apply State.Inv.store | with_reducible apply State.Inv.flash
    | with_reducible apply State.Inv.frame | with_reducible apply State.Inv.mail
    | with_reducible apply State.Inv.queue | with_reducible apply State.Inv.flight | with_reducible apply Regs.wf_set
    | with_reducible apply Regs.wf_clear | with_reducible apply Regs.wf_clearIsland
    | with_reducible apply Regs.wf_reject | with_reducible apply Memory.wf_writeN
    | with_reducible apply Memory.wf_write | with_reducible apply Ember.wf_init | with_reducible apply Ember.wf_put
    | with_reducible apply Ember.wf_putCounter | with_reducible apply Ember.wf_dropMarker
    | with_reducible apply Ember.wf_markEntry | with_reducible apply Ember.wf_storeSig
    | with_reducible apply Ember.wf_putCfg | with_reducible apply Ember.wf_putFault
    | with_reducible apply Ember.wf_putJournal | with_reducible apply Ember.wf_foldl
    | with_reducible apply Faults.init_queue | with_reducible apply Damper.init_frame
    | with_reducible apply Damper.init_mail | with_reducible apply HostIf.init_flight | dsimp only

theorem execTransmitEnd_inv (s : State) (hI : s.Inv) : Keeps (execTransmitEnd s) := by
  unfold execTransmitEnd
  repeat' first
    | with_reducible assumption | with_reducible apply Keeps.next | with_reducible apply State.updLink_inv
    | with_reducible apply afterFrame_inv | intro _ | with_reducible apply Keeps.ite
    | with_reducible apply State.ite_inv | split

theorem linkConsume_inv (b : RxBlock) (s : State) (hI : s.Inv) : (linkConsume b s).Inv := by
  unfold linkConsume
  repeat' first
    | with_reducible assumption | with_reducible apply State.updLink_inv | with_reducible apply afterFrame_inv
    | intro _ | with_reducible apply State.ite_inv

theorem noteFrame_inv (h n snr : Nat) (ok : Bool) (s : State) (hI : s.Inv) : (noteFrame h n snr ok s).Inv := by
  unfold noteFrame
  repeat' first | with_reducible assumption | with_reducible apply State.updLink_inv

theorem replySegment_inv (e : Exchange) (h : Nat) (data : Option (List Byte)) (ok : Bool) (s : State) (hI : s.Inv) :
    (replySegment e h data ok s).Inv := by
  unfold replySegment
  repeat' first
    | with_reducible assumption | with_reducible apply failAttempt_inv | with_reducible apply finishExchange_inv
    | with_reducible apply State.updLink_inv | intro _ | with_reducible apply State.ite_inv | split

theorem takeFrame_inv (x : RxSync) (f : RxFrame) (h : Nat) (ok : Bool) (s : State) (hI : s.Inv) :
    (takeFrame x f h ok s).Inv := by
  unfold takeFrame
  dsimp only
  repeat' first
    | with_reducible assumption | with_reducible apply noteFrame_inv | with_reducible apply State.setFlag_inv
    | with_reducible apply replySegment_inv | intro _ | with_reducible apply State.ite_inv | split

theorem dropFrame_inv (ok : Bool) (s : State) (hI : s.Inv) : (dropFrame ok s).Inv := by
  unfold dropFrame
  repeat' first
    | with_reducible assumption | with_reducible apply failAttempt_inv | intro _ | with_reducible apply State.ite_inv
    | split

theorem endReception_inv (s : State) (hI : s.Inv) : (endReception s).Inv := by
  unfold endReception
  repeat' first | with_reducible assumption | with_reducible apply State.updLink_inv

theorem execFrameReceived_inv (f : RxFrame) (dmaOk : Bool) (s : State) (hI : s.Inv) :
    Keeps (execFrameReceived f dmaOk s) := by
  unfold execFrameReceived
  repeat' first
    | with_reducible assumption | with_reducible apply Keeps.next | with_reducible apply afterFrame_inv
    | with_reducible apply dropFrame_inv | with_reducible apply endReception_inv
    | with_reducible apply State.updLink_inv | with_reducible apply State.setFlag_inv
    | with_reducible apply takeFrame_inv | intro _ | with_reducible apply Keeps.ite
    | with_reducible apply State.ite_inv | split

theorem execReplyTimeout_inv (dmaOk : Bool) (s : State) (hI : s.Inv) : Keeps (execReplyTimeout dmaOk s) := by
  unfold execReplyTimeout
  repeat' first
    | with_reducible assumption | with_reducible apply Keeps.next | with_reducible apply State.updLink_inv
    | with_reducible apply failAttempt_inv | intro _ | with_reducible apply Keeps.ite
    | with_reducible apply State.ite_inv | split

theorem execSegmentTimeout_inv (dmaOk : Bool) (s : State) (hI : s.Inv) : Keeps (execSegmentTimeout dmaOk s) := by
  unfold execSegmentTimeout
  repeat' first
    | with_reducible assumption | with_reducible apply Keeps.next | with_reducible apply failAttempt_inv | intro _
    | with_reducible apply Keeps.ite | with_reducible apply State.ite_inv | split

theorem execLinkPollset_inv (ord : Nat) (buf : HostRead) (s : State) (hI : s.Inv) : Keeps (execLinkPollset ord buf s)
  := by
  unfold execLinkPollset
  repeat' first
    | with_reducible assumption | with_reducible apply Keeps.next | with_reducible apply State.setPhase_inv
    | with_reducible apply State.finishFail_inv | with_reducible apply withBuffer_inv
    | with_reducible apply bufferError_inv | with_reducible apply State.updLink_inv
    | with_reducible apply bankSwap_inv | with_reducible apply startCycle_inv | intro _
    | with_reducible apply Keeps.ite | with_reducible apply State.ite_inv | split

theorem execLinkSend_inv (ord : Nat) (buf : HostRead) (s : State) (hI : s.Inv) : Keeps (execLinkSend ord buf s) := by
  unfold execLinkSend
  repeat' first
    | with_reducible assumption | with_reducible apply Keeps.next | with_reducible apply State.setPhase_inv
    | with_reducible apply State.finishFail_inv | with_reducible apply withBuffer_inv
    | with_reducible apply bufferError_inv | with_reducible apply State.updLink_inv | intro _
    | with_reducible apply Keeps.ite | with_reducible apply State.ite_inv | split

/-! Frame. -/

theorem frameFields_inv (s : State) (hI : s.Inv) : (frameFields s).Inv := by
  unfold frameFields
  repeat' first
    | with_reducible assumption | with_reducible apply State.updHearth_inv | with_reducible apply flueFrame_inv
    | with_reducible apply State.foldl_inv | intro _ _ _

theorem frameClamps_inv (fc : FrameCodes) (h : Nat) (s : State) (hI : s.Inv) : (frameClamps fc h s).Inv := by
  unfold frameClamps
  repeat' first
    | with_reducible assumption | with_reducible apply clampInput_inv | with_reducible apply State.foldl_inv
    | intro _ _ _ | intro _ | with_reducible apply State.ite_inv

theorem frameWitness_inv (fc : FrameCodes) (h : Nat) (s : State) (hI : s.Inv) : (frameWitness fc h s).Inv := by
  unfold frameWitness
  repeat' first
    | with_reducible assumption | with_reducible apply State.updHearth_inv | intro _ | split
    | with_reducible apply State.Inv.intro | with_reducible apply State.Inv.regs
    | with_reducible apply State.Inv.store | with_reducible apply State.Inv.flash
    | with_reducible apply State.Inv.frame | with_reducible apply State.Inv.mail
    | with_reducible apply State.Inv.queue | with_reducible apply State.Inv.flight

theorem frameChain_inv (fc : FrameCodes) (f h : Nat) (s : State) (i : Nat) (hI : s.Inv) : (frameChain fc f h s i).Inv
  := by
  unfold frameChain
  repeat' first
    | with_reducible assumption | with_reducible apply State.setFlag_inv | with_reducible apply State.updChain_inv
    | intro _ | with_reducible apply State.ite_inv

theorem frameHearth_inv (fc : FrameCodes) (f : Nat) (s : State) (h : Nat) (hI : s.Inv) : (frameHearth fc f s h).Inv
  := by
  unfold frameHearth
  repeat' first
    | with_reducible assumption | with_reducible apply frameClamps_inv | with_reducible apply frameWitness_inv
    | with_reducible apply frameChain_inv | with_reducible apply State.foldl_inv | intro _ _ _ | intro _
    | with_reducible apply State.ite_inv

theorem frameTracker_inv (w : Nat) (s : State) (t : Nat) (hI : s.Inv) : (frameTracker w s t).Inv := by
  unfold frameTracker
  repeat' first
    | with_reducible assumption | with_reducible apply State.updFlue_inv | intro _
    | with_reducible apply State.ite_inv | split

theorem publishRx_inv (w : Nat) (s : State) (hI : s.Inv) : (publishRx w s).Inv := by
  unfold publishRx
  repeat' first
    | with_reducible assumption | with_reducible apply linkConsume_inv | intro _ | with_reducible apply State.ite_inv
    | split | with_reducible apply State.Inv.intro | with_reducible apply State.Inv.regs
    | with_reducible apply State.Inv.store | with_reducible apply State.Inv.flash
    | with_reducible apply State.Inv.frame | with_reducible apply State.Inv.mail
    | with_reducible apply State.Inv.queue | with_reducible apply State.Inv.flight

theorem frameWide_inv (caps : List CapWrite) (w : Nat) (s : State) (hI : s.Inv) : (frameWide caps w s).Inv := by
  unfold frameWide
  repeat' first
    | with_reducible assumption | with_reducible apply State.updFlue_inv | with_reducible apply publishRx_inv
    | with_reducible apply frameTracker_inv | with_reducible apply spectralFrame_inv
    | with_reducible apply captureFrame_inv | with_reducible apply scheduleUrms_inv
    | with_reducible apply nominalTick_inv | with_reducible apply overrangeWide_inv
    | with_reducible apply State.foldl_inv | intro _ _ _ | intro _ | with_reducible apply State.ite_inv

theorem frameEnergy_inv (f : Nat) (s : State) (hI : s.Inv) : (frameEnergy f s).Inv := by
  unfold frameEnergy
  repeat' first
    | with_reducible assumption | with_reducible apply takeSamples_inv | with_reducible apply noteSample_inv
    | with_reducible apply pointSample_inv | with_reducible apply pulseFrame_inv | with_reducible apply missTaken_inv
    | with_reducible apply State.foldl_inv | intro _ _ _

theorem frameWork_inv (fc : FrameCodes) (f : Nat) (s : State) (hI : s.Inv) : (frameWork fc f s).Inv := by
  unfold frameWork
  repeat' first
    | with_reducible assumption | with_reducible apply frameHearth_inv | with_reducible apply frameWide_inv
    | with_reducible apply dropDelivered_inv | with_reducible apply frameEnergy_inv
    | with_reducible apply countInput_inv | with_reducible apply overFrame_inv | with_reducible apply State.foldl_inv
    | intro _ _ _ | intro _ | with_reducible apply State.ite_inv | split

theorem execFrameBoundary_inv (fc : FrameCodes) (s : State) (hI : s.Inv) : Keeps (execFrameBoundary fc s) := by
  unfold execFrameBoundary
  repeat' first
    | with_reducible assumption | with_reducible apply Keeps.next | with_reducible apply State.updDamper_inv
    | with_reducible apply frameFields_inv | with_reducible apply frameWork_inv | intro _
    | with_reducible apply Keeps.ite | with_reducible apply State.ite_inv | split
    | with_reducible apply State.Inv.intro | with_reducible apply State.Inv.regs
    | with_reducible apply State.Inv.store | with_reducible apply State.Inv.flash
    | with_reducible apply State.Inv.frame | with_reducible apply State.Inv.mail
    | with_reducible apply State.Inv.queue | with_reducible apply State.Inv.flight | with_reducible apply Regs.wf_set
    | with_reducible apply Regs.wf_clear | with_reducible apply Regs.wf_clearIsland
    | with_reducible apply Regs.wf_reject | with_reducible apply Memory.wf_writeN
    | with_reducible apply Memory.wf_write | with_reducible apply Ember.wf_init | with_reducible apply Ember.wf_put
    | with_reducible apply Ember.wf_putCounter | with_reducible apply Ember.wf_dropMarker
    | with_reducible apply Ember.wf_markEntry | with_reducible apply Ember.wf_storeSig
    | with_reducible apply Ember.wf_putCfg | with_reducible apply Ember.wf_putFault
    | with_reducible apply Ember.wf_putJournal | with_reducible apply Ember.wf_foldl
    | with_reducible apply Faults.init_queue | with_reducible apply Damper.init_frame
    | with_reducible apply Damper.init_mail | with_reducible apply HostIf.init_flight | dsimp only | assumption
    | omega

/-! ImageStage. -/

theorem execImageStage_inv (ord : Nat) (s : State) (hI : s.Inv) : Keeps (execImageStage ord s) := by
  unfold execImageStage
  repeat' first
    | with_reducible assumption | with_reducible apply Keeps.next | with_reducible apply State.updDamper_inv
    | with_reducible apply State.setPhase_inv | with_reducible apply State.finishFail_inv
    | with_reducible apply withBuffer_inv | intro _ | with_reducible apply Keeps.ite
    | with_reducible apply State.ite_inv

theorem keepStaged_inv (bs : List Byte) (s : State) (hI : s.Inv) : (keepStaged bs s).Inv := by
  unfold keepStaged
  repeat' first
    | with_reducible assumption | with_reducible apply writeSlot_inv | intro _ | with_reducible apply State.ite_inv

theorem execImageTransferComplete_inv (buf : HostRead) (s : State) (hI : s.Inv) : Keeps (execImageTransferComplete
  buf s) := by
  unfold execImageTransferComplete
  repeat' first
    | with_reducible assumption | with_reducible apply Keeps.next | with_reducible apply State.updDamper_inv
    | with_reducible apply bufferError_inv | with_reducible apply keepStaged_inv | intro _ | split

theorem execAdmissionComplete_inv (s : State) (hI : s.Inv) : Keeps (execAdmissionComplete s) := by
  unfold execAdmissionComplete
  repeat' first
    | with_reducible assumption | with_reducible apply Keeps.next | with_reducible apply State.updDamper_inv
    | with_reducible apply State.finishOpt_inv | intro _ | split

theorem execImageActivate_inv (ord : Nat) (s : State) (hI : s.Inv) : Keeps (execImageActivate ord s) := by
  unfold execImageActivate
  repeat' first
    | with_reducible assumption | with_reducible apply Keeps.next | with_reducible apply State.updDamper_inv
    | with_reducible apply State.setPhase_inv | with_reducible apply State.finishFail_inv
    | with_reducible apply withDescriptor_inv | intro _ | split

theorem execDamperBeatLoRead_inv (hi : Bool) (s : State) (hI : s.Inv) : Keeps (execDamperBeatLoRead hi s) := by
  unfold execDamperBeatLoRead
  repeat' first
    | with_reducible assumption | with_reducible apply Keeps.next | with_reducible apply State.updDamper_inv
    | with_reducible apply State.readBack_inv | with_reducible apply readRow_inv | intro _
    | with_reducible apply Keeps.ite | with_reducible apply State.ite_inv

theorem execDamperActBeatLoRead_inv (hi : Bool) (s : State) (hI : s.Inv) : Keeps (execDamperActBeatLoRead hi s) := by
  unfold execDamperActBeatLoRead
  repeat' first
    | with_reducible assumption | with_reducible apply Keeps.next | with_reducible apply State.updDamper_inv
    | with_reducible apply State.readBack_inv | with_reducible apply readRow_inv | intro _
    | with_reducible apply Keeps.ite | with_reducible apply State.ite_inv

end Sys2Proof.Machine
end

