-- ==== Sys2Proof/Laws/InvPlane.lean ====
section
/-! SUPPORT. What the mantel, the rings, the records and the boundaries leave of the invariant: all of it. -/

namespace Sys2Proof.Machine

/-! Mantel. -/

theorem State.updPort_inv (s : State) (p : Nat) (f : Port → Port) (hI : s.Inv) : (State.updPort s p f).Inv := by
  unfold State.updPort
  repeat' first
    | with_reducible assumption | intro _ | with_reducible apply State.Inv.intro
    | with_reducible apply State.Inv.regs | with_reducible apply State.Inv.store
    | with_reducible apply State.Inv.flash | with_reducible apply State.Inv.frame
    | with_reducible apply State.Inv.mail | with_reducible apply State.Inv.queue
    | with_reducible apply State.Inv.flight

theorem State.updTable_inv (s : State) (t : Nat) (f : TableSlot → TableSlot) (hI : s.Inv) : (State.updTable s t
  f).Inv := by
  unfold State.updTable
  repeat' first
    | with_reducible assumption | intro _ | with_reducible apply State.Inv.intro
    | with_reducible apply State.Inv.regs | with_reducible apply State.Inv.store
    | with_reducible apply State.Inv.flash | with_reducible apply State.Inv.frame
    | with_reducible apply State.Inv.mail | with_reducible apply State.Inv.queue
    | with_reducible apply State.Inv.flight

theorem loadTables_inv (both : Bool) (s : State) (hI : s.Inv) : (loadTables both s).Inv := by
  unfold loadTables
  repeat' first
    | with_reducible assumption | intro _ | with_reducible apply State.ite_inv | split
    | with_reducible apply State.Inv.intro | with_reducible apply State.Inv.regs
    | with_reducible apply State.Inv.store | with_reducible apply State.Inv.flash
    | with_reducible apply State.Inv.frame | with_reducible apply State.Inv.mail
    | with_reducible apply State.Inv.queue | with_reducible apply State.Inv.flight

theorem swapPending_inv (s : State) (hI : s.Inv) : (swapPending s).Inv := by
  unfold swapPending
  repeat' first
    | with_reducible assumption | with_reducible apply State.updTable_inv | with_reducible apply State.foldl_inv
    | intro _ _ _ | intro _ | with_reducible apply State.ite_inv

theorem renderPort_inv (s : State) (p : Nat) (hI : s.Inv) : (renderPort s p).Inv := by
  unfold renderPort
  repeat' first | with_reducible assumption | with_reducible apply State.updPort_inv

theorem renderAll_inv (s : State) (hI : s.Inv) : (renderAll s).Inv := by
  unfold renderAll
  repeat' first
    | with_reducible assumption | with_reducible apply renderPort_inv | with_reducible apply State.foldl_inv
    | intro _ _ _ | intro _ | with_reducible apply State.ite_inv | split | with_reducible apply State.Inv.intro
    | with_reducible apply State.Inv.regs | with_reducible apply State.Inv.store
    | with_reducible apply State.Inv.flash | with_reducible apply State.Inv.frame
    | with_reducible apply State.Inv.mail | with_reducible apply State.Inv.queue
    | with_reducible apply State.Inv.flight

theorem takeNext_inv (p : Nat) (n : NextUpdate) (s : State) (hI : s.Inv) : (takeNext p n s).Inv := by
  unfold takeNext
  repeat' first
    | with_reducible assumption | with_reducible apply State.finishOk_inv | with_reducible apply State.updPort_inv
    | with_reducible apply step_inv | intro _ | split

theorem journal_inv (p : Nat) (dirty : Bool) (u : Update) (s : State) (hI : s.Inv) : (journal p dirty u s).Inv := by
  unfold journal
  repeat' first
    | with_reducible assumption | with_reducible apply State.updEmber_inv | intro _
    | with_reducible apply State.Inv.intro | with_reducible apply State.Inv.regs
    | with_reducible apply State.Inv.store | with_reducible apply State.Inv.flash
    | with_reducible apply State.Inv.frame | with_reducible apply State.Inv.mail
    | with_reducible apply State.Inv.queue | with_reducible apply State.Inv.flight | with_reducible apply Regs.wf_set
    | with_reducible apply Regs.wf_clear | with_reducible apply Regs.wf_clearIsland
    | with_reducible apply Regs.wf_reject | with_reducible apply Memory.wf_writeN
    | with_reducible apply Memory.wf_write | with_reducible apply Ember.wf_init | with_reducible apply Ember.wf_put
    | with_reducible apply Ember.wf_putCounter | with_reducible apply Ember.wf_dropMarker
    | with_reducible apply Ember.wf_markEntry | with_reducible apply Ember.wf_storeSig
    | with_reducible apply Ember.wf_putCfg | with_reducible apply Ember.wf_putFault
    | with_reducible apply Ember.wf_putJournal

theorem beginUpdate_inv (p : Nat) (n : NextUpdate) (temp : Int) (s : State) (hI : s.Inv) : (beginUpdate p n temp
  s).Inv := by
  unfold beginUpdate
  repeat' first
    | with_reducible assumption | with_reducible apply State.setFlag_inv | with_reducible apply State.updPort_inv
    | with_reducible apply takeNext_inv | with_reducible apply journal_inv | with_reducible apply step_inv | intro _
    | with_reducible apply State.ite_inv

theorem tryUpdate_inv (p : Nat) (temp : TempRead) (s : State) (hI : s.Inv) : (tryUpdate p temp s).Inv := by
  unfold tryUpdate
  repeat' first
    | with_reducible assumption | with_reducible apply State.setFlag_inv | with_reducible apply State.updPort_inv
    | with_reducible apply takeNext_inv | with_reducible apply beginUpdate_inv | intro _
    | with_reducible apply State.ite_inv | split

theorem execUpdateStart_inv (p : Fin 4) (temp : TempRead) (s : State) (hI : s.Inv) : Keeps (execUpdateStart p temp s)
  := by
  unfold execUpdateStart
  repeat' first
    | with_reducible assumption | with_reducible apply Keeps.next | with_reducible apply tryUpdate_inv | intro _
    | with_reducible apply Keeps.ite

theorem execTemperatureRetry_inv (p : Fin 4) (temp : TempRead) (s : State) (hI : s.Inv) : Keeps (execTemperatureRetry
  p temp s) := by
  unfold execTemperatureRetry
  repeat' first
    | with_reducible assumption | with_reducible apply Keeps.next | with_reducible apply State.updPort_inv
    | with_reducible apply tryUpdate_inv | intro _ | with_reducible apply Keeps.ite

theorem execHvDlyExpiry_inv (p : Fin 4) (s : State) (hI : s.Inv) : Keeps (execHvDlyExpiry p s) := by
  unfold execHvDlyExpiry
  repeat' first
    | with_reducible assumption | with_reducible apply Keeps.next | with_reducible apply State.updPort_inv | intro _
    | split

theorem execUpdateEnd_inv (p : Fin 4) (s : State) (hI : s.Inv) : Keeps (execUpdateEnd p s) := by
  unfold execUpdateEnd
  repeat' first
    | with_reducible assumption | with_reducible apply Keeps.next | with_reducible apply State.updPort_inv
    | with_reducible apply swapPending_inv | with_reducible apply journal_inv | intro _ | split

theorem execPowerGoodCheck_inv (p : Fin 4) (high : Bool) (s : State) (hI : s.Inv) : Keeps (execPowerGoodCheck p high
  s) := by
  unfold execPowerGoodCheck
  repeat' first
    | with_reducible assumption | with_reducible apply Keeps.next | with_reducible apply State.setFlag_inv
    | with_reducible apply reportFault_inv | with_reducible apply State.updPort_inv | intro _
    | with_reducible apply Keeps.ite

theorem execMantelRun_inv (v : Word) (s : State) (hI : s.Inv) : Keeps (execMantelRun v s) := by
  unfold execMantelRun
  repeat' first
    | with_reducible assumption | with_reducible apply Keeps.next | with_reducible apply State.putField_inv
    | with_reducible apply writeReg_inv | intro _ | with_reducible apply Keeps.ite
    | with_reducible apply State.ite_inv | split | with_reducible apply State.Inv.intro
    | with_reducible apply State.Inv.regs | with_reducible apply State.Inv.store
    | with_reducible apply State.Inv.flash | with_reducible apply State.Inv.frame
    | with_reducible apply State.Inv.mail | with_reducible apply State.Inv.queue
    | with_reducible apply State.Inv.flight

theorem execDigest_inv (s : State) (hI : s.Inv) : Keeps (execDigest s) := by
  unfold execDigest
  repeat' first
    | with_reducible assumption | with_reducible apply Keeps.next | intro _ | with_reducible apply Keeps.ite
    | with_reducible apply State.ite_inv | split | with_reducible apply State.Inv.intro
    | with_reducible apply State.Inv.regs | with_reducible apply State.Inv.store
    | with_reducible apply State.Inv.flash | with_reducible apply State.Inv.frame
    | with_reducible apply State.Inv.mail | with_reducible apply State.Inv.queue
    | with_reducible apply State.Inv.flight

theorem execDigestRequestEnd_inv (s : State) (hI : s.Inv) : Keeps (execDigestRequestEnd s) := by
  unfold execDigestRequestEnd
  repeat' first
    | with_reducible assumption | with_reducible apply Keeps.next | intro _ | with_reducible apply State.Inv.intro
    | with_reducible apply State.Inv.regs | with_reducible apply State.Inv.store
    | with_reducible apply State.Inv.flash | with_reducible apply State.Inv.frame
    | with_reducible apply State.Inv.mail | with_reducible apply State.Inv.queue
    | with_reducible apply State.Inv.flight

theorem storeWord_inv (t a : Nat) (v : Word) (s : State) (hI : s.Inv) : (storeWord t a v s).Inv := by
  unfold storeWord
  repeat' first | with_reducible assumption | with_reducible apply State.updTable_inv

theorem execMantelTblData_inv (v : Word) (s : State) (hI : s.Inv) : Keeps (execMantelTblData v s) := by
  unfold execMantelTblData
  repeat' first
    | with_reducible assumption | with_reducible apply Keeps.next | with_reducible apply State.setFlag_inv
    | with_reducible apply State.putField_inv | with_reducible apply storeWord_inv | intro _
    | with_reducible apply Keeps.ite

theorem commitFail_inv (cause : Nat) (s : State) (hI : s.Inv) : (commitFail cause s).Inv := by
  unfold commitFail
  repeat' first
    | with_reducible assumption | with_reducible apply State.setFlag_inv | intro _
    | with_reducible apply State.Inv.intro | with_reducible apply State.Inv.regs
    | with_reducible apply State.Inv.store | with_reducible apply State.Inv.flash
    | with_reducible apply State.Inv.frame | with_reducible apply State.Inv.mail
    | with_reducible apply State.Inv.queue | with_reducible apply State.Inv.flight

theorem execCommit_inv (v : Word) (s : State) (hI : s.Inv) : Keeps (execCommit v s) := by
  unfold execCommit
  repeat' first
    | with_reducible assumption | with_reducible apply Keeps.next | with_reducible apply writeReg_inv
    | with_reducible apply commitFail_inv | intro _ | with_reducible apply Keeps.ite
    | with_reducible apply State.ite_inv | split | with_reducible apply State.Inv.intro
    | with_reducible apply State.Inv.regs | with_reducible apply State.Inv.store
    | with_reducible apply State.Inv.flash | with_reducible apply State.Inv.frame
    | with_reducible apply State.Inv.mail | with_reducible apply State.Inv.queue
    | with_reducible apply State.Inv.flight

theorem execCommitComplete_inv (flashOk : Bool) (s : State) (hI : s.Inv) : Keeps (execCommitComplete flashOk s) := by
  unfold execCommitComplete
  repeat' first
    | with_reducible assumption | with_reducible apply Keeps.next | with_reducible apply State.updTable_inv
    | with_reducible apply swapPending_inv | with_reducible apply commitFail_inv | intro _
    | with_reducible apply Keeps.ite | with_reducible apply State.ite_inv | split
    | with_reducible apply State.Inv.intro | with_reducible apply State.Inv.regs
    | with_reducible apply State.Inv.store | with_reducible apply State.Inv.flash
    | with_reducible apply State.Inv.frame | with_reducible apply State.Inv.mail
    | with_reducible apply State.Inv.queue | with_reducible apply State.Inv.flight | with_reducible apply Regs.wf_set
    | with_reducible apply Regs.wf_clear | with_reducible apply Regs.wf_clearIsland
    | with_reducible apply Regs.wf_reject | with_reducible apply Memory.wf_writeN

theorem execDisplayCompose_inv (ord : Nat) (buf : HostRead) (s : State) (hI : s.Inv) : Keeps (execDisplayCompose ord
  buf s) := by
  unfold execDisplayCompose
  repeat' first
    | with_reducible assumption | with_reducible apply Keeps.next | with_reducible apply State.setPhase_inv
    | with_reducible apply withBuffer_inv | with_reducible apply bufferError_inv
    | with_reducible apply State.updPort_inv | intro _ | split

theorem execDisplayWindow_inv (ord : Nat) (s : State) (hI : s.Inv) : Keeps (execDisplayWindow ord s) := by
  unfold execDisplayWindow
  repeat' first
    | with_reducible assumption | with_reducible apply Keeps.next | with_reducible apply State.finishOk_inv
    | with_reducible apply State.finishFail_inv | with_reducible apply withDescriptor_inv
    | with_reducible apply State.updPort_inv | intro _ | with_reducible apply Keeps.ite
    | with_reducible apply State.ite_inv

theorem mantelStart_inv (dramLost : Bool) (s : State) (hI : s.Inv) : (mantelStart dramLost s).Inv := by
  unfold mantelStart
  repeat' first
    | with_reducible assumption | with_reducible apply loadTables_inv | with_reducible apply State.updPort_inv
    | with_reducible apply State.foldl_inv | intro _ _ _

/-! Records. -/

theorem skipRecord_inv (r : DueRecord) (s : State) (hI : s.Inv) : (skipRecord r s).Inv := by
  unfold skipRecord
  repeat' first
    | with_reducible assumption | with_reducible apply State.updEmber_inv | with_reducible apply flagSession_inv
    | intro _ | split

theorem fillSeq_inv (op k seq : Nat) (s : State) (hI : s.Inv) : (fillSeq op k seq s).Inv := by
  unfold fillSeq
  repeat' first
    | with_reducible assumption | with_reducible apply State.updHost_inv | intro _
    | with_reducible apply State.ite_inv | split | with_reducible apply State.Inv.intro
    | with_reducible apply State.Inv.regs | with_reducible apply State.Inv.store
    | with_reducible apply State.Inv.flash | with_reducible apply State.Inv.frame
    | with_reducible apply State.Inv.mail | with_reducible apply State.Inv.queue
    | with_reducible apply State.Inv.flight | with_reducible apply Regs.wf_set | with_reducible apply Regs.wf_clear
    | with_reducible apply Regs.wf_clearIsland | with_reducible apply Regs.wf_reject
    | with_reducible apply Memory.wf_writeN | with_reducible apply Memory.wf_write
    | with_reducible apply Ember.wf_init | with_reducible apply Ember.wf_put
    | with_reducible apply Ember.wf_putCounter | with_reducible apply Ember.wf_dropMarker
    | with_reducible apply Ember.wf_markEntry | with_reducible apply Ember.wf_storeSig
    | with_reducible apply Ember.wf_putCfg | with_reducible apply Ember.wf_putFault
    | with_reducible apply Ember.wf_putJournal | with_reducible apply Ember.wf_foldl
    | with_reducible apply Faults.init_queue | with_reducible apply Damper.init_frame
    | with_reducible apply Damper.init_mail | with_reducible apply HostIf.init_flight | simp only [List.length_map]

theorem issueEffects_inv (r : DueRecord) (seq : Nat) (s : State) (hI : s.Inv) : (issueEffects r seq s).Inv := by
  unfold issueEffects
  repeat' first
    | with_reducible assumption | with_reducible apply State.updEmber_inv | with_reducible apply State.finishOpt_inv
    | with_reducible apply State.setSession_inv | with_reducible apply fillSeq_inv | intro _ | split
    | with_reducible apply State.Inv.intro | with_reducible apply State.Inv.regs
    | with_reducible apply State.Inv.store | with_reducible apply State.Inv.flash
    | with_reducible apply State.Inv.frame | with_reducible apply State.Inv.mail
    | with_reducible apply State.Inv.queue | with_reducible apply State.Inv.flight | with_reducible apply Regs.wf_set
    | with_reducible apply Regs.wf_clear | with_reducible apply Regs.wf_clearIsland
    | with_reducible apply Regs.wf_reject | with_reducible apply Memory.wf_writeN
    | with_reducible apply Memory.wf_write | with_reducible apply Ember.wf_init | with_reducible apply Ember.wf_put
    | with_reducible apply Ember.wf_putCounter | with_reducible apply Ember.wf_dropMarker
    | with_reducible apply Ember.wf_markEntry | with_reducible apply Ember.wf_storeSig
    | with_reducible apply Ember.wf_putCfg

theorem putRecord_inv (r : DueRecord) (s : State) (hI : s.Inv) : (putRecord r s).Inv := by
  unfold putRecord
  repeat' first
    | with_reducible assumption | with_reducible apply State.updEmber_inv | with_reducible apply issueEffects_inv
    | intro _ | with_reducible apply State.Inv.intro | with_reducible apply State.Inv.regs
    | with_reducible apply State.Inv.store | with_reducible apply State.Inv.flash
    | with_reducible apply State.Inv.frame | with_reducible apply State.Inv.mail
    | with_reducible apply State.Inv.queue | with_reducible apply State.Inv.flight | with_reducible apply Regs.wf_set
    | with_reducible apply Regs.wf_clear | with_reducible apply Regs.wf_clearIsland
    | with_reducible apply Regs.wf_reject | with_reducible apply Memory.wf_writeN
    | with_reducible apply Memory.wf_write | with_reducible apply Ember.wf_init | with_reducible apply Ember.wf_put
    | with_reducible apply Ember.wf_putCounter

theorem execRecordIssue_inv (s : State) (hI : s.Inv) : Keeps (execRecordIssue s) := by
  unfold execRecordIssue
  repeat' first
    | with_reducible assumption | with_reducible apply Keeps.next | with_reducible apply State.updEmber_inv
    | with_reducible apply skipRecord_inv | with_reducible apply putRecord_inv | intro _
    | with_reducible apply Keeps.ite | with_reducible apply State.ite_inv | split

theorem execRecordSigned_inv (s : State) (hI : s.Inv) : Keeps (execRecordSigned s) := by
  unfold execRecordSigned
  refine Keeps.ite (fun _ => ?_) (fun _ => Keeps.next hI)
  split
  · exact Keeps.next (State.getD_inv hI fun t e => post_inv _ _ _ _ hI e)
  · exact Keeps.next hI

theorem execBankingWrite_inv (cut : Option Nat) (s : State) (hI : s.Inv) : Keeps (execBankingWrite cut s) := by
  unfold execBankingWrite
  repeat' first
    | with_reducible assumption | with_reducible apply Keeps.next | with_reducible apply writeBank_inv | intro _
    | with_reducible apply Keeps.ite

theorem supplyTrigger_inv (cause : Nat) (s : State) (hI : s.Inv) : (supplyTrigger cause s).Inv := by
  unfold supplyTrigger
  repeat' first
    | with_reducible assumption | with_reducible apply abortPanels_inv | with_reducible apply triggerBank_inv
    | intro _ | with_reducible apply State.ite_inv

theorem execPfwN_inv (low : Bool) (s : State) (hI : s.Inv) : Keeps (execPfwN low s) := by
  unfold execPfwN
  repeat' first
    | with_reducible assumption | with_reducible apply Keeps.next | with_reducible apply supplyTrigger_inv | intro _
    | with_reducible apply Keeps.ite | with_reducible apply State.ite_inv | split
    | with_reducible apply State.Inv.intro | with_reducible apply State.Inv.regs
    | with_reducible apply State.Inv.store | with_reducible apply State.Inv.flash
    | with_reducible apply State.Inv.frame | with_reducible apply State.Inv.mail
    | with_reducible apply State.Inv.queue | with_reducible apply State.Inv.flight

theorem execPowerFailMonitor_inv (low : Bool) (s : State) (hI : s.Inv) : Keeps (execPowerFailMonitor low s) := by
  unfold execPowerFailMonitor
  repeat' first
    | with_reducible assumption | with_reducible apply Keeps.next | with_reducible apply supplyTrigger_inv | intro _
    | with_reducible apply Keeps.ite | with_reducible apply State.ite_inv | split
    | with_reducible apply State.Inv.intro | with_reducible apply State.Inv.regs
    | with_reducible apply State.Inv.store | with_reducible apply State.Inv.flash
    | with_reducible apply State.Inv.frame | with_reducible apply State.Inv.mail
    | with_reducible apply State.Inv.queue | with_reducible apply State.Inv.flight

theorem endWait_inv (s : State) (hI : s.Inv) : (endWait s).Inv := by
  unfold endWait
  repeat' first
    | with_reducible assumption | with_reducible apply enterMetrologyReset_inv | intro _
    | with_reducible apply State.Inv.intro | with_reducible apply State.Inv.regs
    | with_reducible apply State.Inv.store | with_reducible apply State.Inv.flash
    | with_reducible apply State.Inv.frame | with_reducible apply State.Inv.mail
    | with_reducible apply State.Inv.queue | with_reducible apply State.Inv.flight

theorem execMarkerWritten_inv (s : State) (hI : s.Inv) : Keeps (execMarkerWritten s) := by
  unfold execMarkerWritten
  repeat' first
    | with_reducible assumption | with_reducible apply Keeps.next | with_reducible apply State.updEmber_inv
    | with_reducible apply finalBank_inv | with_reducible apply writeMarker_inv | with_reducible apply enterReset_inv
    | with_reducible apply endWait_inv | intro _ | with_reducible apply Keeps.ite
    | with_reducible apply State.ite_inv | split | with_reducible apply State.Inv.intro
    | with_reducible apply State.Inv.regs | with_reducible apply State.Inv.store
    | with_reducible apply State.Inv.flash | with_reducible apply State.Inv.frame
    | with_reducible apply State.Inv.mail | with_reducible apply State.Inv.queue
    | with_reducible apply State.Inv.flight

theorem execFinalBankWaitTimeout_inv (s : State) (hI : s.Inv) : Keeps (execFinalBankWaitTimeout s) := by
  unfold execFinalBankWaitTimeout
  repeat' first
    | with_reducible assumption | with_reducible apply Keeps.next | with_reducible apply endWait_inv | intro _
    | with_reducible apply Keeps.ite | with_reducible apply State.ite_inv | split

theorem execPowerFailTriggerEnd_inv (s : State) (hI : s.Inv) : Keeps (execPowerFailTriggerEnd s) := by
  unfold execPowerFailTriggerEnd
  repeat' first
    | with_reducible assumption | with_reducible apply Keeps.next | with_reducible apply assertAt_inv | intro _
    | with_reducible apply Keeps.ite | with_reducible apply State.ite_inv | split

theorem execEmberLoRead_inv (off : Nat) (s : State) (hI : s.Inv) : Keeps (execEmberLoRead off s) := by
  unfold execEmberLoRead
  repeat' first
    | with_reducible assumption | with_reducible apply Keeps.next | with_reducible apply State.updEmber_inv
    | with_reducible apply State.readBack_inv | with_reducible apply readRow_inv | intro _
    | with_reducible apply Keeps.ite | with_reducible apply State.ite_inv

theorem execEmberRdDataRead_inv (s : State) (hI : s.Inv) : Keeps (execEmberRdDataRead s) := by
  unfold execEmberRdDataRead
  repeat' first
    | with_reducible assumption | with_reducible apply Keeps.next | with_reducible apply State.putField_inv
    | with_reducible apply State.readBack_inv | with_reducible apply readRow_inv | intro _

/-! Rings. -/

theorem State.updSq_inv (s : State) (n : Nat) (f : SqRing → SqRing) (hI : s.Inv) : (State.updSq s n f).Inv := by
  unfold State.updSq
  repeat' first | with_reducible assumption | with_reducible apply State.updHost_inv | intro _

theorem State.updOq_inv (s : State) (m : Nat) (f : OqRing → OqRing) (hI : s.Inv) : (State.updOq s m f).Inv := by
  unfold State.updOq
  repeat' first | with_reducible assumption | with_reducible apply State.updHost_inv | intro _

theorem ringMessage_inv (m : Nat) (s : State) (hI : s.Inv) : (ringMessage m s).Inv := by
  unfold ringMessage
  repeat' first
    | with_reducible assumption | with_reducible apply State.raiseVector_inv | with_reducible apply State.updOq_inv

theorem announce_inv (m : Nat) (s : State) (hI : s.Inv) : (announce m s).Inv := by
  unfold announce
  repeat' first
    | with_reducible assumption | with_reducible apply ringMessage_inv | intro _ | with_reducible apply State.ite_inv

theorem execCoalTimeExpiry_inv (m : Fin 11) (s : State) (hI : s.Inv) : Keeps (execCoalTimeExpiry m s) := by
  unfold execCoalTimeExpiry
  repeat' first
    | with_reducible assumption | with_reducible apply Keeps.next | with_reducible apply State.updOq_inv
    | with_reducible apply announce_inv | intro _ | with_reducible apply Keeps.ite

theorem flushVectors_inv (s : State) (hI : s.Inv) : (flushVectors s).Inv := by
  unfold flushVectors
  repeat' first
    | with_reducible assumption | with_reducible apply State.updHost_inv | with_reducible apply State.raiseVector_inv
    | with_reducible apply State.foldl_inv | intro _ _ _ | intro _ | with_reducible apply State.ite_inv

theorem placeEntry_inv (m : Nat) (counted : Bool) (bs : List Byte) (s : State) (hI : s.Inv) : (placeEntry m counted
  bs s).Inv := by
  unfold placeEntry
  repeat' first
    | with_reducible assumption | with_reducible apply State.dmaWrite_inv | with_reducible apply State.updOq_inv
    | with_reducible apply announce_inv

theorem ringFault_inv (m : Nat) (s : State) (hI : s.Inv) : (ringFault m s).Inv := by
  unfold ringFault
  repeat' first
    | with_reducible assumption | with_reducible apply State.setReg_inv | with_reducible apply transferError_inv
    | with_reducible apply State.setFlag_inv

theorem tryEntry_inv (m : Nat) (ok counted : Bool) (bs : Bool → List Byte) (after : State → State) (s : State)
  (hafter : ∀ x, x.Inv → (after x).Inv) (hI : s.Inv) : (tryEntry m ok counted bs after s).Inv := by
  unfold tryEntry
  repeat' first
    | with_reducible assumption | with_reducible apply hafter | with_reducible apply placeEntry_inv
    | with_reducible apply ringFault_inv | intro _ | with_reducible apply State.ite_inv

theorem execRingEnable_inv (sub : Bool) (n : Fin 11) (v : Word) (s : State) (hI : s.Inv) : Keeps (execRingEnable sub
  n v s) := by
  unfold execRingEnable
  repeat' first
    | with_reducible assumption | with_reducible apply Keeps.next | with_reducible apply State.setFlag_inv
    | with_reducible apply State.updHost_inv | with_reducible apply writeReg_inv
    | with_reducible apply State.updSq_inv | with_reducible apply State.updOq_inv | intro _
    | with_reducible apply Keeps.ite | with_reducible apply State.ite_inv

theorem execSqDisable_inv (n : Fin 8) (v : Word) (s : State) (hI : s.Inv) : Keeps (execSqDisable n v s) := by
  unfold execSqDisable
  repeat' first
    | with_reducible assumption | with_reducible apply Keeps.next | with_reducible apply State.setReg_inv
    | with_reducible apply writeReg_inv | with_reducible apply State.updSq_inv | intro _
    | with_reducible apply Keeps.ite

theorem execOqDisable_inv (m : Fin 11) (v : Word) (s : State) (hI : s.Inv) : Keeps (execOqDisable m v s) := by
  unfold execOqDisable
  repeat' first
    | with_reducible assumption | with_reducible apply Keeps.next | with_reducible apply State.setReg_inv
    | with_reducible apply endCaptures_inv | with_reducible apply writeReg_inv | intro _
    | with_reducible apply Keeps.ite | with_reducible apply State.ite_inv | split
    | with_reducible apply State.Inv.intro | with_reducible apply State.Inv.regs
    | with_reducible apply State.Inv.store | with_reducible apply State.Inv.flash
    | with_reducible apply State.Inv.frame | with_reducible apply State.Inv.mail
    | with_reducible apply State.Inv.queue | with_reducible apply State.Inv.flight | with_reducible apply Regs.wf_set
    | with_reducible apply Regs.wf_clear | with_reducible apply Regs.wf_clearIsland
    | with_reducible apply Regs.wf_reject

theorem execSqTailDoorbell_inv (n : Fin 8) (be : BitVec 4) (v : Word) (s : State) (hI : s.Inv) :
    Keeps (execSqTailDoorbell n be v s) := by
  unfold execSqTailDoorbell
  repeat' first
    | with_reducible assumption | with_reducible apply Keeps.next | with_reducible apply State.hostErrs_inv
    | with_reducible apply State.updSq_inv | with_reducible apply State.updHost_inv | intro _
    | with_reducible apply Keeps.ite

theorem postAck_inv (seq : Nat) (s : State) (hI : s.Inv) : (postAck seq s).Inv := by
  unfold postAck
  split
  · rename_i t h
    split at h
    · exact State.updHost_inv (post_inv _ _ _ _ hI h) id
    · cases h
  · exact State.updHost_inv hI id

theorem consumeRcq_inv (count : Nat) (s : State) (hI : s.Inv) : (consumeRcq count s).Inv := by
  unfold consumeRcq
  repeat' first
    | with_reducible assumption | with_reducible apply State.updHost_inv | with_reducible apply postAck_inv | intro _
    | split

theorem consumeEvq_inv (count : Nat) (s : State) (hI : s.Inv) : (consumeEvq count s).Inv := by
  unfold consumeEvq
  repeat' first
    | with_reducible assumption | intro _ | split | with_reducible apply State.Inv.intro
    | with_reducible apply State.Inv.regs | with_reducible apply State.Inv.store
    | with_reducible apply State.Inv.flash | with_reducible apply State.Inv.frame
    | with_reducible apply State.Inv.mail | with_reducible apply State.Inv.queue
    | with_reducible apply State.Inv.flight

theorem execHeadDoorbell_inv (m : Fin 11) (be : BitVec 4) (v : Word) (s : State) (hI : s.Inv) :
    Keeps (execHeadDoorbell m be v s) := by
  unfold execHeadDoorbell
  repeat' first
    | with_reducible assumption | with_reducible apply Keeps.next | with_reducible apply State.hostErrs_inv
    | with_reducible apply State.updOq_inv | with_reducible apply consumeRcq_inv
    | with_reducible apply consumeEvq_inv | with_reducible apply announce_inv | intro _
    | with_reducible apply Keeps.ite | with_reducible apply State.ite_inv

theorem fetchFault_inv (n : Nat) (s : State) (hI : s.Inv) : (fetchFault n s).Inv := by
  unfold fetchFault
  repeat' first
    | with_reducible assumption | with_reducible apply State.setReg_inv | with_reducible apply State.updSq_inv
    | with_reducible apply transferError_inv | with_reducible apply State.setFlag_inv

theorem judgeFetched_inv (ord : Nat) (s : State) (hI : s.Inv) : (judgeFetched ord s).Inv := by
  unfold judgeFetched
  repeat' first
    | with_reducible assumption | with_reducible apply State.finishStatic_inv | intro _
    | with_reducible apply State.ite_inv | split

theorem execDescriptorFetch_inv (buf : HostRead) (s : State) (hI : s.Inv) : Keeps (execDescriptorFetch buf s) := by
  unfold execDescriptorFetch
  refine Keeps.ite (fun _ => Keeps.next hI) (fun hc => ?_)
  have hl : s.host.inflight.length < 64 := by
    simp only [ringsServed, Bool.not_eq_true, Bool.not_eq_false', Bool.and_eq_true, decide_eq_true_eq] at hc
    exact hc.2
  split
  · exact Keeps.next hI
  · dsimp only
    split
    · refine Keeps.next (judgeFetched_inv _ _ (State.Inv.intro hI.regs hI.store hI.flash hI.frame hI.mail hI.queue ?_))
      show (s.host.inflight ++ [_]).length ≤ 64
      rw [List.length_append]
      exact hl
    · exact Keeps.next (fetchFault_inv _ _ (State.updHost_inv hI id))

theorem cancelPrior_inv (d : Inflight) (c : Completion) (s : State) (hI : s.Inv) : (cancelPrior d c s).Inv := by
  unfold cancelPrior
  repeat' first
    | with_reducible assumption | with_reducible apply State.updHost_inv | intro _
    | with_reducible apply State.ite_inv | split | with_reducible apply State.Inv.intro
    | with_reducible apply State.Inv.regs | with_reducible apply State.Inv.store
    | with_reducible apply State.Inv.flash | with_reducible apply State.Inv.frame
    | with_reducible apply State.Inv.mail | with_reducible apply State.Inv.queue
    | with_reducible apply State.Inv.flight | with_reducible apply Regs.wf_set | with_reducible apply Regs.wf_clear
    | with_reducible apply Regs.wf_clearIsland | with_reducible apply Regs.wf_reject
    | with_reducible apply Memory.wf_writeN | with_reducible apply Memory.wf_write
    | with_reducible apply Ember.wf_init | with_reducible apply Ember.wf_put
    | with_reducible apply Ember.wf_putCounter | with_reducible apply Ember.wf_dropMarker
    | with_reducible apply Ember.wf_markEntry | with_reducible apply Ember.wf_storeSig
    | with_reducible apply Ember.wf_putCfg | with_reducible apply Ember.wf_putFault
    | with_reducible apply Ember.wf_putJournal | with_reducible apply Ember.wf_foldl
    | with_reducible apply Faults.init_queue | with_reducible apply Damper.init_frame
    | with_reducible apply Damper.init_mail | with_reducible apply HostIf.init_flight | simp only [List.length_map]

theorem ctlPause_inv (s : State) (hI : s.Inv) : (ctlPause s).Inv := by
  unfold ctlPause
  repeat' first
    | with_reducible assumption | with_reducible apply State.setReg_inv | with_reducible apply State.setIsland_inv
    | with_reducible apply State.updHost_inv | with_reducible apply clearIsland_inv
    | with_reducible apply activateSlot_inv | intro _ | with_reducible apply State.ite_inv | split
    | with_reducible apply State.Inv.intro | with_reducible apply State.Inv.regs
    | with_reducible apply State.Inv.store | with_reducible apply State.Inv.flash
    | with_reducible apply State.Inv.frame | with_reducible apply State.Inv.mail
    | with_reducible apply State.Inv.queue | with_reducible apply State.Inv.flight

theorem afterCompletion_inv (d : Inflight) (c : Completion) (s : State) (hI : s.Inv) : (afterCompletion d c s).Inv :=
  by
  unfold afterCompletion
  repeat' first
    | with_reducible assumption | with_reducible apply assertAt_inv | with_reducible apply cancelPrior_inv
    | with_reducible apply ctlPause_inv | intro _ | with_reducible apply State.ite_inv | split
    | with_reducible apply State.Inv.intro | with_reducible apply State.Inv.regs
    | with_reducible apply State.Inv.store | with_reducible apply State.Inv.flash
    | with_reducible apply State.Inv.frame | with_reducible apply State.Inv.mail
    | with_reducible apply State.Inv.queue | with_reducible apply State.Inv.flight

theorem writeCompletion_inv (ord : Nat) (ok : Bool) (s : State) (hI : s.Inv) : (writeCompletion ord ok s).Inv := by
  unfold writeCompletion
  repeat' first
    | with_reducible assumption | with_reducible apply State.updHost_inv | with_reducible apply tryEntry_inv
    | with_reducible apply afterCompletion_inv | intro _ | with_reducible apply State.ite_inv | split
    | with_reducible apply State.Inv.intro | with_reducible apply State.Inv.regs
    | with_reducible apply State.Inv.store | with_reducible apply State.Inv.flash
    | with_reducible apply State.Inv.frame | with_reducible apply State.Inv.mail
    | with_reducible apply State.Inv.queue | with_reducible apply State.Inv.flight | with_reducible apply Regs.wf_set
    | with_reducible apply Regs.wf_clear | with_reducible apply Regs.wf_clearIsland
    | with_reducible apply Regs.wf_reject | with_reducible apply Memory.wf_writeN
    | with_reducible apply Memory.wf_write | with_reducible apply Ember.wf_init | with_reducible apply Ember.wf_put
    | with_reducible apply Ember.wf_putCounter | with_reducible apply Ember.wf_dropMarker
    | with_reducible apply Ember.wf_markEntry | with_reducible apply Ember.wf_storeSig
    | with_reducible apply Ember.wf_putCfg | with_reducible apply Ember.wf_putFault
    | with_reducible apply Ember.wf_putJournal | with_reducible apply Ember.wf_foldl
    | with_reducible apply Faults.init_queue | with_reducible apply Damper.init_frame
    | with_reducible apply Damper.init_mail | with_reducible apply HostIf.init_flight
    | refine Nat.le_trans (List.length_filter_le _ _) ?_

theorem execCompletionWrite_inv (ord : Nat) (ok : Bool) (s : State) (hI : s.Inv) : Keeps (execCompletionWrite ord ok
  s) := by
  unfold execCompletionWrite
  repeat' first
    | with_reducible assumption | with_reducible apply Keeps.next | with_reducible apply writeCompletion_inv

theorem execResetRequest_inv (ord : Nat) (s : State) (hI : s.Inv) : Keeps (execResetRequest ord s) := by
  unfold execResetRequest
  repeat' first
    | with_reducible assumption | with_reducible apply Keeps.next | with_reducible apply State.finishOk_inv
    | with_reducible apply withDescriptor_inv | with_reducible apply writeCompletion_inv
    | with_reducible apply State.foldl_inv | intro _ _ _ | intro _

theorem execNop_inv (ord : Nat) (s : State) (hI : s.Inv) : Keeps (execNop ord s) := by
  unfold execNop
  repeat' first
    | with_reducible assumption | with_reducible apply Keeps.next | with_reducible apply State.finishOk_inv
    | with_reducible apply withDescriptor_inv | intro _

theorem execReadPoint_inv (ord : Nat) (ok : Bool) (s : State) (hI : s.Inv) : Keeps (execReadPoint ord ok s) := by
  unfold execReadPoint
  repeat' first
    | with_reducible assumption | with_reducible apply Keeps.next | with_reducible apply withBuffer_inv
    | with_reducible apply writeBuffer_inv | intro _

theorem execReadTotals_inv (ord : Nat) (ok : Bool) (s : State) (hI : s.Inv) : Keeps (execReadTotals ord ok s) := by
  unfold execReadTotals
  repeat' first
    | with_reducible assumption | with_reducible apply Keeps.next | with_reducible apply withBuffer_inv
    | with_reducible apply writeBuffer_inv | intro _ | with_reducible apply Keeps.ite
    | with_reducible apply State.ite_inv

theorem execEvqEntryWrite_inv (ok : Bool) (s : State) (hI : s.Inv) : Keeps (execEvqEntryWrite ok s) := by
  unfold execEvqEntryWrite
  repeat' first
    | with_reducible assumption | with_reducible apply Keeps.next | with_reducible apply State.updHost_inv
    | with_reducible apply tryEntry_inv | intro _ | with_reducible apply Keeps.ite
    | with_reducible apply State.ite_inv | split | with_reducible apply State.Inv.intro
    | with_reducible apply State.Inv.regs | with_reducible apply State.Inv.store
    | with_reducible apply State.Inv.flash | with_reducible apply State.Inv.frame
    | with_reducible apply State.Inv.mail | with_reducible apply State.Inv.queue
    | with_reducible apply State.Inv.flight | with_reducible apply Regs.wf_set | with_reducible apply Regs.wf_clear
    | with_reducible apply Regs.wf_clearIsland | with_reducible apply Regs.wf_reject
    | with_reducible apply Memory.wf_writeN | with_reducible apply Memory.wf_write
    | with_reducible apply Ember.wf_init | with_reducible apply Ember.wf_put
    | with_reducible apply Ember.wf_putCounter | with_reducible apply Ember.wf_dropMarker
    | with_reducible apply Ember.wf_markEntry | with_reducible apply Ember.wf_storeSig
    | with_reducible apply Ember.wf_putCfg | with_reducible apply Ember.wf_putFault
    | with_reducible apply Ember.wf_putJournal | with_reducible apply Ember.wf_foldl
    | with_reducible apply Faults.init_queue | with_reducible apply Damper.init_frame
    | with_reducible apply Damper.init_mail | with_reducible apply HostIf.init_flight | dsimp only

theorem execRcqEntryWrite_inv (ok : Bool) (s : State) (hI : s.Inv) : Keeps (execRcqEntryWrite ok s) := by
  unfold execRcqEntryWrite
  repeat' first
    | with_reducible assumption | with_reducible apply Keeps.next | with_reducible apply State.updHost_inv
    | with_reducible apply tryEntry_inv | intro _ | with_reducible apply Keeps.ite

theorem execCapqEntryWrite_inv (ok : Bool) (s : State) (hI : s.Inv) : Keeps (execCapqEntryWrite ok s) := by
  unfold execCapqEntryWrite
  repeat' first
    | with_reducible assumption | with_reducible apply Keeps.next | with_reducible apply State.updHost_inv
    | with_reducible apply State.finishOk_inv | with_reducible apply tryEntry_inv | intro _ | split

theorem execInflightPeakRead_inv (s : State) (hI : s.Inv) : Keeps (execInflightPeakRead s) := by
  unfold execInflightPeakRead
  repeat' first
    | with_reducible assumption | with_reducible apply Keeps.next | with_reducible apply State.updHost_inv
    | with_reducible apply State.readBack_inv | with_reducible apply readRow_inv | intro _

theorem execPcieLinkUp_inv (speed width : Nat) (s : State) (hI : s.Inv) : Keeps (execPcieLinkUp speed width s) := by
  unfold execPcieLinkUp
  repeat' first
    | with_reducible assumption | with_reducible apply Keeps.next | with_reducible apply payOwed_inv
    | with_reducible apply State.raiseVector_inv | intro _ | with_reducible apply Keeps.ite
    | with_reducible apply State.ite_inv | split | dsimp only | with_reducible apply State.Inv.intro
    | with_reducible apply State.Inv.regs | with_reducible apply State.Inv.store
    | with_reducible apply State.Inv.flash | with_reducible apply State.Inv.frame
    | with_reducible apply State.Inv.mail | with_reducible apply State.Inv.queue
    | with_reducible apply State.Inv.flight

theorem execPcieLinkDown_inv (s : State) (hI : s.Inv) : Keeps (execPcieLinkDown s) := by
  unfold execPcieLinkDown
  repeat' first
    | with_reducible assumption | with_reducible apply Keeps.next | intro _ | with_reducible apply Keeps.ite
    | with_reducible apply State.ite_inv | split | with_reducible apply State.Inv.intro
    | with_reducible apply State.Inv.regs | with_reducible apply State.Inv.store
    | with_reducible apply State.Inv.flash | with_reducible apply State.Inv.frame
    | with_reducible apply State.Inv.mail | with_reducible apply State.Inv.queue
    | with_reducible apply State.Inv.flight

theorem execBusMasterEnable_inv (on : Bool) (s : State) (hI : s.Inv) : Keeps (execBusMasterEnable on s) := by
  unfold execBusMasterEnable
  repeat' first
    | with_reducible assumption | with_reducible apply Keeps.next | with_reducible apply payOwed_inv
    | with_reducible apply flushVectors_inv | with_reducible apply State.updHost_inv | intro _
    | with_reducible apply Keeps.ite

theorem execD3hot_inv (on : Bool) (s : State) (hI : s.Inv) : Keeps (execD3hot on s) := by
  unfold execD3hot
  repeat' first
    | with_reducible assumption | with_reducible apply Keeps.next | with_reducible apply State.updHost_inv | intro _
    | with_reducible apply Keeps.ite

/-! Beat. -/

theorem endHearth_inv (g : Image) (refs : Vector Nat 8) (beat : Nat) (metro : Bool) (s : State) (h : Nat) (hI :
  s.Inv) : (endHearth g refs beat metro s h).Inv := by
  unfold endHearth
  repeat' first
    | with_reducible assumption | with_reducible apply State.setFlag_inv | with_reducible apply State.updHearth_inv
    | with_reducible apply reportFault_inv | with_reducible apply witnessEvents_inv | intro _
    | with_reducible apply State.ite_inv | split

theorem closePoint_inv (g : Image) (s : State) (p : Nat) (hI : s.Inv) : (closePoint g s p).Inv := by
  unfold closePoint
  repeat' first | with_reducible assumption | with_reducible apply State.updPoint_inv

theorem flagPoint_inv (s : State) (p : Nat) (hI : s.Inv) : (flagPoint s p).Inv := by
  unfold flagPoint
  repeat' first | with_reducible assumption | with_reducible apply flagSession_inv | intro _ | split

theorem publishHearth_inv (g : Image) (s : State) (hI : s.Inv) : (publishHearth g s).Inv := by
  unfold publishHearth
  repeat' first
    | with_reducible assumption | intro _ | with_reducible apply State.ite_inv | split
    | with_reducible apply State.Inv.intro | with_reducible apply State.Inv.regs
    | with_reducible apply State.Inv.store | with_reducible apply State.Inv.flash
    | with_reducible apply State.Inv.frame | with_reducible apply State.Inv.mail
    | with_reducible apply State.Inv.queue | with_reducible apply State.Inv.flight

theorem endBeat_inv (g : Image) (refs : Vector Nat 8) (s : State) (hI : s.Inv) : (endBeat g refs s).Inv := by
  unfold endBeat
  repeat' first
    | with_reducible assumption | with_reducible apply endHearth_inv | with_reducible apply closePoint_inv
    | with_reducible apply judgeDc_inv | with_reducible apply rollSessions_inv | with_reducible apply flagPoint_inv
    | with_reducible apply publishHearth_inv | with_reducible apply State.foldl_inv | intro _ _ _ | intro _
    | with_reducible apply State.ite_inv | split | dsimp only | with_reducible apply State.Inv.intro
    | with_reducible apply State.Inv.regs | with_reducible apply State.Inv.store
    | with_reducible apply State.Inv.flash | with_reducible apply State.Inv.frame
    | with_reducible apply State.Inv.mail | with_reducible apply State.Inv.queue
    | with_reducible apply State.Inv.flight

theorem nextBeat_inv (s : State) (hI : s.Inv) : (nextBeat s).Inv := by
  unfold nextBeat
  repeat' first
    | with_reducible assumption | with_reducible apply State.updDamper_inv | intro _
    | with_reducible apply State.Inv.intro | with_reducible apply State.Inv.regs
    | with_reducible apply State.Inv.store | with_reducible apply State.Inv.flash
    | with_reducible apply State.Inv.frame | with_reducible apply State.Inv.mail
    | with_reducible apply State.Inv.queue | with_reducible apply State.Inv.flight | with_reducible apply Regs.wf_set
    | with_reducible apply Regs.wf_clear | with_reducible apply Regs.wf_clearIsland
    | with_reducible apply Regs.wf_reject | with_reducible apply Memory.wf_writeN
    | with_reducible apply Memory.wf_write | with_reducible apply Ember.wf_init | with_reducible apply Ember.wf_put
    | with_reducible apply Ember.wf_putCounter | with_reducible apply Ember.wf_dropMarker
    | with_reducible apply Ember.wf_markEntry | with_reducible apply Ember.wf_storeSig
    | with_reducible apply Ember.wf_putCfg | with_reducible apply Ember.wf_putFault
    | with_reducible apply Ember.wf_putJournal | with_reducible apply Ember.wf_foldl
    | with_reducible apply Faults.init_queue | with_reducible apply Damper.init_frame
    | with_reducible apply Damper.init_mail | with_reducible apply HostIf.init_flight | dsimp only | assumption
    | omega

theorem switchPoint_inv (a b : Image) (s : State) (p : Nat) (hI : s.Inv) : (switchPoint a b s p).Inv := by
  unfold switchPoint
  repeat' first
    | with_reducible assumption | with_reducible apply State.updPoint_inv | intro _
    | with_reducible apply State.ite_inv | split | with_reducible apply State.Inv.intro
    | with_reducible apply State.Inv.regs | with_reducible apply State.Inv.store
    | with_reducible apply State.Inv.flash | with_reducible apply State.Inv.frame
    | with_reducible apply State.Inv.mail | with_reducible apply State.Inv.queue
    | with_reducible apply State.Inv.flight

theorem switchHearth_inv (a b : Image) (beat : Nat) (s : State) (h : Nat) (hI : s.Inv) : (switchHearth a b beat s
  h).Inv := by
  unfold switchHearth
  repeat' first | with_reducible assumption | with_reducible apply State.updHearth_inv

theorem switchEngine_inv (a b : Image) (s : State) (h : Nat) (hI : s.Inv) : (switchEngine a b s h).Inv := by
  unfold switchEngine
  repeat' first
    | with_reducible assumption | with_reducible apply State.updChain_inv | with_reducible apply engineStart_inv
    | with_reducible apply chainStart_inv | with_reducible apply restartHarm_inv
    | with_reducible apply State.foldl_inv | intro _ _ _ | intro _ | with_reducible apply State.ite_inv

theorem switchSpectral_inv (a b : Image) (beat : Nat) (s : State) (hI : s.Inv) : (switchSpectral a b beat s).Inv := by
  unfold switchSpectral
  repeat' first
    | with_reducible assumption | intro _ | with_reducible apply State.ite_inv | split
    | with_reducible apply State.Inv.intro | with_reducible apply State.Inv.regs
    | with_reducible apply State.Inv.store | with_reducible apply State.Inv.flash
    | with_reducible apply State.Inv.frame | with_reducible apply State.Inv.mail
    | with_reducible apply State.Inv.queue | with_reducible apply State.Inv.flight

theorem switchImage_inv (new : Image) (beat : Nat) (s : State) (hI : s.Inv) : (switchImage new beat s).Inv := by
  unfold switchImage
  repeat' first
    | with_reducible assumption | with_reducible apply State.updDamper_inv | with_reducible apply setImageSlot_inv
    | with_reducible apply setMreg_inv | with_reducible apply switchHearth_inv
    | with_reducible apply switchEngine_inv | with_reducible apply truncateEvents_inv
    | with_reducible apply switchPoint_inv | with_reducible apply State.updPulse_inv
    | with_reducible apply switchLink_inv | with_reducible apply captureSwap_inv
    | with_reducible apply switchSpectral_inv | with_reducible apply State.foldl_inv | intro _ _ _ | intro _
    | with_reducible apply State.ite_inv

theorem decideActivation_inv (s : State) (hI : s.Inv) : (decideActivation s).Inv := by
  unfold decideActivation
  repeat' first
    | with_reducible assumption | with_reducible apply State.putField_inv | with_reducible apply State.updDamper_inv
    | with_reducible apply State.finishOpt_inv | with_reducible apply switchImage_inv | intro _ | split
    | with_reducible apply State.Inv.intro | with_reducible apply State.Inv.regs
    | with_reducible apply State.Inv.store | with_reducible apply State.Inv.flash
    | with_reducible apply State.Inv.frame | with_reducible apply State.Inv.mail
    | with_reducible apply State.Inv.queue | with_reducible apply State.Inv.flight

theorem swapRecords_inv (s : State) (hI : s.Inv) : (swapRecords s).Inv := by
  unfold swapRecords
  repeat' first
    | with_reducible assumption | with_reducible apply flagSession_inv | with_reducible apply addDue_inv
    | with_reducible apply State.foldl_inv | intro _ _ _ | intro _ | split

theorem latchTimeBase_inv (s : State) (hI : s.Inv) : (latchTimeBase s).Inv := by
  unfold latchTimeBase
  repeat' first
    | with_reducible assumption | intro _ | with_reducible apply State.Inv.intro
    | with_reducible apply State.Inv.regs | with_reducible apply State.Inv.store
    | with_reducible apply State.Inv.flash | with_reducible apply State.Inv.frame
    | with_reducible apply State.Inv.mail | with_reducible apply State.Inv.queue
    | with_reducible apply State.Inv.flight

theorem takeNotice_inv (s : State) (hI : s.Inv) : (takeNotice s).Inv := by
  unfold takeNotice
  repeat' first
    | with_reducible assumption | with_reducible apply flagSession_inv | with_reducible apply addDue_inv
    | with_reducible apply State.foldl_inv | intro _ _ _ | intro _ | split | with_reducible apply State.Inv.intro
    | with_reducible apply State.Inv.regs | with_reducible apply State.Inv.store
    | with_reducible apply State.Inv.flash | with_reducible apply State.Inv.frame
    | with_reducible apply State.Inv.mail | with_reducible apply State.Inv.queue
    | with_reducible apply State.Inv.flight

theorem flagTimeSet_inv (taken : Bool) (s : State) (hI : s.Inv) : (flagTimeSet taken s).Inv := by
  unfold flagTimeSet
  repeat' first
    | with_reducible assumption | with_reducible apply flagSession_inv | with_reducible apply State.foldl_inv
    | intro _ _ _ | intro _ | with_reducible apply State.ite_inv

theorem armPoint_inv (s : State) (p : Nat) (hI : s.Inv) : (armPoint s p).Inv := by
  unfold armPoint
  repeat' first
    | with_reducible assumption | with_reducible apply State.updPoint_inv | intro _
    | with_reducible apply State.ite_inv

theorem latchLegal_inv (s : State) (hI : s.Inv) : (latchLegal s).Inv := by
  unfold latchLegal
  repeat' first | with_reducible assumption | with_reducible apply State.updEmber_inv | intro _

theorem recoverFlue_inv (s : State) (hI : s.Inv) : (recoverFlue s).Inv := by
  unfold recoverFlue
  repeat' first
    | with_reducible assumption | with_reducible apply State.setIsland_inv | with_reducible apply engineStart_inv
    | with_reducible apply restartHarm_inv | with_reducible apply State.foldl_inv | intro _ _ _ | intro _
    | with_reducible apply State.ite_inv | split | with_reducible apply State.Inv.intro
    | with_reducible apply State.Inv.regs | with_reducible apply State.Inv.store
    | with_reducible apply State.Inv.flash | with_reducible apply State.Inv.frame
    | with_reducible apply State.Inv.mail | with_reducible apply State.Inv.queue
    | with_reducible apply State.Inv.flight

theorem endHold_inv (s : State) (hI : s.Inv) : (endHold s).Inv := by
  unfold endHold
  repeat' first
    | with_reducible assumption | with_reducible apply State.finishOpt_inv | with_reducible apply engineStart_inv
    | with_reducible apply restartHarm_inv | with_reducible apply State.foldl_inv | intro _ _ _ | intro _
    | with_reducible apply State.ite_inv | split | with_reducible apply State.Inv.intro
    | with_reducible apply State.Inv.regs | with_reducible apply State.Inv.store
    | with_reducible apply State.Inv.flash | with_reducible apply State.Inv.frame
    | with_reducible apply State.Inv.mail | with_reducible apply State.Inv.queue
    | with_reducible apply State.Inv.flight

theorem ackLate_inv (s : State) (hI : s.Inv) : (ackLate s).Inv := by
  unfold ackLate
  repeat' first
    | with_reducible assumption | with_reducible apply postAck_inv | intro _ | with_reducible apply State.ite_inv
    | split

theorem applyMailbox_inv (n : Nat) (s : State) (hI : s.Inv) : (applyMailbox n s).Inv := by
  induction n generalizing s with
  | zero => exact hI
  | succ n ih =>
    unfold applyMailbox
    split
    · exact hI
    · rename_i m rest hm
      refine State.ite_inv (fun _ => hI) (fun _ => ih _ (applyEntry_inv _ _ (State.updDamper_inv hI fun h => ⟨h.1, ?_⟩)))
      have := h.2
      rw [hm] at this
      exact Nat.le_of_succ_le this

theorem beginBeat_inv (round : Bool) (s : State) (hI : s.Inv) : (beginBeat round s).Inv := by
  unfold beginBeat
  dsimp only
  exact checkFwChange_inv _ (flagTimeSet_inv _ _ (sessionBoundary_inv _ (State.foldl_inv (ackLate_inv _ (applyMailbox_inv _ _
    (takeNotice_inv _ (swapRecords_inv _ (beginEpoch_inv _ (latchLegal_inv _
      (State.ite_inv (fun _ => decideActivation_inv _ hI) fun _ => hI))))))) fun s p h => armPoint_inv _ _ h)))

theorem boundary_inv (round : Bool) (refs : Vector Nat 8) (s : State) (hI : s.Inv) : (boundary round refs s).Inv := by
  unfold boundary
  repeat' first
    | with_reducible assumption | with_reducible apply endHold_inv | with_reducible apply nextBeat_inv
    | with_reducible apply endBeat_inv | with_reducible apply beginBeat_inv | with_reducible apply recoverFlue_inv
    | with_reducible apply renderAll_inv | with_reducible apply latchTimeBase_inv | intro _
    | with_reducible apply State.ite_inv

theorem execBeatBoundary_inv (refs : Vector Nat 8) (s : State) (hI : s.Inv) : Keeps (execBeatBoundary refs s) := by
  unfold execBeatBoundary
  repeat' first | with_reducible assumption | with_reducible apply Keeps.next | with_reducible apply boundary_inv

theorem execRoundBoundary_inv (refs : Vector Nat 8) (s : State) (hI : s.Inv) : Keeps (execRoundBoundary refs s) := by
  unfold execRoundBoundary
  repeat' first | with_reducible assumption | with_reducible apply Keeps.next | with_reducible apply boundary_inv

theorem feedPulses_inv (incs : List (Vector Nat 9)) (s : State) (hI : s.Inv) : (feedPulses incs s).Inv := by
  unfold feedPulses
  repeat' first
    | with_reducible assumption | with_reducible apply State.updPulse_inv | with_reducible apply State.foldl_inv
    | intro _ _ _ | intro _ | with_reducible apply State.ite_inv

theorem publishSessions_inv (g : Image) (incs : List (Vector Nat 9)) (s : State) (hI : s.Inv) : (publishSessions g
  incs s).Inv := by
  unfold publishSessions
  repeat' first
    | with_reducible assumption | with_reducible apply judgeCurrent_inv | with_reducible apply State.foldl_inv
    | intro _ _ _ | intro _ | with_reducible apply State.Inv.intro | with_reducible apply State.Inv.regs
    | with_reducible apply State.Inv.store | with_reducible apply State.Inv.flash
    | with_reducible apply State.Inv.frame | with_reducible apply State.Inv.mail
    | with_reducible apply State.Inv.queue | with_reducible apply State.Inv.flight

theorem flipViews_inv (beat : Nat) (s : State) (hI : s.Inv) : (flipViews beat s).Inv := by
  unfold flipViews
  repeat' first
    | with_reducible assumption | with_reducible apply State.updEmber_inv | intro _
    | with_reducible apply State.ite_inv | split | with_reducible apply State.Inv.intro
    | with_reducible apply State.Inv.regs | with_reducible apply State.Inv.store
    | with_reducible apply State.Inv.flash | with_reducible apply State.Inv.frame
    | with_reducible apply State.Inv.mail | with_reducible apply State.Inv.queue
    | with_reducible apply State.Inv.flight

theorem completeRecords_inv (s : State) (hI : s.Inv) : (completeRecords s).Inv := by
  unfold completeRecords
  repeat' first | with_reducible assumption | with_reducible apply fillRecords_inv

theorem publishPoint_inv (g : Image) (beat p : Nat) (s : State) (hI : s.Inv) : (publishPoint g beat p s).1.Inv := by
  unfold publishPoint
  dsimp only
  split
  · exact State.updPoint_inv _ _ _ hI
  · exact State.updPoint_inv _ _ _ hI

theorem publishPoints_inv (g : Image) (beat : Nat) (s : State) (hI : s.Inv) : (publishPoints g beat s).1.Inv := by
  unfold publishPoints
  generalize List.range 32 = l
  suffices ∀ (x : State × List (Vector Nat 9)), x.1.Inv → (l.foldl _ x).1.Inv from this _ hI
  induction l with
  | nil => intro x h; exact h
  | cons p l ih =>
    intro x h
    refine ih _ ?_
    dsimp only
    exact State.ite_inv (fun _ => State.setFlag_inv _ _ _ (State.ite_inv (fun _ => State.setFlag_inv _ _ _ (publishPoint_inv _ _ _ _ h))
      fun _ => publishPoint_inv _ _ _ _ h)) fun _ => State.ite_inv (fun _ => State.setFlag_inv _ _ _ (publishPoint_inv _ _ _ _ h))
      fun _ => publishPoint_inv _ _ _ _ h

theorem execPublicationCycle_inv (s : State) (hI : s.Inv) : Keeps (execPublicationCycle s) := by
  unfold execPublicationCycle
  dsimp only
  refine Keeps.ite (fun _ => Keeps.next hI) fun _ => Keeps.ite (fun _ => Keeps.next (completeRecords_inv _ hI)) fun _ => Keeps.next ?_
  exact flipViews_inv _ _ (completeRecords_inv _ (publishEvents_inv _ (publishSessions_inv _ _ _ (feedPulses_inv _ _ (publishPoints_inv _ _ _ hI)))))

end Sys2Proof.Machine
end

