-- ==== Sys2Proof/Laws/InvStart.lean ====
section
/-! SUPPORT. What the starts and the firmware leave of the invariant: all of it. -/

namespace Sys2Proof.Machine

/-! Loading. -/

theorem giveUp_inv (layer : Nat) (s : State) (hI : s.Inv) : (giveUp layer s).Inv := by
  unfold giveUp
  repeat' first
    | with_reducible assumption | with_reducible apply writeLayer_inv | intro _ | with_reducible apply State.ite_inv
    | split | with_reducible apply State.Inv.intro | with_reducible apply State.Inv.regs
    | with_reducible apply State.Inv.store | with_reducible apply State.Inv.flash
    | with_reducible apply State.Inv.frame | with_reducible apply State.Inv.mail
    | with_reducible apply State.Inv.queue | with_reducible apply State.Inv.flight

theorem markRollback_inv (s : State) (hI : s.Inv) : (markRollback s).Inv := by
  unfold markRollback
  repeat' first | with_reducible assumption | with_reducible apply State.setFlag_inv

theorem runControl_inv (slot : Bool) (fw : List Byte) (s : State) (hI : s.Inv) : (runControl slot fw s).Inv := by
  unfold runControl
  repeat' first
    | with_reducible assumption | with_reducible apply setMreg_inv | intro _ | with_reducible apply State.Inv.intro
    | with_reducible apply State.Inv.regs | with_reducible apply State.Inv.store
    | with_reducible apply State.Inv.flash | with_reducible apply State.Inv.frame
    | with_reducible apply State.Inv.mail | with_reducible apply State.Inv.queue
    | with_reducible apply State.Inv.flight

theorem runLoader_inv (inPlace : Bool) (s : State) (hI : s.Inv) : (runLoader inPlace s).Inv := by
  unfold runLoader
  repeat' first
    | with_reducible assumption | with_reducible apply setMreg_inv | intro _ | with_reducible apply State.Inv.intro
    | with_reducible apply State.Inv.regs | with_reducible apply State.Inv.store
    | with_reducible apply State.Inv.flash | with_reducible apply State.Inv.frame
    | with_reducible apply State.Inv.mail | with_reducible apply State.Inv.queue
    | with_reducible apply State.Inv.flight

theorem State.choice_inv {a b : Bool} {s u t : State} (hs : s.Inv) (hu : u.Inv)
    (e : (if a then some s else if b then some u else none) = some t) : t.Inv := by
  rcases a with _ | _
  · rcases b with _ | _
    · exact absurd e (Option.some_ne_none t).symm
    · rw [if_neg (by decide), if_pos rfl, Option.some.injEq] at e
      rw [← e]; exact hu
  · rw [if_pos rfl, Option.some.injEq] at e
    rw [← e]; exact hs

theorem chooseSlot_inv (layer : Nat) (s t : State) (hI : s.Inv) (e : chooseSlot layer s = some t) : t.Inv := by
  unfold chooseSlot at e
  exact State.choice_inv hI (markRollback_inv _ (giveUp_inv layer _ hI)) e

theorem runChosen_inv (o : Option State) (s : State) (hI : s.Inv) (ho : ∀ t, o = some t → t.Inv) : (runChosen o s).Inv := by
  unfold runChosen
  split
  · exact runControl_inv _ _ _ (ho _ rfl)
  · exact State.ite_inv (fun _ => acceptStart_inv _ (runLoader_inv _ _ hI)) fun _ => runLoader_inv _ _ hI

theorem loadControl_inv (s : State) (hI : s.Inv) : (loadControl s).Inv := by
  unfold loadControl
  refine State.ite_inv (fun _ => runLoader_inv _ _ hI) fun _ => ?_
  split
  · exact runControl_inv _ _ _ hI
  · exact runChosen_inv _ _ hI fun t e => chooseSlot_inv _ _ _ hI e

theorem bankFromWork_inv (s : State) (hI : s.Inv) : (bankFromWork s).Inv := by
  unfold bankFromWork
  repeat' first | with_reducible assumption | with_reducible apply State.updLink_inv | intro _ | split

theorem workFromBank_inv (s : State) (hI : s.Inv) : (workFromBank s).Inv := by
  unfold workFromBank
  repeat' first
    | with_reducible assumption | with_reducible apply State.updLink_inv | intro _
    | with_reducible apply State.ite_inv

theorem dramUp_inv (s : State) (hI : s.Inv) : (dramUp s).Inv := by
  unfold dramUp
  repeat' first
    | with_reducible assumption | with_reducible apply spectralDramStart_inv | intro _
    | with_reducible apply State.Inv.intro | with_reducible apply State.Inv.regs
    | with_reducible apply State.Inv.store | with_reducible apply State.Inv.flash
    | with_reducible apply State.Inv.frame | with_reducible apply State.Inv.mail
    | with_reducible apply State.Inv.queue | with_reducible apply State.Inv.flight

theorem islandBack_inv (i : Nat) (s : State) (hI : s.Inv) : (islandBack i s).Inv := by
  unfold islandBack
  repeat' first
    | with_reducible assumption | with_reducible apply bankFromWork_inv | with_reducible apply loadControl_inv
    | with_reducible apply dramUp_inv | with_reducible apply mantelStart_inv | with_reducible apply measuredBoot_inv
    | with_reducible apply workFromBank_inv | intro _ | with_reducible apply State.ite_inv | split | dsimp only
    | with_reducible apply State.Inv.intro | with_reducible apply State.Inv.regs
    | with_reducible apply State.Inv.store | with_reducible apply State.Inv.flash
    | with_reducible apply State.Inv.frame | with_reducible apply State.Inv.mail
    | with_reducible apply State.Inv.queue | with_reducible apply State.Inv.flight

/-! Starts. -/

theorem loadTrim_inv (s : State) (hI : s.Inv) : (loadTrim s).Inv := by
  unfold loadTrim
  repeat' first
    | with_reducible assumption | with_reducible apply State.setReg_inv | intro _
    | with_reducible apply State.ite_inv | split | with_reducible apply State.Inv.intro
    | with_reducible apply State.Inv.regs | with_reducible apply State.Inv.store
    | with_reducible apply State.Inv.flash | with_reducible apply State.Inv.frame
    | with_reducible apply State.Inv.mail | with_reducible apply State.Inv.queue
    | with_reducible apply State.Inv.flight

theorem openWindow_inv (s : State) (hI : s.Inv) : (openWindow s).Inv := by
  unfold openWindow
  repeat' first
    | with_reducible assumption | intro _ | with_reducible apply State.Inv.intro
    | with_reducible apply State.Inv.regs | with_reducible apply State.Inv.store
    | with_reducible apply State.Inv.flash | with_reducible apply State.Inv.frame
    | with_reducible apply State.Inv.mail | with_reducible apply State.Inv.queue
    | with_reducible apply State.Inv.flight

theorem rollbackTrial_inv (deep : Bool) (s : State) (hI : s.Inv) : (rollbackTrial deep s).Inv := by
  unfold rollbackTrial
  repeat' first
    | with_reducible assumption | with_reducible apply beginHold_inv | with_reducible apply giveUp_inv
    | with_reducible apply markRollback_inv | intro _ | with_reducible apply State.ite_inv | split
    | with_reducible apply State.Inv.intro | with_reducible apply State.Inv.regs
    | with_reducible apply State.Inv.store | with_reducible apply State.Inv.flash
    | with_reducible apply State.Inv.frame | with_reducible apply State.Inv.mail
    | with_reducible apply State.Inv.queue | with_reducible apply State.Inv.flight

theorem deepenStart_inv (e : Episode) (s : State) (hI : s.Inv) : (deepenStart e s).Inv := by
  unfold deepenStart
  repeat' first
    | with_reducible assumption | with_reducible apply State.setFlag_inv | with_reducible apply enterControlReset_inv
    | with_reducible apply awaitBank_inv | intro _ | with_reducible apply State.Inv.intro
    | with_reducible apply State.Inv.regs | with_reducible apply State.Inv.store
    | with_reducible apply State.Inv.flash | with_reducible apply State.Inv.frame
    | with_reducible apply State.Inv.mail | with_reducible apply State.Inv.queue
    | with_reducible apply State.Inv.flight

theorem latchRelease_inv (p : Straps) (s : State) (hI : s.Inv) : (latchRelease p s).Inv := by
  unfold latchRelease
  repeat' first
    | with_reducible assumption | intro _ | with_reducible apply State.Inv.intro
    | with_reducible apply State.Inv.regs | with_reducible apply State.Inv.store
    | with_reducible apply State.Inv.flash | with_reducible apply State.Inv.frame
    | with_reducible apply State.Inv.mail | with_reducible apply State.Inv.queue
    | with_reducible apply State.Inv.flight

theorem loadEpisode_inv (e : Episode) (s : State) (hI : s.Inv) : (loadEpisode e s).Inv := by
  unfold loadEpisode
  repeat' first
    | with_reducible assumption | intro _ | with_reducible apply State.Inv.intro
    | with_reducible apply State.Inv.regs | with_reducible apply State.Inv.store
    | with_reducible apply State.Inv.flash | with_reducible apply State.Inv.frame
    | with_reducible apply State.Inv.mail | with_reducible apply State.Inv.queue
    | with_reducible apply State.Inv.flight

theorem beginRelease_inv (e : Episode) (pilot : Bool) (outcome : Nat) (s : State) (hI : s.Inv) : (beginRelease e
  pilot outcome s).Inv := by
  unfold beginRelease
  repeat' first
    | with_reducible assumption | with_reducible apply step_inv | intro _ | with_reducible apply State.Inv.intro
    | with_reducible apply State.Inv.regs | with_reducible apply State.Inv.store
    | with_reducible apply State.Inv.flash | with_reducible apply State.Inv.frame
    | with_reducible apply State.Inv.mail | with_reducible apply State.Inv.queue
    | with_reducible apply State.Inv.flight

theorem enterPilot_inv (cause : Nat) (s : State) (hI : s.Inv) : (enterPilot cause s).Inv := by
  unfold enterPilot
  repeat' first
    | with_reducible assumption | intro _ | with_reducible apply State.Inv.intro
    | with_reducible apply State.Inv.regs | with_reducible apply State.Inv.store
    | with_reducible apply State.Inv.flash | with_reducible apply State.Inv.frame
    | with_reducible apply State.Inv.mail | with_reducible apply State.Inv.queue
    | with_reducible apply State.Inv.flight

theorem execEpisodeRelease_inv (straps : Straps) (s : State) (hI : s.Inv) : Keeps (execEpisodeRelease straps s) := by
  have hrel : ∀ (c : Prop) [Decidable c] (s t : State), s.Inv → t.Inv →
      (if c then t else [2, 3, 4].foldl (fun s i => enterReset i s) t).Inv := fun c _ s t _ ht =>
    State.ite_inv (fun _ => ht) fun _ => State.foldl_inv ht fun s i h => enterReset_inv _ _ h
  unfold execEpisodeRelease
  split
  · exact Keeps.next hI
  · rename_i e _
    refine Keeps.ite (fun _ => Keeps.next hI) fun _ => ?_
    dsimp only
    generalize hz : (if decide (e.level ≠ .l2) = true then latchRelease straps s else s) = z
    have hZ : z.Inv := hz ▸ State.ite_inv (fun _ => latchRelease_inv _ _ hI) fun _ => hI
    have hL : ((loadEpisode e z).putField 0x1000 6 6 0).Inv := State.putField_inv _ _ _ _ _ (loadEpisode_inv _ _ hZ)
    split
    · exact Keeps.next (deepenStart_inv _ _ hZ)
    · exact Keeps.next (beginRelease_inv _ _ _ _ (enterPilot_inv _ _ (hrel _ z _ hZ hL)))
    · exact Keeps.next (beginRelease_inv _ _ _ _ (openWindow_inv _ (State.ite_inv (fun _ => rollbackTrial_inv _ _ hL) fun _ => hL)))

theorem logRelease_inv (s : State) (hI : s.Inv) : (logRelease s).Inv := by
  unfold logRelease
  split
  · exact State.ite_inv (fun _ => hI) fun _ => State.updEmber_inv
      (State.Inv.intro hI.regs hI.store hI.flash hI.frame hI.mail hI.queue hI.flight) fun h => Ember.wf_put _ _ h
  · exact hI

theorem stepSys_inv (s : State) (hI : s.Inv) : (stepSys s).Inv := by
  unfold stepSys
  repeat' first
    | with_reducible assumption | with_reducible apply State.setIsland_inv | with_reducible apply reportFault_inv
    | with_reducible apply loadTrim_inv | with_reducible apply State.setFlag_inv | intro _
    | with_reducible apply State.ite_inv | split | dsimp only | with_reducible apply State.Inv.intro
    | with_reducible apply State.Inv.regs | with_reducible apply State.Inv.store
    | with_reducible apply State.Inv.flash | with_reducible apply State.Inv.frame
    | with_reducible apply State.Inv.mail | with_reducible apply State.Inv.queue
    | with_reducible apply State.Inv.flight

theorem noRestore_inv (b : Bool) (s : State) (h : s.Inv) :
    (if b then s.updEmber fun e => { e with restore := none } else s).Inv :=
  State.ite_inv (fun _ => State.updEmber_inv h id) fun _ => h

theorem stepEmber_inv (s : State) (hI : s.Inv) : (stepEmber s).Inv := by
  unfold stepEmber
  exact noRestore_inv _ _ (flushRecords_inv _ (restoreStore_inv _ (State.setIsland_inv _ _ _ hI)))

theorem pilotAtStep5_inv (cause : Nat) (s : State) (hI : s.Inv) : (pilotAtStep5 cause s).Inv := by
  unfold pilotAtStep5
  dsimp only
  have h1 := enterPilot_inv cause { s with rtc := { s.rtc with starts := s.rtc.starts - 1 } }
    (State.Inv.intro hI.regs hI.store hI.flash hI.frame hI.mail hI.queue hI.flight)
  have h2 := enterReset_inv Isl.dram _ (State.updEmber_inv h1 (f := fun e => { e with restore := none }) id)
  have h3 : ∀ (b : Bool) (s : State), s.Inv → (if b then loadControl s else s).Inv :=
    fun b s h => State.ite_inv (fun _ => loadControl_inv _ h) fun _ => h
  have h4 := h3 ((enterReset Isl.dram ((enterPilot cause { s with rtc := { s.rtc with starts := s.rtc.starts - 1 } }).updEmber
    fun e => { e with restore := none })).running Isl.ctrl) _ h2
  exact State.Inv.intro h4.regs h4.store h4.flash h4.frame h4.mail h4.queue h4.flight

theorem runMetrology_inv (slot : Bool) (fw : List Byte) (s : State) (hI : s.Inv) : (runMetrology slot fw s).Inv := by
  unfold runMetrology
  repeat' first
    | with_reducible assumption | with_reducible apply setMreg_inv | intro _ | with_reducible apply State.Inv.intro
    | with_reducible apply State.Inv.regs | with_reducible apply State.Inv.store
    | with_reducible apply State.Inv.flash | with_reducible apply State.Inv.frame
    | with_reducible apply State.Inv.mail | with_reducible apply State.Inv.queue
    | with_reducible apply State.Inv.flight

theorem armPoints_inv (s : State) (hI : s.Inv) : (armPoints s).Inv := by
  unfold armPoints
  repeat' first
    | with_reducible assumption | with_reducible apply State.updPoint_inv | with_reducible apply State.foldl_inv
    | intro _ _ _

theorem loadMetrology_inv (s t : State) (hI : s.Inv) (e : loadMetrology s = some t) : t.Inv := by
  unfold loadMetrology at e
  split at e
  · obtain rfl := Option.some.inj e; exact runMetrology_inv _ _ _ hI
  · rw [Option.map_eq_some_iff] at e
    obtain ⟨u, hu, rfl⟩ := e
    exact runMetrology_inv _ _ _ (chooseSlot_inv _ _ _ hI hu)

theorem measureStart_inv (s : State) (hI : s.Inv) : (measureStart s).Inv := by
  unfold measureStart
  repeat' first
    | with_reducible assumption | with_reducible apply setMreg_inv | with_reducible apply measuredBoot_inv | intro _
    | with_reducible apply State.ite_inv

theorem adoptImage_inv (g : Image) (s : State) (hI : s.Inv) : (adoptImage g s).Inv := by
  unfold adoptImage
  repeat' first
    | with_reducible assumption | with_reducible apply State.updDamper_inv | with_reducible apply measureStart_inv
    | with_reducible apply restorePoints_inv | with_reducible apply armPoints_inv | intro _

theorem itemsTaken_inv (t : State) (h : t.Inv) :
    State.Inv { t with fw := { t.fw with hostMet := none, hostImage := none } } :=
  State.Inv.intro h.regs h.store h.flash h.frame h.mail h.queue h.flight

theorem stepLoad_inv (b : Bool) (s t : State) (hI : s.Inv) (e : stepLoad b s = some t) : t.Inv := by
  unfold stepLoad at e
  split at e
  · contradiction
  · split at e
    · obtain rfl := Option.some.inj e; exact pilotAtStep5_inv _ _ hI
    · rename_i u hu
      have hU := loadMetrology_inv _ _ hI hu
      dsimp only at e
      split at e
      · obtain rfl := Option.some.inj e; exact pilotAtStep5_inv _ _ hU
      · obtain rfl := Option.some.inj e
        have h := logRelease_inv _ (adoptImage_inv (u.fw.hostImage.getD (flashImage u (slotWith u u.ember.heldImage))) _ hU)
        exact State.ite_inv (fun _ => loadControl_inv _ (itemsTaken_inv _ h)) fun _ => itemsTaken_inv _ h

theorem stepConv_inv (s : State) (hI : s.Inv) : (stepConv s).Inv := by
  unfold stepConv
  repeat' first
    | with_reducible assumption | with_reducible apply State.setReg_inv | with_reducible apply State.setIsland_inv
    | with_reducible apply State.foldl_inv | intro _ _ _ | intro _ | with_reducible apply State.Inv.intro
    | with_reducible apply State.Inv.regs | with_reducible apply State.Inv.store
    | with_reducible apply State.Inv.flash | with_reducible apply State.Inv.frame
    | with_reducible apply State.Inv.mail | with_reducible apply State.Inv.queue
    | with_reducible apply State.Inv.flight

theorem stepFlue_inv (s : State) (hI : s.Inv) : (stepFlue s).Inv := by
  unfold stepFlue
  repeat' first
    | with_reducible assumption | with_reducible apply State.setIsland_inv | with_reducible apply engineStart_inv
    | with_reducible apply restartHarm_inv | with_reducible apply State.foldl_inv | intro _ _ _

theorem stepMetro_inv (s : State) (hI : s.Inv) : (stepMetro s).Inv := by
  unfold stepMetro
  dsimp only
  exact renderAll_inv _ (latchTimeBase_inv _ (beginBeat_inv _ _ (State.updDamper_inv (State.setIsland_inv _ _ _ hI)
    fun h => ⟨by show 0 < 10000; decide, h.2⟩)))

theorem stepDram_inv (report : StepReport) (s : State) (hI : s.Inv) : (stepDram report s).Inv := by
  unfold stepDram
  dsimp only
  have h : (s.setIsland Isl.dram .running).Inv := State.setIsland_inv _ _ _ hI
  refine State.ite_inv (fun _ => reportFault_inv _ _ _ _ ?_) fun _ => dramUp_inv _ ?_
  · exact State.Inv.intro h.regs h.store h.flash h.frame h.mail h.queue h.flight
  · exact State.Inv.intro h.regs h.store h.flash h.frame h.mail h.queue h.flight

theorem stepWork_inv (r : Release) (report : StepReport) (s t : State) (hI : s.Inv) (e : stepWork r report s = some
  t) : t.Inv := by
  unfold stepWork at e
  split at e
  · obtain rfl := Option.some.inj e; exact State.setIsland_inv _ _ _ hI
  · obtain rfl := Option.some.inj e; exact stepSys_inv _ hI
  · obtain rfl := Option.some.inj e; exact State.Inv.intro hI.regs hI.store hI.flash hI.frame hI.mail hI.queue hI.flight
  · obtain rfl := Option.some.inj e; exact stepEmber_inv _ hI
  · exact stepLoad_inv _ _ _ hI e
  · obtain rfl := Option.some.inj e; exact stepConv_inv _ hI
  · obtain rfl := Option.some.inj e; exact stepFlue_inv _ hI
  · obtain rfl := Option.some.inj e; exact stepMetro_inv _ hI
  · obtain rfl := Option.some.inj e; exact stepDram_inv _ _ hI
  · obtain rfl := Option.some.inj e; exact measuredBoot_inv _ (State.setIsland_inv _ _ _ hI)
  · obtain rfl := Option.some.inj e
    have h : (s.setIsland Isl.ctrl .running).Inv := State.setIsland_inv _ _ _ hI
    exact State.ite_inv (fun _ => h) fun _ => bankFromWork_inv _ (loadControl_inv _ h)
  · obtain rfl := Option.some.inj e
    have h : (s.setIsland Isl.host .running).Inv := State.setIsland_inv _ _ _ hI
    exact State.Inv.intro h.regs h.store h.flash h.frame h.mail h.queue h.flight
  · obtain rfl := Option.some.inj e
    exact mantelStart_inv _ _ (workFromBank_inv _ (State.setIsland_inv _ _ _ (State.setIsland_inv _ _ _ hI)))

theorem advance_inv (k : Nat) (s : State) (hI : s.Inv) : (advance k s).Inv := by
  unfold advance
  split
  · exact hI
  · dsimp only
    split
    · exact State.Inv.intro hI.regs hI.store hI.flash hI.frame hI.mail hI.queue hI.flight
    · have h := logRelease_inv _ hI
      exact State.Inv.intro h.regs h.store h.flash h.frame h.mail h.queue h.flight

theorem execStepReady_inv (report : StepReport) (s : State) (hI : s.Inv) : Keeps (execStepReady report s) := by
  unfold execStepReady
  split
  · exact Keeps.next hI
  · split
    · exact Keeps.next (advance_inv _ _ (stepWork_inv _ _ _ _ hI ‹_›))
    · exact Keeps.next hI

theorem execControlFirmwareRestart_inv (s : State) (hI : s.Inv) : Keeps (execControlFirmwareRestart s) := by
  unfold execControlFirmwareRestart
  repeat' first
    | with_reducible assumption | with_reducible apply Keeps.next | with_reducible apply openWindow_inv
    | with_reducible apply State.setIsland_inv | with_reducible apply State.putField_inv
    | with_reducible apply bankFromWork_inv | with_reducible apply loadControl_inv
    | with_reducible apply State.finishOk_inv | with_reducible apply State.finishFail_inv
    | with_reducible apply deepenStart_inv | intro _ | with_reducible apply Keeps.ite
    | with_reducible apply State.ite_inv | split | dsimp only | with_reducible apply State.Inv.intro
    | with_reducible apply State.Inv.regs | with_reducible apply State.Inv.store
    | with_reducible apply State.Inv.flash | with_reducible apply State.Inv.frame
    | with_reducible apply State.Inv.mail | with_reducible apply State.Inv.queue
    | with_reducible apply State.Inv.flight

theorem pilotNow_inv (cause : Nat) (s : State) (hI : s.Inv) : (pilotNow cause s).Inv := by
  unfold pilotNow
  repeat' first
    | with_reducible assumption | with_reducible apply enterPilot_inv | with_reducible apply enterReset_inv
    | with_reducible apply loadControl_inv | with_reducible apply flushRecords_inv
    | with_reducible apply State.updEmber_inv | with_reducible apply State.foldl_inv | intro _ _ _ | intro _
    | with_reducible apply State.ite_inv | split | dsimp only | with_reducible apply State.Inv.intro
    | with_reducible apply State.Inv.regs | with_reducible apply State.Inv.store
    | with_reducible apply State.Inv.flash | with_reducible apply State.Inv.frame
    | with_reducible apply State.Inv.mail | with_reducible apply State.Inv.queue
    | with_reducible apply State.Inv.flight

theorem execMetrologyLayerReady_inv (s : State) (hI : s.Inv) : Keeps (execMetrologyLayerReady s) := by
  unfold execMetrologyLayerReady
  split
  · exact Keeps.next hI
  · rename_i h _
    refine Keeps.ite (fun _ => Keeps.next hI) fun _ => ?_
    have h0 : (if h.fallback = true then s else s.putField 0x1000 6 6 0).Inv :=
      State.ite_inv (fun _ => hI) fun _ => State.putField_inv _ _ _ _ _ hI
    split
    · exact Keeps.next (pilotNow_inv _ _ hI)
    · rename_i t ht
      have hT := loadMetrology_inv _ _ h0 ht
      dsimp only
      have hR := flushRecords_inv _ (restorePoints_inv _ (armPoints_inv _ (restoreStore_inv { t with evals := [], energyHi := none, pulse := t.pulse.map (Pulse.restart true), fw := { t.fw with hold := some { h with ready := true } } }
        (State.Inv.intro hT.regs hT.store hT.flash hT.frame hT.mail hT.queue hT.flight))))
      refine Keeps.ite (fun _ => Keeps.next hR) fun _ => ?_
      split
      · exact Keeps.next (openWindow_inv _ hR)
      · exact Keeps.next (deepenStart_inv _ _ hR)

/-! Trust. -/

theorem answer_inv (d : Inflight) (ok : Bool) (bytes : List Byte) (s : State) (hI : s.Inv) : (answer d ok bytes
  s).Inv := by
  unfold answer
  repeat' first
    | with_reducible assumption | with_reducible apply State.finish_inv | with_reducible apply writeBuffer_inv
    | intro _ | with_reducible apply State.ite_inv

theorem execAttest_inv (ord : Nat) (ok : Bool) (s : State) (hI : s.Inv) : Keeps (execAttest ord ok s) := by
  unfold execAttest
  repeat' first
    | with_reducible assumption | with_reducible apply Keeps.next | with_reducible apply withBuffer_inv
    | with_reducible apply answer_inv | intro _

theorem execKeyInfo_inv (ord : Nat) (ok : Bool) (s : State) (hI : s.Inv) : Keeps (execKeyInfo ord ok s) := by
  unfold execKeyInfo
  repeat' first
    | with_reducible assumption | with_reducible apply Keeps.next | with_reducible apply withBuffer_inv
    | with_reducible apply answer_inv | intro _

theorem stageNote_inv (layer cause : Nat) (s : State) (hI : s.Inv) : (stageNote layer cause s).Inv := by
  unfold stageNote
  repeat' first
    | with_reducible assumption | intro _ | with_reducible apply State.Inv.intro
    | with_reducible apply State.Inv.regs | with_reducible apply State.Inv.store
    | with_reducible apply State.Inv.flash | with_reducible apply State.Inv.frame
    | with_reducible apply State.Inv.mail | with_reducible apply State.Inv.queue
    | with_reducible apply State.Inv.flight

theorem writeInactive_inv (layer : Nat) (fw readBack : List Byte) (s : State) (hI : s.Inv) :
    (writeInactive layer fw readBack s).1.Inv := by
  unfold writeInactive
  dsimp only
  have h := writeSlot_inv layer (!(activeSlot s layer)) (padTo fw.length readBack) _ (setSlot_inv layer (!(activeSlot s layer)) 3 _ hI)
  split
  · exact setSlot_inv _ _ _ _ h
  · exact setSlot_inv _ _ _ _ h

theorem execFwStage_inv (ord : Nat) (buf : HostRead) (readBack : List Byte) (s : State) (hI : s.Inv) :
    Keeps (execFwStage ord buf readBack s) := by
  unfold execFwStage
  refine withBuffer_inv _ _ _ _ hI fun d => ?_
  dsimp only
  split
  · exact bufferError_inv _ _ _ hI
  · rename_i bs
    refine State.ite_inv (fun _ => State.finishFail_inv _ _ _ _ (stageNote_inv _ _ _ hI)) fun _ =>
      State.ite_inv (fun _ => State.finishFail_inv _ _ _ _ (stageNote_inv _ _ _ hI)) fun _ =>
      State.ite_inv (fun _ => State.finishFail_inv _ _ _ _ (stageNote_inv _ _ _ (setSlot_inv _ _ _ _ hI))) fun _ => ?_
    have h := writeInactive_inv (d.op 20 1) (padTo d.bufLen bs) readBack s hI
    split
    · rename_i t e
      rw [e] at h
      exact State.finishOk_inv _ _ _ (stageNote_inv _ _ _ h)
    · rename_i t e
      rw [e] at h
      exact State.finishFail_inv _ _ _ _ (stageNote_inv _ _ _ h)

theorem execFwActivateControl_inv (ord : Nat) (s : State) (hI : s.Inv) : Keeps (execFwActivateControl ord s) := by
  unfold execFwActivateControl
  repeat' first
    | with_reducible assumption | with_reducible apply Keeps.next | with_reducible apply State.setPhase_inv
    | with_reducible apply State.finishFail_inv | with_reducible apply withDescriptor_inv
    | with_reducible apply ctlPause_inv | intro _ | with_reducible apply Keeps.ite
    | with_reducible apply State.ite_inv | split | with_reducible apply State.Inv.intro
    | with_reducible apply State.Inv.regs | with_reducible apply State.Inv.store
    | with_reducible apply State.Inv.flash | with_reducible apply State.Inv.frame
    | with_reducible apply State.Inv.mail | with_reducible apply State.Inv.queue
    | with_reducible apply State.Inv.flight

theorem execFwActivateMetrology_inv (ord : Nat) (s : State) (hI : s.Inv) : Keeps (execFwActivateMetrology ord s) := by
  unfold execFwActivateMetrology
  refine withDescriptor_inv _ _ _ _ hI fun d => State.ite_inv (fun _ => hI) fun _ => ?_
  split
  · have h := State.setPhase_inv _ ord .posted (post_inv _ _ _ _ hI ‹_›)
    exact State.Inv.intro h.regs h.store h.flash h.frame h.mail h.queue h.flight
  · exact hI

theorem sealWrite_inv (s : State) (f : State → State) (hI : s.Inv) (hf : ∀ x, x.Inv → (f x).Inv) : Keeps (sealWrite s
  f) := by
  unfold sealWrite
  repeat' first
    | with_reducible assumption | with_reducible apply hf | with_reducible apply Keeps.next | intro _
    | with_reducible apply Keeps.ite | with_reducible apply State.ite_inv

theorem execFuseProgram_inv (v : Word) (s : State) (hI : s.Inv) : Keeps (execFuseProgram v s) := by
  unfold execFuseProgram
  repeat' first
    | with_reducible assumption | with_reducible apply Keeps.next | with_reducible apply State.setFlag_inv
    | with_reducible apply sealWrite_inv | intro _ | with_reducible apply Keeps.ite
    | with_reducible apply State.ite_inv | split | with_reducible apply State.Inv.intro
    | with_reducible apply State.Inv.regs | with_reducible apply State.Inv.store
    | with_reducible apply State.Inv.flash | with_reducible apply State.Inv.frame
    | with_reducible apply State.Inv.mail | with_reducible apply State.Inv.queue
    | with_reducible apply State.Inv.flight

theorem execFuseProgramComplete_inv (s : State) (hI : s.Inv) : Keeps (execFuseProgramComplete s) := by
  unfold execFuseProgramComplete
  repeat' first
    | with_reducible assumption | with_reducible apply Keeps.next | intro _ | split
    | with_reducible apply State.Inv.intro | with_reducible apply State.Inv.regs
    | with_reducible apply State.Inv.store | with_reducible apply State.Inv.flash
    | with_reducible apply State.Inv.frame | with_reducible apply State.Inv.mail
    | with_reducible apply State.Inv.queue | with_reducible apply State.Inv.flight

theorem execExtend_inv (v : Word) (s : State) (hI : s.Inv) : Keeps (execExtend v s) := by
  unfold execExtend
  repeat' first
    | with_reducible assumption | with_reducible apply Keeps.next | with_reducible apply State.setFlag_inv
    | with_reducible apply setMreg_inv | with_reducible apply sealWrite_inv | intro _
    | with_reducible apply Keeps.ite | with_reducible apply State.ite_inv

/-! Loader. -/

theorem State.updWin_inv (s : State) (f : Loader → Loader) (hI : s.Inv) : (State.updWin s f).Inv := by
  unfold State.updWin
  repeat' first
    | with_reducible assumption | intro _ | with_reducible apply State.Inv.intro
    | with_reducible apply State.Inv.regs | with_reducible apply State.Inv.store
    | with_reducible apply State.Inv.flash | with_reducible apply State.Inv.frame
    | with_reducible apply State.Inv.mail | with_reducible apply State.Inv.queue
    | with_reducible apply State.Inv.flight

theorem endLoad_inv (s : State) (hI : s.Inv) : (endLoad s).Inv := by
  unfold endLoad
  repeat' first | with_reducible assumption | with_reducible apply State.updWin_inv

theorem windowEnd_inv (s : State) (hI : s.Inv) : (windowEnd s).Inv := by
  unfold windowEnd
  repeat' first
    | with_reducible assumption | with_reducible apply State.updWin_inv | with_reducible apply endLoad_inv | intro _
    | with_reducible apply State.ite_inv

theorem execBegin_inv (v : Word) (s : State) (hI : s.Inv) : Keeps (execBegin v s) := by
  unfold execBegin
  repeat' first
    | with_reducible assumption | with_reducible apply Keeps.next | with_reducible apply State.updWin_inv
    | with_reducible apply windowEnd_inv | intro _ | with_reducible apply Keeps.ite
    | with_reducible apply State.ite_inv

theorem execFwupdWinData_inv (v : Word) (s : State) (hI : s.Inv) : Keeps (execFwupdWinData v s) := by
  unfold execFwupdWinData
  repeat' first
    | with_reducible assumption | with_reducible apply Keeps.next | with_reducible apply State.updWin_inv | intro _
    | with_reducible apply Keeps.ite

theorem execEndWindow_inv (s : State) (hI : s.Inv) : Keeps (execEndWindow s) := by
  unfold execEndWindow
  repeat' first
    | with_reducible assumption | with_reducible apply Keeps.next | with_reducible apply windowEnd_inv | intro _
    | with_reducible apply Keeps.ite

theorem loadDone_inv (s : State) (hI : s.Inv) : (loadDone s).Inv := by
  unfold loadDone
  repeat' first
    | with_reducible assumption | intro _ | with_reducible apply State.Inv.intro
    | with_reducible apply State.Inv.regs | with_reducible apply State.Inv.store
    | with_reducible apply State.Inv.flash | with_reducible apply State.Inv.frame
    | with_reducible apply State.Inv.mail | with_reducible apply State.Inv.queue
    | with_reducible apply State.Inv.flight

theorem loadImage_inv (bytes readBack : List Byte) (s : State) (hI : s.Inv) : (loadImage bytes readBack s).1.Inv := by
  unfold loadImage
  dsimp only
  split
  · exact hI
  · split
    · exact State.Inv.intro hI.regs hI.store hI.flash hI.frame hI.mail hI.queue hI.flight
    · split
      · exact loadDone_inv _ (setImageSlot_inv _ _ (writeSlot_inv _ _ _ _ hI))
      · exact writeSlot_inv _ _ _ _ hI

theorem loadLayer_inv (layer : Nat) (bytes readBack : List Byte) (s : State) (hI : s.Inv) :
    (loadLayer layer bytes readBack s).1.Inv := by
  unfold loadLayer
  dsimp only
  split
  · exact hI
  · split
    · exact hI
    · split
      · refine State.ite_inv (fun _ => ?_) fun _ => ?_
        · exact State.Inv.intro hI.regs hI.store hI.flash hI.frame hI.mail hI.queue hI.flight
        · exact State.Inv.intro hI.regs hI.store hI.flash hI.frame hI.mail hI.queue hI.flight
      · have h := writeInactive_inv layer bytes readBack s hI
        split
        · rename_i t e
          rw [e] at h
          exact loadDone_inv _ (activateSlot_inv _ _ _ _ h)
        · rename_i t e
          rw [e] at h
          exact h

theorem runLoaded_inv (readBack : List Byte) (s : State) (hI : s.Inv) : (runLoaded readBack s).1.Inv := by
  unfold runLoaded
  split
  · exact hI
  · split
    · exact loadImage_inv _ _ _ hI
    · exact loadLayer_inv _ _ _ _ hI

theorem execWindowVerifyComplete_inv (readBack : List Byte) (s : State) (hI : s.Inv) : Keeps
  (execWindowVerifyComplete readBack s) := by
  unfold execWindowVerifyComplete
  refine Keeps.ite (fun _ => ?_) fun _ => Keeps.next hI
  dsimp only
  have h := State.updWin_inv _ (fun w => { w with busy := false, result := (runLoaded readBack s).2, data := [] }) (runLoaded_inv readBack s hI)
  exact Keeps.next (State.ite_inv (fun _ => State.Inv.intro h.regs h.store h.flash h.frame h.mail h.queue h.flight) fun _ => h)

end Sys2Proof.Machine
end

