-- ==== Sys2Proof/Laws/InvCmds.lean ====
section
/-! SUPPORT. What the auditor port, the clock, the faults, the registers and the resets leave of the invariant: all of it. -/

namespace Sys2Proof.Machine

/-! AuditorPort. -/

theorem respond_inv (code : Nat) (data : List Byte) (s : State) (hI : s.Inv) : (respond code data s).Inv := by
  unfold respond
  repeat' first
    | with_reducible assumption | intro _ | with_reducible apply State.Inv.intro
    | with_reducible apply State.Inv.regs | with_reducible apply State.Inv.store
    | with_reducible apply State.Inv.flash | with_reducible apply State.Inv.frame
    | with_reducible apply State.Inv.mail | with_reducible apply State.Inv.queue
    | with_reducible apply State.Inv.flight

theorem auditorRequest_inv (cmd : Nat) (req : List Byte) (s : State) (f : List Byte → State → State) (hI : s.Inv)
    (hf : ∀ p, (f p s).Inv) : Keeps (auditorRequest cmd req s f) :=
  Keeps.ite (fun _ => Keeps.ite (fun _ => Keeps.next (respond_inv _ _ _ hI)) fun _ => Keeps.ite (fun _ => Keeps.next (hf _))
    fun _ => Keeps.ite (fun _ => Keeps.next hI) fun _ => Keeps.next (respond_inv _ _ _ hI)) fun _ => Keeps.next hI

theorem respondBad_inv (s : State) (hI : s.Inv) : (respondBad s).Inv := by
  unfold respondBad
  repeat' first | with_reducible assumption | with_reducible apply respond_inv

theorem execIdent_inv (req : List Byte) (s : State) (hI : s.Inv) : Keeps (execIdent req s) := by
  unfold execIdent
  repeat' first
    | with_reducible assumption | with_reducible apply Keeps.next | with_reducible apply respond_inv
    | with_reducible apply auditorRequest_inv | with_reducible apply respondBad_inv | intro _
    | with_reducible apply Keeps.ite | with_reducible apply State.ite_inv

theorem execAuditorRead_inv (req : List Byte) (s : State) (hI : s.Inv) : Keeps (execAuditorRead req s) := by
  unfold execAuditorRead
  repeat' first
    | with_reducible assumption | with_reducible apply Keeps.next | with_reducible apply respond_inv
    | with_reducible apply auditorRequest_inv | with_reducible apply respondBad_inv | intro _
    | with_reducible apply Keeps.ite | with_reducible apply State.ite_inv

theorem execAuditorAttest_inv (req : List Byte) (s : State) (hI : s.Inv) : Keeps (execAuditorAttest req s) := by
  unfold execAuditorAttest
  repeat' first
    | with_reducible assumption | with_reducible apply Keeps.next | with_reducible apply respond_inv
    | with_reducible apply auditorRequest_inv | with_reducible apply respondBad_inv | intro _
    | with_reducible apply Keeps.ite | with_reducible apply State.ite_inv

theorem execRecover_inv (req : List Byte) (s : State) (hI : s.Inv) : Keeps (execRecover req s) := by
  unfold execRecover
  repeat' first
    | with_reducible assumption | with_reducible apply Keeps.next | with_reducible apply respond_inv
    | with_reducible apply auditorRequest_inv | with_reducible apply respondBad_inv | intro _
    | with_reducible apply Keeps.ite | with_reducible apply State.ite_inv | split
    | with_reducible apply State.Inv.intro | with_reducible apply State.Inv.regs
    | with_reducible apply State.Inv.store | with_reducible apply State.Inv.flash
    | with_reducible apply State.Inv.frame | with_reducible apply State.Inv.mail
    | with_reducible apply State.Inv.queue | with_reducible apply State.Inv.flight

theorem loadRequest_inv (cmd : Nat) (req : List Byte) (s : State) (f : List Byte → State → State) (hI : s.Inv)
    (hf : ∀ p, (f p s).Inv) : Keeps (loadRequest cmd req s f) :=
  auditorRequest_inv _ _ _ _ hI fun p => State.ite_inv (fun _ => hf p) fun _ => respond_inv _ _ _ hI

theorem execLoadBegin_inv (req : List Byte) (s : State) (hI : s.Inv) : Keeps (execLoadBegin req s) := by
  unfold execLoadBegin
  repeat' first
    | with_reducible assumption | with_reducible apply Keeps.next | with_reducible apply State.updWin_inv
    | with_reducible apply respond_inv | with_reducible apply respondBad_inv | with_reducible apply loadRequest_inv
    | intro _ | with_reducible apply Keeps.ite | with_reducible apply State.ite_inv

theorem execLoadData_inv (req : List Byte) (s : State) (hI : s.Inv) : Keeps (execLoadData req s) := by
  unfold execLoadData
  repeat' first
    | with_reducible assumption | with_reducible apply Keeps.next | with_reducible apply State.updWin_inv
    | with_reducible apply respond_inv | with_reducible apply respondBad_inv | with_reducible apply loadRequest_inv
    | intro _ | with_reducible apply Keeps.ite | with_reducible apply State.ite_inv

theorem execLoadEnd_inv (req : List Byte) (s : State) (hI : s.Inv) : Keeps (execLoadEnd req s) := by
  unfold execLoadEnd
  repeat' first
    | with_reducible assumption | with_reducible apply Keeps.next | with_reducible apply endLoad_inv
    | with_reducible apply respond_inv | with_reducible apply respondBad_inv | with_reducible apply loadRequest_inv
    | intro _ | with_reducible apply Keeps.ite | with_reducible apply State.ite_inv | split
    | with_reducible apply State.Inv.intro | with_reducible apply State.Inv.regs
    | with_reducible apply State.Inv.store | with_reducible apply State.Inv.flash
    | with_reducible apply State.Inv.frame | with_reducible apply State.Inv.mail
    | with_reducible apply State.Inv.queue | with_reducible apply State.Inv.flight

theorem execAuditorPoll_inv (cut : Bool) (s : State) (hI : s.Inv) : Keeps (execAuditorPoll cut s) := by
  unfold execAuditorPoll
  repeat' first
    | with_reducible assumption | with_reducible apply Keeps.next | with_reducible apply assertSource_inv | intro _
    | with_reducible apply Keeps.ite | with_reducible apply State.ite_inv | split
    | with_reducible apply State.Inv.intro | with_reducible apply State.Inv.regs
    | with_reducible apply State.Inv.store | with_reducible apply State.Inv.flash
    | with_reducible apply State.Inv.frame | with_reducible apply State.Inv.mail
    | with_reducible apply State.Inv.queue | with_reducible apply State.Inv.flight

/-! Clock. -/

theorem State.updRtc_inv (s : State) (f : Rtc → Rtc) (hI : s.Inv) : (State.updRtc s f).Inv := by
  unfold State.updRtc
  repeat' first
    | with_reducible assumption | intro _ | with_reducible apply State.Inv.intro
    | with_reducible apply State.Inv.regs | with_reducible apply State.Inv.store
    | with_reducible apply State.Inv.flash | with_reducible apply State.Inv.frame
    | with_reducible apply State.Inv.mail | with_reducible apply State.Inv.queue
    | with_reducible apply State.Inv.flight

theorem refuseSet_inv (cause : Nat) (s : State) (hI : s.Inv) : (refuseSet cause s).Inv := by
  unfold refuseSet
  repeat' first
    | with_reducible assumption | with_reducible apply State.setFlag_inv | with_reducible apply State.updRtc_inv

theorem execHalt_inv (s : State) (hI : s.Inv) : Keeps (execHalt s) := by
  unfold execHalt
  repeat' first
    | with_reducible assumption | with_reducible apply Keeps.next | with_reducible apply State.updRtc_inv
    | with_reducible apply refuseSet_inv | intro _ | with_reducible apply Keeps.ite
    | with_reducible apply State.ite_inv | split

theorem execHaltClear_inv (s : State) (hI : s.Inv) : Keeps (execHaltClear s) := by
  unfold execHaltClear
  repeat' first
    | with_reducible assumption | with_reducible apply Keeps.next | with_reducible apply State.updRtc_inv
    | with_reducible apply refuseSet_inv | intro _ | with_reducible apply Keeps.ite
    | with_reducible apply State.ite_inv | split

theorem execHaltTimeout_inv (s : State) (hI : s.Inv) : Keeps (execHaltTimeout s) := by
  unfold execHaltTimeout
  repeat' first
    | with_reducible assumption | with_reducible apply Keeps.next | with_reducible apply State.updRtc_inv
    | with_reducible apply refuseSet_inv | intro _ | with_reducible apply Keeps.ite

theorem execPrescalerEdge_inv (s : State) (hI : s.Inv) : Keeps (execPrescalerEdge s) := by
  unfold execPrescalerEdge
  repeat' first
    | with_reducible assumption | with_reducible apply Keeps.next | with_reducible apply State.updRtc_inv | intro _
    | with_reducible apply Keeps.ite | with_reducible apply State.ite_inv | split
    | with_reducible apply State.Inv.intro | with_reducible apply State.Inv.regs
    | with_reducible apply State.Inv.store | with_reducible apply State.Inv.flash
    | with_reducible apply State.Inv.frame | with_reducible apply State.Inv.mail
    | with_reducible apply State.Inv.queue | with_reducible apply State.Inv.flight

theorem execTimeSet_inv (ord : Nat) (s : State) (hI : s.Inv) : Keeps (execTimeSet ord s) := by
  unfold execTimeSet
  repeat' first
    | with_reducible assumption | with_reducible apply Keeps.next | with_reducible apply State.setPhase_inv
    | with_reducible apply State.finishFail_inv | with_reducible apply withDescriptor_inv
    | with_reducible apply State.updRtc_inv | with_reducible apply refuseSet_inv | intro _ | split

theorem execTimeRead_inv (ord : Nat) (s : State) (hI : s.Inv) : Keeps (execTimeRead ord s) := by
  unfold execTimeRead
  repeat' first
    | with_reducible assumption | with_reducible apply Keeps.next | with_reducible apply State.finishOk_inv
    | with_reducible apply withDescriptor_inv | intro _

theorem execRtcTimeRead_inv (which : Fin 3) (s : State) (hI : s.Inv) : Keeps (execRtcTimeRead which s) := by
  unfold execRtcTimeRead
  repeat' first
    | with_reducible assumption | with_reducible apply Keeps.next | with_reducible apply State.readBack_inv
    | with_reducible apply readRow_inv | with_reducible apply State.updRtc_inv | intro _
    | with_reducible apply Keeps.ite | with_reducible apply State.ite_inv

theorem execRtcCalDateRead_inv (time : Bool) (s : State) (hI : s.Inv) : Keeps (execRtcCalDateRead time s) := by
  unfold execRtcCalDateRead
  repeat' first
    | with_reducible assumption | with_reducible apply Keeps.next | with_reducible apply State.readBack_inv
    | with_reducible apply readRow_inv | with_reducible apply State.updRtc_inv | intro _
    | with_reducible apply Keeps.ite | with_reducible apply State.ite_inv

theorem execCalApply_inv (v : Word) (s : State) (hI : s.Inv) : Keeps (execCalApply v s) := by
  unfold execCalApply
  repeat' first
    | with_reducible assumption | with_reducible apply Keeps.next | with_reducible apply State.setReg_inv
    | with_reducible apply State.setFlag_inv | with_reducible apply State.updRtc_inv
    | with_reducible apply refuseSet_inv | intro _ | with_reducible apply Keeps.ite
    | with_reducible apply State.ite_inv | split | with_reducible apply State.Inv.intro
    | with_reducible apply State.Inv.regs | with_reducible apply State.Inv.store
    | with_reducible apply State.Inv.flash | with_reducible apply State.Inv.frame
    | with_reducible apply State.Inv.mail | with_reducible apply State.Inv.queue
    | with_reducible apply State.Inv.flight | with_reducible apply Regs.wf_set | with_reducible apply Regs.wf_clear
    | with_reducible apply Regs.wf_clearIsland | with_reducible apply Regs.wf_reject
    | with_reducible apply Memory.wf_writeN | with_reducible apply Memory.wf_write
    | with_reducible apply Ember.wf_init | with_reducible apply Ember.wf_put
    | with_reducible apply Ember.wf_putCounter | with_reducible apply Ember.wf_dropMarker
    | with_reducible apply Ember.wf_markEntry | with_reducible apply Ember.wf_storeSig
    | with_reducible apply Ember.wf_putCfg | with_reducible apply Ember.wf_putFault
    | with_reducible apply Ember.wf_putJournal | with_reducible apply Ember.wf_foldl
    | with_reducible apply Faults.init_queue | with_reducible apply Damper.init_frame
    | with_reducible apply Damper.init_mail | with_reducible apply HostIf.init_flight | dsimp only

theorem execTrimStep_inv (temp : Int) (s : State) (hI : s.Inv) : Keeps (execTrimStep temp s) := by
  unfold execTrimStep
  repeat' first
    | with_reducible assumption | with_reducible apply Keeps.next | with_reducible apply State.updRtc_inv
    | with_reducible apply step_inv | intro _ | with_reducible apply Keeps.ite

theorem execVbatLost_inv (s : State) (hI : s.Inv) : Keeps (execVbatLost s) := by
  unfold execVbatLost
  repeat' first
    | with_reducible assumption | with_reducible apply Keeps.next | with_reducible apply loadTrim_inv | intro _
    | with_reducible apply Keeps.ite | with_reducible apply State.ite_inv | split
    | with_reducible apply State.Inv.intro | with_reducible apply State.Inv.regs
    | with_reducible apply State.Inv.store | with_reducible apply State.Inv.flash
    | with_reducible apply State.Inv.frame | with_reducible apply State.Inv.mail
    | with_reducible apply State.Inv.queue | with_reducible apply State.Inv.flight | with_reducible apply Regs.wf_set
    | with_reducible apply Regs.wf_clear

/-! FaultCmds. -/

theorem noteCrossing_inv (x peak : Nat) (s : State) (hI : s.Inv) : (noteCrossing x peak s).Inv := by
  unfold noteCrossing
  repeat' first
    | with_reducible assumption | with_reducible apply State.setFlag_inv | with_reducible apply State.updDamper_inv
    | intro _ | with_reducible apply State.ite_inv | split

theorem countCorr_inv (s : State) (hI : s.Inv) : (countCorr s).Inv := by
  unfold countCorr
  repeat' first
    | with_reducible assumption | intro _ | with_reducible apply State.Inv.intro
    | with_reducible apply State.Inv.regs | with_reducible apply State.Inv.store
    | with_reducible apply State.Inv.flash | with_reducible apply State.Inv.frame
    | with_reducible apply State.Inv.mail | with_reducible apply State.Inv.queue
    | with_reducible apply State.Inv.flight

theorem countUncorr_inv (s : State) (hI : s.Inv) : (countUncorr s).Inv := by
  unfold countUncorr
  repeat' first
    | with_reducible assumption | intro _ | with_reducible apply State.Inv.intro
    | with_reducible apply State.Inv.regs | with_reducible apply State.Inv.store
    | with_reducible apply State.Inv.flash | with_reducible apply State.Inv.frame
    | with_reducible apply State.Inv.mail | with_reducible apply State.Inv.queue
    | with_reducible apply State.Inv.flight

theorem plainAction_inv (code : Nat) (s : State) (hI : s.Inv) : (plainAction code s).Inv := by
  unfold plainAction
  repeat' first
    | with_reducible assumption | with_reducible apply State.setFlag_inv | with_reducible apply countCorr_inv
    | with_reducible apply countUncorr_inv | intro _ | with_reducible apply State.ite_inv | split
    | with_reducible apply State.Inv.intro | with_reducible apply State.Inv.regs
    | with_reducible apply State.Inv.store | with_reducible apply State.Inv.flash
    | with_reducible apply State.Inv.frame | with_reducible apply State.Inv.mail
    | with_reducible apply State.Inv.queue | with_reducible apply State.Inv.flight

theorem localAction_inv (code : Nat) (detail : Word) (s : State) (hI : s.Inv) : (localAction code detail s).Inv := by
  unfold localAction
  repeat' first
    | with_reducible assumption | with_reducible apply noteCrossing_inv | with_reducible apply State.updPoint_inv
    | with_reducible apply plainAction_inv | intro _ | with_reducible apply State.ite_inv | split
    | with_reducible apply State.Inv.intro | with_reducible apply State.Inv.regs
    | with_reducible apply State.Inv.store | with_reducible apply State.Inv.flash
    | with_reducible apply State.Inv.frame | with_reducible apply State.Inv.mail
    | with_reducible apply State.Inv.queue | with_reducible apply State.Inv.flight

theorem execFault_inv (island : Fin 12) (code : BitVec 8) (detail : Word) (s : State) (hI : s.Inv) : Keeps (execFault
  island code detail s) := by
  unfold execFault
  repeat' first
    | with_reducible assumption | with_reducible apply Keeps.next | with_reducible apply reportFault_inv
    | with_reducible apply localAction_inv | intro _ | with_reducible apply Keeps.ite

theorem execFaultInject_inv (v : Word) (s : State) (hI : s.Inv) : Keeps (execFaultInject v s) := by
  unfold execFaultInject
  repeat' first
    | with_reducible assumption | with_reducible apply Keeps.next | with_reducible apply writeReg_inv
    | with_reducible apply reportFault_inv | with_reducible apply plainAction_inv | intro _
    | with_reducible apply Keeps.ite | with_reducible apply State.ite_inv

theorem execFaultPop_inv (s : State) (hI : s.Inv) : Keeps (execFaultPop s) :=
  Keeps.ite (fun _ => Keeps.next (State.Inv.intro hI.regs hI.store hI.flash hI.frame hI.mail
    (by rw [List.length_drop]; have := hI.queue; omega) hI.flight)) fun _ => Keeps.next hI

theorem execRepeatCountClear_inv (island : Fin 12) (s : State) (hI : s.Inv) : Keeps (execRepeatCountClear island s)
  := by
  unfold execRepeatCountClear
  repeat' first
    | with_reducible assumption | with_reducible apply Keeps.next | with_reducible apply State.setReps_inv | intro _
    | with_reducible apply Keeps.ite

theorem execIslandRecoveryComplete_inv (island : Fin 12) (s : State) (hI : s.Inv) : Keeps (execIslandRecoveryComplete
  island s) := by
  unfold execIslandRecoveryComplete
  repeat' first
    | with_reducible assumption | with_reducible apply Keeps.next | with_reducible apply State.setIsland_inv
    | with_reducible apply islandBack_inv | intro _ | with_reducible apply Keeps.ite

/-! Registers. -/

theorem writeConfig_inv (off : Nat) (v : Word) (s : State) (hI : s.Inv) : (writeConfig off v s).Inv := by
  unfold writeConfig
  repeat' first
    | with_reducible assumption | with_reducible apply flushVectors_inv | with_reducible apply State.updHost_inv
    | intro _ | with_reducible apply State.ite_inv

theorem afterWrite_inv (a : Nat) (s : State) (hI : s.Inv) : (afterWrite a s).Inv := by
  unfold afterWrite
  repeat' first
    | with_reducible assumption | with_reducible apply State.updHearth_inv | with_reducible apply flushVectors_inv
    | intro _ | with_reducible apply State.ite_inv | split

theorem execRegisterWrite_inv (addr : Nat) (be : BitVec 4) (v : Word) (s : State) (hI : s.Inv) :
    Keeps (execRegisterWrite addr be v s) := by
  unfold execRegisterWrite
  repeat' first
    | with_reducible assumption | with_reducible apply Keeps.next | with_reducible apply writeConfig_inv
    | with_reducible apply afterWrite_inv | with_reducible apply writeReg_inv | intro _
    | with_reducible apply Keeps.ite

/-! Resets. -/

theorem sourceLine_inv (c : Nat) (on : Bool) (s : State) (hI : s.Inv) : (sourceLine c on s).Inv := by
  unfold sourceLine
  repeat' first
    | with_reducible assumption | with_reducible apply assertSource_inv | with_reducible apply releaseSource_inv
    | intro _ | with_reducible apply State.ite_inv

theorem execPor_inv (low : Bool) (s : State) (hI : s.Inv) : Keeps (execPor low s) := by
  unfold execPor
  repeat' first
    | with_reducible assumption | with_reducible apply Keeps.next | with_reducible apply releaseSource_inv
    | with_reducible apply sourceLine_inv | intro _ | with_reducible apply Keeps.ite
    | with_reducible apply State.ite_inv | split | with_reducible apply State.Inv.intro
    | with_reducible apply State.Inv.regs | with_reducible apply State.Inv.store
    | with_reducible apply State.Inv.flash | with_reducible apply State.Inv.frame
    | with_reducible apply State.Inv.mail | with_reducible apply State.Inv.queue
    | with_reducible apply State.Inv.flight

theorem execBorCore_inv (low : Bool) (s : State) (hI : s.Inv) : Keeps (execBorCore low s) := by
  unfold execBorCore
  repeat' first
    | with_reducible assumption | with_reducible apply Keeps.next | with_reducible apply sourceLine_inv | intro _
    | with_reducible apply Keeps.ite | with_reducible apply State.ite_inv

theorem execBorIo_inv (low : Bool) (s : State) (hI : s.Inv) : Keeps (execBorIo low s) := by
  unfold execBorIo
  repeat' first
    | with_reducible assumption | with_reducible apply Keeps.next | with_reducible apply sourceLine_inv | intro _
    | with_reducible apply Keeps.ite | with_reducible apply State.ite_inv

theorem execTamper_inv (low : Bool) (s : State) (hI : s.Inv) : Keeps (execTamper low s) := by
  unfold execTamper
  repeat' first
    | with_reducible assumption | with_reducible apply Keeps.next | with_reducible apply sourceLine_inv | intro _
    | with_reducible apply State.Inv.intro | with_reducible apply State.Inv.regs
    | with_reducible apply State.Inv.store | with_reducible apply State.Inv.flash
    | with_reducible apply State.Inv.frame | with_reducible apply State.Inv.mail
    | with_reducible apply State.Inv.queue | with_reducible apply State.Inv.flight

theorem execPerstN_inv (low : Bool) (s : State) (hI : s.Inv) : Keeps (execPerstN low s) := by
  unfold execPerstN
  repeat' first
    | with_reducible assumption | with_reducible apply Keeps.next | with_reducible apply sourceLine_inv | intro _
    | with_reducible apply State.Inv.intro | with_reducible apply State.Inv.regs
    | with_reducible apply State.Inv.store | with_reducible apply State.Inv.flash
    | with_reducible apply State.Inv.frame | with_reducible apply State.Inv.mail
    | with_reducible apply State.Inv.queue | with_reducible apply State.Inv.flight

theorem execResetNPin_inv (lowNs : Nat) (s : State) (hI : s.Inv) : Keeps (execResetNPin lowNs s) := by
  unfold execResetNPin
  repeat' first
    | with_reducible assumption | with_reducible apply Keeps.next | with_reducible apply assertSource_inv
    | with_reducible apply releaseSource_inv | intro _ | with_reducible apply Keeps.ite
    | with_reducible apply State.ite_inv | split | with_reducible apply State.Inv.intro
    | with_reducible apply State.Inv.regs | with_reducible apply State.Inv.store
    | with_reducible apply State.Inv.flash | with_reducible apply State.Inv.frame
    | with_reducible apply State.Inv.mail | with_reducible apply State.Inv.queue
    | with_reducible apply State.Inv.flight

theorem execThermalTrip_inv (tj : Int) (s : State) (hI : s.Inv) : Keeps (execThermalTrip tj s) := by
  unfold execThermalTrip
  repeat' first
    | with_reducible assumption | with_reducible apply Keeps.next | with_reducible apply reportFault_inv
    | with_reducible apply sourceLine_inv | intro _ | with_reducible apply Keeps.ite
    | with_reducible apply State.ite_inv | split | with_reducible apply State.Inv.intro
    | with_reducible apply State.Inv.regs | with_reducible apply State.Inv.store
    | with_reducible apply State.Inv.flash | with_reducible apply State.Inv.frame
    | with_reducible apply State.Inv.mail | with_reducible apply State.Inv.queue
    | with_reducible apply State.Inv.flight

theorem execClockLoss_inv (refOk pllM pllC : Bool) (s : State) (hI : s.Inv) : Keeps (execClockLoss refOk pllM pllC s)
  := by
  unfold execClockLoss
  repeat' first
    | with_reducible assumption | with_reducible apply Keeps.next | with_reducible apply assertAt_inv
    | with_reducible apply releaseSource_inv | intro _ | with_reducible apply Keeps.ite
    | with_reducible apply State.ite_inv | split | with_reducible apply State.Inv.intro
    | with_reducible apply State.Inv.regs | with_reducible apply State.Inv.store
    | with_reducible apply State.Inv.flash | with_reducible apply State.Inv.frame
    | with_reducible apply State.Inv.mail | with_reducible apply State.Inv.queue
    | with_reducible apply State.Inv.flight

theorem execCtrlWatchdog_inv (s : State) (hI : s.Inv) : Keeps (execCtrlWatchdog s) := by
  unfold execCtrlWatchdog
  repeat' first
    | with_reducible assumption | with_reducible apply Keeps.next | with_reducible apply assertSource_inv | intro _
    | with_reducible apply Keeps.ite | with_reducible apply State.ite_inv

theorem execStartWindowExpiry_inv (s : State) (hI : s.Inv) : Keeps (execStartWindowExpiry s) := by
  unfold execStartWindowExpiry
  repeat' first
    | with_reducible assumption | with_reducible apply Keeps.next | with_reducible apply assertSource_inv | intro _
    | with_reducible apply Keeps.ite | with_reducible apply State.ite_inv | split
    | with_reducible apply State.Inv.intro | with_reducible apply State.Inv.regs
    | with_reducible apply State.Inv.store | with_reducible apply State.Inv.flash
    | with_reducible apply State.Inv.frame | with_reducible apply State.Inv.mail
    | with_reducible apply State.Inv.queue | with_reducible apply State.Inv.flight

theorem execDamperWatchdog_inv (s : State) (hI : s.Inv) : Keeps (execDamperWatchdog s) := by
  unfold execDamperWatchdog
  repeat' first
    | with_reducible assumption | with_reducible apply Keeps.next | with_reducible apply assertSource_inv | intro _
    | with_reducible apply Keeps.ite | with_reducible apply State.ite_inv

theorem execPcieHotReset_inv (s : State) (hI : s.Inv) : Keeps (execPcieHotReset s) := by
  unfold execPcieHotReset
  repeat' first
    | with_reducible assumption | with_reducible apply Keeps.next | with_reducible apply assertSource_inv | intro _
    | with_reducible apply Keeps.ite | with_reducible apply State.ite_inv

theorem execDebugReset_inv (s : State) (hI : s.Inv) : Keeps (execDebugReset s) := by
  unfold execDebugReset
  repeat' first
    | with_reducible assumption | with_reducible apply Keeps.next | with_reducible apply assertSource_inv | intro _
    | with_reducible apply Keeps.ite | with_reducible apply State.ite_inv

theorem sysWrite_inv (s : State) (f : State → State) (hI : s.Inv) (hf : ∀ x, x.Inv → (f x).Inv) : Keeps (sysWrite s
  f) := by
  unfold sysWrite
  repeat' first
    | with_reducible assumption | with_reducible apply hf | with_reducible apply Keeps.next | intro _
    | with_reducible apply Keeps.ite | with_reducible apply State.ite_inv

theorem execResetSoft_inv (v : Word) (s : State) (hI : s.Inv) : Keeps (execResetSoft v s) := by
  unfold execResetSoft
  repeat' first
    | with_reducible assumption | with_reducible apply Keeps.next | with_reducible apply assertAt_inv
    | with_reducible apply sysWrite_inv | intro _ | with_reducible apply Keeps.ite
    | with_reducible apply State.ite_inv | split

theorem execStartOk_inv (v : Word) (s : State) (hI : s.Inv) : Keeps (execStartOk v s) := by
  unfold execStartOk
  repeat' first
    | with_reducible assumption | with_reducible apply Keeps.next | with_reducible apply sysWrite_inv
    | with_reducible apply acceptStart_inv | with_reducible apply State.setFlag_inv | intro _
    | with_reducible apply Keeps.ite | with_reducible apply State.ite_inv

theorem execResetWdtCfg_inv (v : Word) (s : State) (hI : s.Inv) : Keeps (execResetWdtCfg v s) := by
  unfold execResetWdtCfg
  repeat' first
    | with_reducible assumption | with_reducible apply Keeps.next | with_reducible apply State.setReg_inv
    | with_reducible apply sysWrite_inv | intro _ | with_reducible apply Keeps.ite
    | with_reducible apply State.ite_inv | split | with_reducible apply State.Inv.intro
    | with_reducible apply State.Inv.regs | with_reducible apply State.Inv.store
    | with_reducible apply State.Inv.flash | with_reducible apply State.Inv.frame
    | with_reducible apply State.Inv.mail | with_reducible apply State.Inv.queue
    | with_reducible apply State.Inv.flight

theorem execResetWdtKick_inv (v : Word) (s : State) (hI : s.Inv) : Keeps (execResetWdtKick v s) := by
  unfold execResetWdtKick
  repeat' first
    | with_reducible assumption | with_reducible apply Keeps.next | with_reducible apply sysWrite_inv | intro _
    | with_reducible apply Keeps.ite | with_reducible apply State.ite_inv | split
    | with_reducible apply State.Inv.intro | with_reducible apply State.Inv.regs
    | with_reducible apply State.Inv.store | with_reducible apply State.Inv.flash
    | with_reducible apply State.Inv.frame | with_reducible apply State.Inv.mail
    | with_reducible apply State.Inv.queue | with_reducible apply State.Inv.flight

theorem execClockRefDevMeasure_inv (dev : Int) (s : State) (hI : s.Inv) : Keeps (execClockRefDevMeasure dev s) := by
  unfold execClockRefDevMeasure
  repeat' first
    | with_reducible assumption | with_reducible apply Keeps.next | with_reducible apply sysWrite_inv | intro _
    | with_reducible apply State.Inv.intro | with_reducible apply State.Inv.regs
    | with_reducible apply State.Inv.store | with_reducible apply State.Inv.flash
    | with_reducible apply State.Inv.frame | with_reducible apply State.Inv.mail
    | with_reducible apply State.Inv.queue | with_reducible apply State.Inv.flight

end Sys2Proof.Machine
end

