-- ==== Sys2Proof/Laws/KeepBase.lean ====
section
/-! SUPPORT. The rules by which an operation leaves a part of the state. -/

namespace Sys2Proof.Machine

/-- An outcome leaves a part of the state when its next state, if it has one, has it as before. -/
structure Leaves {α : Type} (part : State → α) (s : State) (o : Host.Outcome State Fault Refusal) : Prop where
  out : ∀ t, o = .next t → part t = part s

@[simp] theorem leaves_next {α : Type} (part : State → α) (s t : State) : Leaves part s (.next t) ↔ part t = part s :=
  ⟨fun h => h.out t rfl, fun h => ⟨fun _ e => by cases e; exact h⟩⟩

/-- What almost no command changes: the queue, the fuses as blown and as read, and the straps. -/
def State.kept (s : State) : List Instr × Vector Word 19 × Vector Word 19 × Nat × Nat :=
  (s.pending, s.trust.blown, s.trust.fuses, s.clk.bootSel, s.clk.clkMode)

@[simp] theorem State.kept_mk (pending regs hearth flue chain window evals point energyHi pulse spectral events damper session ember host
    fault rst clk rtc trust fw aud link mantel dram pins) :
    State.kept (State.mk pending regs hearth flue chain window evals point energyHi pulse spectral events damper session ember host
      fault rst clk rtc trust fw aud link mantel dram pins) =
    (pending, Seal.blown trust, Seal.fuses trust, Clocks.bootSel clk, Clocks.clkMode clk) := rfl
@[simp] theorem State.kept_parts (s : State) :
    (s.pending, s.trust.blown, s.trust.fuses, s.clk.bootSel, s.clk.clkMode) = s.kept := rfl

@[simp] theorem State.kept_ite {c : Prop} [Decidable c] (s t : State) :
    (if c then s else t).kept = if c then s.kept else t.kept := by split <;> rfl
@[simp] theorem leaves_ite {α : Type} (part : State → α) (s : State) {c : Prop} [Decidable c]
    (o p : Host.Outcome State Fault Refusal) :
    Leaves part s (if c then o else p) ↔ (c → Leaves part s o) ∧ (¬c → Leaves part s p) := by
  by_cases h : c <;> simp [h]

theorem State.foldl_part {α β : Type} (part : State → β) {f : State → α → State} (hf : ∀ s a, part (f s a) = part s)
    (l : List α) (s : State) : part (l.foldl f s) = part s := by
  induction l generalizing s with
  | nil => rfl
  | cons a l ih => rw [List.foldl_cons, ih, hf]
@[simp] theorem State.foldl_kept {α : Type} {f : State → α → State} (hf : ∀ s a, (f s a).kept = s.kept)
    (l : List α) (s : State) : (l.foldl f s).kept = s.kept := State.foldl_part _ hf l s

theorem choice_of_some {α : Type} {a b : Bool} {s u t : α} (e : (if a then some s else if b then some u else none) = some t) :
    t = s ∨ t = u := by
  cases a
  · cases b
    · exact absurd e (Option.some_ne_none t).symm
    · exact .inr (Option.some.inj e).symm
  · exact .inl (Option.some.inj e).symm

/-! The updates. -/

section
variable (s : State)
@[simp] theorem State.setReg_kept (a : Nat) (v : Word) : (s.setReg a v).kept = s.kept := rfl
@[simp] theorem State.setBits_kept (a : Nat) (m : Word) : (s.setBits a m).kept = s.kept := rfl
@[simp] theorem State.setFlag_kept (a i : Nat) : (s.setFlag a i).kept = s.kept := rfl
@[simp] theorem State.putField_kept (a hi lo v : Nat) : (s.putField a hi lo v).kept = s.kept := rfl
@[simp] theorem State.setIsland_kept (i : Nat) (v : IslandState) : (s.setIsland i v).kept = s.kept := rfl
@[simp] theorem State.updHearth_kept (h : Nat) (f : Hearth → Hearth) : (s.updHearth h f).kept = s.kept := rfl
@[simp] theorem State.updFlue_kept (h : Nat) (f : Flue → Flue) : (s.updFlue h f).kept = s.kept := rfl
@[simp] theorem State.updChain_kept (i : Nat) (f : Chain → Chain) : (s.updChain i f).kept = s.kept := rfl
@[simp] theorem State.updPoint_kept (p : Nat) (f : Point → Point) : (s.updPoint p f).kept = s.kept := rfl
@[simp] theorem State.updSession_kept (k : Nat) (f : Session → Session) : (s.updSession k f).kept = s.kept := rfl
@[simp] theorem State.updPulse_kept (c : Nat) (f : Pulse → Pulse) : (s.updPulse c f).kept = s.kept := rfl
@[simp] theorem State.updDamper_kept (f : Damper → Damper) : (s.updDamper f).kept = s.kept := rfl
@[simp] theorem State.updEmber_kept (f : Ember → Ember) : (s.updEmber f).kept = s.kept := rfl
@[simp] theorem State.updHost_kept (f : HostIf → HostIf) : (s.updHost f).kept = s.kept := rfl
@[simp] theorem State.readBack_kept (v : Word) : (s.readBack v).kept = s.kept := rfl
@[simp] theorem State.readAbort_kept : (s.readAbort).kept = s.kept := rfl
@[simp] theorem State.dmaWrite_kept (a : Nat) (bs : List Byte) : (s.dmaWrite a bs).kept = s.kept := rfl
@[simp] theorem State.setPhase_kept (ord : Nat) (ph : Phase) : (s.setPhase ord ph).kept = s.kept := rfl
@[simp] theorem State.finish_kept (ord st det : Nat) (r : List Byte) : (s.finish ord st det r).kept = s.kept := rfl
@[simp] theorem State.finishOk_kept (ord : Nat) (r : List Byte) : (s.finishOk ord r).kept = s.kept := rfl
@[simp] theorem State.finishFail_kept (ord st det : Nat) : (s.finishFail ord st det).kept = s.kept := rfl
@[simp] theorem State.setReps_kept (i : Nat) (r : RepeatState) : (s.setReps i r).kept = s.kept := rfl
@[simp] theorem State.updRtc_kept (f : Rtc → Rtc) : (s.updRtc f).kept = s.kept := rfl
@[simp] theorem State.updLink_kept (f : Link → Link) : (s.updLink f).kept = s.kept := rfl
@[simp] theorem State.updPort_kept (p : Nat) (f : Port → Port) : (s.updPort p f).kept = s.kept := rfl
@[simp] theorem State.updTable_kept (t : Nat) (f : TableSlot → TableSlot) : (s.updTable t f).kept = s.kept := rfl
@[simp] theorem State.updHarm_kept (ch : Nat) (f : HarmChan → HarmChan) : (s.updHarm ch f).kept = s.kept := rfl
@[simp] theorem State.updSupra_kept (ch : Nat) (f : SupraChan → SupraChan) : (s.updSupra ch f).kept = s.kept := rfl
@[simp] theorem State.updEvents_kept (p : Nat) (f : PointEvents → PointEvents) : (s.updEvents p f).kept = s.kept := rfl
@[simp] theorem State.setCapture_kept (n : Nat) (c : Option Capture) : (s.setCapture n c).kept = s.kept := rfl
@[simp] theorem State.updSq_kept (n : Nat) (f : SqRing → SqRing) : (s.updSq n f).kept = s.kept := rfl
@[simp] theorem State.updOq_kept (m : Nat) (f : OqRing → OqRing) : (s.updOq m f).kept = s.kept := rfl
@[simp] theorem State.updWin_kept (f : Loader → Loader) : (s.updWin f).kept = s.kept := rfl
end

end Sys2Proof.Machine
end

