-- ==== Sys2Proof/Laws/KeepOps.lean ====
section
/-! SUPPORT. What the shared operations leave of the queue, the fuses and the straps: all of it. -/

namespace Sys2Proof.Machine

@[simp] theorem readRow_kept (isl : Nat) (s : State) (f : State → State) (hf : ∀ x0, (f x0).kept = x0.kept) : (readRow isl s f).kept = s.kept := by
  unfold readRow
  simp[hf]

@[simp] theorem State.raiseVector_kept (s : State) (v : Nat) : (State.raiseVector s v).kept = s.kept := by
  unfold State.raiseVector
  simp

@[simp] theorem State.hostErrs_kept (s : State) (bits : Word) (ring : Nat) :
    (State.hostErrs s bits ring).kept = s.kept := by
  unfold State.hostErrs
  dsimp only
  repeat' first | (simp; done)

@[simp] theorem State.hostErr_kept (s : State) (bit ring : Nat) : (State.hostErr s bit ring).kept = s.kept := by
  unfold State.hostErr
  repeat' first | (simp; done)

@[simp] theorem State.aerError_kept (s : State) : (State.aerError s).kept = s.kept := by
  unfold State.aerError
  repeat' first | (simp; done)

@[simp] theorem State.finishOpt_kept (s : State) (ord : Option Nat) (status detail : Nat) (result : List Byte) : (State.finishOpt s ord status detail result).kept = s.kept := by
  unfold State.finishOpt
  repeat' first | simp | simp only [State.kept_mk, State.kept_parts] | intro _ | split

@[simp] theorem writeBank_kept (final : Bool) (cut : Option Nat) (s : State) : (writeBank final cut s).kept = s.kept := by
  unfold writeBank
  dsimp only
  repeat' first | rw [State.foldl_kept] | simp

@[simp] theorem finalBank_kept (s : State) : (finalBank s).kept = s.kept := by
  unfold finalBank
  repeat' first | simp | simp only [State.kept_mk, State.kept_parts] | intro _ | split

@[simp] theorem writeMarker_kept (s : State) : (writeMarker s).kept = s.kept := by
  unfold writeMarker
  dsimp only
  repeat' first | simp | simp only [State.kept_mk, State.kept_parts] | intro _ | split

@[simp] theorem clearIsland_kept (i : Nat) (s : State) : (clearIsland i s).kept = s.kept := by
  unfold clearIsland
  dsimp only
  repeat' first | (simp; done) | simp only [State.kept_mk, State.kept_parts] | intro _ | split

@[simp] theorem enterReset_kept (i : Nat) (s : State) : (enterReset i s).kept = s.kept := by
  unfold enterReset
  simp

@[simp] theorem endTransfer_kept (s : State) : (endTransfer s).kept = s.kept := by
  unfold endTransfer
  dsimp only
  simp

@[simp] theorem abortPanels_kept (s : State) : (abortPanels s).kept = s.kept := by
  unfold abortPanels
  simp

@[simp] theorem dropLoading_kept (s : State) : (dropLoading s).kept = s.kept := by
  unfold dropLoading
  simp

@[simp] theorem enterControlReset_kept (s : State) : (enterControlReset s).kept = s.kept := by
  unfold enterControlReset
  dsimp only
  repeat' first | rw [State.foldl_kept] | simp

@[simp] theorem clearPower_kept (s : State) : (clearPower s).kept = s.kept := by
  unfold clearPower
  repeat' first | (simp; done)

@[simp] theorem enterMetrologyReset_kept (keepEmber : Bool) (s : State) : (enterMetrologyReset keepEmber s).kept = s.kept := by
  unfold enterMetrologyReset
  dsimp only
  repeat' first | rw [State.foldl_kept] | simp

@[simp] theorem triggerBank_kept (cause source : Nat) (s : State) : (triggerBank cause source s).kept = s.kept := by
  unfold triggerBank
  dsimp only
  simp

@[simp] theorem awaitBank_kept (source : Nat) (s : State) : (awaitBank source s).kept = s.kept := by
  unfold awaitBank
  dsimp only
  simp

@[simp] theorem enterLevel_kept (c : Nat) (old : Option Level) (new : Level) (s : State) : (enterLevel c old new s).kept = s.kept := by
  unfold enterLevel
  dsimp only
  repeat' first | (simp; done) | simp only [State.kept_mk, State.kept_parts] | intro _ | split

@[simp] theorem assertAt_kept (c : Nat) (l : Level) (clk : Nat) (s : State) : (assertAt c l clk s).kept = s.kept := by
  unfold assertAt
  dsimp only
  repeat' first | simp | simp only [State.kept_mk, State.kept_parts] | intro _ | split

@[simp] theorem assertSource_kept (c : Nat) (s : State) : (assertSource c s).kept = s.kept := by
  unfold assertSource
  dsimp only
  simp

@[simp] theorem releaseSource_kept (c : Nat) (s : State) : (releaseSource c s).kept = s.kept := by
  unfold releaseSource
  simp

@[simp] theorem failInflight_kept (i : Nat) (s : State) : (failInflight i s).kept = s.kept := by
  unfold failInflight
  dsimp only
  simp

@[simp] theorem endCapture_kept (n cause : Nat) (s : State) : (endCapture n cause s).kept = s.kept := by
  unfold endCapture
  dsimp only
  repeat' first | simp | simp only [State.kept_mk, State.kept_parts] | intro _ | split

@[simp] theorem endCaptures_kept (cause : Nat) (s : State) : (endCaptures cause s).kept = s.kept := by
  unfold endCaptures
  repeat' first | rw [State.foldl_kept] | simp

@[simp] theorem isolate_kept (i : Nat) (s : State) : (isolate i s).kept = s.kept := by
  unfold isolate
  dsimp only
  repeat' first | (simp; done) | simp only [State.kept_mk, State.kept_parts] | intro _ | split

@[simp] theorem addRecord_kept (key island code : Nat) (cls : FaultClass) (action detail rep flags : Nat) (s : State) :
    (addRecord key island code cls action detail rep flags s).kept = s.kept := by
  unfold addRecord
  dsimp only
  repeat' first | (simp; done)

@[simp] theorem flushRecords_kept (s : State) : (flushRecords s).kept = s.kept := by
  unfold flushRecords
  repeat' first | rw [State.foldl_kept] | simp

@[simp] theorem escalate_kept (key : Nat) (l : List (Nat × Level)) (s : State) :
    (escalate key l s).kept = s.kept := by
  unfold escalate
  dsimp only
  repeat' first | (simp; done)

@[simp] theorem islandFault_kept (island code detail : Nat) (s : State) :
    (islandFault island code detail s).kept = s.kept := by
  unfold islandFault
  dsimp only
  repeat' first | (simp; done)

@[simp] theorem deviceFault_kept (island code detail : Nat) (own : Level) (s : State) :
    (deviceFault island code detail own s).kept = s.kept := by
  unfold deviceFault
  dsimp only
  repeat' first | (simp; done)

@[simp] theorem reportFault_kept (island code detail : Nat) (s : State) :
    (reportFault island code detail s).kept = s.kept := by
  unfold reportFault
  dsimp only
  repeat' first | (simp; done) | simp only [State.kept_mk, State.kept_parts] | intro _ | split

@[simp] theorem writeReg_kept (a : Nat) (v : Word) (s : State) : (writeReg a v s).kept = s.kept := by
  unfold writeReg
  dsimp only
  repeat' first | (simp; done) | simp only [State.kept_mk, State.kept_parts] | intro _ | split

@[simp] theorem State.finishStatic_kept (s : State) (d : Inflight) (x : Nat × Nat) :
    (State.finishStatic s d x).kept = s.kept := by
  unfold State.finishStatic
  repeat' first | (simp; done)

theorem withDescriptor_kept (ops : List Nat) (ord : Nat) (s : State) (f : Inflight → State) (hf : ∀ x0, (f x0).kept = s.kept) : Leaves (·.kept) s (withDescriptor ops ord s f) := by
  unfold withDescriptor
  repeat' first
    | (simp[hf]; done) | dsimp only | intro _ | rw [leaves_next] | rw [leaves_ite]
    | with_reducible apply And.intro | split

theorem withBuffer_kept (ops : List Nat) (ord : Nat) (s : State) (f : Inflight → State) (hf : ∀ x0, (f x0).kept = s.kept) : Leaves (·.kept) s (withBuffer ops ord s f) := by
  unfold withBuffer
  repeat' first
    | (simp[hf]; done) | dsimp only | intro _ | rw [leaves_next] | rw [leaves_ite]
    | with_reducible apply And.intro | split | with_reducible apply withDescriptor_kept

@[simp] theorem transferError_kept (bit ring : Nat) (s : State) : (transferError bit ring s).kept = s.kept := by
  unfold transferError
  repeat' first | (simp; done)

@[simp] theorem bufferError_kept (ord detail : Nat) (s : State) : (bufferError ord detail s).kept = s.kept := by
  unfold bufferError
  simp

@[simp] theorem writeBuffer_kept (d : Inflight) (ok : Bool) (data result : List Byte) (s : State) : (writeBuffer d ok data result s).kept = s.kept := by
  unfold writeBuffer
  simp

@[simp] theorem payReply_kept (s : State) (w : OwedReply) : (payReply s w).kept = s.kept := by
  unfold payReply
  dsimp only
  repeat' first | (simp; done)

@[simp] theorem payOwed_kept (s : State) : (payOwed s).kept = s.kept := by
  unfold payOwed
  repeat' first | (simp; done)

theorem post_kept (cmd : MailCmd) (ord : Option Nat) (s t : State) (e : post cmd ord s = some t) : t.kept = s.kept := by
  unfold post at e
  split at e
  · rw [← Option.some.inj e]; rfl
  · contradiction
@[simp] theorem postFor_kept (d : Inflight) (cmd : MailCmd) (s : State) : (postFor d cmd s).kept = s.kept := by
  unfold postFor
  split
  · rename_i t h; exact Eq.trans (b := t.kept) rfl (post_kept _ _ _ _ h)
  · rfl

@[simp] theorem writeBoot_kept (l1 l2 img : Nat) (s : State) : (writeBoot l1 l2 img s).kept = s.kept := by
  unfold writeBoot
  dsimp only
  simp

@[simp] theorem writeLayer_kept (layer v : Nat) (s : State) : (writeLayer layer v s).kept = s.kept := by
  unfold writeLayer
  simp

@[simp] theorem setSlot_kept (layer : Nat) (b : Bool) (st : Nat) (s : State) : (setSlot layer b st s).kept = s.kept := by
  unfold setSlot
  simp

@[simp] theorem activateSlot_kept (layer : Nat) (b trial : Bool) (s : State) : (activateSlot layer b trial s).kept = s.kept := by
  unfold activateSlot
  simp

@[simp] theorem setImageSlot_kept (b : Bool) (s : State) : (setImageSlot b s).kept = s.kept := by
  unfold setImageSlot
  simp

@[simp] theorem clearTrial_kept (s : State) : (clearTrial s).kept = s.kept := by
  unfold clearTrial
  dsimp only
  simp

@[simp] theorem acceptStart_kept (s : State) : (acceptStart s).kept = s.kept := by
  unfold acceptStart
  repeat' first | (simp; done)

@[simp] theorem writeSlot_kept (layer : Nat) (b : Bool) (bs : List Byte) (s : State) : (writeSlot layer b bs s).kept = s.kept := by
  unfold writeSlot
  simp

@[simp] theorem setMreg_kept (i : Nat) (v : BitVec 384) (s : State) : (setMreg i v s).kept = s.kept := by
  unfold setMreg
  dsimp only
  simp

@[simp] theorem measuredBoot_kept (s : State) : (measuredBoot s).kept = s.kept := by
  unfold measuredBoot
  simp only [setMreg_kept]

@[simp] theorem saveContext_kept (k : Nat) (s : State) : (saveContext k s).kept = s.kept := by
  unfold saveContext
  simp

@[simp] theorem State.setSession_kept (s : State) (k : Nat) (f : Session → Session) : (State.setSession s k f).kept = s.kept := by
  unfold State.setSession
  simp

@[simp] theorem flagSession_kept (k bits : Nat) (s : State) : (flagSession k bits s).kept = s.kept := by
  unfold flagSession
  simp

@[simp] theorem restoreStore_kept (s : State) : (restoreStore s).kept = s.kept := by
  unfold restoreStore
  dsimp only
  repeat' first | rw [State.foldl_kept] | simp

@[simp] theorem restorePoint_kept (s : State) (p : Nat) : (restorePoint s p).kept = s.kept := by
  unfold restorePoint
  dsimp only
  repeat' first | (simp; done) | simp only [State.kept_mk, State.kept_parts] | intro _ | split

@[simp] theorem restorePoints_kept (s : State) : (restorePoints s).kept = s.kept := by
  unfold restorePoints
  repeat' first | rw [State.foldl_kept] | simp

@[simp] theorem addDue_kept (r : DueRecord) (s : State) : (addDue r s).kept = s.kept := by
  unfold addDue
  simp

@[simp] theorem gapSession_kept (s : State) (k : Nat) : (gapSession s k).kept = s.kept := by
  unfold gapSession
  dsimp only
  simp

@[simp] theorem outageRecords_kept (r : Restore) (s : State) : (outageRecords r s).kept = s.kept := by
  unfold outageRecords
  dsimp only
  simp

@[simp] theorem beginEpoch_kept (s : State) : (beginEpoch s).kept = s.kept := by
  unfold beginEpoch
  dsimp only
  repeat' first | rw [State.foldl_kept] | simp | simp only [State.kept_mk, State.kept_parts] | intro _ | split

@[simp] theorem checkFwChange_kept (s : State) : (checkFwChange s).kept = s.kept := by
  unfold checkFwChange
  dsimp only
  simp

@[simp] theorem sysTick_kept (s : State) : (sysTick s).kept = s.kept := rfl

end Sys2Proof.Machine
end

