-- ==== Sys2Proof/Laws/KeepMeter.lean ====
section
/-! SUPPORT. What the metering path, the link and their commands leave of the queue, the fuses and the straps: all of it. -/

namespace Sys2Proof.Machine

@[simp] theorem markOver_kept (h i : Nat) (s : State) : (markOver h i s).kept = s.kept := by
  unfold markOver
  dsimp only
  repeat' first | simp | simp only [State.kept_mk, State.kept_parts] | intro _ | split

@[simp] theorem overFrame_kept (h : Nat) (s : State) : (overFrame h s).kept = s.kept := by
  unfold overFrame
  dsimp only
  simp

theorem execRebuildComplete_kept (h : Fin 8) (wit : Bool) (a : Rebuilt) (s : State) : Leaves (·.kept) s (execRebuildComplete h wit a s) := by
  unfold execRebuildComplete
  simp

@[simp] theorem rebuildEnd_kept (h : Nat) (wit : Bool) (cause : Nat) (s : State) : (rebuildEnd h wit cause s).kept = s.kept := by
  unfold rebuildEnd
  dsimp only
  repeat' first | simp | simp only [State.kept_mk, State.kept_parts] | intro _ | split

theorem execRebuildTimeout_kept (h : Fin 8) (wit : Bool) (a : Rebuilt) (s : State) : Leaves (·.kept) s (execRebuildTimeout h wit a s) := by
  unfold execRebuildTimeout
  simp

theorem execRefTimeout_kept (h : Fin 8) (s : State) : Leaves (·.kept) s (execRefTimeout h s) := by
  unfold execRefTimeout
  dsimp only
  simp

theorem execBackgroundRekindle_kept (h : Fin 8) (s : State) : Leaves (·.kept) s (execBackgroundRekindle h s) := by
  unfold execBackgroundRekindle
  dsimp only
  simp

theorem execRetry_kept (mask : BitVec 8) (s : State) : Leaves (·.kept) s (execRetry mask s) := by
  unfold execRetry
  repeat' first | rw [State.foldl_kept] | simp

theorem execTapLatch_kept (h : Fin 8) (code : Int) (s : State) : Leaves (·.kept) s (execTapLatch h code s) := by
  unfold execTapLatch
  dsimp only
  simp

theorem execTapDataRead_kept (h : Fin 8) (s : State) : Leaves (·.kept) s (execTapDataRead h s) := by
  unfold execTapDataRead
  repeat' first
    | (simp; done) | dsimp only | intro _ | rw [leaves_next] | split
    | rw [readRow_kept]

@[simp] theorem flueFrame_kept (h : Nat) (s : State) : (flueFrame h s).kept = s.kept := by
  unfold flueFrame
  dsimp only
  simp

@[simp] theorem engineStart_kept (h : Nat) (s : State) : (engineStart h s).kept = s.kept := by
  unfold engineStart
  dsimp only
  repeat' first | rw [State.foldl_kept] | simp

@[simp] theorem chainStart_kept (i : Nat) (s : State) : (chainStart i s).kept = s.kept := by
  unfold chainStart
  simp

theorem execFlueBankData_kept (h : Fin 8) (v : Word) (s : State) : Leaves (·.kept) s (execFlueBankData h v s) := by
  unfold execFlueBankData
  dsimp only
  simp

theorem execSwap_kept (h : Fin 8) (v : Word) (s : State) : Leaves (·.kept) s (execSwap h v s) := by
  unfold execSwap
  dsimp only
  simp

theorem execBankHashComplete_kept (h : Fin 8) (s : State) : Leaves (·.kept) s (execBankHashComplete h s) := by
  unfold execBankHashComplete
  dsimp only
  repeat' first
    | rw [State.foldl_kept] | (simp; done) | dsimp only | intro _ | rw [leaves_next]
    | rw [leaves_ite] | with_reducible apply And.intro | split

theorem execSwapComplete_kept (h : Fin 8) (s : State) : Leaves (·.kept) s (execSwapComplete h s) := by
  unfold execSwapComplete
  repeat' first
    | (simp; done) | simp only [State.kept_mk, State.kept_parts] | intro _ | rw [leaves_next] | rw [leaves_ite]
    | with_reducible apply And.intro | split

theorem execFillEnd_kept (h : Fin 8) (s : State) : Leaves (·.kept) s (execFillEnd h s) := by
  unfold execFillEnd
  dsimp only
  repeat' first
    | rw [State.foldl_kept] | (simp; done) | simp only [State.kept_mk, State.kept_parts] | intro _ | rw [leaves_next]
    | rw [leaves_ite]

theorem execIntegratorFillEnd_kept (i : Fin 128) (s : State) : Leaves (·.kept) s (execIntegratorFillEnd i s) := by
  unfold execIntegratorFillEnd
  simp

theorem execFlueTrkLenLoRead_kept (h : Fin 8) (hi : Bool) (s : State) : Leaves (·.kept) s (execFlueTrkLenLoRead h hi s) := by
  unfold execFlueTrkLenLoRead
  dsimp only
  simp

@[simp] theorem takeSamples_kept (f : Nat) (s : State) : (takeSamples f s).kept = s.kept := by
  unfold takeSamples
  dsimp only
  repeat' first | rw [State.foldl_kept] | simp

@[simp] theorem dropDelivered_kept (f : Nat) (s : State) : (dropDelivered f s).kept = s.kept := by
  unfold dropDelivered
  simp

@[simp] theorem pointSample_kept (f : Nat) (s : State) (p : Nat) : (pointSample f s p).kept = s.kept := by
  unfold pointSample
  dsimp only
  repeat' first | (simp; done) | simp only [State.kept_mk, State.kept_parts] | intro _ | split

@[simp] theorem missTaken_kept (f : Nat) (s : State) (p : Nat) : (missTaken f s p).kept = s.kept := by
  unfold missTaken
  repeat' first | (simp; done)

@[simp] theorem countInput_kept (s : State) (i : Nat) : (countInput s i).kept = s.kept := by
  unfold countInput
  dsimp only
  repeat' first | (simp; done)

@[simp] theorem pulseFrame_kept (f : Nat) (s : State) (c : Nat) : (pulseFrame f s c).kept = s.kept := by
  unfold pulseFrame
  dsimp only
  simp

theorem execImpulseStart_kept (c : Fin 8) (s : State) : Leaves (·.kept) s (execImpulseStart c s) := by
  unfold execImpulseStart
  dsimp only
  simp

theorem execImpulseEnd_kept (c : Fin 8) (s : State) : Leaves (·.kept) s (execImpulseEnd c s) := by
  unfold execImpulseEnd
  dsimp only
  simp

theorem execEnergyBeatLoRead_kept (hi : Bool) (s : State) : Leaves (·.kept) s (execEnergyBeatLoRead hi s) := by
  unfold execEnergyBeatLoRead
  simp

@[simp] theorem ashInput_kept (s : State) (j : Nat) : (ashInput s j).kept = s.kept := by
  unfold ashInput
  repeat' first | (simp; done) | simp only [State.kept_mk, State.kept_parts] | intro _ | split

@[simp] theorem ashEcc_kept (a : Word) (s : State) : (ashEcc a s).kept = s.kept := by
  unfold ashEcc
  simp

@[simp] theorem closeMeasured_kept (j : Nat) (c : Cycle) (pos lm : Nat) (ecc : Option Word) (s : State) : (closeMeasured j c pos lm ecc s).kept = s.kept := by
  unfold closeMeasured
  dsimp only
  repeat' first | (simp; done) | simp only [State.kept_mk, State.kept_parts] | intro _ | split

theorem execCycleClose_kept (ch : Fin 48) (pos : Nat) (ecc : Option Word) (s : State) : Leaves (·.kept) s (execCycleClose ch pos ecc s) := by
  unfold execCycleClose
  dsimp only
  repeat' first
    | (simp; done) | dsimp only | intro _ | rw [leaves_next] | rw [leaves_ite]
    | with_reducible apply And.intro | split

theorem execCycleTimeout_kept (ch : Fin 48) (s : State) : Leaves (·.kept) s (execCycleTimeout ch s) := by
  unfold execCycleTimeout
  dsimp only
  simp

theorem execHarmonicWindowClose_kept (ch : Fin 48) (s : State) : Leaves (·.kept) s (execHarmonicWindowClose ch s) := by
  unfold execHarmonicWindowClose
  dsimp only
  repeat' first
    | (simp; done) | dsimp only | intro _ | rw [leaves_next] | rw [leaves_ite]
    | with_reducible apply And.intro | split

theorem execHarmonicPublication_kept (ch : Fin 48) (s : State) : Leaves (·.kept) s (execHarmonicPublication ch s) := by
  unfold execHarmonicPublication
  dsimp only
  repeat' first
    | (simp; done) | dsimp only | intro _ | rw [leaves_next] | rw [leaves_ite]
    | with_reducible apply And.intro | split

@[simp] theorem supraBlock_kept (t : Nat) (s : State) (j : Nat) : (supraBlock t s j).kept = s.kept := rfl

theorem execSupraharmonicBlock_kept (s : State) : Leaves (·.kept) s (execSupraharmonicBlock s) := by
  unfold execSupraharmonicBlock
  dsimp only
  repeat' first
    | rw [State.foldl_kept] | (simp; done) | simp only [State.kept_mk, State.kept_parts] | intro _ | rw [leaves_next]
    | rw [leaves_ite]

theorem execSupraharmonicIntervalPublication_kept (ch : Fin 24) (s : State) : Leaves (·.kept) s (execSupraharmonicIntervalPublication ch s) := by
  unfold execSupraharmonicIntervalPublication
  dsimp only
  repeat' first
    | (simp; done) | dsimp only | intro _ | rw [leaves_next] | rw [leaves_ite]
    | with_reducible apply And.intro | split

@[simp] theorem restartHarm_kept (h : Nat) (s : State) : (restartHarm h s).kept = s.kept := by
  unfold restartHarm
  repeat' first | rw [State.foldl_kept] | simp

@[simp] theorem spectralDramStart_kept (s : State) : (spectralDramStart s).kept = s.kept := by
  unfold spectralDramStart
  simp

theorem execSpectralRestartEnd_kept (s : State) : Leaves (·.kept) s (execSpectralRestartEnd s) := by
  unfold execSpectralRestartEnd
  simp

theorem execSessionOpen_kept (ord : Nat) (buf : HostRead) (s : State) : Leaves (·.kept) s (execSessionOpen ord buf s) := by
  unfold execSessionOpen
  repeat' first
    | simp | simp only [State.kept_mk, State.kept_parts] | intro _ | rw [leaves_next] | split
    | with_reducible apply withBuffer_kept

theorem execSessionTariff_kept (ord : Nat) (s : State) : Leaves (·.kept) s (execSessionTariff ord s) := by
  unfold execSessionTariff
  repeat' first
    | simp | simp only [State.kept_mk, State.kept_parts] | intro _ | rw [leaves_next] | split
    | with_reducible apply withDescriptor_kept

theorem execSessionPause_kept (ord : Nat) (s : State) : Leaves (·.kept) s (execSessionPause ord s) := by
  unfold execSessionPause
  repeat' first
    | simp | simp only [State.kept_mk, State.kept_parts] | intro _ | rw [leaves_next] | split
    | with_reducible apply withDescriptor_kept

theorem execSessionResume_kept (ord : Nat) (s : State) : Leaves (·.kept) s (execSessionResume ord s) := by
  unfold execSessionResume
  repeat' first
    | simp | simp only [State.kept_mk, State.kept_parts] | intro _ | rw [leaves_next] | split
    | with_reducible apply withDescriptor_kept

theorem execSessionClose_kept (ord : Nat) (s : State) : Leaves (·.kept) s (execSessionClose ord s) := by
  unfold execSessionClose
  repeat' first
    | simp | simp only [State.kept_mk, State.kept_parts] | intro _ | rw [leaves_next] | split
    | with_reducible apply withDescriptor_kept

theorem execSessionRelease_kept (ord : Nat) (s : State) : Leaves (·.kept) s (execSessionRelease ord s) := by
  unfold execSessionRelease
  repeat' first
    | simp | simp only [State.kept_mk, State.kept_parts] | intro _ | rw [leaves_next] | split
    | with_reducible apply withDescriptor_kept

theorem execSessionRead_kept (ord : Nat) (ok : Bool) (s : State) : Leaves (·.kept) s (execSessionRead ord ok s) := by
  unfold execSessionRead
  dsimp only
  repeat' first
    | simp | simp only [State.kept_mk, State.kept_parts] | intro _ | rw [leaves_next] | rw [leaves_ite]
    | with_reducible apply And.intro | split | with_reducible apply withBuffer_kept

theorem execMailboxLatch_kept (s : State) : Leaves (·.kept) s (execMailboxLatch s) := by
  unfold execMailboxLatch
  dsimp only
  simp

@[simp] theorem fallDue_kept (k : Nat) (g : Segment) (replace : Bool) (s : State) : (fallDue k g replace s).kept = s.kept := by
  unfold fallDue
  dsimp only
  simp

@[simp] theorem dueChanges_kept (s : State) (k : Nat) : (dueChanges s k).kept = s.kept := by
  unfold dueChanges
  dsimp only
  repeat' first | rw [State.foldl_kept] | simp

@[simp] theorem failEntry_kept (m : MailEntry) (status detail : Nat) (s : State) : (failEntry m status detail s).kept = s.kept := by
  unfold failEntry
  simp

@[simp] theorem awaitRecord_kept (m : MailEntry) (signed : Bool) (k : Nat) (s : State) : (awaitRecord m signed k s).kept = s.kept := by
  unfold awaitRecord
  repeat' first | simp | simp only [State.kept_mk, State.kept_parts] | intro _ | split

@[simp] theorem applyOpen_kept (m : MailEntry) (p : Nat) (onCur : Bool) (iStart interval tariff : Nat) (token : BitVec 256) (s : State) : (applyOpen m p onCur iStart interval tariff token s).kept = s.kept := by
  unfold applyOpen
  dsimp only
  repeat' first | (simp; done) | simp only [State.kept_mk, State.kept_parts] | intro _ | split

@[simp] theorem applyTariff_kept (m : MailEntry) (k : Nat) (programmed : Bool) (t tariff : Nat) (s : State) : (applyTariff m k programmed t tariff s).kept = s.kept := by
  unfold applyTariff
  dsimp only
  simp

@[simp] theorem applyMove_kept (m : MailEntry) (k : Nat) (src dst : SessState) (t : RecType) (gate : Bool) (s : State) : (applyMove m k src dst t gate s).kept = s.kept := by
  unfold applyMove
  dsimp only
  simp

@[simp] theorem applyClose_kept (m : MailEntry) (k : Nat) (s : State) : (applyClose m k s).kept = s.kept := by
  unfold applyClose
  dsimp only
  simp

@[simp] theorem applyRelease_kept (m : MailEntry) (k : Nat) (s : State) : (applyRelease m k s).kept = s.kept := by
  unfold applyRelease
  dsimp only
  simp

@[simp] theorem signedDone_kept (seq : Nat) (s : State) : (signedDone seq s).kept = s.kept := by
  unfold signedDone
  dsimp only
  repeat' first | rw [State.foldl_kept] | (simp; done) | simp only [State.kept_mk, State.kept_parts] | intro _ | split

@[simp] theorem applySign_kept (seq : Nat) (sig : BitVec 512) (replace : Bool) (s : State) : (applySign seq sig replace s).kept = s.kept := by
  unfold applySign
  dsimp only
  repeat' first | rw [State.foldl_kept] | simp

@[simp] theorem applyAck_kept (seq : Nat) (s : State) : (applyAck seq s).kept = s.kept := by
  unfold applyAck
  dsimp only
  repeat' first | rw [State.foldl_kept] | simp

@[simp] theorem beginHold_kept (slot fallback : Bool) (ord : Option Nat) (s : State) : (beginHold slot fallback ord s).kept = s.kept := by
  unfold beginHold
  simp

@[simp] theorem applyActivate_kept (m : MailEntry) (s : State) : (applyActivate m s).kept = s.kept := by
  unfold applyActivate
  repeat' first | (simp; done) | dsimp only | intro _ | split

@[simp] theorem applyEntry_kept (s : State) (m : MailEntry) : (applyEntry s m).kept = s.kept := by
  unfold applyEntry
  repeat' first | simp | simp only [State.kept_mk, State.kept_parts] | intro _ | split

@[simp] theorem rollSessions_kept (s : State) : (rollSessions s).kept = s.kept := by
  unfold rollSessions
  dsimp only
  repeat' first | rw [State.foldl_kept] | simp

@[simp] theorem startSession_kept (k b : Nat) (s : State) : (startSession k b s).kept = s.kept := by
  unfold startSession
  dsimp only
  simp

@[simp] theorem startImmediate_kept (s : State) (k : Nat) : (startImmediate s k).kept = s.kept := by
  unfold startImmediate
  dsimp only
  simp

@[simp] theorem intervalDue_kept (s : State) (k : Nat) : (intervalDue s k).kept = s.kept := by
  unfold intervalDue
  dsimp only
  simp

@[simp] theorem openDone_kept (s : State) : (openDone s).kept = s.kept := by
  unfold openDone
  repeat' first | rw [State.foldl_kept] | (simp; done) | simp only [State.kept_mk, State.kept_parts] | intro _ | split

@[simp] theorem sessionBoundary_kept (s : State) : (sessionBoundary s).kept = s.kept := by
  unfold sessionBoundary
  dsimp only
  repeat' first | (simp; done)

@[simp] theorem judgeCurrent_kept (reading : Nat → Nat) (metered : Nat → Bool) (s : State) (k : Nat) : (judgeCurrent reading metered s k).kept = s.kept := by
  unfold judgeCurrent
  dsimp only
  repeat' first | rw [State.foldl_kept] | simp

@[simp] theorem fillRecords_kept (senseFb : Nat → Bool) (s : State) : (fillRecords senseFb s).kept = s.kept := by
  unfold fillRecords
  simp

@[simp] theorem addEntry_kept (e : EventEntry) (s : State) : (addEntry e s).kept = s.kept := by
  unfold addEntry
  simp

@[simp] theorem flagOpen_kept (p code : Nat) (s : State) : (flagOpen p code s).kept = s.kept := by
  unfold flagOpen
  repeat' first | simp | simp only [State.kept_mk, State.kept_parts] | intro _ | split

@[simp] theorem declare_kept (p code kind : Nat) (d : Detector) (ts pos : Nat) (s : State) : (declare p code kind d ts pos s).kept = s.kept := by
  unfold declare
  dsimp only
  simp

@[simp] theorem runDetector_kept (p code minStart minEnd : Nat) (hit clear : Bool) (onset ts : Nat) (value : Rat) (pick : Rat → Rat → Rat) (pos : Nat) (s : State) : (runDetector p code minStart minEnd hit clear onset ts value pick pos s).kept = s.kept := by
  unfold runDetector
  dsimp only
  repeat' first | simp | simp only [State.kept_mk, State.kept_parts] | intro _ | split

@[simp] theorem judgeUrms_kept (p ts : Nat) (s : State) : (judgeUrms p ts s).kept = s.kept := by
  unfold judgeUrms
  dsimp only
  repeat' first | rw [State.foldl_kept] | simp

theorem execUrmsEvaluation_kept (p : Fin 32) (s : State) : Leaves (·.kept) s (execUrmsEvaluation p s) := by
  unfold execUrmsEvaluation
  dsimp only
  simp

@[simp] theorem scheduleUrms_kept (w : Nat) (s : State) (p : Nat) : (scheduleUrms w s p).kept = s.kept := by
  unfold scheduleUrms
  dsimp only
  simp

@[simp] theorem noteSample_kept (f : Nat) (s : State) (p : Nat) : (noteSample f s p).kept = s.kept := by
  unfold noteSample
  dsimp only
  repeat' first | (simp; done) | simp only [State.kept_mk, State.kept_parts] | intro _ | split

theorem execFundamentalCrossing_kept (p : Fin 32) (s : State) : Leaves (·.kept) s (execFundamentalCrossing p s) := by
  unfold execFundamentalCrossing
  dsimp only
  simp

@[simp] theorem judgeFreq_kept (ts : Nat) (f : Rat) (locked : Bool) (s : State) (p : Nat) : (judgeFreq ts f locked s p).kept = s.kept := by
  unfold judgeFreq
  dsimp only
  simp

@[simp] theorem reportCrossing_kept (t pos : Nat) (s : State) : (reportCrossing t pos s).kept = s.kept := by
  unfold reportCrossing
  dsimp only
  repeat' first | (simp; done)

theorem execTrackerCrossing_kept (t : Fin 8) (pos : Nat) (s : State) : Leaves (·.kept) s (execTrackerCrossing t pos s) := by
  unfold execTrackerCrossing
  dsimp only
  repeat' first | rw [State.foldl_kept] | simp

@[simp] theorem nominalTick_kept (w : Nat) (s : State) (p : Nat) : (nominalTick w s p).kept = s.kept := by
  unfold nominalTick
  dsimp only
  simp

@[simp] theorem clampInput_kept (h i : Nat) (s : State) : (clampInput h i s).kept = s.kept := by
  unfold clampInput
  dsimp only
  simp

theorem execOverrange_kept (h : Fin 8) (i : Fin 16) (s : State) : Leaves (·.kept) s (execOverrange h i s) := by
  unfold execOverrange
  simp

@[simp] theorem overrangeWide_kept (w : Nat) (s : State) (p : Nat) : (overrangeWide w s p).kept = s.kept := by
  unfold overrangeWide
  dsimp only
  simp

@[simp] theorem judgeDc_kept (g : Image) (s : State) (p : Nat) : (judgeDc g s p).kept = s.kept := by
  unfold judgeDc
  dsimp only
  simp

@[simp] theorem witnessEvents_kept (g : Image) (i beat meanAbs : Nat) (s : State) : (witnessEvents g i beat meanAbs s).kept = s.kept := by
  unfold witnessEvents
  dsimp only
  repeat' first | rw [State.foldl_kept] | simp | simp only [State.kept_mk, State.kept_parts] | intro _ | split

@[simp] theorem truncateEvents_kept (b : Nat) (s : State) (p : Nat) : (truncateEvents b s p).kept = s.kept := by
  unfold truncateEvents
  dsimp only
  repeat' first | rw [State.foldl_kept] | simp

@[simp] theorem pushEntry_kept (s : State) (e : EventEntry) : (pushEntry s e).kept = s.kept := by
  unfold pushEntry
  dsimp only
  simp

@[simp] theorem eventRecord_kept (s : State) (e : EventEntry) : (eventRecord s e).kept = s.kept := by
  unfold eventRecord
  dsimp only
  repeat' first | (simp; done) | simp only [State.kept_mk, State.kept_parts] | intro _ | split

@[simp] theorem publishEvents_kept (s : State) : (publishEvents s).kept = s.kept := by
  unfold publishEvents
  dsimp only
  repeat' first | rw [State.foldl_kept] | simp

theorem execEventTbBeatLoRead_kept (hi : Bool) (s : State) : Leaves (·.kept) s (execEventTbBeatLoRead hi s) := by
  unfold execEventTbBeatLoRead
  dsimp only
  simp

@[simp] theorem captureTake_kept (out : CapWrite) (n idx : Nat) (x : Samp) (s : State) :
    (captureTake out n idx x s).kept = s.kept := by
  unfold captureTake
  dsimp only
  repeat' first | (simp; done) | simp only [State.kept_mk, State.kept_parts] | intro _ | split

@[simp] theorem captureAsh_kept (out : CapWrite) (n j w : Nat) (c : Capture) (s : State) :
    (captureAsh out n j w c s).kept = s.kept := by
  unfold captureAsh
  dsimp only
  repeat' first | (simp; done) | rw [State.foldl_kept] | simp only [State.kept_mk, State.kept_parts] | intro _ | split

@[simp] theorem captureOne_kept (caps : List CapWrite) (w : Nat) (s : State) (n : Nat) :
    (captureOne caps w s n).kept = s.kept := by
  unfold captureOne
  dsimp only
  repeat' first | (simp; done) | simp only [State.kept_mk, State.kept_parts] | intro _ | split

@[simp] theorem captureFrame_kept (caps : List CapWrite) (w : Nat) (s : State) :
    (captureFrame caps w s).kept = s.kept := by
  unfold captureFrame
  repeat' first | (simp; done)

@[simp] theorem captureSwap_kept (s : State) : (captureSwap s).kept = s.kept := by
  unfold captureSwap
  repeat' first | rw [State.foldl_kept] | simp | simp only [State.kept_mk, State.kept_parts] | intro _ | split

theorem execCaptureStart_kept (ord : Nat) (s : State) : Leaves (·.kept) s (execCaptureStart ord s) := by
  unfold execCaptureStart
  dsimp only
  repeat' first
    | (simp; done) | simp only [State.kept_mk, State.kept_parts] | intro _ | rw [leaves_next] | rw [leaves_ite]
    | with_reducible apply And.intro | split | with_reducible apply withDescriptor_kept

theorem execCaptureTrigger_kept (n : Fin 4) (s : State) : Leaves (·.kept) s (execCaptureTrigger n s) := by
  unfold execCaptureTrigger
  repeat' first
    | (simp; done) | simp only [State.kept_mk, State.kept_parts] | intro _ | rw [leaves_next] | rw [leaves_ite]
    | with_reducible apply And.intro | split

theorem execCaptureStop_kept (ord : Nat) (s : State) : Leaves (·.kept) s (execCaptureStop ord s) := by
  unfold execCaptureStop
  dsimp only
  repeat' first
    | simp | simp only [State.kept_mk, State.kept_parts] | intro _ | rw [leaves_next] | split
    | with_reducible apply withDescriptor_kept

@[simp] theorem bankSwap_kept (s : State) : (bankSwap s).kept = s.kept := by
  unfold bankSwap
  dsimp only
  repeat' first | simp | simp only [State.kept_mk, State.kept_parts] | intro _ | split

@[simp] theorem cycleMessage_kept (s : State) : (cycleMessage s).kept = s.kept := by
  unfold cycleMessage
  simp

@[simp] theorem endCycle_kept (whole : Bool) (s : State) : (endCycle whole s).kept = s.kept := by
  unfold endCycle
  simp

@[simp] theorem startCycle_kept (s : State) : (startCycle s).kept = s.kept := by
  unfold startCycle
  simp

@[simp] theorem pqInput_kept (w : Nat) (s : State) (i : Nat) : (pqInput w s i).kept = s.kept := by
  unfold pqInput
  dsimp only
  repeat' first | (simp; done) | dsimp only | intro _ | split

@[simp] theorem spectralFrame_kept (w : Nat) (s : State) : (spectralFrame w s).kept = s.kept := by
  unfold spectralFrame
  dsimp only
  repeat' first | rw [State.foldl_kept] | simp

@[simp] theorem betweenExchanges_kept (s : State) : (betweenExchanges s).kept = s.kept := by
  unfold betweenExchanges
  simp

@[simp] theorem finishPoll_kept (e : Exchange) (code : Nat) (ok : Bool) (s : State) : (finishPoll e code ok s).kept = s.kept := by
  unfold finishPoll
  dsimp only
  simp

@[simp] theorem finishSend_kept (o : Nat) (e : Exchange) (code : Nat) (ok : Bool) (s : State) : (finishSend o e code ok s).kept = s.kept := by
  unfold finishSend
  dsimp only
  simp

@[simp] theorem finishExchange_kept (e : Exchange) (code : Nat) (ok : Bool) (s : State) : (finishExchange e code ok s).kept = s.kept := by
  unfold finishExchange
  repeat' first | (simp; done) | simp only [State.kept_mk, State.kept_parts] | intro _ | split

@[simp] theorem failAttempt_kept (e : Exchange) (crc ok : Bool) (s : State) : (failAttempt e crc ok s).kept = s.kept := by
  unfold failAttempt
  dsimp only
  simp

@[simp] theorem linkOff_kept (s : State) : (linkOff s).kept = s.kept := by
  unfold linkOff
  dsimp only
  repeat' first | (simp; done) | rw [State.foldl_kept] | simp only [State.kept_mk, State.kept_parts] | intro _ | split

@[simp] theorem linkDisable_kept (s : State) : (linkDisable s).kept = s.kept := by
  unfold linkDisable
  repeat' first | (simp; done)

@[simp] theorem switchLink_kept (old new : Image) (s : State) : (switchLink old new s).kept = s.kept := by
  unfold switchLink
  repeat' first | (simp; done)

@[simp] theorem afterFrame_kept (s : State) : (afterFrame s).kept = s.kept := by
  unfold afterFrame
  simp

theorem execLinkEn_kept (on : Bool) (s : State) : Leaves (·.kept) s (execLinkEn on s) := by
  unfold execLinkEn
  dsimp only
  repeat' first
    | (simp; done) | dsimp only | intro _ | rw [leaves_next] | rw [leaves_ite]
    | with_reducible apply And.intro | split

theorem execPollRun_kept (on : Bool) (s : State) : Leaves (·.kept) s (execPollRun on s) := by
  unfold execPollRun
  dsimp only
  simp

@[simp] theorem beginExchange_kept (e : Exchange) (s : State) : (beginExchange e s).kept = s.kept := by
  unfold beginExchange
  simp

@[simp] theorem nextExchange_kept (s : State) : (nextExchange s).kept = s.kept := by
  unfold nextExchange
  repeat' first | (simp; done) | simp only [State.kept_mk, State.kept_parts] | intro _ | split

theorem execAttemptStart_kept (s : State) : Leaves (·.kept) s (execAttemptStart s) := by
  unfold execAttemptStart
  dsimp only
  repeat' first
    | (simp; done) | dsimp only | intro _ | rw [leaves_next] | rw [leaves_ite]
    | with_reducible apply And.intro | split

theorem execTransmitEnd_kept (s : State) : Leaves (·.kept) s (execTransmitEnd s) := by
  unfold execTransmitEnd
  dsimp only
  repeat' first
    | (simp; done) | simp only [State.kept_mk, State.kept_parts] | intro _ | rw [leaves_next] | rw [leaves_ite]
    | with_reducible apply And.intro | split

@[simp] theorem linkConsume_kept (b : RxBlock) (s : State) : (linkConsume b s).kept = s.kept := by
  unfold linkConsume
  dsimp only
  repeat' first | (simp; done)

@[simp] theorem noteFrame_kept (h n snr : Nat) (ok : Bool) (s : State) : (noteFrame h n snr ok s).kept = s.kept := by
  unfold noteFrame
  repeat' first | (simp; done)

@[simp] theorem replySegment_kept (e : Exchange) (h : Nat) (data : Option (List Byte)) (ok : Bool) (s : State) :
    (replySegment e h data ok s).kept = s.kept := by
  unfold replySegment
  dsimp only
  repeat' first | (simp; done) | simp only [State.kept_mk, State.kept_parts] | intro _ | split

@[simp] theorem takeFrame_kept (x : RxSync) (f : RxFrame) (h : Nat) (ok : Bool) (s : State) :
    (takeFrame x f h ok s).kept = s.kept := by
  unfold takeFrame
  dsimp only
  repeat' first | (simp; done) | simp only [State.kept_mk, State.kept_parts] | intro _ | split

@[simp] theorem dropFrame_kept (ok : Bool) (s : State) : (dropFrame ok s).kept = s.kept := by
  unfold dropFrame
  repeat' first | (simp; done) | simp only [State.kept_mk, State.kept_parts] | intro _ | split

@[simp] theorem endReception_kept (s : State) : (endReception s).kept = s.kept := by
  unfold endReception
  repeat' first | (simp; done)

theorem execFrameReceived_kept (f : RxFrame) (dmaOk : Bool) (s : State) : Leaves (·.kept) s (execFrameReceived f dmaOk s) := by
  unfold execFrameReceived
  dsimp only
  repeat' first
    | (simp; done) | dsimp only | intro _ | rw [leaves_next] | rw [leaves_ite]
    | with_reducible apply And.intro | split

theorem execReplyTimeout_kept (dmaOk : Bool) (s : State) : Leaves (·.kept) s (execReplyTimeout dmaOk s) := by
  unfold execReplyTimeout
  repeat' first
    | (simp; done) | simp only [State.kept_mk, State.kept_parts] | intro _ | rw [leaves_next] | rw [leaves_ite]
    | with_reducible apply And.intro | split

theorem execSegmentTimeout_kept (dmaOk : Bool) (s : State) : Leaves (·.kept) s (execSegmentTimeout dmaOk s) := by
  unfold execSegmentTimeout
  repeat' first
    | simp | simp only [State.kept_mk, State.kept_parts] | intro _ | rw [leaves_next] | rw [leaves_ite]
    | with_reducible apply And.intro | split

theorem execLinkPollset_kept (ord : Nat) (buf : HostRead) (s : State) : Leaves (·.kept) s (execLinkPollset ord buf s) := by
  unfold execLinkPollset
  dsimp only
  repeat' first
    | (simp; done) | dsimp only | intro _ | rw [leaves_next] | rw [leaves_ite]
    | with_reducible apply And.intro | split | with_reducible apply withBuffer_kept

theorem execLinkSend_kept (ord : Nat) (buf : HostRead) (s : State) : Leaves (·.kept) s (execLinkSend ord buf s) := by
  unfold execLinkSend
  dsimp only
  repeat' first
    | (simp; done) | simp only [State.kept_mk, State.kept_parts] | intro _ | rw [leaves_next] | rw [leaves_ite]
    | with_reducible apply And.intro | split | with_reducible apply withBuffer_kept

@[simp] theorem frameFields_kept (s : State) : (frameFields s).kept = s.kept := by
  unfold frameFields
  repeat' first | rw [State.foldl_kept] | simp

@[simp] theorem frameClamps_kept (fc : FrameCodes) (h : Nat) (s : State) : (frameClamps fc h s).kept = s.kept := by
  unfold frameClamps
  repeat' first | rw [State.foldl_kept] | simp

@[simp] theorem frameWitness_kept (fc : FrameCodes) (h : Nat) (s : State) : (frameWitness fc h s).kept = s.kept := by
  unfold frameWitness
  dsimp only
  repeat' first | (simp; done) | simp only [State.kept_mk, State.kept_parts] | intro _ | split

@[simp] theorem frameChain_kept (fc : FrameCodes) (f h : Nat) (s : State) (i : Nat) : (frameChain fc f h s i).kept = s.kept := by
  unfold frameChain
  dsimp only
  simp

@[simp] theorem frameHearth_kept (fc : FrameCodes) (f : Nat) (s : State) (h : Nat) : (frameHearth fc f s h).kept = s.kept := by
  unfold frameHearth
  dsimp only
  repeat' first | rw [State.foldl_kept] | simp

@[simp] theorem frameTracker_kept (w : Nat) (s : State) (t : Nat) : (frameTracker w s t).kept = s.kept := by
  unfold frameTracker
  repeat' first | (simp; done) | simp only [State.kept_mk, State.kept_parts] | intro _ | split

@[simp] theorem publishRx_kept (w : Nat) (s : State) : (publishRx w s).kept = s.kept := by
  unfold publishRx
  dsimp only
  repeat' first | (simp; done) | simp only [State.kept_mk, State.kept_parts] | intro _ | split

@[simp] theorem frameWide_kept (caps : List CapWrite) (w : Nat) (s : State) : (frameWide caps w s).kept = s.kept := by
  unfold frameWide
  dsimp only
  repeat' first | (simp; done) | rw [State.foldl_kept] | simp only [State.kept_mk, State.kept_parts] | intro _ | split | simp

@[simp] theorem frameEnergy_kept (f : Nat) (s : State) : (frameEnergy f s).kept = s.kept := by
  unfold frameEnergy
  dsimp only
  repeat' first | rw [State.foldl_kept] | simp

@[simp] theorem frameWork_kept (fc : FrameCodes) (f : Nat) (s : State) : (frameWork fc f s).kept = s.kept := by
  unfold frameWork
  dsimp only
  repeat' first | (simp; done) | rw [State.foldl_kept] | simp only [State.kept_mk, State.kept_parts] | intro _ | split

theorem execFrameBoundary_kept (fc : FrameCodes) (s : State) : Leaves (·.kept) s (execFrameBoundary fc s) := by
  unfold execFrameBoundary
  dsimp only
  simp

theorem execImageStage_kept (ord : Nat) (s : State) : Leaves (·.kept) s (execImageStage ord s) := by
  unfold execImageStage
  repeat' first
    | (simp; done) | simp only [State.kept_mk, State.kept_parts] | intro _ | rw [leaves_next] | rw [leaves_ite]
    | with_reducible apply And.intro | split | with_reducible apply withBuffer_kept

@[simp] theorem keepStaged_kept (bs : List Byte) (s : State) : (keepStaged bs s).kept = s.kept := by
  unfold keepStaged
  simp

theorem execImageTransferComplete_kept (buf : HostRead) (s : State) : Leaves (·.kept) s (execImageTransferComplete buf s) := by
  unfold execImageTransferComplete
  dsimp only
  repeat' first | simp | simp only [State.kept_mk, State.kept_parts] | intro _ | rw [leaves_next] | split

theorem execAdmissionComplete_kept (s : State) : Leaves (·.kept) s (execAdmissionComplete s) := by
  unfold execAdmissionComplete
  dsimp only
  repeat' first | simp | simp only [State.kept_mk, State.kept_parts] | intro _ | rw [leaves_next] | split

theorem execImageActivate_kept (ord : Nat) (s : State) : Leaves (·.kept) s (execImageActivate ord s) := by
  unfold execImageActivate
  repeat' first
    | simp | simp only [State.kept_mk, State.kept_parts] | intro _ | rw [leaves_next] | split
    | with_reducible apply withDescriptor_kept

theorem execDamperBeatLoRead_kept (hi : Bool) (s : State) : Leaves (·.kept) s (execDamperBeatLoRead hi s) := by
  unfold execDamperBeatLoRead
  dsimp only
  simp

theorem execDamperActBeatLoRead_kept (hi : Bool) (s : State) : Leaves (·.kept) s (execDamperActBeatLoRead hi s) := by
  unfold execDamperActBeatLoRead
  simp

end Sys2Proof.Machine
end

