-- ==== Sys2Proof/Laws/KeepPlane.lean ====
section
/-! SUPPORT. What the mantel, the rings, the records and the boundaries leave of the queue, the fuses and the straps: all of it. -/

namespace Sys2Proof.Machine

@[simp] theorem loadTables_kept (both : Bool) (s : State) : (loadTables both s).kept = s.kept := by
  unfold loadTables
  repeat' first | (simp; done)

@[simp] theorem swapPending_kept (s : State) : (swapPending s).kept = s.kept := by
  unfold swapPending
  repeat' first | rw [State.foldl_kept] | simp

@[simp] theorem renderPort_kept (s : State) (p : Nat) : (renderPort s p).kept = s.kept := by
  unfold renderPort
  dsimp only
  simp

@[simp] theorem renderAll_kept (s : State) : (renderAll s).kept = s.kept := by
  unfold renderAll
  dsimp only
  repeat' first | rw [State.foldl_kept] | simp

@[simp] theorem takeNext_kept (p : Nat) (n : NextUpdate) (s : State) : (takeNext p n s).kept = s.kept := by
  unfold takeNext
  repeat' first | (simp; done) | simp only [State.kept_mk, State.kept_parts] | intro _ | split

@[simp] theorem journal_kept (p : Nat) (dirty : Bool) (u : Update) (s : State) : (journal p dirty u s).kept = s.kept := by
  unfold journal
  simp

@[simp] theorem beginUpdate_kept (p : Nat) (n : NextUpdate) (temp : Int) (s : State) : (beginUpdate p n temp s).kept = s.kept := by
  unfold beginUpdate
  dsimp only
  simp

@[simp] theorem tryUpdate_kept (p : Nat) (temp : TempRead) (s : State) : (tryUpdate p temp s).kept = s.kept := by
  unfold tryUpdate
  dsimp only
  repeat' first | (simp; done) | simp only [State.kept_mk, State.kept_parts] | intro _ | split

theorem execUpdateStart_kept (p : Fin 4) (temp : TempRead) (s : State) : Leaves (·.kept) s (execUpdateStart p temp s) := by
  unfold execUpdateStart
  simp

theorem execTemperatureRetry_kept (p : Fin 4) (temp : TempRead) (s : State) : Leaves (·.kept) s (execTemperatureRetry p temp s) := by
  unfold execTemperatureRetry
  simp

theorem execHvDlyExpiry_kept (p : Fin 4) (s : State) : Leaves (·.kept) s (execHvDlyExpiry p s) := by
  unfold execHvDlyExpiry
  repeat' first | simp | simp only [State.kept_mk, State.kept_parts] | intro _ | rw [leaves_next] | split

theorem execUpdateEnd_kept (p : Fin 4) (s : State) : Leaves (·.kept) s (execUpdateEnd p s) := by
  unfold execUpdateEnd
  dsimp only
  repeat' first | (simp; done) | simp only [State.kept_mk, State.kept_parts] | intro _ | rw [leaves_next] | split

theorem execPowerGoodCheck_kept (p : Fin 4) (high : Bool) (s : State) : Leaves (·.kept) s (execPowerGoodCheck p high s) := by
  unfold execPowerGoodCheck
  dsimp only
  simp

theorem execMantelRun_kept (v : Word) (s : State) : Leaves (·.kept) s (execMantelRun v s) := by
  unfold execMantelRun
  dsimp only
  simp

theorem execDigest_kept (s : State) : Leaves (·.kept) s (execDigest s) := by
  unfold execDigest
  simp

theorem execDigestRequestEnd_kept (s : State) : Leaves (·.kept) s (execDigestRequestEnd s) := by
  unfold execDigestRequestEnd
  simp

@[simp] theorem storeWord_kept (t a : Nat) (v : Word) (s : State) : (storeWord t a v s).kept = s.kept := by
  unfold storeWord
  dsimp only
  simp

theorem execMantelTblData_kept (v : Word) (s : State) : Leaves (·.kept) s (execMantelTblData v s) := by
  unfold execMantelTblData
  dsimp only
  simp

@[simp] theorem commitFail_kept (cause : Nat) (s : State) : (commitFail cause s).kept = s.kept := by
  unfold commitFail
  simp

theorem execCommit_kept (v : Word) (s : State) : Leaves (·.kept) s (execCommit v s) := by
  unfold execCommit
  dsimp only
  repeat' first
    | (simp; done) | dsimp only | intro _ | rw [leaves_next] | rw [leaves_ite]
    | with_reducible apply And.intro | split

theorem execCommitComplete_kept (flashOk : Bool) (s : State) : Leaves (·.kept) s (execCommitComplete flashOk s) := by
  unfold execCommitComplete
  dsimp only
  repeat' first
    | (simp; done) | simp only [State.kept_mk, State.kept_parts] | intro _ | rw [leaves_next] | rw [leaves_ite]
    | with_reducible apply And.intro | split

theorem execDisplayCompose_kept (ord : Nat) (buf : HostRead) (s : State) : Leaves (·.kept) s (execDisplayCompose ord buf s) := by
  unfold execDisplayCompose
  dsimp only
  repeat' first
    | simp | simp only [State.kept_mk, State.kept_parts] | intro _ | rw [leaves_next] | split
    | with_reducible apply withBuffer_kept

theorem execDisplayWindow_kept (ord : Nat) (s : State) : Leaves (·.kept) s (execDisplayWindow ord s) := by
  unfold execDisplayWindow
  dsimp only
  repeat' first
    | (simp; done) | simp only [State.kept_mk, State.kept_parts] | intro _ | rw [leaves_next] | rw [leaves_ite]
    | with_reducible apply And.intro | split | with_reducible apply withDescriptor_kept

@[simp] theorem mantelStart_kept (dramLost : Bool) (s : State) : (mantelStart dramLost s).kept = s.kept := by
  unfold mantelStart
  dsimp only
  repeat' first | (simp; done) | rw [State.foldl_kept]

@[simp] theorem skipRecord_kept (r : DueRecord) (s : State) : (skipRecord r s).kept = s.kept := by
  unfold skipRecord
  dsimp only
  repeat' first | (simp; done) | simp only [State.kept_mk, State.kept_parts] | intro _ | split

@[simp] theorem fillSeq_kept (op k seq : Nat) (s : State) : (fillSeq op k seq s).kept = s.kept := by
  unfold fillSeq
  simp

@[simp] theorem issueEffects_kept (r : DueRecord) (seq : Nat) (s : State) : (issueEffects r seq s).kept = s.kept := by
  unfold issueEffects
  repeat' first | (simp; done) | simp only [State.kept_mk, State.kept_parts] | intro _ | split

@[simp] theorem putRecord_kept (r : DueRecord) (s : State) : (putRecord r s).kept = s.kept := by
  unfold putRecord
  simp

theorem execRecordIssue_kept (s : State) : Leaves (·.kept) s (execRecordIssue s) := by
  unfold execRecordIssue
  dsimp only
  repeat' first
    | (simp; done) | simp only [State.kept_mk, State.kept_parts] | intro _ | rw [leaves_next] | rw [leaves_ite]
    | with_reducible apply And.intro | split

theorem execRecordSigned_kept (s : State) : Leaves (·.kept) s (execRecordSigned s) := by
  unfold execRecordSigned
  split
  · split
    · rw [leaves_next]
      cases e : post _ _ s with
      | none => rfl
      | some t => exact post_kept _ _ _ _ e
    · rw [leaves_next]
  · rw [leaves_next]

theorem execBankingWrite_kept (cut : Option Nat) (s : State) : Leaves (·.kept) s (execBankingWrite cut s) := by
  unfold execBankingWrite
  simp

@[simp] theorem supplyTrigger_kept (cause : Nat) (s : State) : (supplyTrigger cause s).kept = s.kept := by
  unfold supplyTrigger
  simp

theorem execPfwN_kept (low : Bool) (s : State) : Leaves (·.kept) s (execPfwN low s) := by
  unfold execPfwN
  dsimp only
  simp

theorem execPowerFailMonitor_kept (low : Bool) (s : State) : Leaves (·.kept) s (execPowerFailMonitor low s) := by
  unfold execPowerFailMonitor
  dsimp only
  simp

@[simp] theorem endWait_kept (s : State) : (endWait s).kept = s.kept := by
  unfold endWait
  simp

theorem execMarkerWritten_kept (s : State) : Leaves (·.kept) s (execMarkerWritten s) := by
  unfold execMarkerWritten
  dsimp only
  repeat' first
    | (simp; done) | simp only [State.kept_mk, State.kept_parts] | intro _ | rw [leaves_next] | rw [leaves_ite]
    | with_reducible apply And.intro | split

theorem execFinalBankWaitTimeout_kept (s : State) : Leaves (·.kept) s (execFinalBankWaitTimeout s) := by
  unfold execFinalBankWaitTimeout
  repeat' first
    | (simp; done) | simp only [State.kept_mk, State.kept_parts] | intro _ | rw [leaves_next] | rw [leaves_ite]
    | with_reducible apply And.intro | split

theorem execPowerFailTriggerEnd_kept (s : State) : Leaves (·.kept) s (execPowerFailTriggerEnd s) := by
  unfold execPowerFailTriggerEnd
  repeat' first
    | (simp; done) | simp only [State.kept_mk, State.kept_parts] | intro _ | rw [leaves_next] | rw [leaves_ite]
    | with_reducible apply And.intro | split

theorem execEmberLoRead_kept (off : Nat) (s : State) : Leaves (·.kept) s (execEmberLoRead off s) := by
  unfold execEmberLoRead
  dsimp only
  simp

theorem execEmberRdDataRead_kept (s : State) : Leaves (·.kept) s (execEmberRdDataRead s) := by
  unfold execEmberRdDataRead
  dsimp only
  repeat' first
    | (simp; done) | simp only [State.kept_mk, State.kept_parts] | intro _ | rw [leaves_next] | split
    | rw [readRow_kept]

@[simp] theorem ringMessage_kept (m : Nat) (s : State) : (ringMessage m s).kept = s.kept := by
  unfold ringMessage
  simp

@[simp] theorem announce_kept (m : Nat) (s : State) : (announce m s).kept = s.kept := by
  unfold announce
  dsimp only
  simp

theorem execCoalTimeExpiry_kept (m : Fin 11) (s : State) : Leaves (·.kept) s (execCoalTimeExpiry m s) := by
  unfold execCoalTimeExpiry
  dsimp only
  simp

@[simp] theorem flushVectors_kept (s : State) : (flushVectors s).kept = s.kept := by
  unfold flushVectors
  repeat' first | rw [State.foldl_kept] | simp

@[simp] theorem placeEntry_kept (m : Nat) (counted : Bool) (bs : List Byte) (s : State) : (placeEntry m counted bs s).kept = s.kept := by
  unfold placeEntry
  dsimp only
  simp

@[simp] theorem ringFault_kept (m : Nat) (s : State) : (ringFault m s).kept = s.kept := by
  unfold ringFault
  simp

@[simp] theorem tryEntry_kept (m : Nat) (ok counted : Bool) (bs : Bool → List Byte) (after : State → State) (s : State) (hafter : ∀ x0, (after x0).kept = x0.kept) : (tryEntry m ok counted bs after s).kept = s.kept := by
  unfold tryEntry
  simp[hafter]

theorem execRingEnable_kept (sub : Bool) (n : Fin 11) (v : Word) (s : State) : Leaves (·.kept) s (execRingEnable sub n v s) := by
  unfold execRingEnable
  dsimp only
  simp

theorem execSqDisable_kept (n : Fin 8) (v : Word) (s : State) : Leaves (·.kept) s (execSqDisable n v s) := by
  unfold execSqDisable
  dsimp only
  simp

theorem execOqDisable_kept (m : Fin 11) (v : Word) (s : State) : Leaves (·.kept) s (execOqDisable m v s) := by
  unfold execOqDisable
  dsimp only
  simp

theorem execSqTailDoorbell_kept (n : Fin 8) (be : BitVec 4) (v : Word) (s : State) : Leaves (·.kept) s (execSqTailDoorbell n be v s) := by
  unfold execSqTailDoorbell
  dsimp only
  simp

@[simp] theorem postAck_kept (seq : Nat) (s : State) : (postAck seq s).kept = s.kept := by
  unfold postAck
  split
  · rename_i t h
    split at h
    · exact Eq.trans (b := t.kept) rfl (post_kept _ _ _ _ h)
    · contradiction
  · rfl

@[simp] theorem consumeRcq_kept (count : Nat) (s : State) : (consumeRcq count s).kept = s.kept := by
  unfold consumeRcq
  repeat' first | simp | simp only [State.kept_mk, State.kept_parts] | intro _ | split

@[simp] theorem consumeEvq_kept (count : Nat) (s : State) : (consumeEvq count s).kept = s.kept := by
  unfold consumeEvq
  dsimp only
  repeat' first | (simp; done) | simp only [State.kept_mk, State.kept_parts] | intro _ | split

theorem execHeadDoorbell_kept (m : Fin 11) (be : BitVec 4) (v : Word) (s : State) : Leaves (·.kept) s (execHeadDoorbell m be v s) := by
  unfold execHeadDoorbell
  dsimp only
  simp

@[simp] theorem fetchFault_kept (n : Nat) (s : State) : (fetchFault n s).kept = s.kept := by
  unfold fetchFault
  simp

@[simp] theorem judgeFetched_kept (ord : Nat) (s : State) : (judgeFetched ord s).kept = s.kept := by
  unfold judgeFetched
  repeat' first | (simp; done) | simp only [State.kept_mk, State.kept_parts] | intro _ | split

theorem execDescriptorFetch_kept (buf : HostRead) (s : State) : Leaves (·.kept) s (execDescriptorFetch buf s) := by
  unfold execDescriptorFetch
  dsimp only
  repeat' first
    | (simp; done) | dsimp only | intro _ | rw [leaves_next] | rw [leaves_ite]
    | with_reducible apply And.intro | split

@[simp] theorem cancelPrior_kept (d : Inflight) (c : Completion) (s : State) : (cancelPrior d c s).kept = s.kept := by
  unfold cancelPrior
  simp

@[simp] theorem ctlPause_kept (s : State) : (ctlPause s).kept = s.kept := by
  unfold ctlPause
  dsimp only
  repeat' first | (simp; done) | simp only [State.kept_mk, State.kept_parts] | intro _ | split

@[simp] theorem afterCompletion_kept (d : Inflight) (c : Completion) (s : State) : (afterCompletion d c s).kept = s.kept := by
  unfold afterCompletion
  dsimp only
  simp

@[simp] theorem writeCompletion_kept (ord : Nat) (ok : Bool) (s : State) : (writeCompletion ord ok s).kept = s.kept := by
  unfold writeCompletion
  repeat' first | (simp; done) | simp only [State.kept_mk, State.kept_parts] | intro _ | split

theorem execCompletionWrite_kept (ord : Nat) (ok : Bool) (s : State) : Leaves (·.kept) s (execCompletionWrite ord ok s) := by
  unfold execCompletionWrite
  simp

theorem execResetRequest_kept (ord : Nat) (s : State) : Leaves (·.kept) s (execResetRequest ord s) := by
  unfold execResetRequest
  repeat' first
    | (simp; done) | simp only [State.kept_mk, State.kept_parts] | intro _ | rw [leaves_next] | rw [leaves_ite]
    | with_reducible apply And.intro | split | with_reducible apply withDescriptor_kept

theorem execNop_kept (ord : Nat) (s : State) : Leaves (·.kept) s (execNop ord s) := by
  unfold execNop
  repeat' first
    | simp | simp only [State.kept_mk, State.kept_parts] | intro _ | rw [leaves_next] | split
    | with_reducible apply withDescriptor_kept

theorem execReadPoint_kept (ord : Nat) (ok : Bool) (s : State) : Leaves (·.kept) s (execReadPoint ord ok s) := by
  unfold execReadPoint
  dsimp only
  repeat' first
    | simp | simp only [State.kept_mk, State.kept_parts] | intro _ | rw [leaves_next] | split
    | with_reducible apply withBuffer_kept

theorem execReadTotals_kept (ord : Nat) (ok : Bool) (s : State) : Leaves (·.kept) s (execReadTotals ord ok s) := by
  unfold execReadTotals
  dsimp only
  repeat' first
    | (simp; done) | simp only [State.kept_mk, State.kept_parts] | intro _ | rw [leaves_next] | rw [leaves_ite]
    | with_reducible apply And.intro | split | with_reducible apply withBuffer_kept

theorem execEvqEntryWrite_kept (ok : Bool) (s : State) : Leaves (·.kept) s (execEvqEntryWrite ok s) := by
  unfold execEvqEntryWrite
  dsimp only
  repeat' first
    | (simp; done) | dsimp only | intro _ | rw [leaves_next] | rw [leaves_ite]
    | with_reducible apply And.intro | split | rw [tryEntry_kept]

theorem execRcqEntryWrite_kept (ok : Bool) (s : State) : Leaves (·.kept) s (execRcqEntryWrite ok s) := by
  unfold execRcqEntryWrite
  dsimp only
  repeat' first
    | (simp; done) | dsimp only | intro _ | rw [leaves_next] | rw [leaves_ite]
    | with_reducible apply And.intro | split | rw [tryEntry_kept]

theorem execCapqEntryWrite_kept (ok : Bool) (s : State) : Leaves (·.kept) s (execCapqEntryWrite ok s) := by
  unfold execCapqEntryWrite
  dsimp only
  repeat' first
    | (simp; done) | simp only [State.kept_mk, State.kept_parts] | intro _ | rw [leaves_next] | split
    | rw [tryEntry_kept]

theorem execInflightPeakRead_kept (s : State) : Leaves (·.kept) s (execInflightPeakRead s) := by
  unfold execInflightPeakRead
  repeat' first
    | (simp; done) | simp only [State.kept_mk, State.kept_parts] | intro _ | rw [leaves_next] | split
    | rw [readRow_kept]

theorem execPcieLinkUp_kept (speed width : Nat) (s : State) : Leaves (·.kept) s (execPcieLinkUp speed width s) := by
  unfold execPcieLinkUp
  dsimp only
  simp

theorem execPcieLinkDown_kept (s : State) : Leaves (·.kept) s (execPcieLinkDown s) := by
  unfold execPcieLinkDown
  simp

theorem execBusMasterEnable_kept (on : Bool) (s : State) : Leaves (·.kept) s (execBusMasterEnable on s) := by
  unfold execBusMasterEnable
  simp

theorem execD3hot_kept (on : Bool) (s : State) : Leaves (·.kept) s (execD3hot on s) := by
  unfold execD3hot
  simp

@[simp] theorem endHearth_kept (g : Image) (refs : Vector Nat 8) (beat : Nat) (metro : Bool) (s : State) (h : Nat) : (endHearth g refs beat metro s h).kept = s.kept := by
  unfold endHearth
  dsimp only
  repeat' first | (simp; done) | simp only [State.kept_mk, State.kept_parts] | intro _ | split

@[simp] theorem closePoint_kept (g : Image) (s : State) (p : Nat) : (closePoint g s p).kept = s.kept := by
  unfold closePoint
  simp

@[simp] theorem flagPoint_kept (s : State) (p : Nat) : (flagPoint s p).kept = s.kept := by
  unfold flagPoint
  repeat' first | simp | simp only [State.kept_mk, State.kept_parts] | intro _ | split

@[simp] theorem publishHearth_kept (g : Image) (s : State) : (publishHearth g s).kept = s.kept := by
  unfold publishHearth
  dsimp only
  repeat' first | (simp; done)

@[simp] theorem endBeat_kept (g : Image) (refs : Vector Nat 8) (s : State) : (endBeat g refs s).kept = s.kept := by
  unfold endBeat
  dsimp only
  repeat' first | rw [State.foldl_kept] | simp

@[simp] theorem nextBeat_kept (s : State) : (nextBeat s).kept = s.kept := by
  unfold nextBeat
  simp

@[simp] theorem switchPoint_kept (a b : Image) (s : State) (p : Nat) : (switchPoint a b s p).kept = s.kept := by
  unfold switchPoint
  dsimp only
  repeat' first | simp | simp only [State.kept_mk, State.kept_parts] | intro _ | split

@[simp] theorem switchHearth_kept (a b : Image) (beat : Nat) (s : State) (h : Nat) : (switchHearth a b beat s h).kept = s.kept := by
  unfold switchHearth
  simp

@[simp] theorem switchEngine_kept (a b : Image) (s : State) (h : Nat) : (switchEngine a b s h).kept = s.kept := by
  unfold switchEngine
  dsimp only
  repeat' first | rw [State.foldl_kept] | simp

@[simp] theorem switchSpectral_kept (a b : Image) (beat : Nat) (s : State) : (switchSpectral a b beat s).kept = s.kept := by
  unfold switchSpectral
  dsimp only
  simp

@[simp] theorem switchImage_kept (new : Image) (beat : Nat) (s : State) : (switchImage new beat s).kept = s.kept := by
  unfold switchImage
  dsimp only
  repeat' first | rw [State.foldl_kept] | simp

@[simp] theorem decideActivation_kept (s : State) : (decideActivation s).kept = s.kept := by
  unfold decideActivation
  dsimp only
  repeat' first | (simp; done) | simp only [State.kept_mk, State.kept_parts] | intro _ | split

@[simp] theorem swapRecords_kept (s : State) : (swapRecords s).kept = s.kept := by
  unfold swapRecords
  dsimp only
  repeat' first | rw [State.foldl_kept] | simp | simp only [State.kept_mk, State.kept_parts] | intro _ | split

@[simp] theorem latchTimeBase_kept (s : State) : (latchTimeBase s).kept = s.kept := by
  unfold latchTimeBase
  simp

@[simp] theorem takeNotice_kept (s : State) : (takeNotice s).kept = s.kept := by
  unfold takeNotice
  dsimp only
  repeat' first | rw [State.foldl_kept] | (simp; done) | simp only [State.kept_mk, State.kept_parts] | intro _ | split

@[simp] theorem flagTimeSet_kept (taken : Bool) (s : State) : (flagTimeSet taken s).kept = s.kept := by
  unfold flagTimeSet
  repeat' first | (simp; done)

@[simp] theorem armPoint_kept (s : State) (p : Nat) : (armPoint s p).kept = s.kept := by
  unfold armPoint
  dsimp only
  simp

@[simp] theorem latchLegal_kept (s : State) : (latchLegal s).kept = s.kept := by
  unfold latchLegal
  simp

@[simp] theorem recoverFlue_kept (s : State) : (recoverFlue s).kept = s.kept := by
  unfold recoverFlue
  dsimp only
  repeat' first | rw [State.foldl_kept] | (simp; done) | simp only [State.kept_mk, State.kept_parts] | intro _ | split

@[simp] theorem endHold_kept (s : State) : (endHold s).kept = s.kept := by
  unfold endHold
  dsimp only
  repeat' first | rw [State.foldl_kept] | simp | simp only [State.kept_mk, State.kept_parts] | intro _ | split

@[simp] theorem ackLate_kept (s : State) : (ackLate s).kept = s.kept := by
  unfold ackLate
  repeat' first | simp | simp only [State.kept_mk, State.kept_parts] | intro _ | split

@[simp] theorem applyMailbox_kept (n : Nat) (s : State) : (applyMailbox n s).kept = s.kept := by
  induction n generalizing s with
  | zero => rfl
  | succ n ih =>
    unfold applyMailbox
    split
    · rfl
    · split
      · rfl
      · rw [ih, applyEntry_kept]; rfl

@[simp] theorem beginBeat_kept (round : Bool) (s : State) : (beginBeat round s).kept = s.kept := by
  unfold beginBeat
  extract_lets a b taken c d e
  rw [checkFwChange_kept, flagTimeSet_kept, sessionBoundary_kept, State.foldl_kept (fun s p => armPoint_kept s p), ackLate_kept]
  refine (applyMailbox_kept 32 c).trans ((takeNotice_kept _).trans ((swapRecords_kept _).trans ((beginEpoch_kept _).trans
    ((latchLegal_kept _).trans ?_))))
  exact (State.kept_ite _ _).trans (by rw [decideActivation_kept, ite_self])

@[simp] theorem boundary_kept (round : Bool) (refs : Vector Nat 8) (s : State) : (boundary round refs s).kept = s.kept := by
  unfold boundary
  dsimp only
  simp

theorem execBeatBoundary_kept (refs : Vector Nat 8) (s : State) : Leaves (·.kept) s (execBeatBoundary refs s) := by
  unfold execBeatBoundary
  simp

theorem execRoundBoundary_kept (refs : Vector Nat 8) (s : State) : Leaves (·.kept) s (execRoundBoundary refs s) := by
  unfold execRoundBoundary
  simp

@[simp] theorem feedPulses_kept (incs : List (Vector Nat 9)) (s : State) : (feedPulses incs s).kept = s.kept := by
  unfold feedPulses
  dsimp only
  repeat' first | rw [State.foldl_kept] | simp

@[simp] theorem publishSessions_kept (g : Image) (incs : List (Vector Nat 9)) (s : State) : (publishSessions g incs s).kept = s.kept := by
  unfold publishSessions
  dsimp only
  repeat' first | rw [State.foldl_kept] | simp

@[simp] theorem flipViews_kept (beat : Nat) (s : State) : (flipViews beat s).kept = s.kept := by
  unfold flipViews
  dsimp only
  simp

@[simp] theorem completeRecords_kept (s : State) : (completeRecords s).kept = s.kept := by
  unfold completeRecords
  simp

theorem publishPoint_kept (g : Image) (beat p : Nat) (s : State) : (publishPoint g beat p s).1.kept = s.kept := by
  unfold publishPoint
  dsimp only
  split
  · rfl
  · rfl
theorem publishPoints_kept (g : Image) (beat : Nat) (s : State) : (publishPoints g beat s).1.kept = s.kept := by
  unfold publishPoints
  generalize List.range 32 = l
  suffices ∀ (x : State × List (Vector Nat 9)), x.1.kept = s.kept → (l.foldl _ x).1.kept = s.kept from this _ rfl
  induction l with
  | nil => intro x h; exact h
  | cons p l ih =>
    intro x h
    refine ih _ ?_
    dsimp only
    have h1 := (publishPoint_kept g beat p x.1).trans h
    (repeat' split) <;> exact h1
theorem execPublicationCycle_kept (s : State) : Leaves (·.kept) s (execPublicationCycle s) := by
  unfold execPublicationCycle
  dsimp only
  split
  · rw [leaves_next]
  · split
    · rw [leaves_next]; exact completeRecords_kept _
    · rw [leaves_next, flipViews_kept, completeRecords_kept, publishEvents_kept, publishSessions_kept, feedPulses_kept, publishPoints_kept]

end Sys2Proof.Machine
end

