-- ==== Sys2Proof/Laws/KeepStart.lean ====
section
/-! SUPPORT. What the starts and the firmware leave of the queue, the fuses and the straps: all of it. -/

namespace Sys2Proof.Machine

@[simp] theorem giveUp_kept (layer : Nat) (s : State) : (giveUp layer s).kept = s.kept := by
  unfold giveUp
  dsimp only
  simp

@[simp] theorem markRollback_kept (s : State) : (markRollback s).kept = s.kept := by
  unfold markRollback
  simp

@[simp] theorem runControl_kept (slot : Bool) (fw : List Byte) (s : State) : (runControl slot fw s).kept = s.kept := by
  unfold runControl
  simp

@[simp] theorem runLoader_kept (inPlace : Bool) (s : State) : (runLoader inPlace s).kept = s.kept := by
  unfold runLoader
  simp

theorem chooseSlot_kept (layer : Nat) (s t : State) (e : chooseSlot layer s = some t) : t.kept = s.kept := by
  unfold chooseSlot at e
  rcases choice_of_some e with h | h
  · rw [h]
  · rw [h, markRollback_kept, giveUp_kept]

theorem runChosen_kept {o : Option State} {s : State} (ho : ∀ t, o = some t → t.kept = s.kept) : (runChosen o s).kept = s.kept := by
  unfold runChosen
  split
  · exact (runControl_kept _ _ _).trans (ho _ rfl)
  · exact (State.kept_ite _ _).trans (by rw [acceptStart_kept, ite_self, runLoader_kept])

@[simp] theorem loadControl_kept (s : State) : (loadControl s).kept = s.kept := by
  unfold loadControl
  split
  · exact runLoader_kept _ _
  · split
    · exact runControl_kept _ _ _
    · exact runChosen_kept fun t e => chooseSlot_kept _ _ _ e

@[simp] theorem bankFromWork_kept (s : State) : (bankFromWork s).kept = s.kept := by
  unfold bankFromWork
  repeat' first | simp | simp only [State.kept_mk, State.kept_parts] | intro _ | split

@[simp] theorem workFromBank_kept (s : State) : (workFromBank s).kept = s.kept := by
  unfold workFromBank
  repeat' first | (simp; done)

@[simp] theorem dramUp_kept (s : State) : (dramUp s).kept = s.kept := by
  unfold dramUp
  simp

@[simp] theorem islandBack_kept (i : Nat) (s : State) : (islandBack i s).kept = s.kept := by
  unfold islandBack
  dsimp only
  repeat' first | simp | simp only [State.kept_mk, State.kept_parts] | intro _ | split

@[simp] theorem loadTrim_kept (s : State) : (loadTrim s).kept = s.kept := by
  unfold loadTrim
  repeat' first | (simp; done)

@[simp] theorem openWindow_kept (s : State) : (openWindow s).kept = s.kept := by
  unfold openWindow
  simp

@[simp] theorem rollbackTrial_kept (deep : Bool) (s : State) : (rollbackTrial deep s).kept = s.kept := by
  unfold rollbackTrial
  dsimp only
  simp

@[simp] theorem deepenStart_kept (e : Episode) (s : State) : (deepenStart e s).kept = s.kept := by
  unfold deepenStart
  simp

@[simp] theorem loadEpisode_kept (e : Episode) (s : State) : (loadEpisode e s).kept = s.kept := by
  unfold loadEpisode
  simp

@[simp] theorem beginRelease_kept (e : Episode) (pilot : Bool) (outcome : Nat) (s : State) : (beginRelease e pilot outcome s).kept = s.kept := by
  unfold beginRelease
  simp

@[simp] theorem enterPilot_kept (cause : Nat) (s : State) : (enterPilot cause s).kept = s.kept := by
  unfold enterPilot
  simp

@[simp] theorem logRelease_kept (s : State) : (logRelease s).kept = s.kept := by
  unfold logRelease
  dsimp only
  repeat' first | simp | simp only [State.kept_mk, State.kept_parts] | intro _ | split

@[simp] theorem stepSys_kept (s : State) : (stepSys s).kept = s.kept := by
  unfold stepSys
  dsimp only
  repeat' first | (simp; done) | simp only [State.kept_mk, State.kept_parts] | intro _ | split

@[simp] theorem stepEmber_kept (s : State) : (stepEmber s).kept = s.kept := by
  unfold stepEmber
  dsimp only
  simp

@[simp] theorem pilotAtStep5_kept (cause : Nat) (s : State) : (pilotAtStep5 cause s).kept = s.kept := by
  unfold pilotAtStep5
  dsimp only
  simp

@[simp] theorem runMetrology_kept (slot : Bool) (fw : List Byte) (s : State) : (runMetrology slot fw s).kept = s.kept := by
  unfold runMetrology
  simp

@[simp] theorem armPoints_kept (s : State) : (armPoints s).kept = s.kept := by
  unfold armPoints
  repeat' first | rw [State.foldl_kept] | simp

theorem loadMetrology_kept (s t : State) (e : loadMetrology s = some t) : t.kept = s.kept := by
  unfold loadMetrology at e
  split at e
  · rw [← Option.some.inj e, runMetrology_kept]
  · rw [Option.map_eq_some_iff] at e
    obtain ⟨u, hu, rfl⟩ := e
    rw [runMetrology_kept, chooseSlot_kept _ _ _ hu]

@[simp] theorem measureStart_kept (s : State) : (measureStart s).kept = s.kept := by
  unfold measureStart
  repeat' first | (simp; done)

@[simp] theorem adoptImage_kept (g : Image) (s : State) : (adoptImage g s).kept = s.kept := by
  unfold adoptImage
  simp

theorem itemsTaken_kept (t : State) : ({ t with fw := { t.fw with hostMet := none, hostImage := none } } : State).kept = t.kept := rfl

theorem stepLoad_kept (b : Bool) (s t : State) (e : stepLoad b s = some t) : t.kept = s.kept := by
  unfold stepLoad at e
  split at e
  · contradiction
  · split at e
    · rw [← Option.some.inj e, pilotAtStep5_kept]
    · rename_i u hu
      have hU := loadMetrology_kept _ _ hu
      dsimp only at e
      split at e
      · rw [← Option.some.inj e, pilotAtStep5_kept]; exact hU
      · rw [← Option.some.inj e]
        have h := (logRelease_kept (adoptImage (u.fw.hostImage.getD (flashImage u (slotWith u u.ember.heldImage))) u)).trans
          ((adoptImage_kept _ _).trans hU)
        rw [State.kept_ite, loadControl_kept, ite_self]
        exact (itemsTaken_kept _).trans h

@[simp] theorem stepConv_kept (s : State) : (stepConv s).kept = s.kept := by
  unfold stepConv
  dsimp only
  repeat' first | rw [State.foldl_kept] | (simp; done) | simp only [State.kept_mk, State.kept_parts]

@[simp] theorem stepFlue_kept (s : State) : (stepFlue s).kept = s.kept := by
  unfold stepFlue
  repeat' first | rw [State.foldl_kept] | simp

@[simp] theorem stepMetro_kept (s : State) : (stepMetro s).kept = s.kept := by
  have h : stepMetro s = renderAll (latchTimeBase (beginBeat false ((s.setIsland Isl.metro .running).updDamper fun d =>
      { d with beat := 0, frame := 0, rtcBefore := s.rtc.count, rtc := s.rtc.count }))) := rfl
  rw [h, renderAll_kept, latchTimeBase_kept, beginBeat_kept]
  rfl

@[simp] theorem stepDram_kept (report : StepReport) (s : State) : (stepDram report s).kept = s.kept := by
  unfold stepDram
  dsimp only
  split
  · exact reportFault_kept _ _ _ _
  · exact dramUp_kept _
theorem stepWork_kept (r : Release) (report : StepReport) (s t : State) (e : stepWork r report s = some t) : t.kept = s.kept := by
  unfold stepWork at e
  split at e
  · rw [← Option.some.inj e]; rfl
  · rw [← Option.some.inj e]; exact stepSys_kept _
  · rw [← Option.some.inj e]; rfl
  · rw [← Option.some.inj e]; exact stepEmber_kept _
  · exact stepLoad_kept _ _ _ e
  · rw [← Option.some.inj e]; exact stepConv_kept _
  · rw [← Option.some.inj e]; exact stepFlue_kept _
  · rw [← Option.some.inj e]; exact stepMetro_kept _
  · rw [← Option.some.inj e]; exact stepDram_kept _ _
  · rw [← Option.some.inj e]; exact measuredBoot_kept _
  · rw [← Option.some.inj e]
    split
    · rfl
    · rw [bankFromWork_kept, loadControl_kept]; rfl
  · rw [← Option.some.inj e]; rfl
  · rw [← Option.some.inj e, mantelStart_kept, workFromBank_kept]; rfl

@[simp] theorem advance_kept (k : Nat) (s : State) : (advance k s).kept = s.kept := by
  unfold advance
  dsimp only
  repeat' first | simp | simp only [State.kept_mk, State.kept_parts] | intro _ | split

theorem execStepReady_kept (report : StepReport) (s : State) : Leaves (·.kept) s (execStepReady report s) := by
  unfold execStepReady
  split
  · rw [leaves_next]
  · split
    · rw [leaves_next, advance_kept, stepWork_kept _ _ _ _ ‹_›]
    · rw [leaves_next]

theorem execControlFirmwareRestart_kept (s : State) : Leaves (·.kept) s (execControlFirmwareRestart s) := by
  unfold execControlFirmwareRestart
  dsimp only
  repeat' first
    | (simp; done) | dsimp only | intro _ | rw [leaves_next] | rw [leaves_ite]
    | with_reducible apply And.intro | split

@[simp] theorem pilotNow_kept (cause : Nat) (s : State) : (pilotNow cause s).kept = s.kept := by
  unfold pilotNow
  dsimp only
  repeat' first | rw [State.foldl_kept] | simp

theorem execMetrologyLayerReady_kept (s : State) : Leaves (·.kept) s (execMetrologyLayerReady s) := by
  unfold execMetrologyLayerReady
  split
  · rw [leaves_next]
  · rename_i h _
    split
    · rw [leaves_next]
    · have h0 : (if h.fallback = true then s else s.putField 0x1000 6 6 0).kept = s.kept := by split <;> rfl
      split
      · rw [leaves_next, pilotNow_kept]
      · rename_i t ht
        have hT := (loadMetrology_kept _ _ ht).trans h0
        dsimp only
        split
        · rw [leaves_next, flushRecords_kept, restorePoints_kept, armPoints_kept, restoreStore_kept]; exact hT
        · split
          · rw [leaves_next, openWindow_kept, flushRecords_kept, restorePoints_kept, armPoints_kept, restoreStore_kept]; exact hT
          · rw [leaves_next, deepenStart_kept, flushRecords_kept, restorePoints_kept, armPoints_kept, restoreStore_kept]; exact hT

@[simp] theorem answer_kept (d : Inflight) (ok : Bool) (bytes : List Byte) (s : State) : (answer d ok bytes s).kept = s.kept := by
  unfold answer
  simp

theorem execAttest_kept (ord : Nat) (ok : Bool) (s : State) : Leaves (·.kept) s (execAttest ord ok s) := by
  unfold execAttest
  repeat' first
    | simp | simp only [State.kept_mk, State.kept_parts] | intro _ | rw [leaves_next] | split
    | with_reducible apply withBuffer_kept

theorem execKeyInfo_kept (ord : Nat) (ok : Bool) (s : State) : Leaves (·.kept) s (execKeyInfo ord ok s) := by
  unfold execKeyInfo
  repeat' first
    | simp | simp only [State.kept_mk, State.kept_parts] | intro _ | rw [leaves_next] | split
    | with_reducible apply withBuffer_kept

@[simp] theorem stageNote_kept (layer cause : Nat) (s : State) : (stageNote layer cause s).kept = s.kept := by
  unfold stageNote
  simp

theorem writeInactive_kept (layer : Nat) (fw readBack : List Byte) (s : State) :
    (writeInactive layer fw readBack s).1.kept = s.kept := by
  unfold writeInactive
  dsimp only
  split
  · rw [setSlot_kept, writeSlot_kept, setSlot_kept]
  · rw [setSlot_kept, writeSlot_kept, setSlot_kept]
theorem execFwStage_kept (ord : Nat) (buf : HostRead) (readBack : List Byte) (s : State) :
    Leaves (·.kept) s (execFwStage ord buf readBack s) := by
  unfold execFwStage
  refine withBuffer_kept _ _ _ _ fun d => ?_
  dsimp only
  split
  · exact bufferError_kept _ _ _
  · rename_i bs
    split
    · simp
    · split
      · simp
      · split
        · simp
        · have h := writeInactive_kept (d.op 20 1) (padTo d.bufLen bs) readBack s
          split
          · rename_i t e
            rw [e] at h
            simpa using h
          · rename_i t e
            rw [e] at h
            simpa using h

theorem execFwActivateControl_kept (ord : Nat) (s : State) : Leaves (·.kept) s (execFwActivateControl ord s) := by
  unfold execFwActivateControl
  repeat' first
    | (simp; done) | dsimp only | intro _ | rw [leaves_next] | rw [leaves_ite]
    | with_reducible apply And.intro | split | with_reducible apply withDescriptor_kept

theorem execFwActivateMetrology_kept (ord : Nat) (s : State) : Leaves (·.kept) s (execFwActivateMetrology ord s) := by
  unfold execFwActivateMetrology
  refine withDescriptor_kept _ _ _ _ fun d => ?_
  split
  · rfl
  · split
    · rename_i t h; exact Eq.trans (b := t.kept) rfl (post_kept _ _ _ _ h)
    · rfl

theorem sealWrite_kept (s : State) (f : State → State) (hf : ∀ x0, (f x0).kept = x0.kept) : Leaves (·.kept) s (sealWrite s f) := by
  unfold sealWrite
  simp[hf]

theorem execFuseProgram_kept (v : Word) (s : State) : Leaves (·.kept) s (execFuseProgram v s) := by
  unfold execFuseProgram
  dsimp only
  repeat' first
    | (simp; done) | simp only [State.kept_mk, State.kept_parts] | intro _ | rw [leaves_next] | rw [leaves_ite]
    | with_reducible apply And.intro | split | with_reducible apply sealWrite_kept

theorem execExtend_kept (v : Word) (s : State) : Leaves (·.kept) s (execExtend v s) := by
  unfold execExtend
  dsimp only
  repeat' first
    | simp | simp only [State.kept_mk, State.kept_parts] | intro _ | rw [leaves_next] | rw [leaves_ite]
    | with_reducible apply And.intro | split | with_reducible apply sealWrite_kept

@[simp] theorem endLoad_kept (s : State) : (endLoad s).kept = s.kept := by
  unfold endLoad
  simp

@[simp] theorem windowEnd_kept (s : State) : (windowEnd s).kept = s.kept := by
  unfold windowEnd
  simp

theorem execBegin_kept (v : Word) (s : State) : Leaves (·.kept) s (execBegin v s) := by
  unfold execBegin
  dsimp only
  simp

theorem execFwupdWinData_kept (v : Word) (s : State) : Leaves (·.kept) s (execFwupdWinData v s) := by
  unfold execFwupdWinData
  simp

theorem execEndWindow_kept (s : State) : Leaves (·.kept) s (execEndWindow s) := by
  unfold execEndWindow
  simp

@[simp] theorem loadDone_kept (s : State) : (loadDone s).kept = s.kept := by
  unfold loadDone
  simp

theorem loadImage_kept (bytes readBack : List Byte) (s : State) : (loadImage bytes readBack s).1.kept = s.kept := by
  unfold loadImage
  dsimp only
  (repeat' split) <;> simp
theorem loadLayer_kept (layer : Nat) (bytes readBack : List Byte) (s : State) : (loadLayer layer bytes readBack s).1.kept = s.kept := by
  unfold loadLayer
  dsimp only
  split
  · rfl
  · split
    · rfl
    · split
      · split <;> rfl
      · have h := writeInactive_kept layer bytes readBack s
        split
        · rename_i t e
          rw [e] at h
          simpa using h
        · rename_i t e
          rw [e] at h
          simpa using h
theorem runLoaded_kept (readBack : List Byte) (s : State) : (runLoaded readBack s).1.kept = s.kept := by
  unfold runLoaded
  split
  · rfl
  · split
    · exact loadImage_kept _ _ _
    · exact loadLayer_kept _ _ _ _
theorem execWindowVerifyComplete_kept (readBack : List Byte) (s : State) : Leaves (·.kept) s (execWindowVerifyComplete readBack s) := by
  unfold execWindowVerifyComplete
  split
  · rw [leaves_next]
    have h := runLoaded_kept readBack s
    revert h
    generalize runLoaded readBack s = x
    intro h
    dsimp only
    split
    · exact h
    · exact h
  · rw [leaves_next]

end Sys2Proof.Machine
end

