-- ==== Sys2Proof/Laws/KeepCmds.lean ====
section
/-! SUPPORT. What the auditor port, the clock, the faults, the registers and the resets leave of the queue, the fuses and the straps: all of it. -/

namespace Sys2Proof.Machine

@[simp] theorem respond_kept (code : Nat) (data : List Byte) (s : State) : (respond code data s).kept = s.kept := by
  unfold respond
  simp

theorem auditorRequest_kept (cmd : Nat) (req : List Byte) (s : State) (f : List Byte → State → State) (hf : ∀ x0 x1, (f x0 x1).kept = x1.kept) : Leaves (·.kept) s (auditorRequest cmd req s f) := by
  unfold auditorRequest
  simp[hf]

@[simp] theorem respondBad_kept (s : State) : (respondBad s).kept = s.kept := by
  unfold respondBad
  simp

theorem execIdent_kept (req : List Byte) (s : State) : Leaves (·.kept) s (execIdent req s) := by
  unfold execIdent
  repeat' first
    | (simp; done) | simp only [State.kept_mk, State.kept_parts] | intro _ | rw [leaves_next] | rw [leaves_ite]
    | with_reducible apply And.intro | split | with_reducible apply auditorRequest_kept

theorem execAuditorRead_kept (req : List Byte) (s : State) : Leaves (·.kept) s (execAuditorRead req s) := by
  unfold execAuditorRead
  dsimp only
  repeat' first
    | simp | simp only [State.kept_mk, State.kept_parts] | intro _ | rw [leaves_next] | rw [leaves_ite]
    | with_reducible apply And.intro | split | with_reducible apply auditorRequest_kept

theorem execAuditorAttest_kept (req : List Byte) (s : State) : Leaves (·.kept) s (execAuditorAttest req s) := by
  unfold execAuditorAttest
  repeat' first
    | simp | simp only [State.kept_mk, State.kept_parts] | intro _ | rw [leaves_next] | rw [leaves_ite]
    | with_reducible apply And.intro | split | with_reducible apply auditorRequest_kept

theorem execRecover_kept (req : List Byte) (s : State) : Leaves (·.kept) s (execRecover req s) := by
  unfold execRecover
  dsimp only
  repeat' first
    | simp | simp only [State.kept_mk, State.kept_parts] | intro _ | rw [leaves_next] | rw [leaves_ite]
    | with_reducible apply And.intro | split | with_reducible apply auditorRequest_kept

theorem loadRequest_kept (cmd : Nat) (req : List Byte) (s : State) (f : List Byte → State → State) (hf : ∀ x0 x1, (f x0 x1).kept = x1.kept) : Leaves (·.kept) s (loadRequest cmd req s f) := by
  unfold loadRequest
  repeat' first
    | simp[hf] | simp only [State.kept_mk, State.kept_parts] | intro _ | rw [leaves_next] | rw [leaves_ite]
    | with_reducible apply And.intro | split | with_reducible apply auditorRequest_kept

theorem execLoadBegin_kept (req : List Byte) (s : State) : Leaves (·.kept) s (execLoadBegin req s) := by
  unfold execLoadBegin
  dsimp only
  repeat' first
    | simp | simp only [State.kept_mk, State.kept_parts] | intro _ | rw [leaves_next] | rw [leaves_ite]
    | with_reducible apply And.intro | split | with_reducible apply loadRequest_kept

theorem execLoadData_kept (req : List Byte) (s : State) : Leaves (·.kept) s (execLoadData req s) := by
  unfold execLoadData
  dsimp only
  repeat' first
    | (simp; done) | simp only [State.kept_mk, State.kept_parts] | intro _ | rw [leaves_next] | rw [leaves_ite]
    | with_reducible apply And.intro | split | with_reducible apply loadRequest_kept

theorem execLoadEnd_kept (req : List Byte) (s : State) : Leaves (·.kept) s (execLoadEnd req s) := by
  unfold execLoadEnd
  dsimp only
  repeat' first
    | (simp; done) | simp only [State.kept_mk, State.kept_parts] | intro _ | rw [leaves_next] | rw [leaves_ite]
    | with_reducible apply And.intro | split | with_reducible apply loadRequest_kept

theorem execAuditorPoll_kept (cut : Bool) (s : State) : Leaves (·.kept) s (execAuditorPoll cut s) := by
  unfold execAuditorPoll
  dsimp only
  repeat' first
    | (simp; done) | simp only [State.kept_mk, State.kept_parts] | intro _ | rw [leaves_next] | rw [leaves_ite]
    | with_reducible apply And.intro | split

@[simp] theorem refuseSet_kept (cause : Nat) (s : State) : (refuseSet cause s).kept = s.kept := by
  unfold refuseSet
  simp

theorem execHalt_kept (s : State) : Leaves (·.kept) s (execHalt s) := by
  unfold execHalt
  repeat' first
    | (simp; done) | dsimp only | intro _ | rw [leaves_next] | rw [leaves_ite]
    | with_reducible apply And.intro | split

theorem execHaltClear_kept (s : State) : Leaves (·.kept) s (execHaltClear s) := by
  unfold execHaltClear
  repeat' first
    | (simp; done) | dsimp only | intro _ | rw [leaves_next] | rw [leaves_ite]
    | with_reducible apply And.intro | split

theorem execHaltTimeout_kept (s : State) : Leaves (·.kept) s (execHaltTimeout s) := by
  unfold execHaltTimeout
  simp

theorem execPrescalerEdge_kept (s : State) : Leaves (·.kept) s (execPrescalerEdge s) := by
  unfold execPrescalerEdge
  dsimp only
  repeat' first
    | (simp; done) | simp only [State.kept_mk, State.kept_parts] | intro _ | rw [leaves_next] | rw [leaves_ite]
    | with_reducible apply And.intro | split

theorem execTimeSet_kept (ord : Nat) (s : State) : Leaves (·.kept) s (execTimeSet ord s) := by
  unfold execTimeSet
  dsimp only
  repeat' first
    | simp | simp only [State.kept_mk, State.kept_parts] | intro _ | rw [leaves_next] | split
    | with_reducible apply withDescriptor_kept

theorem execTimeRead_kept (ord : Nat) (s : State) : Leaves (·.kept) s (execTimeRead ord s) := by
  unfold execTimeRead
  repeat' first
    | (simp; done) | simp only [State.kept_mk, State.kept_parts] | intro _ | rw [leaves_next] | rw [leaves_ite]
    | with_reducible apply And.intro | split | with_reducible apply withDescriptor_kept

theorem execRtcTimeRead_kept (which : Fin 3) (s : State) : Leaves (·.kept) s (execRtcTimeRead which s) := by
  unfold execRtcTimeRead
  dsimp only
  simp

theorem execRtcCalDateRead_kept (time : Bool) (s : State) : Leaves (·.kept) s (execRtcCalDateRead time s) := by
  unfold execRtcCalDateRead
  dsimp only
  simp

theorem execCalApply_kept (v : Word) (s : State) : Leaves (·.kept) s (execCalApply v s) := by
  unfold execCalApply
  dsimp only
  repeat' first
    | (simp; done) | simp only [State.kept_mk, State.kept_parts] | intro _ | rw [leaves_next] | rw [leaves_ite]
    | with_reducible apply And.intro | split

theorem execTrimStep_kept (temp : Int) (s : State) : Leaves (·.kept) s (execTrimStep temp s) := by
  unfold execTrimStep
  dsimp only
  simp

theorem execVbatLost_kept (s : State) : Leaves (·.kept) s (execVbatLost s) := by
  unfold execVbatLost
  repeat' first | (simp; done)

@[simp] theorem noteCrossing_kept (x peak : Nat) (s : State) : (noteCrossing x peak s).kept = s.kept := by
  unfold noteCrossing
  dsimp only
  simp

@[simp] theorem countCorr_kept (s : State) : (countCorr s).kept = s.kept := by
  unfold countCorr
  simp

@[simp] theorem countUncorr_kept (s : State) : (countUncorr s).kept = s.kept := by
  unfold countUncorr
  simp

@[simp] theorem plainAction_kept (code : Nat) (s : State) : (plainAction code s).kept = s.kept := by
  unfold plainAction
  repeat' first | (simp; done) | simp only [State.kept_mk, State.kept_parts] | intro _ | split

@[simp] theorem localAction_kept (code : Nat) (detail : Word) (s : State) : (localAction code detail s).kept = s.kept := by
  unfold localAction
  repeat' first | (simp; done) | dsimp only | intro _ | split

theorem execFault_kept (island : Fin 12) (code : BitVec 8) (detail : Word) (s : State) : Leaves (·.kept) s (execFault island code detail s) := by
  unfold execFault
  dsimp only
  simp

theorem execFaultInject_kept (v : Word) (s : State) : Leaves (·.kept) s (execFaultInject v s) := by
  unfold execFaultInject
  dsimp only
  simp

theorem execFaultPop_kept (s : State) : Leaves (·.kept) s (execFaultPop s) := by
  unfold execFaultPop
  simp

theorem execRepeatCountClear_kept (island : Fin 12) (s : State) : Leaves (·.kept) s (execRepeatCountClear island s) := by
  unfold execRepeatCountClear
  simp

theorem execIslandRecoveryComplete_kept (island : Fin 12) (s : State) : Leaves (·.kept) s (execIslandRecoveryComplete island s) := by
  unfold execIslandRecoveryComplete
  simp

@[simp] theorem writeConfig_kept (off : Nat) (v : Word) (s : State) : (writeConfig off v s).kept = s.kept := by
  unfold writeConfig
  repeat' first | (simp; done)

@[simp] theorem afterWrite_kept (a : Nat) (s : State) : (afterWrite a s).kept = s.kept := by
  unfold afterWrite
  repeat' first | (simp; done) | dsimp only | intro _ | split

theorem execRegisterWrite_kept (addr : Nat) (be : BitVec 4) (v : Word) (s : State) : Leaves (·.kept) s (execRegisterWrite addr be v s) := by
  unfold execRegisterWrite
  simp

@[simp] theorem sourceLine_kept (c : Nat) (on : Bool) (s : State) : (sourceLine c on s).kept = s.kept := by
  unfold sourceLine
  simp

theorem execPor_kept (low : Bool) (s : State) : Leaves (·.kept) s (execPor low s) := by
  unfold execPor
  dsimp only
  simp

theorem execBorCore_kept (low : Bool) (s : State) : Leaves (·.kept) s (execBorCore low s) := by
  unfold execBorCore
  simp

theorem execBorIo_kept (low : Bool) (s : State) : Leaves (·.kept) s (execBorIo low s) := by
  unfold execBorIo
  simp

theorem execTamper_kept (low : Bool) (s : State) : Leaves (·.kept) s (execTamper low s) := by
  unfold execTamper
  simp

theorem execPerstN_kept (low : Bool) (s : State) : Leaves (·.kept) s (execPerstN low s) := by
  unfold execPerstN
  simp

theorem execResetNPin_kept (lowNs : Nat) (s : State) : Leaves (·.kept) s (execResetNPin lowNs s) := by
  unfold execResetNPin
  dsimp only
  simp

theorem execThermalTrip_kept (tj : Int) (s : State) : Leaves (·.kept) s (execThermalTrip tj s) := by
  unfold execThermalTrip
  dsimp only
  simp

theorem execClockLoss_kept (refOk pllM pllC : Bool) (s : State) : Leaves (·.kept) s (execClockLoss refOk pllM pllC s) := by
  unfold execClockLoss
  dsimp only
  simp

theorem execCtrlWatchdog_kept (s : State) : Leaves (·.kept) s (execCtrlWatchdog s) := by
  unfold execCtrlWatchdog
  simp

theorem execStartWindowExpiry_kept (s : State) : Leaves (·.kept) s (execStartWindowExpiry s) := by
  unfold execStartWindowExpiry
  simp

theorem execDamperWatchdog_kept (s : State) : Leaves (·.kept) s (execDamperWatchdog s) := by
  unfold execDamperWatchdog
  simp

theorem execPcieHotReset_kept (s : State) : Leaves (·.kept) s (execPcieHotReset s) := by
  unfold execPcieHotReset
  simp

theorem execDebugReset_kept (s : State) : Leaves (·.kept) s (execDebugReset s) := by
  unfold execDebugReset
  simp

theorem sysWrite_kept (s : State) (f : State → State) (hf : ∀ x0, (f x0).kept = x0.kept) : Leaves (·.kept) s (sysWrite s f) := by
  unfold sysWrite
  simp[hf]

theorem execResetSoft_kept (v : Word) (s : State) : Leaves (·.kept) s (execResetSoft v s) := by
  unfold execResetSoft
  repeat' first
    | (simp; done) | simp only [State.kept_mk, State.kept_parts] | intro _ | rw [leaves_next] | rw [leaves_ite]
    | with_reducible apply And.intro | split | with_reducible apply sysWrite_kept

theorem execStartOk_kept (v : Word) (s : State) : Leaves (·.kept) s (execStartOk v s) := by
  unfold execStartOk
  repeat' first
    | (simp; done) | dsimp only | intro _ | rw [leaves_next] | rw [leaves_ite]
    | with_reducible apply And.intro | split | with_reducible apply sysWrite_kept

theorem execResetWdtCfg_kept (v : Word) (s : State) : Leaves (·.kept) s (execResetWdtCfg v s) := by
  unfold execResetWdtCfg
  dsimp only
  repeat' first
    | (simp; done) | simp only [State.kept_mk, State.kept_parts] | intro _ | rw [leaves_next] | rw [leaves_ite]
    | with_reducible apply And.intro | split | with_reducible apply sysWrite_kept

theorem execResetWdtKick_kept (v : Word) (s : State) : Leaves (·.kept) s (execResetWdtKick v s) := by
  unfold execResetWdtKick
  repeat' first
    | (simp; done) | dsimp only | intro _ | rw [leaves_next] | rw [leaves_ite]
    | with_reducible apply And.intro | split | with_reducible apply sysWrite_kept

theorem execClockRefDevMeasure_kept (dev : Int) (s : State) : Leaves (·.kept) s (execClockRefDevMeasure dev s) := by
  unfold execClockRefDevMeasure
  repeat' first
    | (simp; done) | dsimp only | intro _ | rw [leaves_next] | split
    | with_reducible apply sysWrite_kept

end Sys2Proof.Machine
end

