-- ==== Sys2Proof/WellFormed.lean ====
section
/-! DEFINITION. When a command's operands are of a shape the block can be given. A ring number, an island or an
input outside its range cannot be written down at all (the operands are `Fin`s); what is left are addresses,
lengths and codes. -/

namespace Sys2Proof

open Sys2Proof.Machine

/-- A register address is a word of BAR0 (1 MiB, R5, R250), or of the configuration space, which follows it (4 KiB, R249). -/
def wfAddr (a : Nat) : Bool := a % 4 == 0 && a < 0x101000

/-- One code for each of the 128 global inputs and one for each of the eight witnesses (R52, R57). -/
def FrameCodes.wf (c : FrameCodes) : Bool := c.main.length == 128 && c.wit.length == 8

/-- A linearity table has 257 points in 19-bit two's complement, and 16 timing terms (R64, R66). -/
def LinTable.wf (t : LinTable) : Bool :=
  t.corr.length == 257 && t.timing.length == 16 && t.corr.all (fun c => -(2 ^ 18 : Int) ≤ c && c < 2 ^ 18)

/-- What a receiver makes of an impaired frame: a 28-bit header (R371), and at most the 215 data bytes and four CRC bytes that a
segment carries (R372). -/
def RxFrame.wf (f : RxFrame) : Bool := f.header < 2 ^ 28 && f.data.length ≤ 219

/-- The EMBER words whose reading freezes another, and those others (R248). -/
def emberLoOffsets : List Nat := [0x008, 0x00C, 0x010, 0x014, 0x020, 0x024, 0x028, 0x02C]

/-- Straps are two bits each (R309). -/
def Straps.wf (p : Straps) : Bool := p.bootSel < 4 && p.clkMode < 4

def Instr.wf : Instr → Bool
  | .registerWrite a _ _ => wfAddr a
  | .descriptorFetch (some b) => b.length == 64
  | .ringEnable sub n _ => !sub || n.val < 8
  | .frameBoundary c => FrameCodes.wf c
  | .rebuildComplete _ _ a => LinTable.wf a.table
  | .rebuildTimeout _ _ a => LinTable.wf a.table
  | .emberLoRead off => emberLoOffsets.contains off
  | .episodeRelease p => Straps.wf p
  | .frameReceived f _ => RxFrame.wf f
  | .bankingWrite (some n) => n < 2 ^ 16
  | .pcieLinkUp speed width => (speed == 1 || speed == 2 || speed == 3) && (width == 1 || width == 2)
  | _ => true

end Sys2Proof
end

