-- ==== Sys2Proof/Tests/Slice0.lean ====
section
/-! SUPPORT. The model's own tests. -/

namespace Sys2Proof.Tests

set_option Elab.async false

open Sys2Proof Sys2Proof.Machine

/-! Ill-formed commands, one for each check. -/

theorem test_wf_addr : Instr.wf (.registerWrite 0x2 0xF 0) = false := by decide
theorem test_wf_addr_range : Instr.wf (.registerWrite 0x101000 0xF 0) = false := by decide
theorem test_wf_fetch : Instr.wf (.descriptorFetch (some [0])) = false := by decide
theorem test_wf_ring : Instr.wf (.ringEnable true 9 0) = false := by decide
theorem test_wf_codes : Instr.wf (.frameBoundary ⟨[], [], []⟩) = false := by decide
theorem test_wf_ember_lo : Instr.wf (.emberLoRead 0x004) = false := by decide
theorem test_wf_straps : Instr.wf (.episodeRelease ⟨4, 0⟩) = false := by decide
theorem test_wf_link_width : Instr.wf (.pcieLinkUp 3 4) = false := by decide

/-! States to test on. -/

/-- Every island runs, outside an episode, the link up and MSI-X enabled; no image. -/
def up : State :=
  { State.reset with
    rst := { State.reset.rst with islands := Vector.replicate 12 .running, episode := none, asserted := 0, porDone := true,
                                  pinDrive := false }
    host := { State.reset.host with linkUp := true, busMaster := true, cfg := { State.reset.host.cfg with msixOn := true } }
    fault := { State.reset.fault with timeBase := 6000 } }

/-- An image: hearth 0 scans every input; inputs 0 and 1 in every stream; tracker 0; point 0 AC with inputs 0 and 1; pulse channel
0; a harmonic and a supraharmonic channel on input 0; a bank in every beat. -/
def image : Image :=
  { bytes := [(512, 1), (514, 1), (520, 0xFF), (521, 0xFF), (716, 0xFF), (732, 0x80), (268488, 0x23), (268492, 0x80),
              (268496, 0x81), (269000, 1), (269386, 1), (269387, 1), (269400, 0x80), (270936, 0x80), (271960, 1), (271992, 1),
              (272016, 4)], size := 0x50000 }

/-- As `up`, with the image active since beat 0, in frame 100 of beat 5. -/
def live : State :=
  { up with damper := { up.damper with image := some image, beat := 5, frame := 100 } }

/-- The bytes of a descriptor. -/
def command (op point session addr len : Nat) (ops : List Byte) : List Byte :=
  leBytes 2 1 ++ leBytes 1 op ++ leBytes 1 0 ++ leBytes 2 point ++ leBytes 2 session ++ leBytes 8 addr ++ leBytes 4 len ++ padTo 44 ops
def waiting (bytes : List Byte) : Inflight := { ord := 0, sq := 0, bytes := bytes, phase := .waiting }
def plain (op : Nat) (ops : List Byte) : Inflight := waiting (command op 0xFFFF 0xFFFF 0 0 ops)
def buffered (op len : Nat) (ops : List Byte) : Inflight := waiting (command op 0xFFFF 0xFFFF 0x1000 len ops)
/-- A state with one descriptor in flight. -/
def fly (d : Inflight) (s : State) : State := { s with host := { s.host with inflight := [d] } }

def starts (s : State) (ord op : Nat) (d : Inflight) : Bool :=
  s.flight ord == some d && d.opcode == op && mayStart s d && (staticFault s d).isNone &&
  ((Opc.needs op).find? fun i => s.island i == .isolated).isNone
theorem starts_of {s : State} {ord op : Nat} {d : Inflight} (h : starts s ord op d = true) : Starts s ord op d := by
  simp only [starts, Bool.and_eq_true, beq_iff_eq, Option.isNone_iff_eq_none] at h
  exact ⟨h.1.1.1.1, h.1.1.1.2, h.1.1.2, h.1.2, h.2⟩
theorem startsDma_of {s : State} {ord op : Nat} {d : Inflight} (h : (starts s ord op d && canDma s) = true) : StartsDma s ord op d :=
  have h' := (Bool.and_eq_true ..).mp h
  { starts_of h'.1 with dma := h'.2 }

theorem test_meets_IdleStepCountsTimeBase :
    up.pending = [] ∧ up.running Isl.sys = true ∧ up.rst.episode = none ∧ bitOf (up.reg 0x1028) 31 = false := by decide
theorem test_meets_EveryStepKeepsInv : ∃ s t : State, s.Inv ∧ step s = .next t :=
  ⟨up, _, ⟨by decide, by decide, by decide⟩, rfl⟩
theorem test_meets_EveryCommandAnswers : ∃ (c : Instr) (s t : State), exec c s = .next t := ⟨.pcieLinkDown, up, _, rfl⟩
theorem test_meets_FuseBitsOnlySet :
    (∃ (c : Instr) (s t : State), exec c s = .next t ∧ c ≠ .fuseProgramComplete) ∧ (∃ t, exec .fuseProgramComplete up = .next t) ∧
    (∃ t : State, resetMap up &&& resetMap t = resetMap up ∧ resetMap t ≠ resetMap up) :=
  ⟨⟨.pcieLinkDown, up, _, rfl, by decide⟩, ⟨_, rfl⟩,
    { up with trust := { up.trust with fuses := Tab.upd up.trust.fuses 12 fun _ => 0xC0000000 } }, by decide⟩
theorem test_meets_StrapsLatchAtRelease :
    (∃ (c : Instr) (s t : State), exec c s = .next t ∧ ∀ straps, c ≠ .episodeRelease straps) ∧
    (∃ (s t : State) (e : Episode), exec (.episodeRelease ⟨0, 0⟩) s = .next t ∧ s.rst.episode = some e ∧ e.level = .l2) :=
  ⟨⟨.pcieLinkDown, up, _, rfl, nofun⟩,
    { up with rst := { up.rst with episode := some (Episode.begin 9 .l2 0) } }, _, _, rfl, rfl, rfl⟩
theorem plain_found : (RegMap.find 0x200C).isSome = true := by decide +kernel
theorem test_meets_RegisterWrites :
    ((∃ be : BitVec 4, be ≠ 15) ∧
    ∃ (a : Nat) (b : BlockSpec) (r : RegSpec) (i : Nat) (v : Word),
      RegMap.find a = some (b, r, i) ∧ blockUp up b.island = true ∧
      (r.fields.all fun f => f.acc == .rw && !f.own && (f.cls != .stop || !(blockRuns up a))) = true ∧
      a ≠ 0x3008 ∧ a ≠ 0x300C ∧ a ≠ 0x3010 ∧ badSize a v = false ∧ isVectorControl a = false ∧ tapCtlOf a = none) ∧
    ((∃ s : State, s.running Isl.sys = true ∧ s.rtc.halted = true) ∧
      up.running Isl.sys = true ∧ up.rtc.halted = false ∧ bitOf (up.reg 0x3004) 8 = false ∧
      rtcReg up.rtc.count 0x3008 &&& maskOf 14 0 = 0x8000 &&& maskOf 14 0 ∧ rtcReg up.rtc.count 0x3008 &&& maskOf 14 0 ≠ 1 &&& maskOf 14 0) ∧
    (up.running Isl.host = true ∧ bitOf (up.reg 0x4000) 5 = false ∧ fieldOf (3 : Word) 3 0 < 4 ∧ 12 < fieldOf (13 : Word) 3 0 ∧
      up.sqIdle 0 = true ∧ up.oqEnabled 0 = false) ∧ up.running Isl.conv = true :=
  ⟨⟨⟨0, by decide⟩, 0x200C, ((RegMap.find 0x200C).get plain_found).1, ((RegMap.find 0x200C).get plain_found).2.1,
    ((RegMap.find 0x200C).get plain_found).2.2, 0x15, (Option.some_get plain_found).symm, by decide +kernel⟩,
    ⟨⟨{ up with rtc := { up.rtc with halted := true } }, by decide⟩, by decide +kernel⟩, by decide +kernel⟩
def driving : State := { up with mantel := { up.mantel with run := true } }
theorem test_meets_StopWriteRejected :
    (driving.memOk = true ∧ driving.running Isl.sys = true ∧ driving.mantelIdle = false ∧
      driving.fld 0x200C 5 0 ≠ fieldOf (0x3F : Word) 5 0 ∧ bitOf (driving.reg 0x2000) 8 = false) ∧
    (bitOf ((driving.setReg 0x2000 0x100).reg 0x2000) 8 = true ∧ (driving.setReg 0x2000 0x100).memOk = true ∧
      (driving.setReg 0x2000 0x100).running Isl.sys = true ∧ (driving.setReg 0x2000 0x100).mantelIdle = false ∧
      (driving.setReg 0x2000 0x100).fld 0x200C 5 0 ≠ fieldOf (0x3F : Word) 5 0) := by decide +kernel
theorem test_meets_SilentIslandAborts :
    (∀ i ∈ [Isl.host, Isl.conv, Isl.flue, Isl.metro, Isl.ember, Isl.sys], (State.reset.setIsland i .isolated).island i = .isolated) ∧
    ((up.setIsland Isl.conv .inReset).running Isl.sys = true ∧
      (up.setIsland Isl.conv .inReset).island (blockIsland (0x10000 / 0x1000)) ≠ .isolated) := by decide +kernel
theorem test_meets_BeatShadows :
    (up.running Isl.metro = true ∧ up.energyHi = none ∧ up.events.shadow = none) ∧
    (∃ s : State, s.running Isl.metro = true ∧ s.energyHi = some 3 ∧ s.events.shadow = some (1, 2, 3, 4)) :=
  ⟨by decide, { up with energyHi := some 3, events := { up.events with shadow := some (1, 2, 3, 4) } }, by decide, rfl, rfl⟩
theorem test_meets_TrackerAndDamperShadows :
    (up.running Isl.conv = true ∧ up.damper.shadowBeat = none ∧ up.damper.shadowAct = none ∧
      up.running Isl.flue = true ∧ (up.flueAt 7).shadow = none ∧ up.running Isl.sys = true ∧ up.rtc.halted = false ∧ up.rtc.shadow = none) ∧
    (∃ s : State, s.running Isl.conv = true ∧ s.damper.shadowBeat = some (1, 2) ∧ s.damper.shadowAct = some 3 ∧
      s.running Isl.flue = true ∧ (s.flueAt 7).shadow = some (4, 5) ∧ s.running Isl.sys = true ∧ s.rtc.halted = false ∧
      s.rtc.shadow = some (1, 2, 3)) ∧
    (∃ s : State, s.running Isl.sys = true ∧ s.rtc.halted = true) :=
  ⟨by decide, ⟨{ up with damper := { up.damper with shadowBeat := some (1, 2), shadowAct := some 3 }
                         flue := Tab.upd up.flue 7 fun f => { f with shadow := some (4, 5) }
                         rtc := { up.rtc with shadow := some (1, 2, 3) } }, by decide⟩,
    { up with rtc := { up.rtc with halted := true } }, by decide⟩
theorem test_meets_ReadsWithEffect :
    (up.running Isl.sys = true ∧ up.rtc.calTime = none ∧ ∃ s : State, s.running Isl.sys = true ∧ s.rtc.calTime = some 5) ∧
    (up.running Isl.host = true ∧ up.running Isl.conv = true ∧ up.running Isl.ember = true) ∧
    (up.ember.shadows.find? fun x => x.1 == 0x020 + 4) = none ∧
    ∃ s : State, s.running Isl.ember = true ∧ (0x020 % 8 = 0) ∧ (s.ember.shadows.find? fun x => x.1 == 0x020 + 4) = some (0x024, 7) :=
  ⟨⟨by decide, by decide, { up with rtc := { up.rtc with calTime := some 5 } }, by decide⟩, by decide, by decide,
    { up with ember := { up.ember with shadows := [(0x024, 7)] } }, by decide⟩
/-! Rings. -/

/-- SQ 0, its completion ring 0, and the rings 8 to 10, enabled with 16 entries. -/
def ringed : State :=
  [0x4108, 0x4208, 0x4308, 0x4328, 0x4348].foldl (fun s a => s.setReg a 0x80000004) up

/-- SQ 0 with one descriptor to fetch. -/
def filled : State := ringed.updSq 0 fun q => { q with tail := 1, vis := [0] }
/-- A ring whose tail is two entries past its head. -/
def ahead (m : Nat) (s : State) : State := s.updOq m fun q => { q with tail := 2 }
/-- A ring whose message has gone out. -/
def quiet (m : Nat) (s : State) : State := s.updOq m fun q => { q with armed := false }

theorem test_meets_TailDoorbell :
    up.running Isl.host = true ∧ up.sqEnabled 0 = false ∧ ringed.running Isl.host = true ∧ ringed.sqEnabled 0 = true ∧
    sqSize ringed 0 ≤ fieldOf (16 : Word) 11 0 ∧ fieldOf (15 : Word) 11 0 < sqSize ringed 0 ∧
    ((if sqSize up 0 ≤ fieldOf (16 : Word) 11 0 then 1 else 0) ||| (if up.sqEnabled 0 then 0 else 2) : Word) = 3 := by decide +kernel
def queued : State := ahead 0 ringed
def recorded : State := (ahead 9 ringed).updHost fun h => { h with rcqHeld := [7, 8] }
def consumed : State := (ahead 8 ringed).updHost fun h => { h with evqHeld := [7, 8] }
theorem test_meets_HeadDoorbells :
    (up.running Isl.host = true ∧ up.oqEnabled 0 = false ∧ ringed.running Isl.host = true ∧ ringed.oqEnabled 0 = true ∧
      oqSize ringed 0 ≤ fieldOf (16 : Word) 11 0) ∧
    (queued.running Isl.host = true ∧ queued.oqEnabled 0 = true ∧ (queued.oqAt 0).late = false ∧
      ((queued.oqAt 0).tail + 16 - (queued.oqAt 0).head) % 16 < (fieldOf (3 : Word) 11 0 + 16 - (queued.oqAt 0).head) % 16 ∧
      fieldOf (2 : Word) 11 0 < oqSize queued 0 ∧
      (fieldOf (2 : Word) 11 0 + 16 - (queued.oqAt 0).head) % 16 ≤ ((queued.oqAt 0).tail + 16 - (queued.oqAt 0).head) % 16 ∧
      (queued.oqAt 0).since < max (queued.fld (0x420C + 0x20 * 0) 7 0) 1 ∧
      max (queued.fld (0x420C + 0x20 * 0) 7 0) 1 ≤ ((queued.updOq 0 fun q => { q with since := 1 }).oqAt 0).since) ∧
    (recorded.running Isl.host = true ∧ recorded.running Isl.ctrl = true ∧ recorded.mailRoom ∧ recorded.oqEnabled 9 = true ∧
      fieldOf (2 : Word) 11 0 < oqSize recorded 9 ∧
      (fieldOf (2 : Word) 11 0 + 16 - (recorded.oqAt 9).head) % 16 ≤ ((recorded.oqAt 9).tail + 16 - (recorded.oqAt 9).head) % 16 ∧
      (recorded.host.rcqHeld.take ((fieldOf (2 : Word) 11 0 + 16 - (recorded.oqAt 9).head) % 16)).getLast? = some 8) ∧
    (consumed.running Isl.host = true ∧ consumed.oqEnabled 8 = true ∧ fieldOf (1 : Word) 11 0 < oqSize consumed 8 ∧
      (fieldOf (1 : Word) 11 0 + 16 - (consumed.oqAt 8).head) % 16 ≤ ((consumed.oqAt 8).tail + 16 - (consumed.oqAt 8).head) % 16 ∧
      (consumed.host.evqHeld.take ((fieldOf (1 : Word) 11 0 + 16 - (consumed.oqAt 8).head) % 16)).getLast? = some 7) := by
  unfold State.mailRoom; decide +kernel
/-- What the fetch of `bs` as the first descriptor of SQ 0 leaves, for `filled`. -/
def fetched (bs : List Byte) (s : State) : State :=
  { s with host := { s.host with
    lastSq := 0, sq := Tab.upd s.host.sq 0 fun q => { q with head := (q.head + 1) % sqSize s 0, vis := [] },
    inflight := s.host.inflight ++ [{ ord := 0, sq := 0, bytes := padTo 64 bs, phase := .waiting }],
    peak := max s.host.peak (s.host.inflight.length + 1) } }
/-- As `filled`, behind an earlier descriptor of the SQ, which one with FENCE waits for. -/
def behind : State := filled.updHost fun h => { h with nextOrd := 6, inflight := [plain Opc.nop []], sq := Tab.upd h.sq 0 fun q => { q with vis := [5] } }
theorem test_meets_DescriptorFetch :
    (ringsServed filled = true ∧ nextSq filled = some 0 ∧ (filled.sqAt 0).vis = [0] ∧ filled.flight 0 = none) ∧
    staticFault filled (plain Opc.nop []) = none ∧
    (staticFault filled (plain Opc.nop [1]) = some (2, 20) ∧ mayStart (fetched (plain Opc.nop [1]).bytes filled) (plain Opc.nop [1]) = true) ∧
    ((staticFault filled (plain 0xFF [])).isSome = true ∧ Opc.all.contains (plain 0xFF []).opcode = false) ∧
    (let d : Inflight := { ord := 5, sq := 0, bytes := (plain Opc.nop [1]).bytes.set 3 2, phase := .waiting }
     ringsServed behind = true ∧ nextSq behind = some 0 ∧ (behind.sqAt 0).vis = [5] ∧ behind.flight 5 = none ∧
     staticFault behind d = some (2, 20) ∧ Opc.all.contains d.opcode = true ∧
     mayStart { behind with host := { behind.host with
       lastSq := 0, sq := Tab.upd behind.host.sq 0 fun q => { q with head := (q.head + 1) % sqSize behind 0, vis := [] },
       inflight := behind.host.inflight ++ [d], peak := max behind.host.peak (behind.host.inflight.length + 1) } } d = false) := by
  decide +kernel
theorem test_meets_CompletionWritten : (∃ (s : State) (d : Inflight) (c : Completion), s.flight 0 = some d ∧ d.phase = .done c ∧
    d.sq < 8 ∧ sqFirst s d.sq = some 0 ∧ canWriteRing s = true ∧ ringFree s (sqCq s d.sq) = true ∧
    s.fw.ctlAct = none ∧ s.fw.staging ≠ some 0 ∧ d.opcode ≠ Opc.resetRequest) ∧
    (∃ (s : State) (d : Inflight) (c : Completion), s.flight 1 = some d ∧ d.phase = .done c ∧ d.sq < 8 ∧ sqFirst s d.sq ≠ some 1) :=
  ⟨⟨fly { plain Opc.nop [] with phase := .done ⟨0, 0, []⟩ } (quiet 0 ringed), _, _, rfl, rfl, by decide +kernel⟩,
   ⟨up.updHost fun h => { h with inflight := [plain Opc.nop [], { plain Opc.nop [] with ord := 1, phase := .done ⟨0, 0, []⟩ }] }, _, _, rfl,
     rfl, by decide +kernel⟩⟩
/-- An ember controller whose queue holds the record of SEQ 1, with a STATE byte. -/
def entryStored (st : Byte) : List Byte := (withCrc (leBytes 8 1 ++ zeros 244)).set 14 st
def holding (st : Byte) : Ember := { up.ember with store := Memory.writeN [] (entryOff 1) (entryStored st), nextSeq := 2, ackSeq := 0 }
theorem entryStored_length (st : Byte) : (entryStored st).length = 256 := by
  rw [entryStored, List.length_set, withCrc, List.length_append, List.length_append, leBytes_length, leBytes_length, zeros,
    List.length_replicate]
theorem holding_store (st : Byte) : (holding st).store = Memory.writeN [] (entryOff 1) (entryStored st) := by
  simp only [holding]
theorem holding_bytes (st : Byte) (i n : Nat) (h : i + n ≤ 256) :
    (holding st).bytes (entryOff 1 + i) n = ((entryStored st).drop i).take n := by
  unfold Ember.bytes
  rw [holding_store, Memory.readN_writeN _ _ _ i n (by rw [entryStored_length]; exact h)]
theorem body_state : (leBytes 8 1 ++ zeros 244 : List Byte).set 14 0 = leBytes 8 1 ++ zeros 244 := by decide +kernel
theorem holding_valid (st : Byte) : (holding st).entryValid 1 = true := by
  have h : (holding st).bytes (entryOff 1) 256 = entryStored st := by
    refine (holding_bytes st 0 256 (by omega)).trans ?_
    rw [List.drop_zero, List.take_of_length_le (by rw [entryStored_length])]
  have h2 : (holding st).entryCovered 1 = withCrc (leBytes 8 1 ++ zeros 244) := by
    unfold Ember.entryCovered
    rw [h, entryStored, List.set_set, withCrc, List.set_append_left _ _ (by decide +kernel), body_state]
  unfold Ember.entryValid; rw [h2]; exact crcOk_withCrc _
theorem holding_holds (st : Byte) : (holding st).holds 1 = true := by
  have h : (holding st).entrySeq 1 = 1 := by
    show leNat ((holding st).bytes (entryOff 1 + 0) 8) = 1
    rw [holding_bytes st 0 8 (by omega), List.drop_zero, entryStored, withCrc, List.append_assoc,
      List.set_append_right _ _ (by decide), List.take_left' (leBytes_length 8 1)]
    decide
  simp [Ember.holds, holding_valid, h]
theorem holding_state (st : Byte) : (holding st).entryState 1 = st.toNat := by
  show leNat ((holding st).bytes (entryOff 1 + 14) 1) = st.toNat
  rw [holding_bytes st 14 1 (by omega)]
  show st.toNat + 256 * 0 = st.toNat
  omega

theorem beNat_beBytes (n v : Nat) (h : v < 256 ^ n) : beNat (beBytes n v) = v := by
  unfold beNat beBytes; rw [List.reverse_reverse, leNat_leBytes, Nat.mod_eq_of_lt h]
/-- As `holding`, with a signature in the entry. -/
def sealing (st : Byte) (sig : BitVec 512) : Ember :=
  { holding st with store := Memory.writeN (holding st).store (entryOff 1 + 0x100) (beBytes 64 sig.toNat) }
theorem sealing_bytes (st : Byte) (sig : BitVec 512) (i n : Nat) (h : i + n ≤ 256) :
    (sealing st sig).bytes (entryOff 1 + i) n = (holding st).bytes (entryOff 1 + i) n := by
  simp only [sealing, Ember.bytes]
  exact Memory.readN_writeN_out _ _ _ _ _ (.inl (by omega))
theorem sealing_held (st : Byte) (sig : BitVec 512) : (sealing st sig).sigHeld 1 = sig := by
  have h : (sealing st sig).bytes (entryOff 1 + 0x100) 64 = beBytes 64 sig.toNat := by
    have hl : (beBytes 64 sig.toNat).length = 64 := by unfold beBytes; rw [List.length_reverse, leBytes_length]
    have := Memory.readN_writeN (holding st).store (entryOff 1 + 0x100) (beBytes 64 sig.toNat) 0 64 (by rw [hl])
    rw [List.drop_zero, List.take_of_length_le (by rw [hl])] at this
    exact this
  unfold Ember.sigHeld
  rw [h, beNat_beBytes _ _ (by have := sig.isLt; omega), BitVec.ofNat_toNat, BitVec.setWidth_eq]
theorem sealing_for (st : Byte) (sig : BitVec 512) : (sealing st sig).sigFor 1 = (holding st).sigFor 1 := by
  unfold Ember.sigFor Ember.payload
  rw [show entryOff 1 = entryOff 1 + 0 from rfl, sealing_bytes st sig 0 256 (by omega)]
theorem sealing_state (st : Byte) (sig : BitVec 512) : (sealing st sig).entryState 1 = st.toNat := by
  refine Eq.trans ?_ (holding_state st)
  show leNat ((sealing st sig).bytes (entryOff 1 + 14) 1) = leNat ((holding st).bytes (entryOff 1 + 14) 1)
  rw [sealing_bytes st sig 14 1 (by omega)]
theorem sealing_holds (st : Byte) (sig : BitVec 512) : (sealing st sig).holds 1 = true := by
  have h1 : (sealing st sig).entryValid 1 = (holding st).entryValid 1 := by
    unfold Ember.entryValid Ember.entryCovered
    rw [show entryOff 1 = entryOff 1 + 0 from rfl, sealing_bytes st sig 0 256 (by omega)]
  have h2 : (sealing st sig).entrySeq 1 = (holding st).entrySeq 1 := by
    show leNat ((sealing st sig).bytes (entryOff 1 + 0) 8) = leNat ((holding st).bytes (entryOff 1 + 0) 8)
    rw [sealing_bytes st sig 0 8 (by omega)]
  have h := holding_holds st
  unfold Ember.holds at h ⊢
  rw [h1, h2, h]
/-- The record of SEQ 1 is delivered next; its entry holds `sig`. -/
def delivering (sig : BitVec 512) : State := { quiet 9 ringed with ember := sealing 1 sig }
theorem delivering_meets (sig : BitVec 512) : 1 = (delivering sig).host.rcqNext ∧ (delivering sig).ctrlServes = true ∧
    (delivering sig).running Isl.ember = true ∧ (delivering sig).host.paused = false ∧ 1 < (delivering sig).ember.nextSeq ∧
    (delivering sig).ember.holds 1 = true ∧ (delivering sig).ember.signedEntry 1 = true ∧ canWriteRing (delivering sig) = true ∧
    ringFree (delivering sig) 9 = true := by
  refine ⟨rfl, ?_, ?_, rfl, by show 1 < 2; omega, sealing_holds 1 sig, ?_, ?_, ?_⟩
  · show (quiet 9 ringed).ctrlServes = true; decide +kernel
  · show (quiet 9 ringed).running Isl.ember = true; decide +kernel
  · unfold Ember.signedEntry; rw [show (delivering sig).ember = sealing 1 sig from rfl, sealing_state]; decide
  · show canWriteRing (quiet 9 ringed) = true; decide +kernel
  · show ringFree (quiet 9 ringed) 9 = true; decide +kernel
theorem test_meets_RingEntriesWritten :
    (∃ (s : State) (e : Nat × EventEntry), evqLeft s ≠ 0 ∧ s.running Isl.ctrl = true ∧ s.host.paused = false ∧ s.fw.loader = false ∧
      1 = (s.events.qseq + 2 ^ 32 + 1 - evqLeft s) % 2 ^ 32 ∧
      (s.events.slots.find? fun x => x.1 == (1 + 2 ^ 32 - 1) % 1024) = some e ∧ canWriteRing s = true ∧ ringFree s 8 = true) ∧
    (∃ s : State, (1 = s.host.rcqNext ∧ s.ctrlServes = true ∧ s.running Isl.ember = true ∧ s.host.paused = false ∧
      1 < s.ember.nextSeq ∧ s.ember.holds 1 = true ∧ s.ember.signedEntry 1 = true ∧ canWriteRing s = true ∧ ringFree s 9 = true) ∧
      s.ember.sigHeld 1 = s.ember.sigFor 1) ∧
    (∃ s : State, (1 = s.host.rcqNext ∧ s.ctrlServes = true ∧ s.running Isl.ember = true ∧ s.host.paused = false ∧
      1 < s.ember.nextSeq ∧ s.ember.holds 1 = true ∧ s.ember.signedEntry 1 = true ∧ canWriteRing s = true ∧ ringFree s 9 = true) ∧
      s.ember.sigHeld 1 ≠ s.ember.sigFor 1) ∧
    (∃ (s : State) (e : CapEntry), s.host.capq = [e] ∧ e.stop = none ∧ canWriteRing s = true ∧ ringFree s 10 = true) ∧
    (∃ (s : State) (e : CapEntry) (d : Inflight), s.host.capq = [e] ∧ e.stop = some (0, 4) ∧ s.flight 0 = some d ∧ d.phase.isDone = false ∧
      canWriteRing s = true ∧ ringFree s 10 = true) := by
  refine ⟨⟨{ quiet 8 ringed with
        events := { up.events with slots := [(0, ⟨1, 1, 0, 0, 0, 0, 0, 0, 0⟩)], unread := 1, qseq := 1, qrd := 0 } }, _,
      by decide +kernel, by decide +kernel, rfl, rfl, by decide +kernel, rfl, by decide +kernel⟩,
    ⟨delivering ((holding 1).sigFor 1), delivering_meets _, ?_⟩, ⟨delivering (~~~(holding 1).sigFor 1), delivering_meets _, ?_⟩,
    ⟨(quiet 10 ringed).updHost fun h => { h with capq := [⟨0, false, 0, 0, 0, 16, 0, none⟩] }, _, rfl, rfl, by decide +kernel⟩,
    ⟨(fly (plain Opc.captureStop [0]) (quiet 10 ringed)).updHost fun h => { h with capq := [⟨0, true, 0, 0, 0, 16, 0, some (0, 4)⟩] },
      _, _, rfl, rfl, rfl, by decide +kernel⟩⟩
  · rw [show (delivering _).ember = sealing 1 _ from rfl, sealing_held, sealing_for]
  · rw [show (delivering _).ember = sealing 1 _ from rfl, sealing_held, sealing_for]
    intro h
    have := congrArg (BitVec.getLsbD · 0) h
    simp at this
theorem test_meets_CoalescingExpiry :
    (∃ s : State, s.running Isl.host = true ∧ 0 < s.fld (0x420C + 0x20 * 0) 25 16 ∧ 0 < (s.oqAt 0).since ∧ (s.oqAt 0).armed = true ∧
      s.masked (s.fld (oqCfg 0) 11 8) = true) ∧
    (∃ s : State, s.running Isl.host = true ∧ 0 < s.fld (0x420C + 0x20 * 0) 25 16 ∧ 0 < (s.oqAt 0).since ∧ (s.oqAt 0).armed = false ∧
      s.masked (s.fld (oqCfg 0) 11 8) = false) :=
  ⟨⟨(ringed.setReg 0x420C 0x10001).updOq 0 fun q => { q with since := 1 }, by decide +kernel⟩,
    (((quiet 0 ringed).setReg 0x420C 0x10001).setReg 0x500C 0).updOq 0 fun q => { q with since := 1 }, by decide +kernel⟩
theorem test_meets_RingSwitches :
    (bitOf (0x80000004 : Word) 31 = true ∧ up.sqEnabled 0 = false ∧ up.oqEnabled 10 = false ∧ up.running Isl.host = true) ∧
    (bitOf (4 : Word) 31 = false ∧ ringed.oqEnabled 0 = true ∧ cqInUse (writeReg (oqCfg 0) 4 ringed) 0 = true ∧
      ringed.oqEnabled 9 = true ∧ ringed.oqEnabled 10 = true ∧ ringed.running Isl.host = true) := by decide +kernel
theorem test_meets_PcieState :
    (up.host.linkUp = true ∧ up.link.owed = [] ∧ up.running Isl.host = true) ∧
    (∃ s : State, s.running Isl.host = true ∧ s.host.linkUp = false ∧ s.link.owed = [] ∧ s.host.faultHeld = false) ∧
    (∃ s : State, s.running Isl.host = true ∧ s.host.linkUp = false ∧ s.link.owed = [] ∧ s.host.faultHeld = true) ∧
    (∃ (s : State) (w : OwedReply) (d : Inflight), s.running Isl.host = true ∧ s.host.linkUp = false ∧ s.host.busMaster = true ∧
      s.link.owed = [w] ∧ s.flight w.ord = some d) :=
  ⟨by decide, ⟨up.updHost fun h => { h with linkUp := false }, by decide⟩,
   ⟨up.updHost fun h => { h with linkUp := false, faultHeld := true }, by decide +kernel⟩,
   ⟨{ fly (plain Opc.linkSend []) up with
      host := { (fly (plain Opc.linkSend []) up).host with linkUp := false },
      link := { up.link with owed := [⟨0, 0x1000, [1], []⟩] } }, ⟨0, 0x1000, [1], []⟩, _, by decide, rfl, rfl, rfl, rfl⟩⟩
def asking : Inflight := plain Opc.resetRequest (leBytes 4 0xB1607F00 ++ leBytes 1 1)
def answered : Inflight := { asking with phase := .done ⟨0, 0, zeros 24⟩ }
theorem test_meets_ResetRequest : (∃ s : State, Starts s 0 Opc.resetRequest asking) ∧
    (∃ (s : State) (c : Completion), s.flight 0 = some answered ∧ answered.opcode = Opc.resetRequest ∧ answered.phase = .done c ∧
      sqFirst s answered.sq = some 0 ∧ c.status = 0 ∧ canWriteRing s = true ∧ ringFree s (sqCq s answered.sq) = true ∧
      s.fw.ctlAct = none ∧ s.rst.episode = none ∧ s.rst.release = none) ∧
    (∃ (s : State) (d : Inflight) (c : Completion), s.flight 1 = some d ∧ d.opcode = Opc.resetRequest ∧ d.phase = .done c ∧
      sqFirst s d.sq ≠ some 1) :=
  ⟨⟨fly asking (quiet 0 ringed), starts_of (by decide +kernel)⟩,
   ⟨fly answered (quiet 0 ringed), _, rfl, by decide, rfl, by decide +kernel, rfl, by decide +kernel⟩,
   ⟨up.updHost fun h => { h with inflight := [plain Opc.nop [], { answered with ord := 1 }] }, _, _, rfl, by decide, rfl, by decide +kernel⟩⟩
/-! Descriptors. -/

theorem test_meets_FinishedDescriptors :
    (∃ d : Inflight, (fly (plain Opc.nop []) up).flight 0 = some d ∧ d.phase.isDone = false) ∧ (1 ≠ 0) ∧
    (∃ d : Inflight, (fly { plain Opc.nop [] with phase := .done ⟨0, 0, []⟩ } up).flight 0 = some d ∧ d.phase.isDone = true) ∧
    (∃ (s : State) (d : Inflight) (x : Nat × Nat), s.flight 0 = some d ∧ mayStart s d = true ∧ d.opcode = Opc.nop ∧
      staticFault s d = some x) ∧
    (∃ (s : State) (d : Inflight), s.flight 0 = some d ∧ mayStart s d = true ∧ d.opcode = Opc.nop ∧ staticFault s d = none ∧
      (Opc.needs d.opcode).find? (fun i => s.island i == .isolated) = some Isl.ctrl) ∧
    (∃ (s : State) (d : Inflight) (x : Nat × Nat), s.flight 0 = some d ∧ mayStart s d = true ∧ d.opcode = Opc.readPoint ∧ canDma s = true ∧
      staticFault s d = some x) ∧
    (∃ (s : State) (d : Inflight) (x : Nat × Nat), s.flight 0 = some d ∧ mayStart s d = true ∧ d.opcode = Opc.linkPollset ∧ canDma s = true ∧
      (∀ e ∈ s.host.inflight, e.ord < 0 → e.opcode = Opc.linkPollset → e.phase.isDone = true) ∧ staticFault s d = some x) :=
  ⟨⟨_, rfl, rfl⟩, by decide, ⟨_, rfl, rfl⟩, ⟨fly (plain Opc.nop [1]) up, _, (0x02, 20), rfl, by decide +kernel⟩,
    ⟨(fly (plain Opc.nop []) up).setIsland Isl.ctrl .isolated, _, rfl, by decide +kernel⟩,
    ⟨fly (plain Opc.readPoint []) up, _, (0x02, 4), rfl, by decide +kernel⟩,
    ⟨fly (plain Opc.linkPollset []) up, _, (0x02, 8), rfl, by decide +kernel⟩⟩
/-- A store whose area A holds an empty bank. -/
def banked : List Host.Cell :=
  Memory.writeN [] (areaBase false) (leBytes 4 bankMagic ++ zeros 60 ++ leBytes 4 (crc32 (leBytes 4 bankMagic ++ zeros 60)))
/-- As `up`, in pilot-light mode. -/
def dark : State := { up with rst := { up.rst with pilot := true } }
theorem test_meets_SimpleReads :
    (∃ s d, Starts s 0 Opc.nop d) ∧ (∃ s d, Starts s 0 Opc.timeRead d) ∧
    (∃ s d, StartsDma s 0 Opc.readPoint d) ∧ (∃ s d, StartsDma s 0 Opc.sessionRead d) ∧
    (∃ s d, StartsDma s 0 Opc.readTotals d ∧ s.rst.pilot = false) ∧
    (∃ s d, StartsDma s 0 Opc.readTotals d ∧ s.rst.pilot = true ∧ s.ember.newestArea = none) ∧
    (∃ s d, StartsDma s 0 Opc.readTotals d ∧ s.rst.pilot = true ∧ s.ember.newestArea = some false) :=
  ⟨⟨fly (plain Opc.nop []) up, _, starts_of (d := plain Opc.nop []) (by decide +kernel)⟩,
   ⟨fly (plain Opc.timeRead []) up, plain Opc.timeRead [], starts_of (by decide +kernel)⟩,
   ⟨fly (waiting (command 2 3 0xFFFF 0x1000 256 [])) up, waiting (command 2 3 0xFFFF 0x1000 256 []), startsDma_of (by decide +kernel)⟩,
   ⟨fly (waiting (command 0x16 0xFFFF 3 0x1000 192 [])) up, waiting (command 0x16 0xFFFF 3 0x1000 192 []),
     startsDma_of (by decide +kernel)⟩,
   ⟨fly (buffered 3 256 [3]) up, buffered 3 256 [3], startsDma_of (by decide +kernel), by decide⟩,
   ⟨fly (buffered 3 256 [3]) dark, buffered 3 256 [3], startsDma_of (by decide +kernel), by decide +kernel⟩,
   ⟨fly (buffered 3 256 [3]) { dark with ember := { up.ember with store := banked } }, buffered 3 256 [3], startsDma_of (by decide +kernel),
     rfl, by decide +kernel⟩⟩
/-- Two ATTEST, one with too short a buffer. -/
def attesting : State :=
  { up with host := { up.host with inflight := [buffered 0x30 16 [1], { buffered 0x30 4096 [1] with ord := 1 }] } }
theorem attestation_length : 16 < (attestation attesting (1 :: zeros 31) 0).length ∧
    (attestation attesting (1 :: zeros 31) 0).length ≤ 4096 := by
  decide +kernel
theorem attest_slice (n : Nat) : sliceOf (buffered 0x30 n [1]).bytes 20 32 = 1 :: zeros 31 := by
  simp [buffered, waiting, command, sliceOf, leBytes, padTo, zeros, List.range_succ, List.replicate_succ]
theorem test_meets_SealAnswers :
    (∃ s d, StartsDma s 1 Opc.attest d ∧ (attestation s (sliceOf d.bytes 20 32) 0).length ≤ d.bufLen) ∧
    (∃ s d, StartsDma s 0 Opc.attest d ∧ d.bufLen < (attestation s (sliceOf d.bytes 20 32) 0).length) ∧
    (∃ s d, StartsDma s 0 Opc.keyInfo d ∧ (keyInfoMap s (d.op 20 1)).length ≤ d.bufLen) ∧
    (∃ s d, StartsDma s 0 Opc.keyInfo d ∧ d.bufLen < (keyInfoMap s (d.op 20 1)).length) := by
  refine ⟨⟨attesting, { buffered 0x30 4096 [1] with ord := 1 }, startsDma_of (by decide +kernel), ?_⟩,
   ⟨attesting, buffered 0x30 16 [1], startsDma_of (by decide +kernel), ?_⟩,
   ⟨fly (buffered 0x31 4096 [1]) up, buffered 0x31 4096 [1], startsDma_of (by decide +kernel), by decide +kernel⟩,
   ⟨fly (buffered 0x31 16 [1]) up, buffered 0x31 16 [1], startsDma_of (by decide +kernel), by decide +kernel⟩⟩
  · rw [show sliceOf { buffered 0x30 4096 [1] with ord := 1 : Inflight }.bytes 20 32 = 1 :: zeros 31 from attest_slice 4096]
    exact attestation_length.2
  · rw [attest_slice]; exact attestation_length.1
/-! The real-time clock. -/

def withRtc (f : Rtc → Rtc) (s : State) : State := { s with rtc := f s.rtc }
/-- The ember queue GATED: no record acknowledged since SEQ 700. -/
def gated : State := live.updEmber fun e => { e with nextSeq := 701 }
def timeSet (seconds : Nat) : Inflight := plain Opc.timeSet (leBytes 5 seconds)

theorem test_meets_TimeSets :
    (live.damperRunning = true ∧ live.ember.gated = false ∧ live.rtc.unit = none ∧ live.rtc.notice = none ∧ live.rtc.halted = false ∧
      (∃ d, Starts (fly d live) 0 Opc.timeSet d ∧ (fly d live).damperRunning = true ∧ d.op 20 5 = 252455615999) ∧
      bitOf (2 : Word) 0 = false ∧ bitOf (1 : Word) 0 = true) ∧
    (∃ s : State, s.damperRunning = true ∧ s.ember.gated = false ∧ s.rtc.unit = none ∧ s.rtc.notice = none ∧ s.rtc.halted = false ∧
      2024 = s.fld 0x3020 13 0 ∧ 2 = s.fld 0x3020 19 16 ∧ 29 = s.fld 0x3020 28 24 ∧
      0 = s.fld 0x3024 4 0 ∧ 59 = s.fld 0x3024 13 8 ∧ 59 = s.fld 0x3024 21 16 ∧ 29 ≤ monthDays 2024 2 ∧
      daysOf 2024 2 29 * 86400 + 0 * 3600 + 59 * 60 + 59 ≤ 252455615999) ∧
    ((∃ s : State, s.rtc.halted = true) ∧ (live.setReg 0x3020 0x1E0207E8).fld 0x3020 28 24 = 30 ∧ monthDays 2024 2 < 30) ∧
    (∃ d, Starts (fly d up) 0 Opc.timeSet d ∧ (fly d up).damperRunning = false ∧ (fly d up).rtc.halted = false) ∧
    (∃ d, Starts (fly d gated) 0 Opc.timeSet d ∧ (fly d gated).damperRunning = true ∧ (fly d gated).ember.gated = true ∧
      (fly d gated).rtc.halted = false) ∧
    (∃ s d, Starts s 0 Opc.timeSet d ∧ s.damperRunning = true ∧ s.ember.gated = false ∧ s.rtc.unit.isSome = true ∧ s.rtc.halted = false) ∧
    (calendarFault (up.fld 0x3020 13 0) (up.fld 0x3020 19 16) (up.fld 0x3020 28 24) (up.fld 0x3024 4 0) (up.fld 0x3024 13 8)
      (up.fld 0x3024 21 16) = 0 ∧ bitOf (1 : Word) 0 = true) ∧
    (∃ d, Starts (fly d live) 0 Opc.timeSet d ∧ 252455615999 < d.op 20 5) :=
  ⟨⟨by decide +kernel, by decide +kernel, rfl, rfl, rfl, ⟨timeSet 252455615999, starts_of (by decide +kernel), by decide +kernel⟩, by decide⟩,
   ⟨(live.setReg 0x3020 0x1D0207E8).setReg 0x3024 0x3B3B00, by decide +kernel⟩,
   ⟨⟨withRtc (fun r => { r with halted := true }) live, rfl⟩, by decide +kernel⟩,
   ⟨timeSet 5, starts_of (by decide +kernel), by decide +kernel⟩,
   ⟨timeSet 5, starts_of (by decide +kernel), by decide +kernel⟩,
   ⟨fly (timeSet 5) (withRtc (fun r => { r with unit := some ⟨0, 1, none⟩ }) live), timeSet 5, starts_of (by decide +kernel), by decide +kernel⟩,
   by decide +kernel, ⟨timeSet 252455616000, starts_of (by decide +kernel), by decide +kernel⟩⟩
theorem test_meets_PrescalerAndHalt :
    (∃ s : State, s.rtc.halted = true ∧ s.damperRunning = true ∧ s.ember.gated = false ∧ s.rtc.elapsed < 32768 ∧
      s.rtc.written / 32768 ≤ 252455615999) ∧
    (∃ s : State, s.rtc.halted = true ∧ s.damperRunning = false) ∧
    (∃ s : State, s.rtc.halted = true ∧ s.damperRunning = true ∧ s.ember.gated = false ∧ 32768 ≤ s.rtc.elapsed) ∧
    (∃ s : State, s.rtc.halted = true ∧ s.damperRunning = true ∧ s.ember.gated = false ∧ s.rtc.elapsed < 32768 ∧
      252455615999 < s.rtc.written / 32768) ∧
    (∃ s : State, s.rtc.halted = true ∧ s.damperRunning = true ∧ s.ember.gated = true) ∧
    (∃ s : State, s.rtc.halted = false ∧ s.rtc.unit = none) ∧ (∃ s : State, s.rtc.halted = false ∧ s.rtc.unit = some ⟨5, 1, none⟩) :=
  ⟨⟨withRtc (fun r => { r with halted := true }) live, by decide +kernel⟩,
   ⟨withRtc (fun r => { r with halted := true }) up, by decide +kernel⟩,
   ⟨withRtc (fun r => { r with halted := true, elapsed := 32768 }) live, by decide +kernel⟩,
   ⟨withRtc (fun r => { r with halted := true, written := 252455616000 * 32768 }) live, by decide +kernel⟩,
   ⟨withRtc (fun r => { r with halted := true }) gated, by decide +kernel⟩,
   ⟨up, rfl, rfl⟩, ⟨withRtc (fun r => { r with unit := some ⟨5, 1, none⟩ }) up, rfl, rfl⟩⟩
theorem test_meets_TrimInsertsC : (∃ s : State, s.rtc.halted = false ∧
    0 < trimUnits (trimWord (crystalDev (signed (s.fld 0x3030 15 0) 16) (s.fld 0x302C 27 16 : Nat) 100 (signed (s.fld 0x302C 11 0) 12)))
      s.rtc.step) ∧ (∃ s : State, s.rtc.halted = true) :=
  ⟨⟨withRtc (fun r => { r with step := 31 }) (up.setReg 0x3030 0xFC00), by decide +kernel⟩, ⟨withRtc (fun r => { r with halted := true }) up, rfl⟩⟩
theorem test_meets_CalendarInverse :
    calendarFault 2000 2 29 23 59 59 = 0 ∧ calendarFault 9999 12 31 0 0 0 = 0 := by decide
/-- 2 days and 1 s after the start of the epoch, 2000-01-03 00:00:01. -/
theorem test_calendar : fieldOf (calendarView 172801).1 13 0 = 2000 ∧ fieldOf (calendarView 172801).1 19 16 = 1 ∧
    fieldOf (calendarView 172801).1 28 24 = 3 ∧ fieldOf (calendarView 172801).2 21 16 = 1 := by decide +kernel
theorem test_meets_VbatLossAndWatchdog :
    (∃ e, State.reset.rst.episode = some e ∧ e.level = .l0) ∧ up.rst.episode = none ∧ up.running Isl.sys = true ∧
    bitOf (up.reg 0x1028) 31 = false ∧
    bitOf ((up.setReg 0x1028 0x80000000).reg 0x1028) 31 = true ∧ (up.setReg 0x1028 0x80000000).running Isl.sys = true ∧
    bitOf (0x80000001 : Word) 31 = true ∧ fieldOf (0x6B1C0000 : Word) 31 16 = 0x6B1C ∧ fieldOf (0 : Word) 31 16 ≠ 0x6B1C :=
  ⟨⟨_, rfl, rfl⟩, by decide +kernel⟩
/-! Captures, panels, the link. -/
def capturing (source preset : Nat) : Inflight :=
  buffered Opc.captureStart 64 (leBytes 1 source ++ leBytes 1 0 ++ leBytes 1 preset ++ leBytes 1 0 ++ leBytes 4 16)
/-- A capture of input 0 in slot 0 that has not begun. -/
def armed : State := live.setCapture 0 (some
  { source := 0, input := 0, preset := 0, decim := 0, count := 16, addr := 0x1000, start := 0, begun := false, next := 0, taken := 0,
    spanOff := 0, first := 0, flags := 0, stopOrd := none })
theorem test_meets_CaptureCommands :
    (∃ s d, Starts s 0 Opc.captureStart d ∧ captureFault s d = none ∧
      ((List.range 4).find? fun k => (s.captureAt k).isNone) = some 0) ∧
    (∃ s d, ∃ x : Nat × Nat, Starts s 0 Opc.captureStart d ∧ captureFault s d = some x) ∧
    (∃ s d, Starts s 0 Opc.captureStart d ∧ ∀ k, k < 4 → (s.captureAt k).isSome = true) ∧
    (∃ c : Capture, armed.captureAt 0 = some c ∧ c.begun = false ∧ c.start ≤ nextIndex armed c.source c.preset) ∧
    (∃ (s : State) (c : Capture), s.captureAt 0 = some c ∧ c.begun = true) ∧
    (∃ s d, ∃ c : Capture, Starts s 0 Opc.captureStop d ∧ s.captureAt (d.op 20 1) = some c) ∧
    (∃ s d, Starts s 0 Opc.captureStop d ∧ s.captureAt (d.op 20 1) = none) :=
  ⟨⟨fly (capturing 1 1) live, capturing 1 1, starts_of (by decide +kernel), by decide +kernel⟩,
   ⟨fly (capturing 0 0) up, capturing 0 0, (0x02, 21), starts_of (by decide +kernel), by decide +kernel⟩,
   ⟨fly (capturing 1 1) ((List.range 4).foldl (fun s k => s.setCapture k (armed.captureAt 0)) live), capturing 1 1, starts_of (by decide +kernel),
     by decide +kernel⟩,
   ⟨_, rfl, by decide +kernel⟩, ⟨armed.setCapture 0 ((armed.captureAt 0).map fun c => { c with begun := true }), _, rfl, rfl⟩,
   ⟨fly (plain Opc.captureStop [0]) armed, plain Opc.captureStop [0], _, starts_of (by decide +kernel), rfl⟩,
   ⟨fly (plain Opc.captureStop [1]) armed, plain Opc.captureStop [1], starts_of (by decide +kernel), by decide +kernel⟩⟩
/-- The image with one legal field, at (0, 0) on port 0, 8 by 8 pixels. -/
def fielded : State :=
  { up with
    damper := { up.damper with
      image := some { image with bytes := image.bytes ++ [(272520, 1), (272528 + 8, 8), (272528 + 10, 8)] } } }
def windowOn (w : Byte) : Inflight := plain Opc.displayWindow ([0, 1, 0, 0, 0, 0, 0, 0] ++ [w, 0, w, 0])
theorem test_meets_DisplayDescriptors :
    (∃ s d, StartsDma s 0 Opc.displayCompose d) ∧
    (∃ s d, Starts s 0 Opc.displayWindow d ∧ d.op 21 1 = 0) ∧
    (∃ s d, ∃ r : Rect, Starts s 0 Opc.displayWindow d ∧ r = ⟨d.op 24 2, d.op 26 2, d.op 28 2, d.op 30 2⟩ ∧ d.op 21 1 ≠ 0 ∧
      s.img.portFields (d.op 20 1) ≠ [] ∧
      ∀ n ∈ s.img.portFields (d.op 20 1), s.img.onRequest n = true ∨ r.contains (s.img.fieldRect n) = true) ∧
    (∃ s d, ∃ r : Rect, Starts s 0 Opc.displayWindow d ∧ r = ⟨d.op 24 2, d.op 26 2, d.op 28 2, d.op 30 2⟩ ∧ d.op 21 1 ≠ 0 ∧
      ∃ n ∈ s.img.portFields (d.op 20 1), s.img.onRequest n = false ∧ r.contains (s.img.fieldRect n) = false) :=
  ⟨⟨fly (buffered Opc.displayCompose 32 ([0, 0, 0, 0] ++ leBytes 4 0 ++ [8, 0, 8, 0])) up, _,
      startsDma_of (d := buffered Opc.displayCompose 32 ([0, 0, 0, 0] ++ leBytes 4 0 ++ [8, 0, 8, 0])) (by decide +kernel)⟩,
   ⟨fly (plain Opc.displayWindow []) up, plain Opc.displayWindow [], starts_of (by decide +kernel), by decide +kernel⟩,
   ⟨fly (windowOn 8) fielded, windowOn 8, _, starts_of (by decide +kernel), rfl, by decide +kernel⟩,
   ⟨fly (windowOn 4) fielded, windowOn 4, _, starts_of (by decide +kernel), rfl, by decide +kernel⟩⟩

def small : Rect := ⟨0, 0, 8, 8⟩
def update : Update :=
  { kind := .legal, region := small, mode := 0, targets := [], imageId := 0, frames := 1, range := 0, bank := false, mapBank := false }
def withMantel (f : Mantel → Mantel) (s : State) : State := { s with mantel := f s.mantel }
theorem test_meets_MantelTables :
    (up.running Isl.mantel = true ∧ 0 = up.fld 0x35010 2 0 ∧ (up.tableAt 0).pending = false ∧ up.mantel.commit ≠ some 0) ∧
    (∃ s : State, s.running Isl.mantel = true ∧ 0 = s.fld 0x35010 2 0 ∧ (s.tableAt 0).pending = true) ∧
    (∃ s : State, s.running Isl.mantel = true ∧ 0 = s.fld 0x35010 2 0 ∧ s.mantel.commit = some 0 ∧ canSwap s 0 = true) ∧
    (∃ s : State, s.running Isl.mantel = true ∧ 7 = s.fld 0x35010 2 0) ∧
    (∃ (v : Word) (t : State), bitOf v 4 = true ∧ t = writeReg 0x35010 v up ∧ 4 = t.fld 0x35010 2 0 ∧ up.mantel.commit = none ∧
      (up.tableAt 4).pending = false) ∧
    (∃ (v : Word) (t : State), t = writeReg 0x35010 v up ∧ 0 = t.fld 0x35010 2 0 ∧ bitOf v 4 = false) ∧
    (∃ s : State, s.mantel.commit = some 1 ∧ canSwap s 1 = false) :=
  ⟨by decide +kernel, ⟨withMantel (fun m => { m with tables := Tab.upd m.tables 0 fun t => { t with pending := true } }) up, by decide +kernel⟩,
   ⟨withMantel (fun m => { m with commit := some 0 }) up, by decide +kernel⟩, ⟨up.setReg 0x35010 7, by decide +kernel⟩,
   ⟨0x14, _, by decide, rfl, by decide +kernel⟩, ⟨0, _, rfl, by decide +kernel⟩,
   ⟨(withMantel (fun m => { m with commit := some 1 }) up).updPort 0 fun q => { q with phase := .scanning update }, by decide +kernel⟩⟩
/-- A waveform table without blocks. -/
def waveBody : List Byte := leBytes 4 waveMagic ++ leBytes 4 0x104 ++ zeros 248
def waveTable : List Host.Cell := Memory.writeN [] 0 (withCrc waveBody)
theorem waveBody_length : waveBody.length = 256 := by decide +kernel
theorem wave_read (i n : Nat) (h : i + n ≤ 260) : Memory.readN waveTable i n = ((withCrc waveBody).drop i).take n := by
  have := Memory.readN_writeN [] 0 (withCrc waveBody) i n
    (by rw [withCrc, List.length_append, waveBody_length, leBytes_length]; exact h)
  rwa [Nat.zero_add] at this
theorem wave_part (i n : Nat) (h : i + n ≤ 256) : Memory.readN waveTable i n = (waveBody.drop i).take n := by
  rw [wave_read i n (by omega), withCrc, List.drop_append_of_le_length (by rw [waveBody_length]; omega),
    List.take_append_of_le_length (by rw [List.length_drop, waveBody_length]; omega)]
theorem wave_size : Wave.size waveTable = 0x104 := by
  unfold Wave.size Memory.readLE
  rw [wave_part 4 4 (by omega)]; decide +kernel
theorem wave_valid : Wave.valid waveTable = true := by
  have h : Memory.readLE waveTable 0 4 = waveMagic := by
    unfold Memory.readLE
    rw [wave_part 0 4 (by omega)]; decide +kernel
  have h2 : Wave.crcOk waveTable = true := by
    unfold Wave.crcOk
    rw [wave_size, wave_read 0 260 (by omega), List.drop_zero, List.take_of_length_le, crcOk_withCrc]
    rw [withCrc, List.length_append, waveBody_length, leBytes_length]
  simp [Wave.valid, Wave.headOk, h, h2, wave_size]
/-- Port 0 enabled with its engine on, 800 by 600 pixels, a fixed temperature, but for one register; what waits for it is a clear block. -/
def panelled (ph : PortPhase) (r : Rect) (a : Nat) (v : Word) : State :=
  [(0x35100, 1), (0x35104, 0x02580320), (0x35108, 0x00020190), (0x3510C, 0x190002), (a, v)].foldl (fun s c => s.setReg c.1 c.2)
    (withMantel (fun m => { m with
      run := true, tables := Tab.upd m.tables 0 fun t => { t with bank0 := waveTable },
      ports := Tab.upd m.ports 0 fun q => { q with phase := ph, start := [.clear r] } }) up)
theorem panelled_table (ph : PortPhase) (r : Rect) (a : Nat) (v : Word) :
    (panelled ph r a v).tableAt 0 = { TableSlot.init with bank0 := waveTable } := by
  show Tab.at (Tab.upd up.mantel.tables 0 fun t => { t with bank0 := waveTable }) 0 TableSlot.init = _
  rw [Tab.at_upd_same (by decide), show Tab.at up.mantel.tables 0 TableSlot.init = TableSlot.init by decide]
theorem panelled_free {ph : PortPhase} {r : Rect} {a : Nat} {v : Word}
    (h : ((panelled ph r a v).running Isl.mantel && (panelled ph r a v).running Isl.ember && (panelled ph r a v).mantel.run &&
      (panelled ph r a v).portEn 0 && (panelled ph r a v).ember.trigger.isNone) = true) : engineFree (panelled ph r a v) 0 = true := by
  unfold engineFree
  rw [h, panelled_table]
  simp [TableSlot.activeBank, TableSlot.init, wave_valid]
theorem test_meets_PanelUpdates :
    (let s := panelled .idle small 0x3510C 0x190002; let n := NextUpdate.step (.clear small)
     engineFree s 0 = true ∧ (s.portAt 0).phase = .idle ∧ nextUpdate (s.portAt 0) = some n ∧ mustWait s 0 n = false ∧
      (planUpdate s 0 n).1.isEmpty = false ∧ timingOk s 0 = true ∧ readTemp s 0 .failed = some 50) ∧
    (let s := panelled .waitTemp small 0x3510C 0; let n := NextUpdate.step (.clear small)
     engineFree s 0 = true ∧ (s.portAt 0).phase = .waitTemp ∧ nextUpdate (s.portAt 0) = some n ∧ mustWait s 0 n = false ∧
      (planUpdate s 0 n).1.isEmpty = false ∧ timingOk s 0 = true ∧ readTemp s 0 .failed = none ∧ lastTemp s 0 = none) ∧
    (let s := panelled .idle small 0x35108 0; let n := NextUpdate.step (.clear small)
     engineFree s 0 = true ∧ (s.portAt 0).phase = .idle ∧ nextUpdate (s.portAt 0) = some n ∧ mustWait s 0 n = false ∧
      (planUpdate s 0 n).1.isEmpty = false ∧ timingOk s 0 = false) ∧
    (let s := panelled .idle ⟨0, 0, 0, 8⟩ 0x3510C 0; let n := NextUpdate.step (.clear ⟨0, 0, 0, 8⟩)
     engineFree s 0 = true ∧ (s.portAt 0).phase = .idle ∧ nextUpdate (s.portAt 0) = some n ∧ mustWait s 0 n = false ∧
      (planUpdate s 0 n).1.isEmpty = true) ∧
    (∃ s : State, (s.portAt 0).phase = .rising update) ∧ (∃ s : State, (s.portAt 0).phase = .scanning update) ∧
    (∃ s : State, (s.portAt 0).hvWatch = true ∧ s.pgPin 0 < 16) ∧ (∃ s : State, (s.portAt 0).hvWatch = true ∧ 16 ≤ s.pgPin 0) ∧
    (up.portAt 0).hvWatch = false :=
  ⟨⟨panelled_free (by decide +kernel), by decide +kernel⟩, ⟨panelled_free (by decide +kernel), by decide +kernel⟩,
   ⟨panelled_free (by decide +kernel), by decide +kernel⟩, ⟨panelled_free (by decide +kernel), by decide +kernel⟩,
   ⟨up.updPort 0 fun q => { q with phase := .rising update }, by decide +kernel⟩,
   ⟨up.updPort 0 fun q => { q with phase := .scanning update }, by decide +kernel⟩,
   ⟨(up.updPort 0 fun q => { q with hvWatch := true }).setReg 0x35100 0, by decide +kernel⟩,
   ⟨(up.updPort 0 fun q => { q with hvWatch := true }).setReg 0x35100 0x4000, by decide +kernel⟩, by decide +kernel⟩

def sent : TxFrame := makeFrame 0 [0] [0] 1 1 0 false false false [] 0 0
/-- A poll list of one entry, outpost 1 on phase 1. -/
def polls : List Byte := [1, 1, 1, 0, 30, 0, 8, 0, 0, 0, 0, 0, 0, 0, 0, 0] ++ zeros 48
def linked (f : Link → Link) : State := { live with link := f { live.link with en := true, live := true, work := some polls } }
theorem test_meets_LinkCommands :
    let pollset := buffered Opc.linkPollset 64 [1]
    let send := buffered Opc.linkSend 4 [1]
    let first := fun s : State => ∀ e ∈ s.host.inflight, e.ord < 0 → e.opcode = Opc.linkPollset → e.phase.isDone = true
    (∃ s d, StartsDma s 1 Opc.linkPollset d ∧ ∃ e ∈ s.host.inflight, e.ord < 1 ∧ e.opcode = Opc.linkPollset ∧ e.phase.isDone = false) ∧
    (∃ s d, StartsDma s 0 Opc.linkPollset d ∧ s.linkRx = false ∧ first s) ∧
    (∃ s d, ∃ x : Nat × Nat, StartsDma s 0 Opc.linkPollset d ∧ s.linkRx = true ∧ first s ∧ Poll.reject (zeros 64) = some x) ∧
    (∃ s d, StartsDma s 0 Opc.linkPollset d ∧ s.linkRx = true ∧ first s ∧ Poll.reject (padTo d.bufLen polls) = none ∧ s.link.polling = true) ∧
    (∃ s d, StartsDma s 0 Opc.linkPollset d ∧ s.linkRx = true ∧ first s ∧ Poll.reject (padTo d.bufLen polls) = none ∧
      s.link.polling = false ∧ (Poll.nextFrom (padTo d.bufLen polls) 0).isSome = true) ∧
    (∃ s d, StartsDma s 0 Opc.linkSend d ∧ s.linkEnabled = true ∧ s.link.enPend = false ∧ s.link.sends = [] ∧ s.link.exch = none) ∧
    (∃ s d, ∃ w : SendWait, StartsDma s 0 Opc.linkSend d ∧ s.linkEnabled = true ∧ s.link.enPend = false ∧ s.link.sends = [w]) ∧
    (∃ s d, StartsDma s 0 Opc.linkSend d ∧ s.linkEnabled = false) ∧
    (∃ s u : State, s.running Isl.link = true ∧ u = s.putField 0x34004 1 1 1 ∧ u.pollRun = true ∧ u.linkEnabled = true ∧
      s.link.live = true ∧ s.link.polling = false ∧ (Poll.nextFrom s.pollList 0).isSome = true) ∧
    (∃ s u : State, s.running Isl.link = true ∧ u = s.putField 0x34004 1 1 1 ∧ u.pollRun = true ∧ u.linkEnabled = true ∧
      s.link.live = true ∧ s.link.polling = false ∧ (Poll.nextFrom s.pollList 0).isSome = false) ∧
    (∃ s : State, s.running Isl.link = true ∧ s.link.frame.isSome = true) ∧
    (∃ s : State, s.running Isl.link = true ∧ s.link.frame = none ∧ s.link.rx.frame = none ∧ s.link.en = true) ∧
    (∃ s : State, s.running Isl.link = true ∧ s.link.exch.isSome = true) ∧
    (∃ s : State, s.running Isl.link = true ∧ s.link.exch = none ∧ s.link.polling = true) := by
  intro pollset send first
  exact ⟨⟨up.updHost fun h => { h with inflight := [{ pollset with phase := .working }, { pollset with ord := 1 }] }, { pollset with ord := 1 },
     startsDma_of (by decide +kernel), { pollset with phase := .working }, by decide +kernel⟩,
   ⟨fly pollset up, pollset, startsDma_of (by decide +kernel), by decide +kernel, by decide +kernel⟩,
   ⟨fly pollset live, pollset, (0, 0), startsDma_of (by decide +kernel), by decide +kernel⟩,
   ⟨fly pollset (linked fun k => { k with polling := true }), pollset, startsDma_of (by decide +kernel), by decide +kernel⟩,
   ⟨fly pollset live, pollset, startsDma_of (by decide +kernel), by decide +kernel⟩,
   ⟨fly send (linked id), send, startsDma_of (by decide +kernel), by decide +kernel⟩,
   ⟨fly send (linked fun k => { k with sends := [⟨7, 1, false, 0, 0, [], 0, 0⟩] }), send, _, startsDma_of (by decide +kernel), by decide +kernel,
     by decide +kernel, rfl⟩,
   ⟨fly send live, send, startsDma_of (by decide +kernel), by decide +kernel⟩,
   ⟨linked id, _, by decide, rfl, by decide +kernel⟩, ⟨linked fun k => { k with work := some (zeros 64) }, _, by decide, rfl, by decide +kernel⟩,
   ⟨linked fun k => { k with frame := some sent }, by decide⟩, ⟨linked id, by decide⟩,
   ⟨linked fun k => { k with exch := some (pollExchange polls 0) }, by decide⟩, ⟨linked fun k => { k with polling := true }, by decide⟩⟩
def exchanging (f : Exchange → Exchange) (g : Link → Link) : State :=
  linked fun k => { g k with exch := some (f (pollExchange polls 0)) }
/-- A frame in reception that carries a header in its two header symbols, with `p` payload symbols. -/
def receiving (h p : Nat) (hit : Bool) : RxSync :=
  let bit := fun k => if (headerBits h).getD k false then (-1 : Int) else 1
  let symbol := fun f : Nat → Int => { carriers := (List.range 35).map fun c => (f c, 0), hit := false : RxSymbol }
  { start := 0, mean := 1,
    symbols := [symbol fun _ => 1, symbol fun c => bit (2 * c), symbol fun c => bit (2 * c) * bit (2 * c + 1)] ++
      List.replicate p { carriers := [], hit := hit } }
/-- A reply to outpost 1's exchange: DATA, segment 0 of `n`. -/
def replyHeader (n : Nat) : Nat := Hdr.make true 1 2 false 27 0 n false false
theorem header_read (x : RxSync) (f : RxFrame) (h : Nat) (e : (decodeHeader x.headBits).getD 0 = h) (s : (decodeHeader x.headBits).isSome = true) :
    h = (decodeHeader x.headBits).getD f.header := by
  obtain ⟨v, hv⟩ := Option.isSome_iff_exists.mp s
  rw [hv] at e ⊢; exact e.symm
def hearing (h p : Nat) (hit : Bool) (g : Exchange → Exchange) : State :=
  exchanging (fun e => g { e with wait := .reply }) fun k => { k with rx := { k.rx with frame := some (receiving h p hit) } }
theorem test_meets_LinkExchange :
    (∃ (s : State) (e : Exchange), s.linkEnabled = true ∧ s.link.txen = false ∧ s.link.enPend = false ∧ s.link.polling = true ∧
      s.link.exch = some e ∧ e.wait = .silence) ∧
    (∃ (s : State) (i : Nat), s.linkEnabled = true ∧ s.link.txen = false ∧ s.link.enPend = false ∧ s.link.exch = none ∧ s.link.sends = [] ∧
      s.link.polling = true ∧ Poll.nextFrom s.pollList s.link.next = some i) ∧
    (∃ (s : State) (w : SendWait), s.linkEnabled = true ∧ s.link.txen = false ∧ s.link.enPend = false ∧ s.pollRun = false ∧ s.link.exch = none ∧
      s.link.sends = [w]) ∧
    (∃ (s : State) (e : Exchange), s.link.exch = some e ∧ s.link.frame = some sent ∧ s.link.enPend = false ∧
      Hdr.seg sent.header + 1 < segCount e.req.length e.robust) ∧
    (∃ (s : State) (e : Exchange), s.link.exch = some e ∧ s.link.frame = some sent ∧ s.link.enPend = false ∧
      segCount e.req.length e.robust ≤ Hdr.seg sent.header + 1) ∧
    (∃ (s : State) (e : Exchange), s.link.exch = some e ∧ s.link.frame = some sent ∧ s.link.enPend = true) ∧
    (∃ (s : State) (e : Exchange), s.link.exch = some e ∧ e.attempt < 1 + e.retries ∧ e.wait = .segment) ∧
    (∃ (s : State) (e : Exchange), s.link.exch = some e ∧ 1 + e.retries ≤ e.attempt ∧ e.wait = .reply ∧ e.send = none) ∧
    (∃ (s : State) (e : Exchange) (d : Inflight), s.link.exch = some e ∧ 1 + e.retries ≤ e.attempt ∧ e.wait = .segment ∧ e.send = some 0 ∧
      s.flight 0 = some d ∧ d.phase.isDone = false) :=
  ⟨⟨exchanging id fun k => { k with polling := true }, _, by decide +kernel, rfl, rfl, rfl, rfl, rfl⟩,
   ⟨linked fun k => { k with polling := true }, 0, by decide +kernel⟩,
   ⟨linked fun k => { k with sends := [⟨7, 1, false, 0, 0, [], 0, 0⟩] }, _, by decide +kernel, rfl, rfl, by decide +kernel, rfl, rfl⟩,
   ⟨exchanging (fun e => { e with req := zeros 255 }) fun k => { k with frame := some sent }, _, rfl, rfl, by decide +kernel⟩,
   ⟨exchanging id fun k => { k with frame := some sent }, _, rfl, rfl, by decide +kernel⟩,
   ⟨exchanging id fun k => { k with frame := some sent, enPend := true }, _, rfl, rfl, rfl⟩,
   ⟨exchanging (fun e => { e with wait := .segment }) id, _, rfl, by decide +kernel⟩,
   ⟨exchanging (fun e => { e with wait := .reply, retries := 0, attempt := 1 }) id, _, rfl, by decide +kernel⟩,
   ⟨fly (buffered Opc.linkSend 4 [1]) (exchanging (fun e => { e with wait := .segment, retries := 0, attempt := 1, send := some 0 }) id), _, _,
     rfl, by decide +kernel, rfl, rfl, rfl, rfl⟩⟩
/-- What FRAME_RECEIVED finds: a header symbol hit or a header lost; a good header before its payload; a payload lost; a payload that
answers the exchange, of one or two segments; and a frame that nothing awaits. -/
theorem test_meets_LinkExchange_frames :
    let meets := fun (s : State) (x : RxSync) (h n : Nat) (f : RxFrame) => s.running Isl.link = true ∧ s.link.enPend = false ∧
      s.link.rx.frame = some x ∧ 3 ≤ x.symbols.length ∧ h = (decodeHeader x.headBits).getD f.header ∧ n = ([8, 9].filter x.symbolHit).length
    (∃ (s : State) (e : Exchange) (x : RxSync), s.link.exch = some e ∧ e.awaits = true ∧ e.attempt < 1 + e.retries ∧
      ∀ f, meets s x 1 0 f ∧ judgeHeader 1 = .bad) ∧
    (∃ (s : State) (x : RxSync), x.symbols.length < 3 + Hdr.psym (replyHeader 2) ∧
      ∀ f, meets s x (replyHeader 2) 0 f ∧ judgeHeader (replyHeader 2) = .kept) ∧
    (∃ (s : State) (e : Exchange) (x : RxSync), s.link.exch = some e ∧ e.awaits = true ∧ e.attempt < 1 + e.retries ∧
      3 + Hdr.psym (replyHeader 2) ≤ x.symbols.length ∧ Hdr.dir (replyHeader 2) = true ∧ Hdr.addr (replyHeader 2) = e.outpost ∧
      Hdr.kind (replyHeader 2) = 2 ∧ Hdr.seg (replyHeader 2) = e.seg ∧ Hdr.seg (replyHeader 2) < Hdr.nseg (replyHeader 2) ∧
      ∀ f, meets s x (replyHeader 2) 0 f ∧ rxData x f (replyHeader 2) = none) ∧
    (∀ n : Fin 2, ∃ (s : State) (e : Exchange) (x : RxSync) (f : RxFrame) (h : Nat) (b : List Byte), h = replyHeader (n + 1) ∧
      s.link.exch = some e ∧ e.awaits = true ∧ Hdr.nseg h = n + 1 ∧ Hdr.seg h = e.seg ∧ Hdr.seg h < Hdr.nseg h ∧
      3 + Hdr.psym h ≤ x.symbols.length ∧ meets s x h 0 f ∧ rxData x f h = some b) ∧
    (∃ (s : State) (x : RxSync), s.link.exch.any Exchange.awaits = false ∧ 3 + Hdr.psym (replyHeader 1) ≤ x.symbols.length ∧
      ∀ f, meets s x (replyHeader 1) 0 f) := by
  intro meets
  refine ⟨⟨hearing 1 0 false id, _, receiving 1 0 false, rfl, rfl, by decide +kernel, fun f => ⟨⟨by decide, by decide, rfl, by decide, ?_,
      by decide⟩, by decide +kernel⟩⟩,
    ⟨hearing (replyHeader 2) 26 false id, receiving (replyHeader 2) 26 false, by decide +kernel, fun f => ⟨⟨by decide, by decide, rfl,
      by decide, ?_, by decide⟩, by decide +kernel⟩⟩,
    ⟨hearing (replyHeader 2) 27 true id, _, receiving (replyHeader 2) 27 true, rfl, rfl, by decide +kernel, by decide +kernel, by decide +kernel,
      by decide +kernel, by decide +kernel, by decide +kernel, by decide +kernel, fun f => ⟨⟨by decide, by decide, rfl, by decide, ?_,
      by decide⟩, ?_⟩⟩, fun n => ?_,
    ⟨{ hearing (replyHeader 1) 27 false id with link := { (hearing (replyHeader 1) 27 false id).link with exch := none } },
      receiving (replyHeader 1) 27 false, rfl, by decide +kernel, fun f => ⟨by decide, by decide, rfl, by decide, ?_, by decide⟩⟩⟩
  · exact header_read _ f 1 (by decide +kernel) (by decide +kernel)
  · exact header_read _ f _ (by decide +kernel) (by decide +kernel)
  · exact header_read _ f _ (by decide +kernel) (by decide +kernel)
  · unfold rxData
    exact if_pos (by decide +kernel)
  · refine ⟨hearing (replyHeader (n + 1)) 27 false id, _, receiving (replyHeader (n + 1)) 27 false, { header := 0, data := [], snr := 20 },
      _, [], rfl, rfl, rfl, by revert n; decide +kernel, by revert n; decide +kernel, by revert n; decide +kernel, by revert n; decide +kernel,
      ⟨by revert n; decide, by revert n; decide, rfl, by revert n; decide, header_read _ _ _ (by revert n; decide +kernel) (by revert n; decide +kernel),
        by revert n; decide⟩, by revert n; decide +kernel⟩
  · exact header_read _ f _ (by decide +kernel) (by decide +kernel)

/-! Images, firmware, trust. -/

def staging (st : StageState) (s : State) : State :=
  { s with damper := { s.damper with stage := st, staged := some Image.blank, stageOrd := some 0 } }
def activating (x : Byte) : Inflight := plain Opc.imageActivate (x :: zeros 31)
def imageStage : Inflight := buffered Opc.imageStage 64 []
theorem other_digest (l : List Byte) : ∃ x : Byte, x ≠ 0 ∧ sliceOf (activating x).bytes 20 32 ≠ l := by
  by_cases h : sliceOf (activating 1).bytes 20 32 = l
  · exact ⟨2, by decide, by rw [← h]; decide +kernel⟩
  · exact ⟨1, by decide, h⟩
theorem activating_slice (x : Byte) : sliceOf (activating x).bytes 20 32 = x :: zeros 31 := by
  simp [activating, plain, waiting, command, sliceOf, leBytes, padTo, zeros, List.range_succ, List.replicate_succ]
theorem test_meets_ImageCommands :
    (StartsDma (fly imageStage up) 0 Opc.imageStage imageStage ∧ (fly imageStage up).running Isl.conv = true ∧
      stageBusy (fly imageStage up) = false) ∧
    (∃ s d, StartsDma s 0 Opc.imageStage d ∧ s.running Isl.conv = true ∧ stageBusy s = true) ∧
    (∃ (s : State) (d : Inflight), s.damper.stage = .loading ∧ s.damper.stageOrd = some 0 ∧ s.flight 0 = some d) ∧
    (∃ (s : State) (g : Image), s.damper.stage = .admitting ∧ s.damper.staged = some g ∧ s.damper.stageOrd = some 0) ∧
    (∃ s d, Starts s 0 Opc.imageActivate d ∧ s.damper.stage ≠ .staged) ∧
    (∃ s d, ∃ g : Image, Starts s 0 Opc.imageActivate d ∧ s.damper.stage = .staged ∧ s.damper.staged = some g ∧
      allZero (sliceOf d.bytes 20 32) = true ∧ s.damper.pending = false) ∧
    (∃ s d, ∃ g : Image, Starts s 0 Opc.imageActivate d ∧ s.damper.stage = .staged ∧ s.damper.staged = some g ∧
      allZero (sliceOf d.bytes 20 32) = true ∧ s.damper.pending = true) ∧
    (∃ s d, ∃ g : Image, Starts s 0 Opc.imageActivate d ∧ s.damper.stage = .staged ∧ s.damper.staged = some g ∧
      sliceOf d.bytes 20 32 ≠ (bytes384 g.imageDigest).take 32 ∧ allZero (sliceOf d.bytes 20 32) = false) := by
  refine ⟨⟨startsDma_of (by decide +kernel), by decide +kernel⟩,
    ⟨fly imageStage (staging .admitting up), imageStage, startsDma_of (by decide +kernel), by decide +kernel⟩,
    ⟨fly imageStage (staging .loading up), _, rfl, rfl, rfl⟩, ⟨staging .admitting up, _, rfl, rfl, rfl⟩,
    ⟨fly (activating 0) up, activating 0, starts_of (by decide +kernel), by decide +kernel⟩,
    ⟨fly (activating 0) (staging .staged up), activating 0, _, starts_of (by decide +kernel), rfl, rfl, by decide +kernel⟩,
    ⟨fly (activating 0) (staging .staged { up with damper := { up.damper with pending := true } }), activating 0, _,
      starts_of (by decide +kernel), rfl, rfl, by decide +kernel⟩, ?_⟩
  by_cases h : sliceOf (activating 1).bytes 20 32 = (bytes384 Image.blank.imageDigest).take 32
  · exact ⟨fly (activating 2) (staging .staged up), activating 2, _, starts_of (by decide +kernel), rfl, rfl,
      by rw [← h]; decide +kernel, by decide +kernel⟩
  · exact ⟨fly (activating 1) (staging .staged up), activating 1, _, starts_of (by decide +kernel), rfl, rfl, h, by decide +kernel⟩

def layerBytes : List Byte := zeros 8 ++ leBytes 4 16 ++ zeros 4
theorem test_meets_FirmwareStaged : (∃ s d, StartsDma s 0 Opc.fwStage d ∧ 1 = d.op 20 1 ∧
    layerBytes = padTo d.bufLen layerBytes ∧ d.bufLen = Fwh.totalSize layerBytes ∧ d.bufLen ≤ slotSize 1 ∧
    s.fw.staging = none ∧ s.fw.ctlAct = none ∧ layerTrial s 1 = false ∧ leField (bootBytes s) 4 8 + 2 < 2 ^ 64) ∧
    (∃ s d, StartsDma s 0 Opc.fwStage d ∧ 1 = d.op 20 1 ∧ layerBytes = padTo d.bufLen layerBytes ∧ d.bufLen = Fwh.totalSize layerBytes ∧
      d.bufLen ≤ slotSize 1 ∧ s.fw.staging.isSome = true) ∧
    (∃ s d, StartsDma s 0 Opc.fwStage d ∧ 1 = d.op 20 1 ∧ d.bufLen ≠ Fwh.totalSize (padTo d.bufLen [])) :=
  ⟨⟨fly (buffered Opc.fwStage 16 [1]) up, buffered Opc.fwStage 16 [1], startsDma_of (by decide +kernel), by decide +kernel⟩,
   ⟨fly (buffered Opc.fwStage 16 [1]) { up with fw := { up.fw with staging := some 7 } }, buffered Opc.fwStage 16 [1],
     startsDma_of (by decide +kernel), by decide +kernel⟩,
   ⟨fly (buffered Opc.fwStage 16 [1]) up, buffered Opc.fwStage 16 [1], startsDma_of (by decide +kernel), by decide +kernel⟩⟩
/-- A boot record whose layer 2 has slot A active and a valid slot B. -/
def bootBody : List Byte := leBytes 4 0x424F4F54 ++ leBytes 8 1 ++ [0, 0x10] ++ zeros 4078
def booted (d : Inflight) : State := { fly d up with fw := { up.fw with flash := Memory.writeN [] 0 (withCrc bootBody) } }
theorem bootBody_length : bootBody.length = 4092 := by
  rw [bootBody, List.length_append, List.length_append, List.length_append, leBytes_length, leBytes_length, zeros, List.length_replicate]
  rfl
theorem bootRecord_length : (withCrc bootBody).length = 4096 := by
  rw [withCrc, List.length_append, bootBody_length, leBytes_length]
theorem boot_copy {s : State} (h : s.fw.flash = Memory.writeN [] 0 (withCrc bootBody)) : bootCopy s false = withCrc bootBody := by
  have := Memory.readN_writeN [] 0 (withCrc bootBody) 0 4096 (by rw [bootRecord_length])
  rw [List.drop_zero, List.take_of_length_le (by rw [bootRecord_length])] at this
  unfold bootCopy Flash.bytes
  rw [h, if_neg (by decide)]
  exact this
theorem boot_other {s : State} (h : s.fw.flash = Memory.writeN [] 0 (withCrc bootBody)) :
    bootCopy s true = Memory.readN [] 0x1000 4096 := by
  unfold bootCopy Flash.bytes
  rw [h, if_pos rfl]
  exact Memory.readN_writeN_out [] 0 0x1000 4096 _ (.inr (by rw [bootRecord_length]))
theorem boot_in_force {s : State} (h : s.fw.flash = Memory.writeN [] 0 (withCrc bootBody)) : bootInForce s = some false := by
  have h1 : bootValid s false = true := by
    unfold bootValid
    rw [boot_copy h, crcOk_withCrc, Bool.and_true, withCrc, bootBody, List.append_assoc, List.append_assoc, List.append_assoc]
    rfl
  have h2 : bootValid s true = false := by
    unfold bootValid
    rw [boot_other h]
    have : (leField (Memory.readN [] 0x1000 4096) 0 4 == 0x424F4F54) = false := by decide +kernel
    rw [this, Bool.false_and]
  unfold bootInForce
  rw [h1, h2]
theorem boot_slot {s : State} (h : s.fw.flash = Memory.writeN [] 0 (withCrc bootBody)) : layerByte s 2 = 0x10 := by
  unfold layerByte bootByte bootBytes
  rw [boot_in_force h]
  show leField (bootCopy s false) 13 1 = 0x10
  rw [boot_copy h]
  unfold leField sliceOf
  decide +kernel

def activation : Inflight := plain Opc.fwActivate [2]
/-- CTRL in reset by an activation, nothing in the flash. -/
def restarting : State :=
  let s := (fly { activation with phase := .working } up).setIsland Isl.ctrl .inReset
  { s with host := { s.host with paused := true }, fw := { s.fw with ctlAct := some 0 } }
theorem booted_slot : layerByte (booted activation) 2 = 0x10 := boot_slot (by simp only [booted])
theorem slot_valid {s : State} (h : layerByte s 2 = 0x10) : slotState s 2 (!(activeSlot s 2)) = 1 := by
  simp [slotState, activeSlot, h]
def held (host : Option (List Byte)) : State :=
  { live with fw := { live.fw with hostMet := host, hold := some ⟨false, none, true, false⟩ } }
theorem test_meets_LayerActivation :
    (Starts (booted activation) 0 Opc.fwActivate activation ∧ activation.op 20 1 = 2 ∧ (booted activation).fw.ctlAct = none ∧
      (booted activation).host.paused = false ∧ (∀ e ∈ (booted activation).host.inflight, e.ord = 0) ∧
      slotState (booted activation) 2 (!(activeSlot (booted activation) 2)) = 1) ∧
    (Starts (fly activation up) 0 Opc.fwActivate activation ∧ (fly activation up).fw.ctlAct = none ∧
      (fly activation up).host.paused = false ∧ (∀ e ∈ (fly activation up).host.inflight, e.ord = 0) ∧
      slotState (fly activation up) 2 (!(activeSlot (fly activation up) 2)) ≠ 1) ∧
    (∃ s d, Starts s 0 Opc.fwActivate d ∧ d.op 20 1 = 2 ∧ slotState s 2 (!(activeSlot s 2)) = 1 ∧ s.fw.ctlAct.isSome = true) ∧
    (∃ s d, Starts s 0 Opc.fwActivate d ∧ d.op 20 1 = 2 ∧ slotState s 2 (!(activeSlot s 2)) = 1 ∧ s.fw.ctlAct = none ∧ s.host.paused = true) ∧
    leField (bootBytes up) 4 8 + 1 < 2 ^ 64 ∧
    (∃ s : State, s.fw.ctlAct = some 0 ∧ s.island Isl.ctrl = .inReset ∧ s.rst.episode = none ∧ s.clk.bootSel < 2 ∧ s.rtc.pilotReq = false ∧
      fuseLimit s ≤ s.rtc.starts) ∧
    (restarting.fw.ctlAct = some 0 ∧ restarting.host.paused = true ∧ restarting.island Isl.ctrl = .inReset ∧ restarting.rst.episode = none ∧
      restarting.clk.bootSel < 2 ∧ restarting.rtc.pilotReq = false ∧ restarting.rtc.starts < fuseLimit restarting ∧
      restarting.rst.pilot = false ∧ slotVerifies restarting 2 (activeSlot restarting 2) = false ∧
      slotVerifies restarting 2 (!(activeSlot restarting 2)) = false ∧ restarting.fw.hostCtl = none ∧ restarting.link.work = none) ∧
    (∃ (s : State) (h : MetHold) (t0 : State), s.fw.hold = some h ∧ h.ready = false ∧ h.fallback = true ∧ s.ember.trigger = none ∧
      s.rst.episode = none ∧ s.running Isl.metro = true ∧ loadMetrology (if h.fallback then s else s.putField 0x1000 6 6 0) = some t0) ∧
    (∃ (s : State) (h : MetHold), s.fw.hold = some h ∧ h.ready = false ∧ h.fallback = true ∧ s.ember.trigger = none ∧
      s.rst.episode = none ∧ s.running Isl.metro = true ∧
      (loadMetrology (if h.fallback then s else s.putField 0x1000 6 6 0)).isNone = true) := by
  refine ⟨⟨starts_of (by decide +kernel), by decide +kernel, rfl, rfl, by decide +kernel, ?_⟩,
    ⟨starts_of (by decide +kernel), by decide +kernel⟩,
    ⟨{ booted activation with fw := { (booted activation).fw with ctlAct := some 7 } }, activation, starts_of (by decide +kernel), by decide +kernel,
      slot_valid (boot_slot (by simp only [booted])), rfl⟩,
    ⟨{ booted activation with host := { (booted activation).host with paused := true } }, activation, starts_of (by decide +kernel), by decide +kernel,
      slot_valid (boot_slot (by simp only [booted])), rfl, rfl⟩, by decide +kernel,
    ⟨{ restarting with rtc := { restarting.rtc with starts := 255 } }, by decide +kernel⟩, by decide +kernel,
    ⟨held (some []), _, _, rfl, rfl, rfl, rfl, rfl, by decide,
      (Option.some_get (by decide +kernel : (loadMetrology (held (some []))).isSome = true)).symm⟩, ⟨held none, _, rfl, rfl, rfl, rfl, rfl, by decide, by decide +kernel⟩⟩
  exact slot_valid booted_slot

theorem test_meets_FusesAndRegisters :
    (up.running Isl.seal = true ∧ bitOf (0xF05E0001 : Word) 0 = true ∧ fieldOf (0xF05E0001 : Word) 31 16 = 0xF05E ∧
      bitOf (0xF05E0000 : Word) 0 = false ∧ fieldOf (1 : Word) 31 16 ≠ 0xF05E ∧
      sealState up ≠ .sealed ∧ up.trust.program = none ∧ up.fld 0x31004 4 0 ≤ 17 ∧ (up.setReg 0x31004 18).fld 0x31004 4 0 = 18 ∧
      bitOf ((up.setReg 0x31008 1).reg 0x31008) 0 = true ∧ sealState up = .openState ∧
      18 < (up.setReg 0x31004 19).fld 0x31004 4 0 ∧ bitOf (0x80000007 : Word) 31 = true ∧ 5 ≤ fieldOf (0x80000007 : Word) 2 0 ∧
      5 ≤ fieldOf (0x80000005 : Word) 2 0 ∧ fieldOf (0x80000004 : Word) 2 0 < 5 ∧ bitOf (7 : Word) 31 = false) ∧
    (∃ s : State, s.running Isl.seal = true ∧ s.trust.program = some (3, 0xF)) ∧
    (∃ s : State, s.running Isl.seal = true ∧ sealState s = .sealed) ∧ (∃ s : State, s.running Isl.seal = true ∧ sealState s = .keyed) :=
  ⟨by decide +kernel, ⟨{ up with trust := { up.trust with program := some (3, 0xF) } }, by decide +kernel⟩,
   ⟨{ up with trust := { up.trust with fuses := Tab.upd up.trust.fuses 18 fun _ => 1 } }, by decide +kernel⟩,
   ⟨{ up with trust := { up.trust with fuses := Tab.upd up.trust.fuses 0 fun _ => 1 } }, by decide +kernel⟩⟩
/-- The recovery loader stands in for control firmware, with a loader window in some state. -/
def loading (f : Loader → Loader) : State := { up with fw := { up.fw with loader := true, win := f up.fw.win } }
def loadRelease : Release :=
  { level := .l1, step := 5, outcome := 0, pilot := false, sources := 0, first := 0, holdUs := 0, time := 0, logged := false, hostLoad := true }
/-- Host load: the boot ROM loader runs, and a metrology layer is being verified. -/
def hostLoad : State :=
  { up with
    rst := { up.rst with release := some loadRelease }
    fw := { up.fw with win := { up.fw.win with layer := 1, busy := true, data := zeros 8 ++ leBytes 4 12 } } }
theorem test_meets_LoaderWindow :
    (let s := loading id; s.running Isl.sys = true ∧ s.fw.win.busy = false ∧ s.fw.win.isOpen = false ∧ windowMode s = true ∧
      bitOf (4 : Word) 2 = true ∧ bitOf (4 : Word) 3 = false ∧ fieldOf (4 : Word) 28 5 = 0 ∧ bitOf (12 : Word) 3 = true ∧
      4 * fieldOf (0x2C : Word) 28 5 ≠ 0) ∧
    (windowMode up = false ∧ up.fw.win.busy = false) ∧
    ((loading fun w => { w with busy := true }).fw.win.busy = true ∧
      (loading fun w => { w with isOpen := true, auditor := true }).fw.win.auditor = true) ∧
    (let s := loading fun w => { w with isOpen := true, total := 4 }; s.fw.win.isOpen = true ∧ s.fw.win.auditor = false ∧
      windowMode s = true ∧ s.fw.win.data.length + 4 ≤ s.fw.win.total ∧ s.fw.win.bad = false ∧ s.fw.win.data.length ≠ s.fw.win.total) ∧
    (let s := loading fun w => { w with isOpen := true, total := 4, data := zeros 4 }; windowMode s = true ∧
      s.fw.win.total < s.fw.win.data.length + 4 ∧ s.fw.win.bad = false ∧ s.fw.win.data.length = s.fw.win.total) ∧
    (hostLoad.fw.win.busy = true ∧ hostLoad.running Isl.sys = true ∧ hostLoad.running Isl.seal = true ∧ windowMode hostLoad = true ∧
      leField (bootBytes hostLoad) 4 8 + 3 < 2 ^ 64 ∧
      hostLoad.aud.pend = false ∧ (loadedItem hostLoad.fw.win).isSome = true ∧ hostLoad.fw.win.layer = 1 ∧ hostLoading hostLoad = true) := by
  decide +kernel
/-- A request of the auditor port. -/
def request (cmd : Nat) (p : List Byte) : List Byte := 0x5A :: withCrc (leBytes 1 cmd ++ leBytes 2 p.length ++ p)
def asked (s : State) (cmd : Nat) (p : List Byte) : Bool :=
  portServed s && s.aud.st == .idle && leField (request cmd p) 0 1 == 0x5A && requestWhole (request cmd p) &&
  requestPayload (request cmd p) == p && leField (request cmd p) 1 1 == cmd
def answering (st : AudState) (r : Bool) : State := { up with aud := { up.aud with st := st, recover := r } }
theorem test_meets_AuditorPort :
    asked up 0x01 [] = true ∧ (asked up 0x02 (leBytes 4 16 ++ leBytes 2 8) = true) ∧
    (let p : List Byte := leBytes 4 0x72000 ++ leBytes 2 1; asked up 0x02 p = true ∧ 0x72000 < leField p 0 4 + leField p 4 2) ∧
    (asked up 0x03 (zeros 32) = true ∧ up.running Isl.seal = true) ∧
    (asked (up.setIsland Isl.seal .isolated) 0x03 (zeros 32) = true ∧ (up.setIsland Isl.seal .isolated).running Isl.seal = false) ∧
    asked up 0x04 (leBytes 4 0xB160A0D1) = true ∧
    (let s := loading id; let p : List Byte := leBytes 1 1 ++ leBytes 4 64; asked s 0x10 p = true ∧ recoveryMode s = true ∧
      s.fw.win.busy = false ∧ s.fw.win.isOpen = false ∧ p.length = 5 ∧ leField p 0 1 = 1) ∧
    (let s := loading fun w => { w with isOpen := true, auditor := true, total := 4 }; let p : List Byte := leBytes 4 0 ++ zeros 4;
      asked s 0x11 p = true ∧ recoveryMode s = true ∧ s.fw.win.busy = false ∧ 4 ≤ p.length ∧
      leField p 0 4 = s.fw.win.data.length ∧ s.fw.win.data.length + p.length ≤ s.fw.win.total + 4) ∧
    (let s := loading fun w => { w with isOpen := true, auditor := true };
      asked s 0x12 [] = true ∧ recoveryMode s = true ∧ s.fw.win.busy = false ∧ s.fw.win.bad = false ∧
      s.fw.win.data.length = s.fw.win.total) ∧
    (recoveryMode up = false ∧ asked up 0x10 [] = true ∧ asked up 0x11 [] = true ∧ asked up 0x12 [] = true) ∧
    (portServed up = true ∧ up.aud.st = .idle ∧ leField [0x5A] 0 1 = 0x5A ∧ requestWhole [0x5A] = false) ∧
    (portServed (answering (.ready 0 []) false) = true ∧ (answering (.ready 0 []) false).aud.st ≠ .idle ∧
      (answering (.ready 0 []) false).aud.recover = false ∧ (answering (.ready 0 []) true).aud.recover = true) ∧
    (asked up 0x7F [] = true ∧ asked up 0x01 [0] = true ∧ asked up 0x03 [] = true ∧ asked up 0x04 [] = true) ∧
    (asked (loading id) 0x10 [] = true ∧ asked (loading id) 0x11 [] = true ∧ asked (loading id) 0x12 [0] = true ∧
      recoveryMode (loading id) = true) ∧
    (let s := loading fun w => { w with isOpen := true, auditor := true, total := 4 }; asked s 0x12 [] = true ∧
      s.fw.win.busy = false ∧ s.fw.win.data.length ≠ s.fw.win.total) ∧
    (portServed (answering .busy false) = true ∧ (answering .busy false).aud.st = .busy) := by
  decide +kernel


/-! The mailbox. -/

def sessionCommand (op : Nat) (ops : List Byte) : Inflight := waiting (command op 0xFFFF 3 0 0 ops)
def opening : Inflight := waiting (command Opc.sessionOpen 2 0xFFFF 0x1000 64 [])
/-- The mailbox is full. -/
def full (s : State) : State := { s with damper := { s.damper with mailbox := List.replicate 64 ⟨.ack 1, none⟩ } }
theorem test_meets_SessionCommandsPost :
    (StartsDma (fly opening up) 0 Opc.sessionOpen opening ∧ (fly opening up).mailRoom) ∧
    (∀ op ∈ [Opc.sessionTariff, Opc.sessionPause, Opc.sessionResume, Opc.sessionClose, Opc.sessionRelease],
      Starts (fly (sessionCommand op []) up) 0 op (sessionCommand op []) ∧ (fly (sessionCommand op []) up).mailRoom) ∧
    (∃ s d, Starts s 0 Opc.fwActivate d ∧ d.op 20 1 = 1 ∧ s.mailRoom) ∧
    (∃ s d, Starts s 0 Opc.sessionPause d ∧ s.damper.mailbox.length = 64) ∧
    (∃ s d, StartsDma s 0 Opc.sessionOpen d ∧ s.damper.mailbox.length = 64) := by
  refine ⟨⟨startsDma_of (by decide +kernel), by unfold State.mailRoom; decide⟩, fun op h => ⟨starts_of ?_, ?_⟩,
    ⟨fly (plain Opc.fwActivate [1]) up, plain Opc.fwActivate [1], starts_of (by decide +kernel), by unfold State.mailRoom; decide +kernel⟩,
    ⟨fly (sessionCommand Opc.sessionPause []) (full up), sessionCommand Opc.sessionPause [], starts_of (by decide +kernel), by decide +kernel⟩,
    ⟨fly opening (full up), opening, startsDma_of (by decide +kernel), by decide +kernel⟩⟩
  · revert op; decide +kernel
  · unfold State.mailRoom; revert op; decide +kernel
/-! The metrology plane. -/

theorem test_meets_FrameAdvances : (live.running Isl.conv = true ∧ live.framesRun = true) ∧
    (up.running Isl.conv = true ∧ up.framesRun = false) ∧ State.reset.running Isl.conv = false ∧ CapWrite.failed ∉ [CapWrite.carried] := by
  decide +kernel
theorem test_meets_BeatsAndMailbox : (live.framesRun = true ∧ live.damper.latchedAct = false) ∧ up.framesRun = false ∧ live.active = true ∧
    live.damper.frame ≠ 9999 ∧ ∃ s : State, s.active = true ∧ s.damper.frame = 9999 :=
  ⟨by decide +kernel, by decide +kernel, rfl, by decide, { live with damper := { live.damper with frame := 9999 } }, rfl, rfl⟩
theorem test_meets_PublicationFlips :
    (live.metering = true ∧ live.damper.beat ≠ live.ember.firstBeat ∧ live.ember.lastPub ≠ some (live.damper.beat - 1)) ∧
    (∃ s : State, s.metering = true ∧ s.ember.lastPub = some (s.damper.beat - 1)) ∧ up.metering = false ∧
    (∃ s : State, (s.pointAt 0).closing.state = .metering ∧ s.imgOfBeat.isUsed 0 = true) ∧ (live.pointAt 0).closing.state ≠ .metering :=
  ⟨by decide +kernel, ⟨live.updEmber fun e => { e with lastPub := some 4 }, by decide +kernel⟩, by decide +kernel,
   ⟨live.updPoint 0 fun x => { x with closing := { x.closing with state := .metering } }, by decide +kernel⟩, by decide +kernel⟩
def dueRecord (type : RecType) : DueRecord :=
  { type := type, session := none, point := 0, time := 0, beat := 4, epoch := 1, flags := 0, legal8 := 0, token := 0, nreg := 0,
    regs := Vector.replicate 9 0, uncert := 0, comp := 0, cable := 0, seg := 0, tariff := 0, detail := [], ready := true, fall := 5,
    order := 0, ord := none }
def owing (type : RecType) (next : Nat) : State := live.updEmber fun e => { e with due := [dueRecord type], nextSeq := next }
theorem toSign_first {s : State} {q : Nat} (h : (s.ember.unacked.find? fun q => !(signPosted s q) && !(s.ember.signedEntry q)) = some q) :
    toSign s = some (q, false) := by
  unfold toSign; dsimp only; rw [h]
theorem test_meets_RecordsIssued :
    (let s := owing .event 661; s.running Isl.ember = true ∧ s.layerHeld = false ∧ s.ember.due = [dueRecord .event] ∧
      (dueRecord .event).ready = true ∧ s.ember.low = true ∧ (dueRecord .event).type.skippable = true) ∧
    (let s := owing .fwChange 701; s.running Isl.ember = true ∧ s.layerHeld = false ∧ s.ember.gated = true ∧
      (dueRecord .fwChange).type = .fwChange) ∧
    (let s := owing .close 1; s.running Isl.ember = true ∧ s.layerHeld = false ∧ s.ember.low = false ∧ s.ember.gated = false ∧
      s.ember.free ≠ 0) ∧
    ((owing .close 1025).ember.free = 0 ∧ (dueRecord .close).type.skippable = false ∧ (dueRecord .close).type ≠ .fwChange) ∧
    (up.ember.due = [] ∧ bankDue up = false) ∧
    (∃ s : State, s.running Isl.ember = true ∧ s.ctrlServes = true ∧ s.running Isl.seal = true ∧ s.rst.pilot = false ∧
      toSign s = some (1, false) ∧ s.mailRoom) ∧
    (∃ s : State, bankDue s = true) := by
  refine ⟨by decide +kernel, by decide +kernel, by decide +kernel, by decide +kernel, by decide +kernel,
    ⟨{ up with ember := holding 0 }, rfl, by decide, by decide, rfl, toSign_first ?_, ?_⟩,
    ⟨live.updEmber fun e => { e with half0 := { e.half0 with beat := 4 } }, by decide +kernel⟩⟩
  · have h : (holding 0).unacked = [1] := by
      unfold Ember.unacked
      show List.filter _ [1] = [1]
      rw [List.filter_cons_of_pos (holding_holds 0), List.filter_nil]
    show List.find? _ (holding 0).unacked = some 1
    rw [h, List.find?_cons_of_pos]
    have h2 : (holding 0).signedEntry 1 = false := by unfold Ember.signedEntry; rw [holding_state]; decide
    show (!(signPosted { up with ember := holding 0 } 1) && !((holding 0).signedEntry 1)) = true
    rw [h2]; rfl
  · unfold State.mailRoom; decide
def fused (w13 : Word) (s : State) : State := { s with trust := { s.trust with fuses := Tab.upd s.trust.fuses 13 fun _ => w13 } }
def triggered (done : Bool) : State := up.updEmber fun e => { e with trigger := some ⟨0, 0, 4, done⟩ }
/-- A trigger in an episode that waits for the final bank, or that keeps EMBER for it. -/
def waitingBank (w b : Bool) : State :=
  { triggered false with
    rst := { up.rst with episode := some { Episode.begin 3 .l1 0 with waiting := w, bank := b, deep := some 100000 } } }
theorem test_meets_FinalBanks :
    (let s := fused 0x18 live; s.pins.pfw = false ∧ pinEn s = true ∧ canBank s = true ∧ s.ember.trigger = none ∧
      s.pins.vddIo33Low = false ∧ monEn s = true) ∧
    (let s := fused 0x18 up; s.pins.pfw = false ∧ pinEn s = true ∧ canBank s = false) ∧
    (let s := (fused 0x18 live).updEmber fun e => { e with trigger := some ⟨0, 0, 4, false⟩ }
     s.pins.pfw = false ∧ pinEn s = true ∧ canBank s = true ∧ s.ember.trigger.isSome = true) ∧
    (∃ (s : State) (u : Update), s.pins.pfw = false ∧ pinEn s = true ∧ canBank s = true ∧ s.ember.trigger = none ∧
      (s.portAt 0).phase = .rising u) ∧
    (live.pins.pfw = false ∧ pinEn live = false ∧ live.ember.trigger = none) ∧
    (∃ (s : State) (x : Trigger) (b : Bool), s.ember.trigger = some x ∧ x.done = false ∧ s.running Isl.ember = true ∧
      (finalBank s).ember.newestArea = some b ∧ s.rst.episode = none ∧ s.fw.hold = none) ∧
    (∃ (s : State) (x : Trigger) (e : Episode), s.ember.trigger = some x ∧ x.done = false ∧ s.running Isl.ember = true ∧
      s.rst.episode = some e ∧ e.waiting = true) ∧
    (∃ (s : State) (x : Trigger) (e : Episode), s.ember.trigger = some x ∧ x.done = false ∧ s.running Isl.ember = true ∧
      s.rst.episode = some e ∧ e.waiting = false ∧ e.bank = true) ∧
    (∃ (s : State) (e : Episode), s.rst.episode = some e ∧ e.waiting = true ∧ e.deep.getD 0 = 100000) ∧
    (∃ (s : State) (e : Episode), s.rst.episode = some e ∧ e.waiting = false) ∧
    (∃ (s : State) (x : Trigger), s.ember.trigger = some x ∧ x.cause ≤ 1 ∧ x.done = true ∧ s.rst.episode = none ∧ s.rst.release = none ∧
      true = decide ((s.pins.pfw = false ∨ pinEn s = false) ∧ (s.pins.vddIo33Low = false ∨ monEn s = false))) := by
  refine ⟨by decide +kernel, by decide +kernel, by decide +kernel,
    ⟨(fused 0x18 live).updPort 0 fun q => { q with phase := .rising update }, _, by decide, by decide +kernel, by decide +kernel, rfl, rfl⟩,
    by decide +kernel,
    ⟨(triggered false).updEmber fun e => { e with store := banked, trigger := some ⟨0, 0, 0, false⟩ },
      _, false, rfl, rfl, by decide, by decide +kernel, rfl, rfl⟩,
    ⟨waitingBank true false, _, _, rfl, rfl, by decide, rfl, rfl⟩, ⟨waitingBank false true, _, _, rfl, rfl, by decide, rfl, rfl, rfl⟩,
    ⟨waitingBank true false, _, rfl, rfl, rfl⟩, ⟨waitingBank false true, _, rfl, rfl⟩, ⟨triggered true, _, rfl, by decide +kernel⟩⟩
/-! Hearths and flue. -/

def hearthed (f : Hearth → Hearth) : State := live.updHearth 0 f
/-- A bank that meets R67. -/
def rebuilt : Rebuilt := ⟨LinTable.init, [], true⟩
theorem test_meets_HearthCommands :
    (live.hearthRunning = true ∧ (live.img.mask 0).testBit 15 = true ∧ live.running Isl.flue = true ∧ live.img.bgPeriod ≠ 0 ∧
      (live.img.mask 1).testBit 0 = false ∧ (live.hearthAt 0).kindle ≠ .running ∧ (live.hearthAt 0).kindle ≠ .pass) ∧
    (∃ s : State, s.hearthRunning = true ∧ (s.hearthAt 0).kindle = .running ∧ (s.hearthAt 0).waitRef = true) ∧
    rebuilt.good = true ∧ { rebuilt with check := false }.good = false ∧
    (∃ s : State, s.hearthRunning = true ∧ ((s.hearthAt 0).conv true).rebuild = .background ∧ 2 ≤ ((s.hearthAt 0).conv true).bgFails) ∧
    (∃ s : State, s.hearthRunning = true ∧ ((s.hearthAt 0).conv false).rebuild = .startup false ∧ ((s.hearthAt 0).conv false).met = false) ∧
    (∃ s : State, s.hearthRunning = true ∧ ((s.hearthAt 0).conv false).rebuild = .startup true ∧ ((s.hearthAt 0).conv false).met = true ∧
      (s.hearthAt 0).kindle = .running ∧ (s.hearthAt 0).waitRef = false) ∧
    (∃ s : State, s.hearthRunning = true ∧ (s.hearthAt 0).kindle = .pass ∧ s.img.bgPeriod ≠ 0) ∧
    (∃ s : State, s.hearthRunning = true ∧ (s.hearthAt 0).kindle = .fail ∧ (s.hearthAt 1).kindle ≠ .fail) :=
  ⟨by decide +kernel, ⟨hearthed fun x => { x with kindle := .running, waitRef := true }, by decide +kernel⟩,
   by decide +kernel, by decide +kernel,
   ⟨hearthed fun x => { x with wit := { x.wit with rebuild := .background, bgFails := 2 } }, by decide +kernel⟩,
   ⟨hearthed fun x => { x with main := { x.main with rebuild := .startup false } }, by decide +kernel⟩,
   ⟨hearthed fun x => { x with kindle := .running, waitRef := false, main := { x.main with rebuild := .startup true, met := true } },
     by decide +kernel⟩,
   ⟨hearthed fun x => { x with kindle := .pass }, by decide +kernel⟩, ⟨hearthed fun x => { x with kindle := .fail }, by decide +kernel⟩⟩
def tapped (data : Word) : State := hearthed fun x => { x with tap := { x.tap with ctl := 1, data := data } }
theorem test_meets_TapLatches : (tapLive (tapped 0) 0 = true ∧ bitOf ((tapped 0).hearthAt 0).tap.data 31 = false ∧
      ((tapped 0).hearthAt 0).tap.count + 1 = 2 ^ min (fieldOf ((tapped 0).hearthAt 0).tap.ctl 12 8) 16) ∧
    (tapLive (tapped 0x80000000) 0 = true ∧ bitOf ((tapped 0x80000000).hearthAt 0).tap.data 31 = true) ∧
    (∃ s : State, tapLive s 0 = true ∧ (s.hearthAt 0).tap.count + 1 ≠ 2 ^ min (fieldOf (s.hearthAt 0).tap.ctl 12 8) 16) ∧
    tapLive up 0 = false ∧ ((-8192 : Int) ≤ -8192 ∧ (-8192 : Int) ≤ 8191) ∧ (8191 : Int) < 8192 ∧ (-8193 : Int) < -8192 :=
  ⟨by decide +kernel, by decide +kernel, ⟨hearthed fun x => { x with tap := { x.tap with ctl := 0x101 } }, by decide +kernel⟩, by decide +kernel⟩
def swapping (hashed : Bool) (n : Nat) : Swap := { target := true, hashed := hashed, fade := 0, jComp := n, jSteady := n, jBanked := n }
def flued (f : Flue → Flue) (s : State) : State := { s with flue := Tab.upd s.flue 0 f }
/-- Tracker 0 has found crossings at 2 and 9. -/
def crossed (last : Option Nat) : State := flued (fun f => { f with tracker := { f.tracker with found := [2, 9], last := last } }) live
theorem test_meets_FlueCommands :
    (up.running Isl.flue = true ∧ (up.flueAt 0).swap = none ∧ (up.flueAt 0).queued = false) ∧
    (∃ s : State, s.running Isl.flue = true ∧ (s.flueAt 0).queued = true) ∧
    (∃ (s : State) (sw : Swap), s.running Isl.flue = true ∧ (s.flueAt 0).swap = some sw ∧ sw.hashed = false ∧ s.img.feedsBilling 0 = false) ∧
    (∃ (s : State) (sw : Swap), s.running Isl.flue = true ∧ (s.flueAt 0).swap = some sw ∧ sw.hashed = true ∧ swapDone s 0 sw = false) ∧
    (∃ (s : State) (sw : Swap), s.running Isl.flue = true ∧ (s.flueAt 0).swap = some sw ∧ swapDone s 0 sw = true) ∧
    (let s := crossed (some 3); s.running Isl.flue = true ∧ s.engineRunning = true ∧ s.img.trkEn 0 = true ∧
      2 ∈ (s.flueAt 0).tracker.found ∧ 9 ∈ (s.flueAt 0).tracker.found ∧ 5 ∉ (s.flueAt 0).tracker.found ∧
      (s.flueAt 0).tracker.last = some 3) ∧
    ((crossed none).flueAt 0).tracker.last = none :=
  ⟨by decide +kernel, ⟨flued (fun f => { f with queued := true }) up, by decide +kernel⟩,
   ⟨flued (fun f => { f with swap := some (swapping false 0) }) up, swapping false 0, by decide +kernel⟩,
   ⟨flued (fun f => { f with swap := some (swapping true 0) }) live, swapping true 0, by decide +kernel⟩,
   ⟨flued (fun f => { f with swap := some (swapping true 2) }) up, swapping true 2, by decide +kernel⟩, by decide +kernel, by decide +kernel⟩
/-- A target that feeds a billing stream: in the image's list or not, one of the two clauses of BANK_HASH_COMPLETE applies. -/
theorem test_meets_FlueCommands_hash : ∃ (s : State) (sw : Swap), s.running Isl.flue = true ∧ (s.flueAt 0).swap = some sw ∧
    sw.hashed = false ∧ s.img.feedsBilling 0 = true ∧
    (((s.flueAt 0).bankMatch s.img 0 sw.target).isSome = true ∨ (s.flueAt 0).bankMatch s.img 0 sw.target = none) := by
  refine ⟨flued (fun f => { f with swap := some (swapping false 0) }) live, swapping false 0, by decide +kernel, by decide +kernel,
    by decide +kernel, by decide +kernel, ?_⟩
  generalize ((flued _ live).flueAt 0).bankMatch _ 0 _ = o
  cases o <;> simp
/-! Spectra, events, pulses. -/

def harmonic (f : HarmChan → HarmChan) (s : State) : State := s.updHarm 0 f
def wave (n : Nat) : Cycle := { num := n, start := 100000, len := 900000, samples := [], shut := none }
/-- A window whose ten cycles have closed. -/
def window : Window :=
  { num := 0, cycles := (List.range 10).map wave, redos := 0, mispred := 0, budget := false, timeout := false, dramErr := false,
    restart := false, beatC := 3, result := none }
def tracking : State :=
  harmonic (fun x => { x with opened := [wave 0] })
    (flued (fun f => { f with tracker := { f.tracker with locked := true, last := some 1000100, measured := some 900000 } }) live)
def intervals (j : Nat) : State :=
  { live with spectral := { live.spectral with
      supra := Tab.upd live.spectral.supra 0 fun x => { x with ready := [(j, [], false, false)] } } }
/-- Channel 0 follows tracker 0, whose last crossing comes at `pos`, 900 000 after the one before; the next is due at 1 000 000, and DRAM
holds the last `held` samples. -/
def squashing (frame pos held : Nat) : State :=
  let s := harmonic (fun x => { x with opened := [wave 0], ash := List.replicate held ⟨0, false, false, false, false, false⟩ })
    (flued (fun f => { f with tracker := { f.tracker with locked := true, last := some pos, measured := some 900000 } }) live)
  { s with damper := { s.damper with beat := 0, frame := frame }, dram := { s.dram with trained := true } }
theorem test_meets_SpectralChannels :
    (∃ c : Cycle, tracking.spectralRuns = true ∧ 0 ∈ tracking.img.harmChans ∧
      (let k := (tracking.flueAt (tracking.img.trkSel (tracking.img.harmInput 0))).tracker
       k.locked = true ∧ k.last = some 1000100 ∧ k.measured = some 900000) ∧
      (tracking.harmAt 0).nearest 1000100 = some c ∧ 5000 * ((c.start + c.len : Nat) - (1000100 : Int) : Int).natAbs ≤ 900000) ∧
    (∀ held ∈ [0, 24], ∃ c : Cycle, let s := squashing 700 1001000 held
      s.spectralRuns = true ∧ 0 ∈ s.img.harmChans ∧
      (let k := (s.flueAt (s.img.trkSel (s.img.harmInput 0))).tracker
       k.locked = true ∧ k.last = some 1001000 ∧ k.measured = some 900000) ∧
      (s.harmAt 0).nearest 1001000 = some c ∧ 900000 < 5000 * ((c.start + c.len : Nat) - (1001000 : Int) : Int).natAbs ∧
      let v := (s.harmAt 0).window (c.num / s.img.harmM 0)
      decide (held ≠ 0) = (decide (v.redos < 2) && s.ashUp && !s.spectral.restart &&
        !(s.harmAt 0).published (s.img.harmM 0) (c.num / s.img.harmM 0) &&
        decide (resampleBase ((1001000 - 900000) * 1024 + 1023 * 900000) + 12 ≤ newestWide s.gridFrame) &&
        decide (newestWide s.gridFrame + 1 - (resampleBase ((1001000 - 900000) * 1024) - 11) ≤ (s.harmAt 0).ash.length))) ∧
    ((live.harmAt 0).nearest 5 = none ∧ (live.harmAt 0).opened.length < 12) ∧
    (∃ s : State, s.spectralRuns = true ∧ 0 ∈ s.img.harmChans ∧ 12 ≤ (s.harmAt 0).opened.length ∧
      (s.chainAt (s.img.harmInput 0)).rs.len = 0) ∧
    (∃ s : State, s.spectralRuns = true ∧ 0 ∈ s.img.harmChans ∧
      ((s.harmAt 0).windows.find? fun v => v.isClosed (s.img.harmM 0) && v.result.isNone) = some window) ∧
    (∃ s : State, s.spectralRuns = true ∧ 0 ∈ s.img.harmChans ∧ s.ember.trigger = none ∧
      ((s.harmAt 0).windows.find? fun v => v.lastClosed (s.img.harmM 0) && decide (v.beatC + s.img.dH ≤ s.damper.beat)) = some window) ∧
    (newestWide (squashing 700 0 0).gridFrame < supraNeeds (160 * (2 * 0 + 0) + 159) ∧ supraNeeds (160 * (2 * 0 + 0) + 159) ≤ newestWide live.gridFrame ∧
      1 ∉ live.img.supraChans) ∧
    (∃ s : State, s.spectralRuns = true ∧ s.ember.trigger = none ∧ 0 ∈ s.img.supraChans ∧
      (s.supraAt 0).ready = [(0, [], false, false)] ∧ s.spectral.base + 200 * (0 + 1) + s.img.dS ≤ s.damper.beat) ∧
    (∃ s : State, s.spectralRuns = true ∧ s.ember.trigger = none ∧ 0 ∈ s.img.supraChans ∧
      (s.supraAt 0).ready = [(0, [], false, false)] ∧ s.damper.beat < s.spectral.base + 200 * (0 + 1) + s.img.dS) :=
  ⟨⟨wave 0, by decide +kernel⟩, fun held h => ⟨wave 0, by revert held; decide +kernel⟩, by decide +kernel,
   ⟨harmonic (fun x => { x with opened := (List.range 12).map wave }) live, by decide +kernel⟩,
   ⟨harmonic (fun x => { x with windows := [window] }) live, by decide +kernel⟩,
   ⟨harmonic (fun x => { x with windows := [window] }) live, by decide +kernel⟩, by decide +kernel,
   ⟨{ intervals 0 with damper := { live.damper with beat := 300 } }, by decide +kernel⟩, ⟨intervals 0, by decide +kernel⟩⟩
def watched (f : PointEvents → PointEvents) : State := live.updEvents 0 f
def pulsing (f : Pulse → Pulse) : State :=
  (live.updPoint 0 fun x => { x with state := .metering }).updPulse 0 f
theorem test_meets_EvaluationsAndImpulses :
    (live.metering = true ∧ live.img.isAC 0 = true ∧ (live.eventsAt 0).urmsNext = 0 ∧ (live.eventsAt 0).fresh = false) ∧
    (let s := watched fun x => { x with urmsNext := 1 }
     s.metering = true ∧ s.img.isAC 0 = true ∧ (s.eventsAt 0).urmsNext ≠ 0 ∧ (s.eventsAt 0).urmsNext ≤ newestWide s.gridFrame) ∧
    (let s := watched fun x => { x with fresh := true, f4Prev := -1, f4Now := 0 }
     s.metering = true ∧ s.img.isAC 0 = true ∧ (s.eventsAt 0).fresh = true ∧ (s.eventsAt 0).f4Prev < 0 ∧ 0 ≤ (s.eventsAt 0).f4Now) ∧
    (let s := pulsing fun x => { x with pending := 1, fresh := false, lastAt := some 7 }
     pulseReady s 0 s.gridFrame = true ∧ (s.pulseAt 0).fresh = false ∧ (s.pulseAt 0).lastAt = some 7 ∧
      (s.pulseAt 0).dueNow < (s.pulseAt 0).pending) ∧
    (pulseReady (pulsing fun x => { x with pending := 1, fresh := true }) 0 live.gridFrame = true ∧
      pulseReady live 0 live.gridFrame = false ∧ (live.pulseAt 0).low = false) ∧
    (let s := pulsing fun x => { x with low := true, lastAt := some 7, lowFor := 100 }
     s.running Isl.metro = true ∧ (s.pulseAt 0).low = true ∧ (s.pulseAt 0).lastAt = some 7 ∧ 7 + (s.pulseAt 0).lowFor ≤ s.gridFrame) ∧
    (let s := pulsing fun x => { x with low := true, lastAt := some 50001, lowFor := 100 }
     s.running Isl.metro = true ∧ (s.pulseAt 0).low = true ∧ s.gridFrame < 50001 + (s.pulseAt 0).lowFor) := by
  decide +kernel
/-! Resets, starts, faults. -/

theorem test_meets_SourcesBeginEpisodes :
    (up.rst.episode = none ∧ up.rst.release = none ∧ up.rst.asserted = 0 ∧ up.rst.porDone = true ∧ resetIgnored up = false ∧
      sealState up ≠ .sealed ∧ up.running Isl.host = true ∧ up.host.linkUp = true ∧ up.running Isl.sys = true ∧
      bitOf (up.reg 0x1028) 31 = false ∧ up.active = false ∧ up.clk.refOk = false ∧
      fieldOf (0xB1600001 : Word) 31 16 = 0xB160 ∧ fieldOf (0xB1600001 : Word) 1 0 = 1 ∧ fieldOf (0xB1600002 : Word) 1 0 = 2 ∧
      fieldOf (0xB1600003 : Word) 1 0 = 3 ∧ (999 < 1000 ∧ 1000 ≤ 1000 ∧ 1199 < 1200 ∧ 1200 ≤ 1200)) ∧
    (∃ s : State, s.rst.episode = none ∧ s.rst.release = none ∧ s.rst.asserted.testBit 0 = true) ∧
    (∃ s : State, s.rst.episode = none ∧ s.rst.release = none ∧ resetIgnored s = true) ∧
    (bitOf ((up.setReg 0x1028 0x80000000).reg 0x1028) 31 = true ∧ up.rst.wdtRemain = 0) ∧
    (live.active = true ∧ live.running Isl.conv = true) ∧
    (∃ s : State, s.rst.episode = none ∧ s.rst.release = none ∧ s.fault.hotTj = false ∧ s.rst.asserted.testBit 6 = false ∧
      s.running Isl.sys = true) ∧
    (∃ s : State, s.rst.episode = none ∧ s.rst.release = none ∧ sealState s = .sealed) ∧
    (∃ s : State, s.rst.episode = none ∧ s.rst.release = none ∧ s.running Isl.host = false) ∧
    (∃ s : State, s.rst.episode = none ∧ s.rst.release = none ∧ s.rst.asserted.testBit 15 = false ∧ s.clk.refOk = true ∧
      s.clk.pllM = true ∧ s.clk.pllC = true) :=
  ⟨by decide +kernel, ⟨{ up with rst := { up.rst with asserted := 1 } }, by decide⟩,
   ⟨{ up with rst := { up.rst with pinDrive := true } }, by decide⟩, by decide +kernel, by decide, ⟨up, by decide +kernel⟩,
   ⟨{ up with trust := { up.trust with fuses := Tab.upd up.trust.fuses 18 fun _ => 1 } }, by decide +kernel⟩,
   ⟨up.setIsland Isl.host .inReset, by decide⟩,
   ⟨{ up with clk := { up.clk with refOk := true, pllM := true, pllC := true } }, by decide +kernel⟩⟩
def opened : State := { up with rst := { up.rst with window := true } }
theorem test_meets_StartConfirmed :
    opened.running Isl.sys = true ∧ fieldOf (0x5A170001 : Word) 31 16 = 0x5A17 ∧ bitOf (0x5A170001 : Word) 0 = true ∧
    opened.rst.window = true ∧ opened.rst.episode = none ∧ opened.rst.release = none ∧ layerTrial opened 1 = false ∧
    layerTrial opened 2 = false ∧ leField (bootBytes opened) 4 8 + 2 < 2 ^ 64 ∧ up.rst.window = false ∧ up.running Isl.sys = true ∧
    fieldOf (1 : Word) 31 16 ≠ 0x5A17 ∧ bitOf (0x5A170000 : Word) 0 = false := by
  decide +kernel
theorem test_meets_FaultsByClass :
    (∀ i : Fin 12, up.running i = true ∧ (up.reps i).cls = none) ∧ inRecovery up = false ∧
    (∀ c ∈ [0x11, 0x43, 0x61, 0x12, 0x13], c ∉ foundElsewhere ∧ withinBound c 0 up = false) ∧
    (faultIsland 0x11 = 1 ∧ faultClass 0x11 = some (.correctable, .l2)) ∧ (faultIsland 0x43 = 4 ∧ faultClass 0x43 = some (.point, .l2)) ∧
    (faultIsland 0x61 = 6 ∧ faultClass 0x61 = some (.island, .l2)) ∧ (faultIsland 0x12 = 1 ∧ faultClass 0x12 = some (.device, .l1)) ∧
    (faultIsland 0x31 = 3 ∧ withinBound 0x31 0 up = true ∧ withinBound 0x31 0xFF00 up = false) ∧
    (∃ s : State, inRecovery s = false ∧ (s.reps 6).cls = some .island ∧ (s.reps 6).count = 2 ∧ s.running 6 = true ∧ s.running Isl.sys = true) ∧
    (faultIsland 0x61 ≠ 7 ∧ (up.setIsland 6 .inReset).island 6 = .inReset) :=
  ⟨by decide +kernel, by decide +kernel, by decide +kernel, by decide +kernel, by decide +kernel, by decide +kernel, by decide +kernel,
   by decide +kernel, ⟨up.setReps 6 ⟨some .island, 0, 2⟩, by decide +kernel⟩, by decide +kernel⟩
theorem test_meets_FaultCollector :
    (up.running Isl.sys = true ∧ up.island 6 ≠ .isolated ∧ up.rst.episode = none ∧ up.rst.release = none) ∧
    (∀ k : Fin 12, k.val ≠ Isl.flue → (up.setIsland k .isolated).island k = .isolated) ∧
    (bitOf (0x80001101 : Word) 31 = true ∧ sealState up ≠ .sealed ∧ fieldOf (0x80001101 : Word) 3 0 < 12 ∧
      faultIsland (fieldOf (0x80001101 : Word) 15 8) = fieldOf (0x80001101 : Word) 3 0 ∧
      up.running (fieldOf (0x80001101 : Word) 3 0) = true ∧
      faultClass (fieldOf (0x80001101 : Word) 15 8) = some (.correctable, .l2)) ∧
    (bitOf (0x80006106 : Word) 31 = true ∧ fieldOf (0x80006106 : Word) 3 0 = 6 ∧ fieldOf (0x80006106 : Word) 15 8 = 0x61 ∧
      up.running 6 = true ∧ inRecovery up = false ∧ (up.reps 6).cls = none ∧ faultClass 0x61 = some (.island, .l2)) ∧
    (fieldOf (0x80003103 : Word) 3 0 < 6 ∧ (faultClass (fieldOf (0x80003103 : Word) 15 8)).any (fun c => c.1 != .correctable) = true) ∧
    bitOf (0x00001101 : Word) 31 = false := by decide +kernel
/-- An episode whose hold is over. -/
def ended : State :=
  { up with rst := { up.rst with episode := some { Episode.begin 12 .l1 0 with hold := 10000000, deep := some 10000000 } } }
def releasing (step : Nat) (host : Bool) : State :=
  { up with rst := { up.rst with release := some { loadRelease with step := step, hostLoad := host } } }
/-- The same at L2, after so many starts. -/
def shallow (n : Nat) : State :=
  { ended with rst := { up.rst with episode := some { Episode.begin 12 .l2 0 with hold := 10000 } }, rtc := { ended.rtc with starts := n } }
/-- Step 5 with a metrology layer that host load has placed, and an image. -/
def loadedWith (g : Option Image) : State :=
  { releasing 5 false with fw := { up.fw with hostMet := some [], hostImage := g } }
theorem loadedWith_some : (loadMetrology (loadedWith none)).isSome = true := by decide +kernel
theorem test_meets_Releases :
    (∃ e : Episode, ended.rst.episode = some e ∧ canRelease ended e = true ∧ e.level ≠ .l2 ∧ e.deepened = false ∧
      ended.rtc.pilotReq = false ∧ ended.rtc.starts < fuseLimit { ended with trust := { ended.trust with fuses := ended.trust.blown } }) ∧
    (∃ (s : State) (e : Episode), s.rst.episode = some e ∧ canRelease s e = true ∧ e.level ≠ .l2 ∧ e.deepened = false ∧ s.rtc.pilotReq = true) ∧
    (∃ (s : State) (e : Episode), s.rst.episode = some e ∧ canRelease s e = true ∧ e.level ≠ .l2 ∧ e.deepened = false ∧
      s.rtc.pilotReq = false ∧ fuseLimit { s with trust := { s.trust with fuses := s.trust.blown } } ≤ s.rtc.starts) ∧
    (∃ (s : State) (e : Episode), s.rst.episode = some e ∧ canRelease s e = true ∧ e.level = .l2 ∧ e.deepened = false ∧ s.rst.pilot = false ∧
      s.clk.bootSel < 2 ∧ s.rtc.pilotReq = false ∧ s.rtc.starts < fuseLimit s) ∧
    (∃ (s : State) (e : Episode), s.rst.episode = some e ∧ canRelease s e = true ∧ e.level = .l2 ∧ e.deepened = false ∧ s.rst.pilot = false ∧
      s.clk.bootSel < 2 ∧ s.rtc.pilotReq = false ∧ fuseLimit s ≤ s.rtc.starts) ∧
    (∃ e, State.reset.rst.episode = some e ∧ canRelease State.reset e = false) ∧ up.rst.episode = none ∧
    (∀ k ∈ [1, 2, 3, 4, 6, 7, 8, 9, 10, 11, 12], ∃ r : Release, (releasing k false).rst.release = some r ∧ r.step = k ∧
      (stepAfter k r.steps).isSome = true) ∧
    (∃ r : Release, (releasing 5 true).rst.release = some r ∧ r.step = 5 ∧ r.hostLoad = true ∧ (releasing 5 true).fw.hostImage = none) ∧
    (∃ r : Release, (releasing 5 false).rst.release = some r ∧ r.step = 5 ∧ r.hostLoad = false ∧
      (loadMetrology (releasing 5 false)).isNone = true) ∧
    (∃ (u : State) (g : Image), loadMetrology (loadedWith none) = some u ∧ g = u.fw.hostImage.getD (flashImage u (slotWith u u.ember.heldImage)) ∧
      (admission u g).isSome = true) ∧
    (∃ r : Release, (releasing 13 false).rst.release = some r ∧ r.step = 13 ∧ stepAfter 13 r.steps = none) :=
  ⟨⟨_, rfl, by decide +kernel⟩,
   ⟨{ ended with rtc := { ended.rtc with pilotReq := true } }, _, rfl, by decide +kernel⟩,
   ⟨{ ended with rtc := { ended.rtc with starts := 255 } }, _, rfl, by decide +kernel⟩,
   ⟨shallow 0, _, rfl, by decide +kernel⟩, ⟨shallow 255, _, rfl, by decide +kernel⟩, ⟨_, rfl, by decide⟩, rfl,
   fun k h => ⟨_, rfl, rfl, by revert k; decide +kernel⟩, ⟨_, rfl, by decide +kernel⟩, ⟨_, rfl, by decide +kernel⟩,
   ⟨_, _, (Option.some_get loadedWith_some).symm, rfl, by decide +kernel⟩, ⟨_, rfl, by decide +kernel⟩⟩
end Sys2Proof.Tests
end

/-! How the reads of DAMPER, FLUE and the clock that freeze other registers act (R107, R214, R328), and what the boundaries, the
trackers and the clock leave of the copies. -/

namespace Sys2Proof.Machine

/-! What the frame, the end of a beat and the beginning of the next leave of the damper: all of it. -/

@[simp] theorem State.ite_damper {c : Prop} [Decidable c] (s t : State) :
    (if c then s else t).damper = if c then s.damper else t.damper := apply_ite State.damper c s t

/-- A fold's step leaves the damper as it stands. A predicate of its own, so that `simp` can discharge it where it rewrites a fold
by `State.foldl_damper`. -/
structure LeavesDamper {α : Type} (f : State → α → State) : Prop where
  out : ∀ s a, (f s a).damper = s.damper

@[simp] theorem leavesDamper_iff {α : Type} (f : State → α → State) : LeavesDamper f ↔ ∀ s a, (f s a).damper = s.damper :=
  ⟨LeavesDamper.out, LeavesDamper.mk⟩
@[simp] theorem State.foldl_damper {α : Type} {f : State → α → State} (hf : LeavesDamper f) (l : List α) (s : State) :
    (l.foldl f s).damper = s.damper := State.foldl_part _ hf.out l s

@[simp] theorem State.raiseVector_damper (s : State) (v : Nat) : (s.raiseVector v).damper = s.damper := by
  simp [State.raiseVector]
@[simp] theorem State.hostErr_damper (s : State) (bit ring : Nat) : (s.hostErr bit ring).damper = s.damper := by
  simp [State.hostErr, State.hostErrs]
@[simp] theorem State.aerError_damper (s : State) : s.aerError.damper = s.damper := rfl
@[simp] theorem State.finishOpt_damper (s : State) (ord : Option Nat) (status detail : Nat) (result : List Byte) :
    (s.finishOpt ord status detail result).damper = s.damper := by
  cases ord <;> rfl

@[simp] theorem addRecord_damper (key island code : Nat) (cls : FaultClass) (action detail rep flags : Nat) (s : State) :
    (addRecord key island code cls action detail rep flags s).damper = s.damper := by
  simp [addRecord]

/-- A fault that is only counted or recorded resets and isolates nothing (R281). -/
theorem reportFault_damper (island : Nat) {code : Nat} (detail : Nat) (s : State)
    (h : ∀ c ∈ faultClass code, c.1 = .correctable ∨ c.1 = .point) : (reportFault island code detail s).damper = s.damper := by
  unfold reportFault
  split
  · rfl
  · rcases hc : faultClass code with _ | ⟨cls, level⟩
    · rfl
    · rcases h _ hc with rfl | rfl <;> simp

@[simp] theorem transferError_damper (bit ring : Nat) (s : State) : (transferError bit ring s).damper = s.damper := by
  simp [transferError, reportFault_damper Isl.host (code := 0x71) 0 _ (by decide)]
@[simp] theorem bufferError_damper (ord detail : Nat) (s : State) : (bufferError ord detail s).damper = s.damper := by
  simp [bufferError]
@[simp] theorem abortPanels_damper (s : State) : (abortPanels s).damper = s.damper := rfl
@[simp] theorem triggerBank_damper (cause source : Nat) (s : State) : (triggerBank cause source s).damper = s.damper := by
  simp [triggerBank]
@[simp] theorem endCapture_damper (n cause : Nat) (s : State) : (endCapture n cause s).damper = s.damper := by
  unfold endCapture; split <;> rfl
@[simp] theorem writeBoot_damper (l1 l2 img : Nat) (s : State) : (writeBoot l1 l2 img s).damper = s.damper := by
  simp [writeBoot]
@[simp] theorem activateSlot_damper (layer : Nat) (b trial : Bool) (s : State) :
    (activateSlot layer b trial s).damper = s.damper := by
  simp [activateSlot, writeLayer]
@[simp] theorem setImageSlot_damper (b : Bool) (s : State) : (setImageSlot b s).damper = s.damper := by
  simp [setImageSlot]
@[simp] theorem setMreg_damper (i : Nat) (v : BitVec 384) (s : State) : (setMreg i v s).damper = s.damper := by
  simp [setMreg]

/-! Sessions. -/

@[simp] theorem saveContext_damper (k : Nat) (s : State) : (saveContext k s).damper = s.damper := by
  simp [saveContext]
@[simp] theorem State.setSession_damper (s : State) (k : Nat) (f : Session → Session) : (s.setSession k f).damper = s.damper := by
  simp [State.setSession]
@[simp] theorem flagSession_damper (k bits : Nat) (s : State) : (flagSession k bits s).damper = s.damper := rfl
@[simp] theorem addDue_damper (r : DueRecord) (s : State) : (addDue r s).damper = s.damper := rfl
@[simp] theorem gapSession_damper (s : State) (k : Nat) : (gapSession s k).damper = s.damper := by
  simp [gapSession]
@[simp] theorem outageRecords_damper (r : Restore) (s : State) : (outageRecords r s).damper = s.damper := by
  simp [outageRecords]
@[simp] theorem beginEpoch_damper (s : State) : (beginEpoch s).damper = s.damper := by
  unfold beginEpoch
  cases s.ember.restore <;> simp
@[simp] theorem checkFwChange_damper (s : State) : (checkFwChange s).damper = s.damper := by
  simp [checkFwChange]
@[simp] theorem fallDue_damper (k : Nat) (g : Segment) (replace : Bool) (s : State) : (fallDue k g replace s).damper = s.damper := by
  simp [fallDue]
@[simp] theorem dueChanges_damper (s : State) (k : Nat) : (dueChanges s k).damper = s.damper := by
  simp [dueChanges]
@[simp] theorem failEntry_damper (m : MailEntry) (status detail : Nat) (s : State) :
    (failEntry m status detail s).damper = s.damper := by
  simp [failEntry]
@[simp] theorem awaitRecord_damper (m : MailEntry) (signed : Bool) (k : Nat) (s : State) :
    (awaitRecord m signed k s).damper = s.damper := by
  unfold awaitRecord; split <;> rfl
@[simp] theorem applyOpen_damper (m : MailEntry) (p : Nat) (onCur : Bool) (iStart interval tariff : Nat) (token : BitVec 256)
    (s : State) : (applyOpen m p onCur iStart interval tariff token s).damper = s.damper := by
  unfold applyOpen
  split
  · simp
  · split
    · simp
    · cases m.ord <;> simp
@[simp] theorem applyTariff_damper (m : MailEntry) (k : Nat) (programmed : Bool) (t tariff : Nat) (s : State) :
    (applyTariff m k programmed t tariff s).damper = s.damper := by
  simp [applyTariff]
@[simp] theorem applyMove_damper (m : MailEntry) (k : Nat) (src dst : SessState) (t : RecType) (gate : Bool) (s : State) :
    (applyMove m k src dst t gate s).damper = s.damper := by
  simp [applyMove]
@[simp] theorem applyClose_damper (m : MailEntry) (k : Nat) (s : State) : (applyClose m k s).damper = s.damper := by
  simp [applyClose]
@[simp] theorem applyRelease_damper (m : MailEntry) (k : Nat) (s : State) : (applyRelease m k s).damper = s.damper := by
  simp [applyRelease]
@[simp] theorem signedDone_damper (seq : Nat) (s : State) : (signedDone seq s).damper = s.damper := by
  unfold signedDone
  refine State.foldl_damper ⟨fun s d => ?_⟩ _ _
  cases d.phase <;> simp
@[simp] theorem applySign_damper (seq : Nat) (sig : BitVec 512) (replace : Bool) (s : State) :
    (applySign seq sig replace s).damper = s.damper := by
  simp [applySign]
@[simp] theorem applyAck_damper (seq : Nat) (s : State) : (applyAck seq s).damper = s.damper := by
  simp [applyAck]
@[simp] theorem beginHold_damper (slot fallback : Bool) (ord : Option Nat) (s : State) :
    (beginHold slot fallback ord s).damper = s.damper := by
  simp [beginHold]
@[simp] theorem applyActivate_damper (m : MailEntry) (s : State) : (applyActivate m s).damper = s.damper := by
  unfold applyActivate; split <;> simp
@[simp] theorem applyEntry_damper (s : State) (m : MailEntry) : (applyEntry s m).damper = s.damper := by
  unfold applyEntry; cases m.cmd <;> simp
@[simp] theorem rollSessions_damper (s : State) : (rollSessions s).damper = s.damper := by
  simp [rollSessions]
@[simp] theorem startSession_damper (k b : Nat) (s : State) : (startSession k b s).damper = s.damper := by
  simp [startSession]
@[simp] theorem startImmediate_damper (s : State) (k : Nat) : (startImmediate s k).damper = s.damper := by
  simp [startImmediate]
@[simp] theorem intervalDue_damper (s : State) (k : Nat) : (intervalDue s k).damper = s.damper := by
  simp [intervalDue]
@[simp] theorem openDone_damper (s : State) : (openDone s).damper = s.damper := by
  unfold openDone
  refine State.foldl_damper ⟨fun s d => ?_⟩ _ _
  cases d.phase <;> simp
@[simp] theorem sessionBoundary_damper (s : State) : (sessionBoundary s).damper = s.damper := by
  simp [sessionBoundary]

/-! Hearths and flue. -/

@[simp] theorem markOver_damper (h i : Nat) (s : State) : (markOver h i s).damper = s.damper := by
  unfold markOver; dsimp only; split <;> simp
@[simp] theorem overFrame_damper (h : Nat) (s : State) : (overFrame h s).damper = s.damper := by
  simp [overFrame]
@[simp] theorem flueFrame_damper (h : Nat) (s : State) : (flueFrame h s).damper = s.damper := by
  simp [flueFrame]
@[simp] theorem engineStart_damper (h : Nat) (s : State) : (engineStart h s).damper = s.damper := by
  simp [engineStart]
@[simp] theorem chainStart_damper (i : Nat) (s : State) : (chainStart i s).damper = s.damper := rfl
@[simp] theorem clampInput_damper (h i : Nat) (s : State) : (clampInput h i s).damper = s.damper := by
  simp [clampInput]

/-! Energy and spectra. -/

@[simp] theorem takeSamples_damper (f : Nat) (s : State) : (takeSamples f s).damper = s.damper := by
  simp [takeSamples]
@[simp] theorem dropDelivered_damper (f : Nat) (s : State) : (dropDelivered f s).damper = s.damper := rfl
@[simp] theorem pointSample_damper (f : Nat) (s : State) (p : Nat) : (pointSample f s p).damper = s.damper := by
  unfold pointSample; dsimp only; split <;> simp
@[simp] theorem missTaken_damper (f : Nat) (s : State) (p : Nat) : (missTaken f s p).damper = s.damper := by
  simp [missTaken]
@[simp] theorem countInput_damper (s : State) (i : Nat) : (countInput s i).damper = s.damper := rfl
@[simp] theorem pulseFrame_damper (f : Nat) (s : State) (c : Nat) : (pulseFrame f s c).damper = s.damper := by
  simp [pulseFrame]
@[simp] theorem pqInput_damper (w : Nat) (s : State) (i : Nat) : (pqInput w s i).damper = s.damper := by
  unfold pqInput
  dsimp only
  cases s.img.chanOf i <;> split <;> simp
@[simp] theorem ashInput_damper (s : State) (j : Nat) : (ashInput s j).damper = s.damper := by
  unfold ashInput; split <;> rfl
@[simp] theorem spectralFrame_damper (w : Nat) (s : State) : (spectralFrame w s).damper = s.damper := by
  simp [spectralFrame]
@[simp] theorem restartHarm_damper (h : Nat) (s : State) : (restartHarm h s).damper = s.damper := by
  simp [restartHarm]

/-! Events. -/

@[simp] theorem flagOpen_damper (p code : Nat) (s : State) : (flagOpen p code s).damper = s.damper := by
  unfold flagOpen; split <;> rfl
@[simp] theorem addEntry_damper (e : EventEntry) (s : State) : (addEntry e s).damper = s.damper := by
  simp [addEntry]
@[simp] theorem declare_damper (p code kind : Nat) (d : Detector) (ts pos : Nat) (s : State) :
    (declare p code kind d ts pos s).damper = s.damper := by
  simp [declare]
@[simp] theorem runDetector_damper (p code minStart minEnd : Nat) (hit clear : Bool) (onset ts : Nat) (value : Rat)
    (pick : Rat → Rat → Rat) (pos : Nat) (s : State) :
    (runDetector p code minStart minEnd hit clear onset ts value pick pos s).damper = s.damper := by
  unfold runDetector; dsimp only; split <;> simp
@[simp] theorem scheduleUrms_damper (w : Nat) (s : State) (p : Nat) : (scheduleUrms w s p).damper = s.damper := by
  simp [scheduleUrms]
@[simp] theorem noteSample_damper (f : Nat) (s : State) (p : Nat) : (noteSample f s p).damper = s.damper := by
  unfold noteSample; split <;> simp
@[simp] theorem judgeFreq_damper (ts : Nat) (f : Rat) (locked : Bool) (s : State) (p : Nat) :
    (judgeFreq ts f locked s p).damper = s.damper := by
  simp [judgeFreq]
@[simp] theorem nominalTick_damper (w : Nat) (s : State) (p : Nat) : (nominalTick w s p).damper = s.damper := by
  simp [nominalTick]
@[simp] theorem overrangeWide_damper (w : Nat) (s : State) (p : Nat) : (overrangeWide w s p).damper = s.damper := by
  simp [overrangeWide]
@[simp] theorem judgeDc_damper (g : Image) (s : State) (p : Nat) : (judgeDc g s p).damper = s.damper := by
  simp [judgeDc]
@[simp] theorem witnessEvents_damper (g : Image) (i beat meanAbs : Nat) (s : State) :
    (witnessEvents g i beat meanAbs s).damper = s.damper := by
  unfold witnessEvents; dsimp only; split <;> simp
@[simp] theorem truncateEvents_damper (b : Nat) (s : State) (p : Nat) : (truncateEvents b s p).damper = s.damper := by
  simp [truncateEvents]

/-! Captures. -/

@[simp] theorem captureTake_damper (out : CapWrite) (n idx : Nat) (x : Samp) (s : State) :
    (captureTake out n idx x s).damper = s.damper := by
  unfold captureTake; split <;> simp
@[simp] theorem captureAsh_damper (out : CapWrite) (n j w : Nat) (c : Capture) (s : State) :
    (captureAsh out n j w c s).damper = s.damper := by
  unfold captureAsh
  refine State.foldl_damper ⟨fun s k => ?_⟩ _ _
  split <;> simp
@[simp] theorem captureOne_damper (caps : List CapWrite) (w : Nat) (s : State) (n : Nat) :
    (captureOne caps w s n).damper = s.damper := by
  unfold captureOne
  dsimp only
  split
  · split <;> simp
  · rfl
@[simp] theorem captureFrame_damper (caps : List CapWrite) (w : Nat) (s : State) : (captureFrame caps w s).damper = s.damper := by
  simp [captureFrame]
@[simp] theorem captureSwap_damper (s : State) : (captureSwap s).damper = s.damper := by
  unfold captureSwap
  refine State.foldl_damper ⟨fun s n => ?_⟩ _ _
  split <;> simp

/-! The link. -/

@[simp] theorem bankSwap_damper (s : State) : (bankSwap s).damper = s.damper := by
  unfold bankSwap; split <;> simp
@[simp] theorem cycleMessage_damper (s : State) : (cycleMessage s).damper = s.damper := by
  simp [cycleMessage]
@[simp] theorem endCycle_damper (whole : Bool) (s : State) : (endCycle whole s).damper = s.damper := by
  simp [endCycle]
@[simp] theorem startCycle_damper (s : State) : (startCycle s).damper = s.damper := by
  simp [startCycle]
@[simp] theorem betweenExchanges_damper (s : State) : (betweenExchanges s).damper = s.damper := by
  simp [betweenExchanges]
@[simp] theorem finishPoll_damper (e : Exchange) (code : Nat) (ok : Bool) (s : State) :
    (finishPoll e code ok s).damper = s.damper := by
  simp [finishPoll]
@[simp] theorem finishSend_damper (o : Nat) (e : Exchange) (code : Nat) (ok : Bool) (s : State) :
    (finishSend o e code ok s).damper = s.damper := by
  simp [finishSend]
@[simp] theorem finishExchange_damper (e : Exchange) (code : Nat) (ok : Bool) (s : State) :
    (finishExchange e code ok s).damper = s.damper := by
  unfold finishExchange; split <;> simp
@[simp] theorem linkOff_damper (s : State) : (linkOff s).damper = s.damper := by
  unfold linkOff
  dsimp only
  split <;> split <;> simp
@[simp] theorem linkDisable_damper (s : State) : (linkDisable s).damper = s.damper := by
  simp [linkDisable]
@[simp] theorem switchLink_damper (old new : Image) (s : State) : (switchLink old new s).damper = s.damper := by
  simp [switchLink]
@[simp] theorem afterFrame_damper (s : State) : (afterFrame s).damper = s.damper := by
  simp [afterFrame]
@[simp] theorem linkConsume_damper (b : RxBlock) (s : State) : (linkConsume b s).damper = s.damper := by
  simp [linkConsume]

/-! The frame. -/

@[simp] theorem frameFields_damper (s : State) : (frameFields s).damper = s.damper := by
  simp [frameFields]
@[simp] theorem frameClamps_damper (fc : FrameCodes) (h : Nat) (s : State) : (frameClamps fc h s).damper = s.damper := by
  simp [frameClamps]
@[simp] theorem frameWitness_damper (fc : FrameCodes) (h : Nat) (s : State) : (frameWitness fc h s).damper = s.damper := by
  unfold frameWitness; dsimp only; split <;> simp
@[simp] theorem frameChain_damper (fc : FrameCodes) (f h : Nat) (s : State) (i : Nat) :
    (frameChain fc f h s i).damper = s.damper := by
  simp [frameChain]
@[simp] theorem frameHearth_damper (fc : FrameCodes) (f : Nat) (s : State) (h : Nat) :
    (frameHearth fc f s h).damper = s.damper := by
  simp [frameHearth]
@[simp] theorem frameTracker_damper (w : Nat) (s : State) (t : Nat) : (frameTracker w s t).damper = s.damper := by
  unfold frameTracker; split <;> rfl
@[simp] theorem publishRx_damper (w : Nat) (s : State) : (publishRx w s).damper = s.damper := by
  unfold publishRx; split <;> simp
@[simp] theorem frameWide_damper (caps : List CapWrite) (w : Nat) (s : State) : (frameWide caps w s).damper = s.damper := by
  simp [frameWide]
@[simp] theorem frameEnergy_damper (f : Nat) (s : State) : (frameEnergy f s).damper = s.damper := by
  simp [frameEnergy]
@[simp] theorem frameWork_damper (fc : FrameCodes) (f : Nat) (s : State) : (frameWork fc f s).damper = s.damper := by
  unfold frameWork
  dsimp only
  cases wideFormedAt f <;> simp

/-! The end and the beginning of a beat. -/

@[simp] theorem endHearth_damper (g : Image) (refs : Vector Nat 8) (beat : Nat) (metro : Bool) (s : State) (h : Nat) :
    (endHearth g refs beat metro s h).damper = s.damper := by
  have h21 := fun d t => reportFault_damper Isl.conv (code := 0x21) d t (by decide)
  have h22 := fun d t => reportFault_damper Isl.conv (code := 0x22) d t (by decide)
  unfold endHearth
  dsimp only
  cases ((s.hearthAt h).judge g h beat).2 <;> simp [h21, h22]
@[simp] theorem closePoint_damper (g : Image) (s : State) (p : Nat) : (closePoint g s p).damper = s.damper := rfl
@[simp] theorem flagPoint_damper (s : State) (p : Nat) : (flagPoint s p).damper = s.damper := by
  unfold flagPoint; split <;> rfl
@[simp] theorem publishHearth_damper (g : Image) (s : State) : (publishHearth g s).damper = s.damper := rfl
@[simp] theorem endBeat_damper (g : Image) (refs : Vector Nat 8) (s : State) : (endBeat g refs s).damper = s.damper := by
  simp [endBeat]
@[simp] theorem switchPoint_damper (a b : Image) (s : State) (p : Nat) : (switchPoint a b s p).damper = s.damper := by
  unfold switchPoint; dsimp only; split <;> simp
@[simp] theorem switchHearth_damper (a b : Image) (beat : Nat) (s : State) (h : Nat) :
    (switchHearth a b beat s h).damper = s.damper := rfl
@[simp] theorem switchEngine_damper (a b : Image) (s : State) (h : Nat) : (switchEngine a b s h).damper = s.damper := by
  simp [switchEngine]
@[simp] theorem switchSpectral_damper (a b : Image) (beat : Nat) (s : State) : (switchSpectral a b beat s).damper = s.damper := by
  simp [switchSpectral]
@[simp] theorem swapRecords_damper (s : State) : (swapRecords s).damper = s.damper := by
  unfold swapRecords; split <;> simp
@[simp] theorem latchTimeBase_damper (s : State) : (latchTimeBase s).damper = s.damper := rfl
@[simp] theorem takeNotice_damper (s : State) : (takeNotice s).damper = s.damper := by
  unfold takeNotice; split <;> simp
@[simp] theorem flagTimeSet_damper (taken : Bool) (s : State) : (flagTimeSet taken s).damper = s.damper := by
  simp [flagTimeSet]
@[simp] theorem armPoint_damper (s : State) (p : Nat) : (armPoint s p).damper = s.damper := by
  simp [armPoint]
@[simp] theorem latchLegal_damper (s : State) : (latchLegal s).damper = s.damper := rfl
@[simp] theorem recoverFlue_damper (s : State) : (recoverFlue s).damper = s.damper := by
  unfold recoverFlue; split <;> simp
@[simp] theorem endHold_damper (s : State) : (endHold s).damper = s.damper := by
  unfold endHold; split <;> simp
@[simp] theorem renderPort_damper (s : State) (p : Nat) : (renderPort s p).damper = s.damper := rfl
@[simp] theorem renderAll_damper (s : State) : (renderAll s).damper = s.damper := by
  simp [renderAll]

/-! The shadows of the damper (R214) stay where its other fields move on. -/

/-- DAMPER_FRAME with DAMPER_BEAT_HI, and DAMPER_ACT_BEAT_HI, as frozen. -/
def State.damperShadows (s : State) : Option (Word × Word) × Option Word := (s.damper.shadowBeat, s.damper.shadowAct)

theorem State.damperShadows_congr {s t : State} (h : t.damper = s.damper) : t.damperShadows = s.damperShadows := by
  simp [State.damperShadows, h]

theorem post_damperShadows {cmd : MailCmd} {ord : Option Nat} {s t : State} (h : post cmd ord s = some t) :
    t.damperShadows = s.damperShadows := by
  unfold post at h
  split at h
  · cases h; rfl
  · cases h
theorem postAck_damperShadows (seq : Nat) (s : State) : (postAck seq s).damperShadows = s.damperShadows := by
  unfold postAck
  split
  next t h =>
    split at h
    · calc _ = t.damperShadows := rfl
        _ = _ := post_damperShadows h
    · cases h
  next => rfl
theorem ackLate_damperShadows (s : State) : (ackLate s).damperShadows = s.damperShadows := by
  unfold ackLate
  split
  · exact postAck_damperShadows _ s
  · rfl
theorem applyMailbox_damperShadows (n : Nat) (s : State) : (applyMailbox n s).damperShadows = s.damperShadows := by
  induction n generalizing s with
  | zero => rfl
  | succ n ih =>
    unfold applyMailbox
    split
    · rfl
    · split
      · rfl
      · calc _ = _ := ih _
          _ = _ := State.damperShadows_congr (applyEntry_damper _ _)
          _ = _ := rfl

theorem switchImage_damperShadows (new : Image) (beat : Nat) (s : State) :
    (switchImage new beat s).damperShadows = s.damperShadows := by
  simp [switchImage, State.damperShadows]
theorem decideActivation_damperShadows (s : State) : (decideActivation s).damperShadows = s.damperShadows := by
  unfold decideActivation
  split
  · dsimp only
    split
    · simp [State.damperShadows]
    · calc _ = _ := State.damperShadows_congr ((State.finishOpt_damper _ _ _ _ _).trans (State.putField_damper _ _ _ _ _))
        _ = _ := switchImage_damperShadows _ _ _
        _ = _ := rfl
  · rfl
theorem beginBeat_damperShadows (round : Bool) (s : State) : (beginBeat round s).damperShadows = s.damperShadows := by
  have hd : (if round then decideActivation s else s).damperShadows = s.damperShadows := by
    cases round
    · rfl
    · exact decideActivation_damperShadows s
  unfold beginBeat
  generalize (if round then decideActivation s else s) = d at hd
  have hn : (takeNotice (swapRecords (beginEpoch (latchLegal d)))).damper = d.damper := by simp
  have he : ∀ taken u, (checkFwChange (flagTimeSet taken (sessionBoundary ((List.range 32).foldl armPoint u)))).damper = u.damper :=
    fun taken u => by simp
  calc _ = (ackLate (applyMailbox 32 (takeNotice (swapRecords (beginEpoch (latchLegal d)))))).damperShadows :=
        State.damperShadows_congr (he _ _)
    _ = (applyMailbox 32 (takeNotice (swapRecords (beginEpoch (latchLegal d))))).damperShadows := ackLate_damperShadows _
    _ = (takeNotice (swapRecords (beginEpoch (latchLegal d)))).damperShadows := applyMailbox_damperShadows 32 _
    _ = d.damperShadows := State.damperShadows_congr hn
    _ = s.damperShadows := hd
theorem boundary_damperShadows (round : Bool) (refs : Vector Nat 8) (s : State) :
    (boundary round refs s).damperShadows = s.damperShadows := by
  unfold boundary
  split
  · rfl
  · dsimp only
    generalize hu : endHold (nextBeat (endBeat s.img refs s)) = u
    have hu : u.damperShadows = s.damperShadows :=
      calc u.damperShadows = (endHold (nextBeat (endBeat s.img refs s))).damperShadows := by rw [hu]
        _ = (nextBeat (endBeat s.img refs s)).damperShadows := State.damperShadows_congr (endHold_damper _)
        _ = (endBeat s.img refs s).damperShadows := rfl
        _ = s.damperShadows := State.damperShadows_congr (endBeat_damper _ _ s)
    have hb : (if u.metering then beginBeat round u else u).damperShadows = u.damperShadows := by
      split
      · exact beginBeat_damperShadows round u
      · rfl
    calc _ = (if u.metering then beginBeat round u else u).damperShadows := State.damperShadows_congr (by cases round <;> simp)
      _ = u.damperShadows := hb
      _ = s.damperShadows := hu
theorem execFrameBoundary_damperShadows (fc : FrameCodes) (s : State) :
    ∃ t, execFrameBoundary fc s = .next t ∧ t.damperShadows = s.damperShadows := by
  unfold execFrameBoundary
  split
  · exact ⟨s, rfl, rfl⟩
  · dsimp only
    split
    · exact ⟨_, rfl, by simp [State.damperShadows]⟩
    · exact ⟨_, rfl, State.damperShadows_congr (frameFields_damper s)⟩

theorem exec_boundaries_damperShadows (fc : FrameCodes) (refs : Vector Nat 8) (s : State) :
    ∀ c ∈ [Instr.frameBoundary fc, Instr.beatBoundary refs, Instr.roundBoundary refs],
      ∃ t, exec c s = .next t ∧ t.damperShadows = s.damperShadows := by
  rw [List.forall_mem_cons, List.forall_mem_cons, List.forall_mem_singleton]
  exact ⟨execFrameBoundary_damperShadows fc s, ⟨_, rfl, boundary_damperShadows false refs s⟩,
    ⟨_, rfl, boundary_damperShadows _ refs s⟩⟩

/-! The copies of FLUE (R107): events and sessions are all that a crossing of a tracker touches besides the tracker itself. -/

@[simp] theorem flagOpen_flue (p code : Nat) (s : State) : (flagOpen p code s).flue = s.flue := by
  unfold flagOpen; split <;> rfl
@[simp] theorem declare_flue (p code kind : Nat) (d : Detector) (ts pos : Nat) (s : State) :
    (declare p code kind d ts pos s).flue = s.flue := by
  unfold declare
  dsimp only
  split
  · exact flagOpen_flue p code s
  · rfl
@[simp] theorem runDetector_flue (p code minStart minEnd : Nat) (hit clear : Bool) (onset ts : Nat) (value : Rat)
    (pick : Rat → Rat → Rat) (pos : Nat) (s : State) :
    (runDetector p code minStart minEnd hit clear onset ts value pick pos s).flue = s.flue := by
  unfold runDetector; dsimp only; split <;> simp
@[simp] theorem judgeFreq_flue (ts : Nat) (f : Rat) (locked : Bool) (s : State) (p : Nat) :
    (judgeFreq ts f locked s p).flue = s.flue := by
  unfold judgeFreq; dsimp only; split
  · exact runDetector_flue ..
  · rfl

theorem State.flueAt_updFlue_same (s : State) (h : Fin 8) (f : Flue → Flue) : (s.updFlue h f).flueAt h = f (s.flueAt h) :=
  Tab.at_upd_same h.isLt

theorem reportCrossing_shadow (h : Fin 8) (pos : Nat) (s : State) :
    ((reportCrossing h pos s).flueAt h).shadow = (s.flueAt h).shadow := by
  have hu : ∀ x, ((s.updFlue h fun f => { f with tracker := x }).flueAt h).shadow = (s.flueAt h).shadow :=
    fun x => by rw [State.flueAt_updFlue_same]
  unfold reportCrossing
  dsimp only
  split
  · have hf : ∀ ts f locked (l : List Nat) (u : State), (l.foldl (judgeFreq ts f locked) u).flue = u.flue :=
      fun ts f locked l u => State.foldl_part State.flue (judgeFreq_flue ts f locked) l u
    rw [State.flueAt, hf]
    exact hu _
  · exact hu _

theorem exec_trackerCrossing_shadow (h : Fin 8) (pos : Nat) (s : State) :
    ∃ t, exec (.trackerCrossing h pos) s = .next t ∧ (t.flueAt h).shadow = (s.flueAt h).shadow := by
  show ∃ t, execTrackerCrossing h pos s = .next t ∧ _
  unfold execTrackerCrossing
  dsimp only
  split
  · refine ⟨_, rfl, ?_⟩
    split
    · rw [reportCrossing_shadow, State.flueAt_updFlue_same]
    · rw [State.flueAt_updFlue_same]
  · exact ⟨s, rfl, rfl⟩

/-! The copies of the clock (R328): an edge and a trim step leave them. -/

theorem exec_prescalerEdge_shadow (s : State) : ∃ t, exec .prescalerEdge s = .next t ∧ t.rtc.shadow = s.rtc.shadow := by
  show ∃ t, execPrescalerEdge s = .next t ∧ _
  unfold execPrescalerEdge
  dsimp only
  split
  · exact ⟨_, rfl, rfl⟩
  · split <;> exact ⟨_, rfl, rfl⟩

theorem exec_trimStep_shadow (temp : Int) (s : State) :
    ∃ t, exec (.trimStep temp) s = .next t ∧ t.rtc.shadow = s.rtc.shadow := by
  show ∃ t, execTrimStep temp s = .next t ∧ _
  unfold execTrimStep
  split <;> exact ⟨_, rfl, rfl⟩

/-! The reads. -/

theorem readRow_of_running {isl : Nat} {s : State} (f : State → State)
    (h : s.running (if isl = Isl.aon then Isl.sys else isl) = true) : readRow isl s f = f s := by
  simp [readRow, State.replies, h]

theorem blockWord_damper (s : State) (off : Nat) (h : off < 0x1000) : blockWord s (0x20000 + off) = viewDamper s off := by
  have hb : (0x20000 + off) / 0x1000 = 0x20 := by omega
  have ho : (0x20000 + off) % 0x1000 = off := by omega
  simp [blockWord, hb, ho]

theorem blockWord_flue (s : State) (h : Fin 8) (off : Nat) (ho : off < 0x1000) :
    blockWord s (0x18000 + off + 0x1000 * h) = viewFlue s h off := by
  have hb : (0x18000 + off + 0x1000 * h) / 0x1000 = 0x18 + h := by omega
  have hm : (0x18000 + off + 0x1000 * h) % 0x1000 = off := by omega
  have hn : ¬ (0x18 + h.val < 0x18) := by omega
  have hh : 0x18 + h.val < 0x20 := by omega
  simp [blockWord, hb, hm, hn, hh]

theorem exec_damperBeatLoRead {s : State} (hi : Bool) (h : s.running Isl.conv = true) :
    exec (.damperBeatLoRead hi) s = .next (
      if hi then { s.answers (s.damper.shadowBeat.getD (word s.damper.frame, hiWord s.damper.beat)).2 with
        damper := { s.damper with shadowBeat := none } }
      else { s.answers (loWord s.damper.beat) with
        damper := { s.damper with shadowBeat := some (word s.damper.frame, hiWord s.damper.beat) } }) := by
  show execDamperBeatLoRead hi s = _
  rw [execDamperBeatLoRead, readRow_of_running _ h]
  rfl

theorem exec_damperActBeatLoRead {s : State} (hi : Bool) (h : s.running Isl.conv = true) :
    exec (.damperActBeatLoRead hi) s = .next (
      if hi then { s.answers (s.damper.shadowAct.getD (hiWord s.damper.actBeat)) with
        damper := { s.damper with shadowAct := none } }
      else { s.answers (loWord s.damper.actBeat) with
        damper := { s.damper with shadowAct := some (hiWord s.damper.actBeat) } }) := by
  show execDamperActBeatLoRead hi s = _
  rw [execDamperActBeatLoRead, readRow_of_running _ h]
  rfl

/-- An update of a table sees one element only. -/
theorem Tab.upd_congr_at {α : Type} {n i : Nat} {v : Vector α n} {d : α} {f g : α → α} (h : f (Tab.at v i d) = g (Tab.at v i d)) :
    Tab.upd v i f = Tab.upd v i g := by
  by_cases hi : i < n
  · simp_all [Tab.upd, Tab.at, List.getD]
  · simp [Tab.upd, hi]
theorem State.updFlue_congr {s : State} {h : Nat} {f g : Flue → Flue} (e : f (s.flueAt h) = g (s.flueAt h)) :
    s.updFlue h f = s.updFlue h g :=
  congrArg (fun v => { s with flue := v }) (Tab.upd_congr_at e)

theorem exec_flueTrkLenLoRead {s : State} (h : Fin 8) (hi : Bool) (hr : s.running Isl.flue = true) :
    exec (.flueTrkLenLoRead h hi) s = .next (
      if hi then { s.answers (((s.flueAt h).shadow.map Prod.fst).getD (trkLenHi (s.flueAt h).tracker)) with
        flue := Tab.upd s.flue h fun f => { f with shadow := none } }
      else { s.answers (trkLenLo (s.flueAt h).tracker) with
        flue := Tab.upd s.flue h fun f =>
          { f with shadow := some (trkLenHi (s.flueAt h).tracker, trkFreq (s.flueAt h).tracker) } }) := by
  show execFlueTrkLenLoRead h hi s = _
  rw [execFlueTrkLenLoRead, readRow_of_running _ hr]
  cases hi
  · exact congrArg Host.Outcome.next (State.updFlue_congr (s := s.readBack _) rfl)
  · rfl

theorem exec_rtcTimeRead_halted {s : State} (k : Fin 3) (hr : s.running Isl.sys = true) (hh : s.rtc.halted = true) :
    exec (.rtcTimeRead k) s = .next (s.answers (pickWord (rtcWords s.rtc.written) k)) := by
  show execRtcTimeRead k s = _
  rw [execRtcTimeRead, readRow_of_running _ hr, if_pos hh]
  rfl

theorem exec_rtcTimeRead {s : State} (k : Fin 3) (hr : s.running Isl.sys = true) (hh : s.rtc.halted = false) :
    exec (.rtcTimeRead k) s =
      .next { s.answers (pickWord (s.rtc.shadow.getD (rtcWords s.rtc.count)) k) with
        rtc := { s.rtc with shadow := if k.val = 2 then none else some (s.rtc.shadow.getD (rtcWords s.rtc.count)) } } := by
  show execRtcTimeRead k s = _
  rw [execRtcTimeRead, readRow_of_running _ hr, if_neg (by simp [hh])]
  rfl

/-! The statement. -/

/-- Settles O13: each read by its equation, the views of the frozen registers by theirs, and the boundaries, the crossing and the
clock by what they leave of the copies. -/
theorem trackerAndDamperShadows : Obligations.TrackerAndDamperShadows := by
  unfold Obligations.TrackerAndDamperShadows
  refine ⟨fun s hr => ⟨exec_damperBeatLoRead false hr, fun w hw => ⟨?_, ?_, ?_⟩, fun hn => ?_,
      exec_damperActBeatLoRead false hr, fun w hw => ?_, fun hn => ?_⟩,
    fun fc refs s c hc => ?_,
    fun s h hr => ⟨exec_flueTrkLenLoRead h false hr, fun w hw => ⟨?_, ?_, ?_⟩, fun hn => ?_⟩,
    fun s h pos => exec_trackerCrossing_shadow h pos s,
    fun s k hr => ⟨exec_rtcTimeRead_halted k hr, fun hh hn => ?_, fun hh w hw => ?_⟩,
    fun s temp => ⟨exec_prescalerEdge_shadow s, exec_trimStep_shadow temp s⟩⟩
  · rw [blockWord_damper s 0x00C (by decide)]
    simp [viewDamper, hw]
  · rw [blockWord_damper s 0x008 (by decide)]
    simp [viewDamper, hw]
  · simp [exec_damperBeatLoRead true hr, hw]
  · simp [exec_damperBeatLoRead true hr, hn]
  · simp [exec_damperActBeatLoRead true hr, hw]
  · simp [exec_damperActBeatLoRead true hr, hn]
  · obtain ⟨t, ht, hs⟩ := exec_boundaries_damperShadows fc refs s c hc
    exact ⟨t, ht, Prod.mk.inj hs⟩
  · rw [blockWord_flue s h 0x088 (by decide)]
    simp [viewFlue, hw]
  · rw [blockWord_flue s h 0x08C (by decide)]
    simp [viewFlue, hw]
  · simp [exec_flueTrkLenLoRead h true hr, hw]
  · simp [exec_flueTrkLenLoRead h true hr, hn]
  · simp [exec_rtcTimeRead k hr hh, hn]
  · simp [exec_rtcTimeRead k hr hh, hw]

end Sys2Proof.Machine

/-! How the reads of ENERGY and EVENT that freeze other registers act (R141, R178), and what the publication cycle and the round
boundary leave of the copies. -/

namespace Sys2Proof.Machine

/-! What the publication cycle leaves of the copy of ENERGY_BEAT_HI: all of it. -/

@[simp] theorem State.ite_energyHi {c : Prop} [Decidable c] (s t : State) :
    (if c then s else t).energyHi = if c then s.energyHi else t.energyHi := apply_ite State.energyHi c s t

@[simp] theorem State.setSession_energyHi (s : State) (k : Nat) (f : Session → Session) :
    (s.setSession k f).energyHi = s.energyHi := rfl
@[simp] theorem addDue_energyHi (r : DueRecord) (s : State) : (addDue r s).energyHi = s.energyHi := rfl
@[simp] theorem fallDue_energyHi (k : Nat) (g : Segment) (replace : Bool) (s : State) :
    (fallDue k g replace s).energyHi = s.energyHi := by
  simp [fallDue]
@[simp] theorem startSession_energyHi (k b : Nat) (s : State) : (startSession k b s).energyHi = s.energyHi := rfl
@[simp] theorem judgeCurrent_energyHi (reading : Nat → Nat) (metered : Nat → Bool) (s : State) (k : Nat) :
    (judgeCurrent reading metered s k).energyHi = s.energyHi := by
  unfold judgeCurrent
  dsimp only
  split
  · rfl
  · rw [State.foldl_part State.energyHi fun s g => fallDue_energyHi k g _ s]
    simp
@[simp] theorem eventRecord_energyHi (s : State) (e : EventEntry) : (eventRecord s e).energyHi = s.energyHi := by
  unfold eventRecord
  split
  · rfl
  · cases openOf s e.point <;> rfl

theorem publishPoint_energyHi (g : Image) (beat p : Nat) (s : State) : (publishPoint g beat p s).1.energyHi = s.energyHi := by
  unfold publishPoint
  dsimp only
  split <;> rfl
@[simp] theorem publishPoints_energyHi (g : Image) (beat : Nat) (s : State) :
    (publishPoints g beat s).1.energyHi = s.energyHi := by
  unfold publishPoints
  refine List.foldlRecOn (motive := fun x : State × List (Vector Nat 9) => x.1.energyHi = s.energyHi) _ _ rfl fun x hx p _ => ?_
  simp [publishPoint_energyHi, hx]
@[simp] theorem feedPulses_energyHi (incs : List (Vector Nat 9)) (s : State) : (feedPulses incs s).energyHi = s.energyHi :=
  State.foldl_part State.energyHi (fun s c => by simp) _ s
@[simp] theorem publishSessions_energyHi (g : Image) (incs : List (Vector Nat 9)) (s : State) :
    (publishSessions g incs s).energyHi = s.energyHi := by
  unfold publishSessions
  dsimp only
  exact State.foldl_part State.energyHi (judgeCurrent_energyHi _ _) _ s
@[simp] theorem publishEvents_energyHi (s : State) : (publishEvents s).energyHi = s.energyHi :=
  State.foldl_part State.energyHi (fun s e => eventRecord_energyHi (pushEntry s e) _) _ _
@[simp] theorem completeRecords_energyHi (s : State) : (completeRecords s).energyHi = s.energyHi := rfl
@[simp] theorem flipViews_energyHi (beat : Nat) (s : State) : (flipViews beat s).energyHi = s.energyHi := rfl

theorem exec_publicationCycle_energyHi (s : State) :
    ∃ t, exec .publicationCycle s = .next t ∧ t.energyHi = s.energyHi := by
  show ∃ t, execPublicationCycle s = .next t ∧ _
  unfold execPublicationCycle
  dsimp only
  split
  · exact ⟨s, rfl, rfl⟩
  · split
    · exact ⟨_, rfl, completeRecords_energyHi s⟩
    · exact ⟨_, rfl, by simp⟩


/-! What the round boundary leaves of the copy of the time base. -/

@[simp] theorem State.ite_eventShadow {c : Prop} [Decidable c] (s t : State) :
    (if c then s else t).events.shadow = if c then s.events.shadow else t.events.shadow :=
  apply_ite (fun s : State => s.events.shadow) c s t

/-- A fold's step leaves the copy of the time base as it stands. A predicate of its own, so that `simp` can discharge it where it
rewrites a fold by `State.foldl_eventShadow`. -/
structure LeavesEventShadow {α : Type} (f : State → α → State) : Prop where
  out : ∀ s a, (f s a).events.shadow = s.events.shadow

@[simp] theorem leavesEventShadow_iff {α : Type} (f : State → α → State) :
    LeavesEventShadow f ↔ ∀ s a, (f s a).events.shadow = s.events.shadow :=
  ⟨LeavesEventShadow.out, LeavesEventShadow.mk⟩
@[simp] theorem State.foldl_eventShadow {α : Type} {f : State → α → State} (hf : LeavesEventShadow f) (l : List α) (s : State) :
    (l.foldl f s).events.shadow = s.events.shadow := State.foldl_part (fun s : State => s.events.shadow) hf.out l s

/-! Completions, faults, the flash and the banks. -/

@[simp] theorem State.raiseVector_events (s : State) (v : Nat) : (s.raiseVector v).events = s.events := by
  unfold State.raiseVector
  split <;> rfl
@[simp] theorem State.finishOpt_events (s : State) (ord : Option Nat) (status detail : Nat) (result : List Byte) :
    (s.finishOpt ord status detail result).events = s.events := by
  cases ord <;> rfl
@[simp] theorem addRecord_eventShadow (key island code : Nat) (cls : FaultClass) (action detail rep flags : Nat) (s : State) :
    (addRecord key island code cls action detail rep flags s).events.shadow = s.events.shadow := by
  simp [addRecord]
/-- A fault that is only counted or recorded resets and isolates nothing (R281). -/
theorem reportFault_eventShadow (island : Nat) {code : Nat} (detail : Nat) (s : State)
    (h : ∀ c ∈ faultClass code, c.1 = .correctable ∨ c.1 = .point) :
    (reportFault island code detail s).events.shadow = s.events.shadow := by
  unfold reportFault
  split
  · rfl
  · rcases hc : faultClass code with _ | ⟨cls, level⟩
    · rfl
    · rcases h _ hc with rfl | rfl <;> simp
@[simp] theorem bufferError_eventShadow (ord detail : Nat) (s : State) :
    (bufferError ord detail s).events.shadow = s.events.shadow := by
  simp [bufferError, transferError, State.hostErr, State.hostErrs, State.aerError,
    reportFault_eventShadow Isl.host (code := 0x71) 0 _ (by decide)]
@[simp] theorem endCapture_events (n cause : Nat) (s : State) : (endCapture n cause s).events = s.events := by
  unfold endCapture
  split <;> rfl
@[simp] theorem setMreg_eventShadow (i : Nat) (v : BitVec 384) (s : State) :
    (setMreg i v s).events.shadow = s.events.shadow := by
  simp [setMreg]
@[simp] theorem setImageSlot_events (b : Bool) (s : State) : (setImageSlot b s).events = s.events := by
  simp [setImageSlot, writeBoot]
@[simp] theorem activateSlot_events (layer : Nat) (b trial : Bool) (s : State) :
    (activateSlot layer b trial s).events = s.events := by
  simp [activateSlot, writeLayer, writeBoot]
@[simp] theorem triggerBank_eventShadow (cause source : Nat) (s : State) :
    (triggerBank cause source s).events.shadow = s.events.shadow := by
  simp [triggerBank, abortPanels]

/-! Sessions and the entries of the mailbox. -/

@[simp] theorem saveContext_events (k : Nat) (s : State) : (saveContext k s).events = s.events := by
  simp [saveContext]
@[simp] theorem State.setSession_events (s : State) (k : Nat) (f : Session → Session) :
    (s.setSession k f).events = s.events := by
  simp [State.setSession]
@[simp] theorem flagSession_events (k bits : Nat) (s : State) : (flagSession k bits s).events = s.events := rfl
@[simp] theorem addDue_events (r : DueRecord) (s : State) : (addDue r s).events = s.events := rfl
@[simp] theorem failEntry_events (m : MailEntry) (status detail : Nat) (s : State) :
    (failEntry m status detail s).events = s.events := State.finishOpt_events ..
@[simp] theorem awaitRecord_events (m : MailEntry) (signed : Bool) (k : Nat) (s : State) :
    (awaitRecord m signed k s).events = s.events := by
  unfold awaitRecord
  split <;> rfl
@[simp] theorem applyOpen_eventShadow (m : MailEntry) (p : Nat) (onCur : Bool) (iStart interval tariff : Nat) (token : BitVec 256)
    (s : State) : (applyOpen m p onCur iStart interval tariff token s).events.shadow = s.events.shadow := by
  unfold applyOpen
  split
  · simp
  · split
    · simp
    · cases m.ord <;> simp
@[simp] theorem applyTariff_eventShadow (m : MailEntry) (k : Nat) (programmed : Bool) (t tariff : Nat) (s : State) :
    (applyTariff m k programmed t tariff s).events.shadow = s.events.shadow := by
  simp [applyTariff]
@[simp] theorem applyMove_eventShadow (m : MailEntry) (k : Nat) (src dst : SessState) (t : RecType) (gate : Bool) (s : State) :
    (applyMove m k src dst t gate s).events.shadow = s.events.shadow := by
  simp [applyMove]
@[simp] theorem applyClose_eventShadow (m : MailEntry) (k : Nat) (s : State) :
    (applyClose m k s).events.shadow = s.events.shadow := by
  simp [applyClose]
@[simp] theorem applyRelease_eventShadow (m : MailEntry) (k : Nat) (s : State) :
    (applyRelease m k s).events.shadow = s.events.shadow := by
  simp [applyRelease]
@[simp] theorem signedDone_eventShadow (seq : Nat) (s : State) : (signedDone seq s).events.shadow = s.events.shadow := by
  refine State.foldl_eventShadow ⟨fun s d => ?_⟩ _ _
  cases d.phase <;> simp
@[simp] theorem applySign_eventShadow (seq : Nat) (sig : BitVec 512) (replace : Bool) (s : State) :
    (applySign seq sig replace s).events.shadow = s.events.shadow := by
  simp [applySign]
@[simp] theorem applyAck_eventShadow (seq : Nat) (s : State) : (applyAck seq s).events.shadow = s.events.shadow := by
  simp [applyAck]
/-- The detectors and the batch are cleared (R170), the copy is not. -/
@[simp] theorem beginHold_eventShadow (slot fallback : Bool) (ord : Option Nat) (s : State) :
    (beginHold slot fallback ord s).events.shadow = s.events.shadow := by
  simp [beginHold]
@[simp] theorem applyActivate_eventShadow (m : MailEntry) (s : State) :
    (applyActivate m s).events.shadow = s.events.shadow := by
  unfold applyActivate
  split <;> simp
@[simp] theorem applyEntry_eventShadow (s : State) (m : MailEntry) : (applyEntry s m).events.shadow = s.events.shadow := by
  unfold applyEntry
  cases m.cmd <;> simp
@[simp] theorem applyMailbox_eventShadow (n : Nat) (s : State) : (applyMailbox n s).events.shadow = s.events.shadow := by
  induction n generalizing s with
  | zero => rfl
  | succ n ih =>
    unfold applyMailbox
    split
    · rfl
    · split
      · rfl
      · exact (ih _).trans (applyEntry_eventShadow _ _)
theorem post_events {cmd : MailCmd} {ord : Option Nat} {s t : State} (h : post cmd ord s = some t) : t.events = s.events := by
  unfold post at h
  split at h
  · cases h; rfl
  · cases h
@[simp] theorem postAck_events (seq : Nat) (s : State) : (postAck seq s).events = s.events := by
  unfold postAck
  split
  next t h =>
    split at h
    · show t.events = s.events
      exact post_events h
    · cases h
  next => rfl
@[simp] theorem ackLate_events (s : State) : (ackLate s).events = s.events := by
  unfold ackLate
  split
  · exact postAck_events _ s
  · rfl
@[simp] theorem rollSessions_eventShadow (s : State) : (rollSessions s).events.shadow = s.events.shadow := by
  simp [rollSessions]
@[simp] theorem fallDue_eventShadow (k : Nat) (g : Segment) (replace : Bool) (s : State) :
    (fallDue k g replace s).events.shadow = s.events.shadow := by
  simp [fallDue]
@[simp] theorem openDone_eventShadow (s : State) : (openDone s).events.shadow = s.events.shadow := by
  refine State.foldl_eventShadow ⟨fun s d => ?_⟩ _ _
  cases d.phase <;> simp
@[simp] theorem sessionBoundary_eventShadow (s : State) : (sessionBoundary s).events.shadow = s.events.shadow := by
  simp [sessionBoundary, dueChanges, startImmediate, startSession, intervalDue]
@[simp] theorem beginEpoch_eventShadow (s : State) : (beginEpoch s).events.shadow = s.events.shadow := by
  unfold beginEpoch
  cases s.ember.restore <;> simp [gapSession, outageRecords]
@[simp] theorem checkFwChange_eventShadow (s : State) : (checkFwChange s).events.shadow = s.events.shadow := by
  simp [checkFwChange]

/-! Events. -/

@[simp] theorem State.updEvents_eventShadow (s : State) (p : Nat) (f : PointEvents → PointEvents) :
    (s.updEvents p f).events.shadow = s.events.shadow := rfl
@[simp] theorem flagOpen_events (p code : Nat) (s : State) : (flagOpen p code s).events = s.events := by
  unfold flagOpen
  split <;> rfl
@[simp] theorem addEntry_eventShadow (e : EventEntry) (s : State) : (addEntry e s).events.shadow = s.events.shadow := rfl
@[simp] theorem declare_eventShadow (p code kind : Nat) (d : Detector) (ts pos : Nat) (s : State) :
    (declare p code kind d ts pos s).events.shadow = s.events.shadow := by
  simp [declare]
@[simp] theorem runDetector_eventShadow (p code minStart minEnd : Nat) (hit clear : Bool) (onset ts : Nat) (value : Rat)
    (pick : Rat → Rat → Rat) (pos : Nat) (s : State) :
    (runDetector p code minStart minEnd hit clear onset ts value pick pos s).events.shadow = s.events.shadow := by
  unfold runDetector
  dsimp only
  split <;> simp
@[simp] theorem judgeDc_eventShadow (g : Image) (s : State) (p : Nat) : (judgeDc g s p).events.shadow = s.events.shadow := by
  simp [judgeDc]
@[simp] theorem witnessEvents_eventShadow (g : Image) (i beat meanAbs : Nat) (s : State) :
    (witnessEvents g i beat meanAbs s).events.shadow = s.events.shadow := by
  unfold witnessEvents
  dsimp only
  split <;> simp
@[simp] theorem truncateEvents_eventShadow (b : Nat) (s : State) (p : Nat) :
    (truncateEvents b s p).events.shadow = s.events.shadow := by
  simp [truncateEvents]

/-! The flue, captures and the link. -/

@[simp] theorem engineStart_eventShadow (h : Nat) (s : State) : (engineStart h s).events.shadow = s.events.shadow := by
  simp [engineStart]
@[simp] theorem restartHarm_eventShadow (h : Nat) (s : State) : (restartHarm h s).events.shadow = s.events.shadow := by
  simp [restartHarm]
@[simp] theorem captureSwap_eventShadow (s : State) : (captureSwap s).events.shadow = s.events.shadow := by
  refine State.foldl_eventShadow ⟨fun s n => ?_⟩ _ _
  split <;> simp
@[simp] theorem endCycle_eventShadow (whole : Bool) (s : State) : (endCycle whole s).events.shadow = s.events.shadow := by
  unfold endCycle bankSwap
  split <;> simp [cycleMessage]
@[simp] theorem startCycle_eventShadow (s : State) : (startCycle s).events.shadow = s.events.shadow := by
  simp [startCycle]
@[simp] theorem finishExchange_eventShadow (e : Exchange) (code : Nat) (ok : Bool) (s : State) :
    (finishExchange e code ok s).events.shadow = s.events.shadow := by
  unfold finishExchange
  cases e.send <;> simp [betweenExchanges, finishSend, finishPoll]
@[simp] theorem linkOff_eventShadow (s : State) : (linkOff s).events.shadow = s.events.shadow := by
  unfold linkOff
  dsimp only
  split <;> split <;> simp
@[simp] theorem switchLink_eventShadow (old new : Image) (s : State) : (switchLink old new s).events.shadow = s.events.shadow := by
  simp [switchLink, linkDisable]

/-! The end of a beat, the switch of the image and the beginning of the next beat. -/

@[simp] theorem endHearth_eventShadow (g : Image) (refs : Vector Nat 8) (beat : Nat) (metro : Bool) (s : State) (h : Nat) :
    (endHearth g refs beat metro s h).events.shadow = s.events.shadow := by
  have h21 := fun d t => reportFault_eventShadow Isl.conv (code := 0x21) d t (by decide)
  have h22 := fun d t => reportFault_eventShadow Isl.conv (code := 0x22) d t (by decide)
  unfold endHearth
  dsimp only
  cases ((s.hearthAt h).judge g h beat).2 <;> simp [h21, h22]
@[simp] theorem flagPoint_events (s : State) (p : Nat) : (flagPoint s p).events = s.events := by
  unfold flagPoint
  split <;> rfl
@[simp] theorem endBeat_eventShadow (g : Image) (refs : Vector Nat 8) (s : State) :
    (endBeat g refs s).events.shadow = s.events.shadow := by
  simp [endBeat, closePoint, publishHearth]
@[simp] theorem nextBeat_events (s : State) : (nextBeat s).events = s.events := rfl
@[simp] theorem endHold_eventShadow (s : State) : (endHold s).events.shadow = s.events.shadow := by
  unfold endHold
  split <;> simp
@[simp] theorem switchPoint_events (a b : Image) (s : State) (p : Nat) : (switchPoint a b s p).events = s.events := by
  unfold switchPoint
  dsimp only
  repeat' split
  all_goals rfl
@[simp] theorem switchEngine_eventShadow (a b : Image) (s : State) (h : Nat) :
    (switchEngine a b s h).events.shadow = s.events.shadow := by
  simp [switchEngine, chainStart]
@[simp] theorem switchImage_eventShadow (new : Image) (beat : Nat) (s : State) :
    (switchImage new beat s).events.shadow = s.events.shadow := by
  simp [switchImage, switchHearth, switchSpectral]
@[simp] theorem decideActivation_eventShadow (s : State) : (decideActivation s).events.shadow = s.events.shadow := by
  unfold decideActivation
  split
  · dsimp only
    split <;> simp
  · rfl
@[simp] theorem swapRecords_eventShadow (s : State) : (swapRecords s).events.shadow = s.events.shadow := by
  unfold swapRecords
  split <;> simp
@[simp] theorem takeNotice_events (s : State) : (takeNotice s).events = s.events := by
  unfold takeNotice
  split <;> rfl
@[simp] theorem armPoint_events (s : State) (p : Nat) : (armPoint s p).events = s.events := by
  unfold armPoint
  dsimp only
  split <;> rfl
@[simp] theorem flagTimeSet_eventShadow (taken : Bool) (s : State) :
    (flagTimeSet taken s).events.shadow = s.events.shadow := by
  simp [flagTimeSet]
theorem beginBeat_eventShadow (round : Bool) (s : State) : (beginBeat round s).events.shadow = s.events.shadow := by
  simp [beginBeat, latchLegal]
theorem boundary_eventShadow (round : Bool) (refs : Vector Nat 8) (s : State) :
    (boundary round refs s).events.shadow = s.events.shadow := by
  have hf : ∀ u, (recoverFlue u).events.shadow = u.events.shadow := fun u => by
    unfold recoverFlue
    split <;> simp
  simp [boundary, hf, beginBeat_eventShadow, renderAll, renderPort, latchTimeBase]


/-- Where a round begins or not, the boundary it stands for leaves the copy. -/
theorem exec_roundBoundary_eventShadow (refs : Vector Nat 8) (s : State) :
    ∃ t, exec (.roundBoundary refs) s = .next t ∧ t.events.shadow = s.events.shadow :=
  ⟨_, rfl, boundary_eventShadow _ refs s⟩

/-! The reads. -/

theorem blockWord_event (s : State) (off : Nat) (h : off < 0x1000) : blockWord s (0x29000 + off) = viewEvent s off := by
  have hb : (0x29000 + off) / 0x1000 = 0x29 := by omega
  have ho : (0x29000 + off) % 0x1000 = off := by omega
  simp [blockWord, hb, ho]

/-- The frozen registers of the time base read as copied (R178). -/
theorem viewEvent_frozen {s : State} {w : Word × Word × Word × Word} (h : s.events.shadow = some w) :
    viewEvent s 0x024 = w.1 ∧ viewEvent s 0x028 = w.2.1 ∧ viewEvent s 0x02C = w.2.2.1 ∧ viewEvent s 0x030 = w.2.2.2 := by
  simp [viewEvent, h]

theorem exec_energyBeatLoRead {s : State} (hi : Bool) (h : s.running Isl.metro = true) :
    exec (.energyBeatLoRead hi) s = .next (
      if hi then { s.answers (s.energyHi.getD (hiWord s.energyBeat)) with energyHi := none }
      else { s.answers (loWord s.energyBeat) with energyHi := some (hiWord s.energyBeat) }) := by
  show execEnergyBeatLoRead hi s = _
  rw [execEnergyBeatLoRead, readRow_of_running _ h]
  rfl

/-- The four registers of the time base that the read of EVENT_TB_BEAT_LO copies: BEAT_HI, SUBSEC, SEC_LO, SEC_HI. -/
def Events.timeBaseWords (v : Events) : Word × Word × Word × Word :=
  (hiWord v.tbBeat, word v.tbSub, loWord v.tbSec, hiWord v.tbSec)

theorem exec_eventTbBeatLoRead {s : State} (hi : Bool) (h : s.running Isl.metro = true) :
    exec (.eventTbBeatLoRead hi) s = .next (
      if hi then { s.answers (s.events.shadow.getD s.events.timeBaseWords).2.2.2 with
        events := { s.events with shadow := none } }
      else { s.answers (loWord s.events.tbBeat) with
        events := { s.events with shadow := some s.events.timeBaseWords } }) := by
  show execEventTbBeatLoRead hi s = _
  rw [execEventTbBeatLoRead, readRow_of_running _ h]
  rfl

/-! The statement. -/

/-- Settles O12: each read by its equation, the frozen registers of EVENT by their view, and the publication cycle and the round
boundary by what they leave of the copies. -/
theorem beatShadows : Obligations.BeatShadows := by
  unfold Obligations.BeatShadows
  refine ⟨fun s hr => ⟨exec_energyBeatLoRead false hr, fun w hw => ?_, fun hn => ?_⟩, exec_publicationCycle_energyHi,
    fun s hr => ⟨exec_eventTbBeatLoRead false hr, fun w hw => ?_, fun hn => ?_⟩, exec_roundBoundary_eventShadow⟩
  · simp [exec_energyBeatLoRead true hr, hw]
  · simp [exec_energyBeatLoRead true hr, hn]
  · obtain ⟨hBeatHi, hSub, hSecLo, hSecHi⟩ := viewEvent_frozen hw
    refine ⟨?_, ?_, ?_, ?_, by simp [exec_eventTbBeatLoRead true hr, hw]⟩
    · rw [blockWord_event s 0x024 (by decide), hBeatHi]
    · rw [blockWord_event s 0x028 (by decide), hSub]
    · rw [blockWord_event s 0x02C (by decide), hSecLo]
    · rw [blockWord_event s 0x030 (by decide), hSecHi]
  · simp [exec_eventTbBeatLoRead true hr, hn, Events.timeBaseWords]

end Sys2Proof.Machine

/-! The fuse words as programmed, and the levels that RESET_MAP gives the sources (R303, R343, R345). -/

namespace Sys2Proof.Machine

/-! What the commands leave of the queue, the fuses and the straps. -/

/-- A release keeps what it finds, which at L1 or L0 is what the latching of the straps and the fuses made (R308, R344). -/
theorem execEpisodeRelease_kept (straps : Straps) (s : State) :
    ∃ z, Leaves (·.kept) z (execEpisodeRelease straps s) ∧
      (z = s ∨ z = latchRelease straps s ∧ ∃ e, s.rst.episode = some e ∧ e.level ≠ .l2) := by
  unfold execEpisodeRelease
  split
  · exact ⟨s, by simp, .inl rfl⟩
  next e he =>
    split
    · exact ⟨s, by simp, .inl rfl⟩
    · dsimp only
      refine ⟨if decide (e.level ≠ .l2) = true then latchRelease straps s else s, ?_, ?_⟩
      · generalize (if decide (e.level ≠ .l2) = true then latchRelease straps s else s) = z
        split <;> simp
      · by_cases hl : e.level = .l2
        · simp [hl]
        · exact .inr ⟨by simp [hl], e, he, hl⟩

/-- Only the end of a programming and the release of an episode touch the queue, the fuses or the straps. -/
theorem exec_kept {c : Instr} (s : State) (hf : c ≠ .fuseProgramComplete) (he : ∀ straps, c ≠ .episodeRelease straps) :
    Leaves (·.kept) s (exec c s) := by
  cases c with
  | registerWrite addr be v => exact execRegisterWrite_kept addr be v s
  | sqTailDoorbell n be v => exact execSqTailDoorbell_kept n be v s
  | headDoorbell m be v => exact execHeadDoorbell_kept m be v s
  | descriptorFetch buf => exact execDescriptorFetch_kept buf s
  | nop ord => exact execNop_kept ord s
  | readPoint ord ok => exact execReadPoint_kept ord ok s
  | readTotals ord ok => exact execReadTotals_kept ord ok s
  | sessionOpen ord buf => exact execSessionOpen_kept ord buf s
  | sessionTariff ord => exact execSessionTariff_kept ord s
  | sessionPause ord => exact execSessionPause_kept ord s
  | sessionResume ord => exact execSessionResume_kept ord s
  | sessionClose ord => exact execSessionClose_kept ord s
  | sessionRelease ord => exact execSessionRelease_kept ord s
  | sessionRead ord ok => exact execSessionRead_kept ord ok s
  | timeSet ord => exact execTimeSet_kept ord s
  | timeRead ord => exact execTimeRead_kept ord s
  | attest ord ok => exact execAttest_kept ord ok s
  | keyInfo ord ok => exact execKeyInfo_kept ord ok s
  | captureStart ord => exact execCaptureStart_kept ord s
  | captureTrigger cap => exact execCaptureTrigger_kept cap s
  | captureStop ord => exact execCaptureStop_kept ord s
  | displayCompose ord buf => exact execDisplayCompose_kept ord buf s
  | displayWindow ord => exact execDisplayWindow_kept ord s
  | linkPollset ord buf => exact execLinkPollset_kept ord buf s
  | linkSend ord buf => exact execLinkSend_kept ord buf s
  | imageStage ord => exact execImageStage_kept ord s
  | imageTransferComplete buf => exact execImageTransferComplete_kept buf s
  | admissionComplete => exact execAdmissionComplete_kept s
  | imageActivate ord => exact execImageActivate_kept ord s
  | fwStage ord buf readBack => exact execFwStage_kept ord buf readBack s
  | fwActivateControl ord => exact execFwActivateControl_kept ord s
  | controlFirmwareRestart => exact execControlFirmwareRestart_kept s
  | fwActivateMetrology ord => exact execFwActivateMetrology_kept ord s
  | metrologyLayerReady => exact execMetrologyLayerReady_kept s
  | resetRequest ord => exact execResetRequest_kept ord s
  | completionWrite ord ok => exact execCompletionWrite_kept ord ok s
  | evqEntryWrite ok => exact execEvqEntryWrite_kept ok s
  | rcqEntryWrite ok => exact execRcqEntryWrite_kept ok s
  | capqEntryWrite ok => exact execCapqEntryWrite_kept ok s
  | coalTimeExpiry m => exact execCoalTimeExpiry_kept m s
  | ringEnable sub n v => exact execRingEnable_kept sub n v s
  | sqDisable n v => exact execSqDisable_kept n v s
  | oqDisable m v => exact execOqDisable_kept m v s
  | inflightPeakRead => exact execInflightPeakRead_kept s
  | pcieLinkUp speed width => exact execPcieLinkUp_kept speed width s
  | busMasterEnable on => exact execBusMasterEnable_kept on s
  | d3hot on => exact execD3hot_kept on s
  | frameBoundary codes => exact execFrameBoundary_kept codes s
  | mailboxLatch => exact execMailboxLatch_kept s
  | beatBoundary refs => exact execBeatBoundary_kept refs s
  | roundBoundary refs => exact execRoundBoundary_kept refs s
  | publicationCycle => exact execPublicationCycle_kept s
  | bankingWrite cut => exact execBankingWrite_kept cut s
  | recordIssue => exact execRecordIssue_kept s
  | recordSigned => exact execRecordSigned_kept s
  | overrange h idx => exact execOverrange_kept h idx s
  | trackerCrossing t pos => exact execTrackerCrossing_kept t pos s
  | cycleClose ch pos ecc => exact execCycleClose_kept ch pos ecc s
  | cycleTimeout ch => exact execCycleTimeout_kept ch s
  | harmonicWindowClose ch => exact execHarmonicWindowClose_kept ch s
  | harmonicPublication ch => exact execHarmonicPublication_kept ch s
  | supraharmonicBlock => exact execSupraharmonicBlock_kept s
  | supraharmonicIntervalPublication ch => exact execSupraharmonicIntervalPublication_kept ch s
  | spectralRestartEnd => exact execSpectralRestartEnd_kept s
  | urmsEvaluation p => exact execUrmsEvaluation_kept p s
  | fundamentalCrossing p => exact execFundamentalCrossing_kept p s
  | impulseStart c => exact execImpulseStart_kept c s
  | impulseEnd c => exact execImpulseEnd_kept c s
  | fillEnd h => exact execFillEnd_kept h s
  | refTimeout h => exact execRefTimeout_kept h s
  | rebuildComplete h wit attempt => exact execRebuildComplete_kept h wit attempt s
  | rebuildTimeout h wit attempt => exact execRebuildTimeout_kept h wit attempt s
  | backgroundRekindle h => exact execBackgroundRekindle_kept h s
  | retry mask => exact execRetry_kept mask s
  | tapLatch h code => exact execTapLatch_kept h code s
  | tapDataRead h => exact execTapDataRead_kept h s
  | flueBankData h v => exact execFlueBankData_kept h v s
  | swap h v => exact execSwap_kept h v s
  | bankHashComplete h => exact execBankHashComplete_kept h s
  | swapComplete h => exact execSwapComplete_kept h s
  | flueTrkLenLoRead h hi => exact execFlueTrkLenLoRead_kept h hi s
  | energyBeatLoRead hi => exact execEnergyBeatLoRead_kept hi s
  | eventTbBeatLoRead hi => exact execEventTbBeatLoRead_kept hi s
  | damperBeatLoRead hi => exact execDamperBeatLoRead_kept hi s
  | damperActBeatLoRead hi => exact execDamperActBeatLoRead_kept hi s
  | emberLoRead off => exact execEmberLoRead_kept off s
  | emberRdDataRead => exact execEmberRdDataRead_kept s
  | pfwN low => exact execPfwN_kept low s
  | powerFailMonitor low => exact execPowerFailMonitor_kept low s
  | markerWritten => exact execMarkerWritten_kept s
  | powerFailTriggerEnd => exact execPowerFailTriggerEnd_kept s
  | finalBankWaitTimeout => exact execFinalBankWaitTimeout_kept s
  | powerGoodCheck p high => exact execPowerGoodCheck_kept p high s
  | por low => exact execPor_kept low s
  | borCore low => exact execBorCore_kept low s
  | borIo low => exact execBorIo_kept low s
  | resetNPin lowNs => exact execResetNPin_kept lowNs s
  | ctrlWatchdog => exact execCtrlWatchdog_kept s
  | startWindowExpiry => exact execStartWindowExpiry_kept s
  | damperWatchdog => exact execDamperWatchdog_kept s
  | thermalTrip tj => exact execThermalTrip_kept tj s
  | tamper low => exact execTamper_kept low s
  | perstN low => exact execPerstN_kept low s
  | pcieHotReset => exact execPcieHotReset_kept s
  | resetSoft v => exact execResetSoft_kept v s
  | debugReset => exact execDebugReset_kept s
  | clockLoss refOk pllM pllC => exact execClockLoss_kept refOk pllM pllC s
  | episodeRelease straps => exact absurd rfl (he straps)
  | stepReady report => exact execStepReady_kept report s
  | startOk v => exact execStartOk_kept v s
  | resetWdtCfg v => exact execResetWdtCfg_kept v s
  | resetWdtKick v => exact execResetWdtKick_kept v s
  | clockRefDevMeasure dev => exact execClockRefDevMeasure_kept dev s
  | fault island code detail => exact execFault_kept island code detail s
  | islandRecoveryComplete island => exact execIslandRecoveryComplete_kept island s
  | repeatCountClear island => exact execRepeatCountClear_kept island s
  | faultPop => exact execFaultPop_kept s
  | faultInject v => exact execFaultInject_kept v s
  | halt => exact execHalt_kept s
  | haltClear => exact execHaltClear_kept s
  | haltTimeout => exact execHaltTimeout_kept s
  | calApply v => exact execCalApply_kept v s
  | trimStep temp => exact execTrimStep_kept temp s
  | rtcTimeRead which => exact execRtcTimeRead_kept which s
  | rtcCalDateRead time => exact execRtcCalDateRead_kept time s
  | fuseProgram v => exact execFuseProgram_kept v s
  | fuseProgramComplete => exact absurd rfl hf
  | extend v => exact execExtend_kept v s
  | begin v => exact execBegin_kept v s
  | fwupdWinData v => exact execFwupdWinData_kept v s
  | endWindow => exact execEndWindow_kept s
  | windowVerifyComplete readBack => exact execWindowVerifyComplete_kept readBack s
  | ident req => exact execIdent_kept req s
  | auditorRead req => exact execAuditorRead_kept req s
  | auditorAttest req => exact execAuditorAttest_kept req s
  | recover req => exact execRecover_kept req s
  | loadBegin req => exact execLoadBegin_kept req s
  | loadData req => exact execLoadData_kept req s
  | loadEnd req => exact execLoadEnd_kept req s
  | auditorPoll cut => exact execAuditorPoll_kept cut s
  | linkEn on => exact execLinkEn_kept on s
  | pollRun on => exact execPollRun_kept on s
  | attemptStart => exact execAttemptStart_kept s
  | transmitEnd => exact execTransmitEnd_kept s
  | frameReceived f dmaOk => exact execFrameReceived_kept f dmaOk s
  | replyTimeout dmaOk => exact execReplyTimeout_kept dmaOk s
  | segmentTimeout dmaOk => exact execSegmentTimeout_kept dmaOk s
  | mantelRun v => exact execMantelRun_kept v s
  | digest => exact execDigest_kept s
  | digestRequestEnd => exact execDigestRequestEnd_kept s
  | mantelTblData v => exact execMantelTblData_kept v s
  | commit v => exact execCommit_kept v s
  | commitComplete flashOk => exact execCommitComplete_kept flashOk s
  | updateStart p temp => exact execUpdateStart_kept p temp s
  | hvDlyExpiry p => exact execHvDlyExpiry_kept p s
  | updateEnd p => exact execUpdateEnd_kept p s
  | temperatureRetry p temp => exact execTemperatureRetry_kept p temp s
  | pcieLinkDown => exact execPcieLinkDown_kept s
  | prescalerEdge => exact execPrescalerEdge_kept s
  | vbatLost => exact execVbatLost_kept s
  | integratorFillEnd idx => exact execIntegratorFillEnd_kept idx s

/-! The fuse words as programmed. -/

theorem State.blown_of_kept {s t : State} (h : t.kept = s.kept) : t.trust.blown = s.trust.blown :=
  congrArg (fun k => k.2.1) h

theorem exec_blown {c : Instr} {s t : State} (h : exec c s = .next t) (hf : c ≠ .fuseProgramComplete) :
    t.trust.blown = s.trust.blown := by
  by_cases he : ∃ straps, c = .episodeRelease straps
  · obtain ⟨straps, rfl⟩ := he
    obtain ⟨z, hz, rfl | ⟨rfl, -⟩⟩ := execEpisodeRelease_kept straps s
    · exact State.blown_of_kept (hz.out t h)
    · exact State.blown_of_kept (s := latchRelease straps s) (hz.out t h)
  · exact State.blown_of_kept ((exec_kept s hf (not_exists.mp he)).out t h)

theorem execFuseProgramComplete_blown {s t : State} (h : execFuseProgramComplete s = .next t) :
    t.trust.blown = s.trust.blown ∨
      ∃ addr data, t.trust.blown = Tab.upd s.trust.blown addr (· ||| data) := by
  unfold execFuseProgramComplete at h
  split at h
  · cases h
    exact .inr ⟨_, _, rfl⟩
  · cases h
    exact .inl rfl

/-- Programming sets bits of one word and clears none. -/
theorem Tab.at_and_upd_or {n : Nat} (v : Vector Word n) (i w : Nat) (x : Word) :
    Tab.at v w 0 &&& Tab.at (Tab.upd v i (· ||| x)) w 0 = Tab.at v w 0 := by
  by_cases hw : w = i
  · subst hw
    by_cases hn : w < n
    · rw [Tab.at_upd_same hn]
      ext k
      simpa using Or.inl
    · simp [Tab.upd, hn]
  · rw [Tab.at_upd_other hw, BitVec.and_self]

theorem exec_keeps_blownBits {c : Instr} {s t : State} (h : exec c s = .next t) (w : Nat) :
    Tab.at s.trust.blown w 0 &&& Tab.at t.trust.blown w 0 = Tab.at s.trust.blown w 0 := by
  by_cases hf : c = .fuseProgramComplete
  · subst hf
    rcases execFuseProgramComplete_blown h with hb | ⟨addr, data, hb⟩
    · rw [hb, BitVec.and_self]
    · rw [hb, Tab.at_and_upd_or]
  · rw [exec_blown h hf, BitVec.and_self]

/-! The level of a source. -/

theorem Level.deeper_eq_right {a b : Level} : a.deeper b = b ↔ b.depth ≤ a.depth := by
  cases a <;> cases b <;> decide
theorem Level.depth_deeper (a b : Level) : (a.deeper b).depth = min a.depth b.depth := by
  cases a <;> cases b <;> rfl

theorem Level.depth_le_two (l : Level) : l.depth ≤ 2 := by
  cases l <;> decide
theorem Level.exists_depth {d : Nat} (h : d ≤ 2) : ∃ l : Level, l.depth = d := by
  interval_cases d
  exacts [⟨.l0, rfl⟩, ⟨.l1, rfl⟩, ⟨.l2, rfl⟩]

theorem fieldOf_and (v w : Word) (hi lo : Nat) : fieldOf (v &&& w) hi lo = fieldOf v hi lo &&& fieldOf w hi lo := by
  simp only [fieldOf, BitVec.toNat_and, Nat.shiftRight_and_distrib, Nat.and_mod_two_pow]

/-- A field of a word that has all the 1 bits of another is at least that one's as a number. -/
theorem fieldOf_le_of_and_eq {v w : Word} (h : v &&& w = v) (hi lo : Nat) : fieldOf v hi lo ≤ fieldOf w hi lo := by
  have hf := fieldOf_and v w hi lo
  rw [h] at hf
  exact hf.trans_le Nat.and_le_right

/-- The field of a source in RESET_MAP has two bits. -/
theorem fieldOf_lt_four (w : Word) {c : Nat} (hc : 1 ≤ c) : fieldOf w (2 * c - 1) (2 * c - 2) < 4 := by
  have hn : 2 * c - 1 + 1 - (2 * c - 2) = 2 := by omega
  rw [fieldOf, hn]
  exact Nat.mod_lt _ (by decide)

/-- The code of a level in RESET_MAP: the deeper, the greater; 0 names none. -/
theorem mapField_eq_some {s : State} {c : Nat} {l : Level} :
    mapField s c = some l ↔ fieldOf (resetMap s) (2 * c - 1) (2 * c - 2) = 3 - l.depth := by
  unfold mapField
  split <;> cases l <;> simp_all [Level.depth]

/-- A field of RESET_MAP that takes further 1 bits names a level at least as deep. -/
theorem mapField_deepens {s t : State} {c : Nat} {l : Level} (hc : 1 ≤ c) (h : resetMap s &&& resetMap t = resetMap s)
    (hl : mapField s c = some l) : ∃ m, mapField t c = some m ∧ m.depth ≤ l.depth := by
  rw [mapField_eq_some] at hl
  have hle := fieldOf_le_of_and_eq h (2 * c - 1) (2 * c - 2)
  have hlt := fieldOf_lt_four (resetMap t) hc
  have hd := l.depth_le_two
  obtain ⟨m, hm⟩ := Level.exists_depth (d := 3 - fieldOf (resetMap t) (2 * c - 1) (2 * c - 2)) (by omega)
  exact ⟨m, mapField_eq_some.mpr (by omega), by omega⟩

theorem sourceLevel_deepens {s t : State} {c : Nat} (hc : 1 ≤ c) (h : resetMap s &&& resetMap t = resetMap s) :
    (sourceLevel t c).depth ≤ (sourceLevel s c).depth := by
  unfold sourceLevel
  split
  · exact le_rfl
  · cases hs : mapField s c with
    | some l =>
      obtain ⟨m, hm, hml⟩ := mapField_deepens hc h hs
      simp only [hm, Level.depth_deeper]
      exact min_le_min_right _ hml
    | none =>
      cases mapField t c with
      | some m => exact (Level.depth_deeper m _).trans_le (min_le_right _ _)
      | none => exact le_rfl

/-- Settles O6: the fuse words as programmed are part of what almost every command keeps, the end of a programming only sets bits,
and a RESET_MAP field with further bits set is a code at least as great, so a level at least as deep. -/
theorem fuseBitsOnlySet : Obligations.FuseBitsOnlySet := by
  unfold Obligations.FuseBitsOnlySet
  exact ⟨fun c s t h => ⟨exec_keeps_blownBits h, exec_blown h⟩,
    fun s t c hc _ h => Level.deeper_eq_right.mpr (sourceLevel_deepens hc h)⟩

end Sys2Proof.Machine

/-! What holds of every step: the invariant stays, every command answers, and the straps and the fuses as read stay. -/

namespace Sys2Proof.Machine

/-! The invariant, kept by every step. -/

/-- Every command keeps the invariant. -/
theorem exec_inv (c : Instr) {s : State} (hI : s.Inv) : Keeps (exec c s) := by
  cases c with
  | registerWrite addr be v => exact execRegisterWrite_inv addr be v s hI
  | sqTailDoorbell n be v => exact execSqTailDoorbell_inv n be v s hI
  | headDoorbell m be v => exact execHeadDoorbell_inv m be v s hI
  | descriptorFetch buf => exact execDescriptorFetch_inv buf s hI
  | nop ord => exact execNop_inv ord s hI
  | readPoint ord ok => exact execReadPoint_inv ord ok s hI
  | readTotals ord ok => exact execReadTotals_inv ord ok s hI
  | sessionOpen ord buf => exact execSessionOpen_inv ord buf s hI
  | sessionTariff ord => exact execSessionTariff_inv ord s hI
  | sessionPause ord => exact execSessionPause_inv ord s hI
  | sessionResume ord => exact execSessionResume_inv ord s hI
  | sessionClose ord => exact execSessionClose_inv ord s hI
  | sessionRelease ord => exact execSessionRelease_inv ord s hI
  | sessionRead ord ok => exact execSessionRead_inv ord ok s hI
  | timeSet ord => exact execTimeSet_inv ord s hI
  | timeRead ord => exact execTimeRead_inv ord s hI
  | attest ord ok => exact execAttest_inv ord ok s hI
  | keyInfo ord ok => exact execKeyInfo_inv ord ok s hI
  | captureStart ord => exact execCaptureStart_inv ord s hI
  | captureTrigger cap => exact execCaptureTrigger_inv cap s hI
  | captureStop ord => exact execCaptureStop_inv ord s hI
  | displayCompose ord buf => exact execDisplayCompose_inv ord buf s hI
  | displayWindow ord => exact execDisplayWindow_inv ord s hI
  | linkPollset ord buf => exact execLinkPollset_inv ord buf s hI
  | linkSend ord buf => exact execLinkSend_inv ord buf s hI
  | imageStage ord => exact execImageStage_inv ord s hI
  | imageTransferComplete buf => exact execImageTransferComplete_inv buf s hI
  | admissionComplete => exact execAdmissionComplete_inv s hI
  | imageActivate ord => exact execImageActivate_inv ord s hI
  | fwStage ord buf readBack => exact execFwStage_inv ord buf readBack s hI
  | fwActivateControl ord => exact execFwActivateControl_inv ord s hI
  | controlFirmwareRestart => exact execControlFirmwareRestart_inv s hI
  | fwActivateMetrology ord => exact execFwActivateMetrology_inv ord s hI
  | metrologyLayerReady => exact execMetrologyLayerReady_inv s hI
  | resetRequest ord => exact execResetRequest_inv ord s hI
  | completionWrite ord ok => exact execCompletionWrite_inv ord ok s hI
  | evqEntryWrite ok => exact execEvqEntryWrite_inv ok s hI
  | rcqEntryWrite ok => exact execRcqEntryWrite_inv ok s hI
  | capqEntryWrite ok => exact execCapqEntryWrite_inv ok s hI
  | coalTimeExpiry m => exact execCoalTimeExpiry_inv m s hI
  | ringEnable sub n v => exact execRingEnable_inv sub n v s hI
  | sqDisable n v => exact execSqDisable_inv n v s hI
  | oqDisable m v => exact execOqDisable_inv m v s hI
  | inflightPeakRead => exact execInflightPeakRead_inv s hI
  | pcieLinkUp speed width => exact execPcieLinkUp_inv speed width s hI
  | busMasterEnable on => exact execBusMasterEnable_inv on s hI
  | d3hot on => exact execD3hot_inv on s hI
  | frameBoundary codes => exact execFrameBoundary_inv codes s hI
  | mailboxLatch => exact execMailboxLatch_inv s hI
  | beatBoundary refs => exact execBeatBoundary_inv refs s hI
  | roundBoundary refs => exact execRoundBoundary_inv refs s hI
  | publicationCycle => exact execPublicationCycle_inv s hI
  | bankingWrite cut => exact execBankingWrite_inv cut s hI
  | recordIssue => exact execRecordIssue_inv s hI
  | recordSigned => exact execRecordSigned_inv s hI
  | overrange h idx => exact execOverrange_inv h idx s hI
  | trackerCrossing t pos => exact execTrackerCrossing_inv t pos s hI
  | cycleClose ch pos ecc => exact execCycleClose_inv ch pos ecc s hI
  | cycleTimeout ch => exact execCycleTimeout_inv ch s hI
  | harmonicWindowClose ch => exact execHarmonicWindowClose_inv ch s hI
  | harmonicPublication ch => exact execHarmonicPublication_inv ch s hI
  | supraharmonicBlock => exact execSupraharmonicBlock_inv s hI
  | supraharmonicIntervalPublication ch => exact execSupraharmonicIntervalPublication_inv ch s hI
  | spectralRestartEnd => exact execSpectralRestartEnd_inv s hI
  | urmsEvaluation p => exact execUrmsEvaluation_inv p s hI
  | fundamentalCrossing p => exact execFundamentalCrossing_inv p s hI
  | impulseStart c => exact execImpulseStart_inv c s hI
  | impulseEnd c => exact execImpulseEnd_inv c s hI
  | fillEnd h => exact execFillEnd_inv h s hI
  | refTimeout h => exact execRefTimeout_inv h s hI
  | rebuildComplete h wit attempt => exact execRebuildComplete_inv h wit attempt s hI
  | rebuildTimeout h wit attempt => exact execRebuildTimeout_inv h wit attempt s hI
  | backgroundRekindle h => exact execBackgroundRekindle_inv h s hI
  | retry mask => exact execRetry_inv mask s hI
  | tapLatch h code => exact execTapLatch_inv h code s hI
  | tapDataRead h => exact execTapDataRead_inv h s hI
  | flueBankData h v => exact execFlueBankData_inv h v s hI
  | swap h v => exact execSwap_inv h v s hI
  | bankHashComplete h => exact execBankHashComplete_inv h s hI
  | swapComplete h => exact execSwapComplete_inv h s hI
  | flueTrkLenLoRead h hi => exact execFlueTrkLenLoRead_inv h hi s hI
  | energyBeatLoRead hi => exact execEnergyBeatLoRead_inv hi s hI
  | eventTbBeatLoRead hi => exact execEventTbBeatLoRead_inv hi s hI
  | damperBeatLoRead hi => exact execDamperBeatLoRead_inv hi s hI
  | damperActBeatLoRead hi => exact execDamperActBeatLoRead_inv hi s hI
  | emberLoRead off => exact execEmberLoRead_inv off s hI
  | emberRdDataRead => exact execEmberRdDataRead_inv s hI
  | pfwN low => exact execPfwN_inv low s hI
  | powerFailMonitor low => exact execPowerFailMonitor_inv low s hI
  | markerWritten => exact execMarkerWritten_inv s hI
  | powerFailTriggerEnd => exact execPowerFailTriggerEnd_inv s hI
  | finalBankWaitTimeout => exact execFinalBankWaitTimeout_inv s hI
  | powerGoodCheck p high => exact execPowerGoodCheck_inv p high s hI
  | por low => exact execPor_inv low s hI
  | borCore low => exact execBorCore_inv low s hI
  | borIo low => exact execBorIo_inv low s hI
  | resetNPin lowNs => exact execResetNPin_inv lowNs s hI
  | ctrlWatchdog => exact execCtrlWatchdog_inv s hI
  | startWindowExpiry => exact execStartWindowExpiry_inv s hI
  | damperWatchdog => exact execDamperWatchdog_inv s hI
  | thermalTrip tj => exact execThermalTrip_inv tj s hI
  | tamper low => exact execTamper_inv low s hI
  | perstN low => exact execPerstN_inv low s hI
  | pcieHotReset => exact execPcieHotReset_inv s hI
  | resetSoft v => exact execResetSoft_inv v s hI
  | debugReset => exact execDebugReset_inv s hI
  | clockLoss refOk pllM pllC => exact execClockLoss_inv refOk pllM pllC s hI
  | episodeRelease straps => exact execEpisodeRelease_inv straps s hI
  | stepReady report => exact execStepReady_inv report s hI
  | startOk v => exact execStartOk_inv v s hI
  | resetWdtCfg v => exact execResetWdtCfg_inv v s hI
  | resetWdtKick v => exact execResetWdtKick_inv v s hI
  | clockRefDevMeasure dev => exact execClockRefDevMeasure_inv dev s hI
  | fault island code detail => exact execFault_inv island code detail s hI
  | islandRecoveryComplete island => exact execIslandRecoveryComplete_inv island s hI
  | repeatCountClear island => exact execRepeatCountClear_inv island s hI
  | faultPop => exact execFaultPop_inv s hI
  | faultInject v => exact execFaultInject_inv v s hI
  | halt => exact execHalt_inv s hI
  | haltClear => exact execHaltClear_inv s hI
  | haltTimeout => exact execHaltTimeout_inv s hI
  | calApply v => exact execCalApply_inv v s hI
  | trimStep temp => exact execTrimStep_inv temp s hI
  | rtcTimeRead which => exact execRtcTimeRead_inv which s hI
  | rtcCalDateRead time => exact execRtcCalDateRead_inv time s hI
  | fuseProgram v => exact execFuseProgram_inv v s hI
  | fuseProgramComplete => exact execFuseProgramComplete_inv s hI
  | extend v => exact execExtend_inv v s hI
  | begin v => exact execBegin_inv v s hI
  | fwupdWinData v => exact execFwupdWinData_inv v s hI
  | endWindow => exact execEndWindow_inv s hI
  | windowVerifyComplete readBack => exact execWindowVerifyComplete_inv readBack s hI
  | ident req => exact execIdent_inv req s hI
  | auditorRead req => exact execAuditorRead_inv req s hI
  | auditorAttest req => exact execAuditorAttest_inv req s hI
  | recover req => exact execRecover_inv req s hI
  | loadBegin req => exact execLoadBegin_inv req s hI
  | loadData req => exact execLoadData_inv req s hI
  | loadEnd req => exact execLoadEnd_inv req s hI
  | auditorPoll cut => exact execAuditorPoll_inv cut s hI
  | linkEn on => exact execLinkEn_inv on s hI
  | pollRun on => exact execPollRun_inv on s hI
  | attemptStart => exact execAttemptStart_inv s hI
  | transmitEnd => exact execTransmitEnd_inv s hI
  | frameReceived f dmaOk => exact execFrameReceived_inv f dmaOk s hI
  | replyTimeout dmaOk => exact execReplyTimeout_inv dmaOk s hI
  | segmentTimeout dmaOk => exact execSegmentTimeout_inv dmaOk s hI
  | mantelRun v => exact execMantelRun_inv v s hI
  | digest => exact execDigest_inv s hI
  | digestRequestEnd => exact execDigestRequestEnd_inv s hI
  | mantelTblData v => exact execMantelTblData_inv v s hI
  | commit v => exact execCommit_inv v s hI
  | commitComplete flashOk => exact execCommitComplete_inv flashOk s hI
  | updateStart p temp => exact execUpdateStart_inv p temp s hI
  | hvDlyExpiry p => exact execHvDlyExpiry_inv p s hI
  | updateEnd p => exact execUpdateEnd_inv p s hI
  | temperatureRetry p temp => exact execTemperatureRetry_inv p temp s hI
  | pcieLinkDown => exact execPcieLinkDown_inv s hI
  | prescalerEdge => exact execPrescalerEdge_inv s hI
  | vbatLost => exact execVbatLost_inv s hI
  | integratorFillEnd idx => exact execIntegratorFillEnd_inv idx s hI

theorem State.Inv.withPending {s : State} (h : s.Inv) (l : List Instr) : State.Inv { s with pending := l } :=
  State.Inv.intro h.regs h.store h.flash h.frame h.mail h.queue h.flight

/-- One SYS cycle with nothing commanded counts, and keeps the invariant. -/
theorem sysTick_inv {s : State} (h : s.Inv) : (sysTick s).Inv := by
  refine State.Inv.intro h.regs h.store h.flash h.frame h.mail ?_ h.flight
  split
  · exact h.queue
  · exact h.queue

/-- Settles O3: every command keeps the invariant, and so does a cycle without one. -/
theorem everyStepKeepsInv : Obligations.EveryStepKeepsInv := by
  unfold Obligations.EveryStepKeepsInv
  intro s t hI h
  unfold step at h
  split at h
  · cases h
    exact sysTick_inv hI
  · exact (exec_inv _ (hI.withPending _)).inv t h

/-- Settles O4: nothing is queued at power-up, and the register file, the ember store and the flash are empty or written from empty. -/
theorem resetHasInv : Obligations.ResetHasInv := by
  unfold Obligations.ResetHasInv
  rw [State.inv_iff]
  decide

/-! Every command answers. -/

/-- An outcome that is a next state. -/
def Answers (o : Host.Outcome State Fault Refusal) : Prop := ∃ t, o = .next t

theorem answers_next (t : State) : Answers (.next t) := ⟨t, rfl⟩

/-! The shared frames of commands. -/

theorem withDescriptor_answers (ops : List Nat) (ord : Nat) (s : State) (f : Inflight → State) :
    Answers (withDescriptor ops ord s f) := by
  unfold withDescriptor
  repeat' first | with_reducible exact answers_next _ | split

theorem withBuffer_answers (ops : List Nat) (ord : Nat) (s : State) (f : Inflight → State) :
    Answers (withBuffer ops ord s f) := by
  unfold withBuffer
  split
  · exact withDescriptor_answers ..
  · exact answers_next _

theorem auditorRequest_answers (cmd : Nat) (req : List Byte) (s : State) (f : List Byte → State → State) :
    Answers (auditorRequest cmd req s f) := by
  unfold auditorRequest
  repeat' first | with_reducible exact answers_next _ | split

theorem loadRequest_answers (cmd : Nat) (req : List Byte) (s : State) (f : List Byte → State → State) :
    Answers (loadRequest cmd req s f) := auditorRequest_answers ..

theorem execLinkPollset_answers (ord : Nat) (buf : Option (List Byte)) (s : State) : Answers (execLinkPollset ord buf s) := by
  unfold execLinkPollset
  split
  · exact answers_next _
  · exact withBuffer_answers ..

theorem execFrameBoundary_answers (fc : FrameCodes) (s : State) : Answers (execFrameBoundary fc s) := by
  unfold execFrameBoundary
  split
  · exact answers_next _
  · simp only
    split
    · exact answers_next _
    · exact answers_next _

theorem execMetrologyLayerReady_answers (s : State) : Answers (execMetrologyLayerReady s) := by
  unfold execMetrologyLayerReady
  split
  · exact answers_next _
  split
  · exact answers_next _
  split
  · exact answers_next _
  simp only
  split
  · exact answers_next _
  split
  · exact answers_next _
  · exact answers_next _

/-- No command stops: none is rejected and none ends in a fault. -/
theorem exec_answers (c : Instr) (s : State) : Answers (exec c s) := by
  cases c
  case completionWrite | inflightPeakRead | beatBoundary | roundBoundary | tapDataRead | flueTrkLenLoRead | energyBeatLoRead |
    eventTbBeatLoRead | damperBeatLoRead | damperActBeatLoRead | emberLoRead | emberRdDataRead | pfwN | powerFailMonitor |
    borCore | borIo | ctrlWatchdog | startWindowExpiry | damperWatchdog | thermalTrip | tamper | perstN | pcieHotReset |
    debugReset | rtcTimeRead | rtcCalDateRead | digestRequestEnd | pcieLinkDown |
    resetSoft | startOk | resetWdtCfg | resetWdtKick | clockRefDevMeasure | fuseProgram | extend =>
    exact answers_next _
  case nop | sessionTariff | sessionPause | sessionResume | sessionClose | sessionRelease | timeSet | timeRead | captureStart |
    captureStop | displayWindow | imageActivate | fwActivateControl | fwActivateMetrology | resetRequest =>
    exact withDescriptor_answers ..
  case readPoint | readTotals | sessionOpen | sessionRead | attest | keyInfo | displayCompose | linkSend | imageStage | fwStage
    =>
    exact withBuffer_answers ..
  case ident | auditorRead | auditorAttest | recover =>
    simp only [exec, execIdent, execAuditorRead, execAuditorAttest, execRecover, auditorRequest_answers]
  case loadBegin | loadData | loadEnd =>
    simp only [exec, execLoadBegin, execLoadData, execLoadEnd, loadRequest_answers]
  case linkPollset => exact execLinkPollset_answers ..
  case frameBoundary => exact execFrameBoundary_answers ..
  case metrologyLayerReady => exact execMetrologyLayerReady_answers ..
  all_goals simp only [exec, execRegisterWrite, execSqTailDoorbell, execHeadDoorbell, execDescriptorFetch, execCaptureTrigger,
    execImageTransferComplete, execAdmissionComplete, execControlFirmwareRestart, execEvqEntryWrite, execRcqEntryWrite,
    execCapqEntryWrite, execCoalTimeExpiry, execRingEnable, execSqDisable, execOqDisable, execPcieLinkUp, execBusMasterEnable,
    execD3hot, execMailboxLatch, execPublicationCycle, execBankingWrite, execRecordIssue, execRecordSigned, execOverrange,
    execTrackerCrossing, execCycleClose, execCycleTimeout, execHarmonicWindowClose, execHarmonicPublication,
    execSupraharmonicBlock, execSupraharmonicIntervalPublication, execSpectralRestartEnd, execUrmsEvaluation,
    execFundamentalCrossing, execImpulseStart, execImpulseEnd, execFillEnd, execRefTimeout, execRebuildComplete,
    execRebuildTimeout, execBackgroundRekindle, execRetry, execTapLatch, execFlueBankData, execSwap, execBankHashComplete,
    execSwapComplete, execMarkerWritten, execPowerFailTriggerEnd, execFinalBankWaitTimeout, execPowerGoodCheck, execPor,
    execResetNPin, execClockLoss, execEpisodeRelease, execStepReady, execFault, execIslandRecoveryComplete,
    execRepeatCountClear, execFaultPop, execFaultInject, execHalt, execHaltClear, execHaltTimeout, execCalApply, execTrimStep,
    execFuseProgramComplete, execBegin, execFwupdWinData, execEndWindow, execWindowVerifyComplete, execAuditorPoll, execLinkEn,
    execPollRun, execAttemptStart, execTransmitEnd, execFrameReceived, execReplyTimeout, execSegmentTimeout, execMantelRun,
    execDigest, execMantelTblData, execCommit, execCommitComplete, execUpdateStart, execHvDlyExpiry, execUpdateEnd,
    execTemperatureRetry, execPrescalerEdge, execVbatLost, execIntegratorFillEnd]
  all_goals repeat' first | with_reducible exact answers_next _ | split

theorem execFuseProgramComplete_pending (s : State) : Leaves (·.pending) s (execFuseProgramComplete s) := by
  unfold execFuseProgramComplete
  split
  · simp
  · simp

theorem State.pending_of_kept {s t : State} (h : t.kept = s.kept) : t.pending = s.pending :=
  congrArg (fun k => k.1) h

theorem exec_pending (c : Instr) (s : State) : Leaves (·.pending) s (exec c s) := by
  by_cases hf : c = .fuseProgramComplete
  · exact hf ▸ execFuseProgramComplete_pending s
  by_cases he : ∃ straps, c = .episodeRelease straps
  · obtain ⟨straps, rfl⟩ := he
    obtain ⟨z, hz, hzs⟩ := execEpisodeRelease_kept straps s
    have hp : z.pending = s.pending := by
      rcases hzs with rfl | ⟨rfl, -⟩
      · rfl
      · rfl
    exact ⟨fun t h => (State.pending_of_kept (hz.out t h)).trans hp⟩
  · exact ⟨fun t h => State.pending_of_kept ((exec_kept s hf (not_exists.mp he)).out t h)⟩

/-- Settles O5: the queue is part of what every command keeps, the end of a programming and a release included. -/
theorem everyCommandAnswers : Obligations.EveryCommandAnswers := by
  unfold Obligations.EveryCommandAnswers
  exact ⟨exec_answers, fun c s t => (exec_pending c s).out t⟩

/-! The straps and the fuses as read. -/

/-- The straps in force and the fuse words as read. -/
def State.latched (s : State) : Nat × Nat × Vector Word 19 := (s.clk.bootSel, s.clk.clkMode, s.trust.fuses)

theorem State.latched_of_kept {s t : State} (h : t.kept = s.kept) : t.latched = s.latched := by
  simp only [State.kept, Prod.mk.injEq] at h
  simp only [State.latched, h]

theorem execFuseProgramComplete_latched (s : State) : Leaves (·.latched) s (execFuseProgramComplete s) := by
  unfold execFuseProgramComplete
  split
  · simp [State.latched]
  · simp

theorem exec_latched (c : Instr) (s : State)
    (h : (∀ straps, c ≠ .episodeRelease straps) ∨ ∀ e, s.rst.episode = some e → e.level = .l2) :
    Leaves (·.latched) s (exec c s) := by
  by_cases hf : c = .fuseProgramComplete
  · exact hf ▸ execFuseProgramComplete_latched s
  by_cases he : ∃ straps, c = .episodeRelease straps
  · obtain ⟨straps, rfl⟩ := he
    have hl := h.resolve_left fun hn => hn straps rfl
    obtain ⟨z, hz, rfl | ⟨-, e, he, hne⟩⟩ := execEpisodeRelease_kept straps s
    · exact ⟨fun t h => State.latched_of_kept (hz.out t h)⟩
    · exact absurd (hl e he) hne
  · exact ⟨fun t h => State.latched_of_kept ((exec_kept s hf (not_exists.mp he)).out t h)⟩

/-- Settles O7: straps and fuses are part of what almost every command keeps; a release latches them only outside L2. -/
theorem strapsLatchAtRelease : Obligations.StrapsLatchAtRelease := by
  unfold Obligations.StrapsLatchAtRelease
  intro c s t h hc
  have hl := (exec_latched c s hc).out t h
  simpa only [State.latched, Prod.mk.injEq] using hl

end Sys2Proof.Machine

/-! Words and registers: the bits of a word, what a register holds after a write, and the vectors that wait. -/

namespace Sys2Proof.Machine

/-! The bits of a word. -/

theorem bitOf_eq_getLsbD (w : Word) (i : Nat) : bitOf w i = w.getLsbD i := BitVec.testBit_toNat w

theorem putAt_one_getLsbD (i j : Nat) : (putAt 1 i).getLsbD j = (decide (j < 32) && decide (i = j)) := by
  simp only [putAt, BitVec.getLsbD_ofNat, Nat.one_shiftLeft, Nat.testBit_two_pow]

theorem maskOf_getLsbD (hi lo j : Nat) : (maskOf hi lo).getLsbD j = (decide (j < 32) && (decide (lo ≤ j) && decide (j - lo < hi + 1 - lo))) := by
  simp [maskOf, BitVec.getLsbD_ofNat, Nat.testBit_shiftLeft, Nat.testBit_two_pow_sub_one]

theorem mergeMask_getLsbD (m old new : Word) (j : Nat) :
    (mergeMask m old new).getLsbD j = if m.getLsbD j then new.getLsbD j else old.getLsbD j := by
  by_cases hj : j < 32
  · simp only [mergeMask, BitVec.getLsbD_or, BitVec.getLsbD_and, BitVec.getLsbD_not, hj, decide_true, Bool.true_and]
    cases m.getLsbD j <;> simp
  · simp [BitVec.getLsbD_of_ge, Nat.le_of_not_lt hj]

/-- Two words with the same bits are the same. -/
theorem Word.ext_bits {v w : Word} (h : ∀ j, v.getLsbD j = w.getLsbD j) : v = w := BitVec.eq_of_getLsbD_eq fun j _ => h j

theorem mergeMask_zero (old new : Word) : mergeMask 0 old new = old :=
  Word.ext_bits fun j => by simp [mergeMask_getLsbD]

/-- Two fields of one value, taken one after the other, are taken at once. -/
theorem mergeMask_mergeMask (m n old new : Word) : mergeMask n (mergeMask m old new) new = mergeMask (m ||| n) old new :=
  Word.ext_bits fun j => by
    cases hm : m.getLsbD j <;> cases hn : n.getLsbD j <;> simp [mergeMask_getLsbD, hm, hn]

/-- A field that the new value has from the old one stays. -/
theorem mergeMask_kept {k m : Word} (old new : Word) (h : k &&& m = 0) :
    mergeMask (k ||| m) old (mergeMask k new old) = mergeMask m old new :=
  Word.ext_bits fun j => by
    have hj : (k.getLsbD j && m.getLsbD j) = false := by rw [← BitVec.getLsbD_and, h]; simp
    cases hk : k.getLsbD j <;> cases hm : m.getLsbD j <;> simp_all [mergeMask_getLsbD]

theorem bitOf_or (v w : Word) (i : Nat) : bitOf (v ||| w) i = (bitOf v i || bitOf w i) := by simp [bitOf_eq_getLsbD]

theorem bitOf_or_putAt_one (v : Word) {i : Nat} (h : i < 32) : bitOf (v ||| putAt 1 i) i = true := by
  simp [bitOf_eq_getLsbD, putAt_one_getLsbD, h]

/-! A mask held as a number. -/

/-- Taking a set bit out of a number leaves the others. -/
theorem testBit_sub_two_pow {m i : Nat} (h : m.testBit i = true) (j : Nat) :
    (m - 2 ^ i).testBit j = (m.testBit j && decide (j ≠ i)) := by
  have hp : 2 ^ (i + 1) = 2 ^ i + 2 ^ i := by rw [Nat.pow_succ]; omega
  have hlt : m % 2 ^ (i + 1) < 2 ^ (i + 1) := Nat.mod_lt _ (by positivity)
  have hge : 2 ^ i ≤ m % 2 ^ (i + 1) := by
    refine Nat.ge_two_pow_of_testBit ?_
    simp [Nat.testBit_mod_two_pow, h]
  obtain ⟨r, hr⟩ := Nat.exists_eq_add_of_le hge
  have hm : m = 2 ^ (i + 1) * (m / 2 ^ (i + 1)) + (2 ^ i + r) := by rw [← hr]; exact (Nat.div_add_mod _ _).symm
  have hs : m - 2 ^ i = 2 ^ (i + 1) * (m / 2 ^ (i + 1)) + r := by omega
  have hri : r < 2 ^ i := by omega
  rw [hs]
  conv_rhs => rw [hm]
  rw [Nat.testBit_two_pow_mul_add _ (by omega), Nat.testBit_two_pow_mul_add _ (by omega)]
  by_cases hj : j < i + 1
  · simp only [hj, if_true]
    by_cases hji : j = i
    · simp [hji, Nat.testBit_lt_two_pow hri]
    · rw [Nat.testBit_two_pow_add_gt (by omega)]
      simp [hji]
  · simp [hj, show j ≠ i by omega]

theorem testBit_setBitN (m i : Nat) (b : Bool) (j : Nat) : (setBitN m i b).testBit j = if j = i then b else m.testBit j := by
  cases b with
  | true =>
    by_cases hj : j = i
    · simp [setBitN, hj]
    · simp [setBitN, hj, Ne.symm hj]
  | false =>
    cases h : m.testBit i with
    | true =>
      have ha : m &&& 2 ^ i = 2 ^ i := by rw [Nat.and_two_pow, h]; simp
      simp only [setBitN, ha, testBit_sub_two_pow h, Bool.false_eq_true, if_false]
      by_cases hj : j = i <;> simp [hj]
    | false =>
      have ha : m &&& 2 ^ i = 0 := by rw [Nat.and_two_pow, h]; simp
      simp only [setBitN, ha, Bool.false_eq_true, if_false, Nat.sub_zero]
      by_cases hj : j = i
      · simp [hj, h]
      · simp [hj]

/-! What a register holds. -/

theorem State.reg_setReg (s : State) (a b : Nat) (v : Word) : (s.setReg a v).reg b = if a = b then v else s.reg b := Regs.get_set ..
@[simp] theorem State.reg_setReg_same (s : State) (a : Nat) (v : Word) : (s.setReg a v).reg a = v := by simp [State.reg_setReg]
theorem State.reg_setReg_other (s : State) {a b : Nat} (v : Word) (h : a ≠ b) : (s.setReg a v).reg b = s.reg b := by
  simp [State.reg_setReg, h]
theorem State.reg_setBits (s : State) (a b : Nat) (m : Word) :
    (s.setBits a m).reg b = if a = b then s.reg a ||| m else s.reg b := State.reg_setReg ..
theorem State.reg_congr {s t : State} (h : t.regs = s.regs) (a : Nat) : t.reg a = s.reg a := congrArg (Regs.get · a) h
@[simp] theorem State.reg_updHost (s : State) (f : HostIf → HostIf) (a : Nat) : (s.updHost f).reg a = s.reg a := rfl
theorem State.fld_congr {s t : State} (h : t.regs = s.regs) (a hi lo : Nat) : t.fld a hi lo = s.fld a hi lo :=
  congrArg (fieldOf · hi lo) (State.reg_congr h a)

/-! Vectors. -/

theorem State.masked_congr {s t : State} (hr : t.regs = s.regs) (hc : t.host.cfg = s.host.cfg)
    (hb : t.host.busMaster = s.host.busMaster) (v : Nat) : t.masked v = s.masked v := by
  simp only [State.masked, State.reg_congr hr, hc, hb]

/-- What a raised vector leaves: the vectors are sent or wait, and nothing else changes. -/
theorem State.raiseVector_eq (s : State) (v : Nat) :
    s.raiseVector v = { s with host := { s.host with messages := (s.raiseVector v).host.messages, pba := (s.raiseVector v).host.pba } } := by
  unfold State.raiseVector
  split <;> rfl

theorem State.raiseVector_raised (s : State) (v : Nat) : Raised v s (s.raiseVector v) := by
  unfold State.raiseVector
  constructor
  · intro h
    simp [h]
  · intro h
    simp [h]

/-- Of the vectors below `n`, those that wait and are not masked are sent. -/
theorem flushVectors_below (u : State) (n : Nat) (hn : n ≤ 16) (t : State)
    (ht : t = (List.range n).foldl (fun s v =>
      if s.host.pba.testBit v && !(s.masked v) then (s.updHost fun h => { h with pba := setBitN h.pba v false }).raiseVector v
      else s) u) :
    t = { u with host := { u.host with messages := t.host.messages, pba := t.host.pba } } ∧
    t.host.messages = ((List.range n).filter fun v => u.host.pba.testBit v && !(u.masked v)).reverse ++ u.host.messages ∧
    ∀ v, t.host.pba.testBit v = (u.host.pba.testBit v && (decide (n ≤ v) || u.masked v)) := by
  induction n generalizing t with
  | zero => subst ht; simp
  | succ n ih =>
    rw [List.range_succ, List.foldl_append] at ht
    obtain ⟨h1, h2, h3⟩ := ih (by omega) _ rfl
    generalize (List.range n).foldl _ u = w at h1 h2 h3 ht
    have hm : ∀ v, w.masked v = u.masked v := fun v => State.masked_congr (by rw [h1]) (by rw [h1]) (by rw [h1]) v
    have hp : w.host.pba.testBit n = u.host.pba.testBit n := by simp [h3]
    have hx : ∀ v, v ≠ n → (decide (n + 1 ≤ v) = decide (n ≤ v)) := fun v hv => by
      rw [decide_eq_decide]; omega
    simp only [List.foldl_cons, List.foldl_nil, hm, hp] at ht
    rw [List.range_succ, List.filter_append]
    by_cases hs : (u.host.pba.testBit n && !(u.masked n)) = true
    · obtain ⟨hb, hk⟩ : u.host.pba.testBit n = true ∧ u.masked n = false := by simpa using hs
      have hmask : State.masked (w.updHost fun h => { h with pba := setBitN h.pba n false }) n = false :=
        (State.masked_congr (s := w) rfl rfl rfl n).trans ((hm n).trans hk)
      rw [if_pos hs, State.raiseVector, hmask] at ht
      simp only [Bool.false_eq_true, if_false] at ht
      subst ht
      refine ⟨by rw [h1]; rfl, ?_, fun v => ?_⟩
      · simp [h2, hs, Nat.mod_eq_of_lt (show n < 16 by omega)]
      · simp only [State.updHost_host, testBit_setBitN, h3]
        split
        next hv => simp [hv, hb, hk]
        next hv => rw [hx v hv]
    · rw [if_neg hs] at ht
      subst ht
      refine ⟨h1, ?_, fun v => ?_⟩
      · simp [h2, hs]
      · rw [h3]
        by_cases hv : v = n
        · subst hv
          clear h1 h2 h3 ih
          cases hb : u.host.pba.testBit v <;> simp_all
        · rw [hx v hv]

theorem flushVectors_sends (u : State) : SendsWaiting u (flushVectors u) := flushVectors_below u 16 (Nat.le_refl _) _ rfl

end Sys2Proof.Machine

/-! Register writes, field by field (R5, R6, R9 to R14). -/

namespace Sys2Proof.Machine

/-! Where registers stand. -/

/-- Every register stands in BAR0. -/
theorem RegMap.find_lt {a : Nat} {b : BlockSpec} {r : RegSpec} {i : Nat} (h : RegMap.find a = some (b, r, i)) : a < cfgBase := by
  obtain ⟨c, hc, hs⟩ := List.exists_of_findSome?_eq_some h
  obtain ⟨off, ho, -⟩ := Option.bind_eq_some_iff.mp hs
  have hb : ∀ c ∈ RegMap.blocks, c.base + c.stride * c.copies ≤ cfgBase := by decide
  unfold BlockSpec.offset at ho
  split at ho
  · exact lt_of_lt_of_le (by omega) (hb c hc)
  · cases ho

theorem RegMap.find_sqCfg : ∀ n : Fin 8, RegMap.find (sqCfg n) = some (RegMap.host,
    RegSpec.mk 0x108 0x20 8 0x4 0x100 [Fld.stop 3 0, Fld.stop 10 8, Fld.live 18 12, Fld.own 31 31 .rw], n.val) := by
  decide
theorem RegMap.find_oqCfg : ∀ m : Fin 11, RegMap.find (oqCfg m) = some (RegMap.host,
    RegSpec.mk 0x208 0x20 11 0x4 0x100 [Fld.stop 3 0, Fld.live 11 8, Fld.own 31 31 .rw], m.val) := by
  decide
theorem RegMap.find_vectorControl : ∀ k : Fin 16, RegMap.find (0x500C + 16 * k) =
    some (RegMap.msix, Reg.many 0x00C 0x10 16 1 [Fld.live 0 0], k.val) := by
  decide
theorem RegMap.find_tapCtl : ∀ h : Fin 8, RegMap.find (0x10040 + 0x1000 * h) =
    some (RegMap.hearth, Reg.one 0x040 0 [Fld.frame 1 0, Fld.frame 7 4, Fld.frame 12 8], 0) := by
  decide
theorem RegMap.find_time : RegMap.find 0x3008 = some (RegMap.rtc, Reg.one 0x008 0 [Fld.stop 14 0], 0) ∧
    RegMap.find 0x300C = some (RegMap.rtc, Reg.one 0x00C 0 [Fld.stop 31 0], 0) ∧
    RegMap.find 0x3010 = some (RegMap.rtc, Reg.one 0x010 0 [Fld.stop 7 0], 0) := by
  decide

/-! A write of plain fields. -/

/-- The bits that a register's fields cover. -/
def RegSpec.mask (r : RegSpec) : Word := r.fields.foldl (fun m f => m ||| maskOf f.hi f.lo) 0

/-- A register all of whose fields are plain ones that take the write, takes the written bits in its fields. -/
theorem RegSpec.write_plain {r : RegSpec} {running : Bool}
    (h : (r.fields.all fun f => f.acc == .rw && !f.own && (f.cls != .stop || !running)) = true) (cur w : Word) :
    r.write running cur w = (mergeMask r.mask cur w, false) := by
  have key : ∀ (l : List FieldSpec) (m : Word), (l.all fun f => f.acc == .rw && !f.own && (f.cls != .stop || !running)) = true →
      l.foldl (fun acc f => let x := f.write running acc.1 w; (x.1, acc.2 || x.2)) (mergeMask m cur w, false) =
        (mergeMask (l.foldl (fun m f => m ||| maskOf f.hi f.lo) m) cur w, false) := by
    intro l
    induction l with
    | nil => exact fun m _ => rfl
    | cons f l ih =>
      intro m hl
      obtain ⟨hf, hl⟩ := Bool.and_eq_true_iff.mp hl
      have hw : ∀ c, f.write running c w = (mergeMask (maskOf f.hi f.lo) c w, false) := fun c => by
        simp only [Bool.and_eq_true, beq_iff_eq, Bool.not_eq_true', Bool.or_eq_true, bne_iff_ne] at hf
        obtain ⟨⟨ha, ho⟩, hc⟩ := hf
        simp only [FieldSpec.write, ho, ha, Bool.false_eq_true, if_false]
        rw [if_neg (by rintro ⟨h1, h2⟩; simp_all)]
      simp only [List.foldl_cons, hw, mergeMask_mergeMask, Bool.or_self]
      exact ih _ hl
  have := key r.fields 0 h
  rwa [mergeMask_zero] at this

theorem blockUp_of_running {s : State} {isl : Nat} (h : s.running isl = true) (hi : isl ≠ Isl.aon) : blockUp s isl = true := by
  simp [blockUp, h, hi]

/-- A full write of a register that is not one of the clock's and whose size is in order. -/
theorem writeReg_of_find {a : Nat} {b : BlockSpec} {r : RegSpec} {i : Nat} {v : Word} {s : State}
    (hf : RegMap.find a = some (b, r, i)) (hu : blockUp s b.island = true) (h1 : a ≠ 0x3008) (h2 : a ≠ 0x300C) (h3 : a ≠ 0x3010) :
    writeReg a v s =
      let x := r.write (blockRuns s a) (s.reg a) (if badSize a v then mergeMask (maskOf 3 0) v (s.reg a) else v)
      (if x.2 || badSize a v then { s with regs := Regs.reject s.regs b a } else s).setReg a x.1 := by
  simp [writeReg, hf, hu, h1, h2, h3]

/-- A write of plain fields, none a STOP field of a running block. -/
theorem writeReg_plain {a : Nat} {b : BlockSpec} {r : RegSpec} {i : Nat} {v : Word} {s : State}
    (hf : RegMap.find a = some (b, r, i)) (hu : blockUp s b.island = true)
    (hp : (r.fields.all fun f => f.acc == .rw && !f.own && (f.cls != .stop || !(blockRuns s a))) = true)
    (h1 : a ≠ 0x3008) (h2 : a ≠ 0x300C) (h3 : a ≠ 0x3010) (hb : badSize a v = false) :
    writeReg a v s = s.setReg a (mergeMask r.mask (s.reg a) v) := by
  rw [writeReg_of_find hf hu h1 h2 h3]
  simp [hb, RegSpec.write_plain hp]

theorem exec_registerWrite {a : Nat} (h : a < cfgBase) (v : Word) (s : State) :
    exec (.registerWrite a 15 v) s = .next (afterWrite a (writeReg a v s)) := by
  have hc : ¬cfgBase ≤ a := by omega
  simp [exec, execRegisterWrite, hc]

theorem afterWrite_none {a : Nat} (hv : isVectorControl a = false) (ht : tapCtlOf a = none) (s : State) : afterWrite a s = s := by
  simp [afterWrite, hv, ht]

/-- Writes that do not enable all four bytes. -/
theorem partialWrites_ignored (a : Nat) (n : Fin 8) (m : Fin 11) (be : BitVec 4) (v : Word) (s : State) (h : be ≠ 15) :
    exec (.registerWrite a be v) s = .next s ∧ exec (.sqTailDoorbell n be v) s = .next s ∧
      exec (.headDoorbell m be v) s = .next s :=
  ⟨if_pos h, if_pos (.inl h), if_pos (.inl h)⟩

/-- A plain write, field by field. -/
theorem exec_registerWrite_plain {a : Nat} {b : BlockSpec} {r : RegSpec} {i : Nat} {v : Word} {s : State}
    (hf : RegMap.find a = some (b, r, i)) (hu : blockUp s b.island = true)
    (hp : (r.fields.all fun f => f.acc == .rw && !f.own && (f.cls != .stop || !(blockRuns s a))) = true)
    (h1 : a ≠ 0x3008) (h2 : a ≠ 0x300C) (h3 : a ≠ 0x3010) (hb : badSize a v = false) :
    exec (.registerWrite a 15 v) s = .next (afterWrite a (s.setReg a (mergeMask r.mask (s.reg a) v))) := by
  rw [exec_registerWrite (RegMap.find_lt hf), writeReg_plain hf hu hp h1 h2 h3 hb]

/-! The time registers (R10, R330). -/

/-- During a halt a time register takes what is written; otherwise the write of a value that differs is rejected. -/
theorem exec_registerWrite_time {a off hi : Nat} {v : Word} {s : State}
    (hf : RegMap.find a = some (RegMap.rtc, Reg.one off 0 [Fld.stop hi 0], 0)) (ha : a = 0x3008 ∨ a = 0x300C ∨ a = 0x3010)
    (hs : s.running Isl.sys = true) :
    (s.rtc.halted = true → exec (.registerWrite a 15 v) s =
      .next { s with rtc := { s.rtc with written := rtcReplace s.rtc.written a v } }) ∧
    (s.rtc.halted = false → rtcReg s.rtc.count a &&& maskOf hi 0 = v &&& maskOf hi 0 →
      exec (.registerWrite a 15 v) s = .next s) ∧
    (s.rtc.halted = false → rtcReg s.rtc.count a &&& maskOf hi 0 ≠ v &&& maskOf hi 0 →
      exec (.registerWrite a 15 v) s = .next { s with regs := Regs.reject s.regs RegMap.rtc a }) := by
  have hb : badSize a v = false := by
    rcases ha with rfl | rfl | rfl <;> simp [badSize]
  have hr : blockRuns s a = !s.rtc.halted := by
    rcases ha with rfl | rfl | rfl <;> simp [blockRuns]
  have hw : ∀ u, afterWrite a u = u := by
    rcases ha with rfl | rfl | rfl <;> exact fun u => afterWrite_none (by decide) (by decide) u
  have hu : blockUp s RegMap.rtc.island = true := hs
  rw [exec_registerWrite (RegMap.find_lt hf), hw]
  simp only [writeReg, hf, hu, ha, hb, hr, Rtc.shown, RegSpec.write, Reg.one, Fld.stop, FieldSpec.write, List.foldl_cons,
    List.foldl_nil, if_true, Bool.false_or, Bool.or_false, Bool.not_true, Bool.false_eq_true, if_false, true_and]
  refine ⟨fun h => ?_, fun h hm => ?_, fun h hm => ?_⟩
  · simp [h]
  · simp [h, hm]
  · simp [h, hm]

theorem BlockSpec.offset_first {b : BlockSpec} {a : Nat} (h1 : b.base ≤ a) (h2 : a < b.base + b.stride) (h3 : b.copies = 1) :
    b.offset a = some (a - b.base) := by
  unfold BlockSpec.offset
  rw [if_pos ⟨h1, by rw [h3]; omega⟩, Nat.mod_eq_of_lt (by omega)]

theorem BlockSpec.offset_rtc {a : Nat} (h1 : 0x3000 ≤ a) (h2 : a < 0x4000) : RegMap.rtc.offset a = some (a - 0x3000) :=
  BlockSpec.offset_first h1 h2 rfl
theorem BlockSpec.offset_host {a : Nat} (h1 : 0x4000 ≤ a) (h2 : a < 0x5000) : RegMap.host.offset a = some (a - 0x4000) :=
  BlockSpec.offset_first h1 h2 rfl

/-- A first rejected write sets CFG_REJECTED and notes its offset. -/
theorem Regs.reject_first {m : List (Nat × Word)} {b : BlockSpec} {a st bit addr off : Nat} (hr : b.reject = some (st, bit, addr))
    (ho : b.offset a = some off) (h : bitOf (Regs.get m (a - off + st)) bit = false) :
    Regs.reject m b a =
      Regs.set (Regs.set m (a - off + st) (Regs.get m (a - off + st) ||| putAt 1 bit)) (a - off + addr) (word off) := by
  simp [Regs.reject, hr, ho, h]

/-- A further one changes nothing. -/
theorem Regs.reject_again {m : List (Nat × Word)} {b : BlockSpec} {a st bit addr off : Nat} (hr : b.reject = some (st, bit, addr))
    (ho : b.offset a = some off) (h : bitOf (Regs.get m (a - off + st)) bit = true) : Regs.reject m b a = m := by
  simp [Regs.reject, hr, ho, h]

theorem Regs.reject_rtc {m : List (Nat × Word)} {a : Nat} (h1 : 0x3000 ≤ a) (h2 : a < 0x4000) (h : bitOf (Regs.get m 0x3004) 8 = false) :
    Regs.reject m RegMap.rtc a = Regs.set (Regs.set m 0x3004 (Regs.get m 0x3004 ||| 0x100)) 0x3014 (word (a - 0x3000)) := by
  have hc : a - (a - 0x3000) = 0x3000 := by omega
  rw [Regs.reject_first rfl (BlockSpec.offset_rtc h1 h2) (by rw [hc]; exact h), hc]
  rfl

/-- The first rejected write of a time register, with what is taken and what is ignored. -/
theorem exec_registerWrite_timeReject {a off hi : Nat} {v : Word} {s : State}
    (hf : RegMap.find a = some (RegMap.rtc, Reg.one off 0 [Fld.stop hi 0], 0)) (ha : a = 0x3008 ∨ a = 0x300C ∨ a = 0x3010)
    (hs : s.running Isl.sys = true) :
    (s.rtc.halted = true → exec (.registerWrite a 15 v) s =
      .next { s with rtc := { s.rtc with written := rtcReplace s.rtc.written a v } }) ∧
    (s.rtc.halted = false → rtcReg s.rtc.count a &&& maskOf hi 0 = v &&& maskOf hi 0 →
      exec (.registerWrite a 15 v) s = .next s) ∧
    (s.rtc.halted = false → rtcReg s.rtc.count a &&& maskOf hi 0 ≠ v &&& maskOf hi 0 → bitOf (s.reg 0x3004) 8 = false →
      exec (.registerWrite a 15 v) s =
        .next ((s.setReg 0x3004 (s.reg 0x3004 ||| 0x100)).setReg 0x3014 (word (a - 0x3000)))) := by
  obtain ⟨h1, h2, h3⟩ := exec_registerWrite_time (v := v) hf ha hs
  refine ⟨h1, h2, fun hh hm hr => ?_⟩
  rw [h3 hh hm, Regs.reject_rtc (by omega) (by omega) hr]
  rfl

/-! A ring's CFG with a size that no ring has (R277). -/

theorem Regs.reject_host {m : List (Nat × Word)} {a : Nat} (h1 : 0x4000 ≤ a) (h2 : a < 0x5000) (h : bitOf (Regs.get m 0x4000) 5 = false) :
    Regs.reject m RegMap.host a = Regs.set (Regs.set m 0x4000 (Regs.get m 0x4000 ||| 0x20)) 0x4018 (word (a - 0x4000)) := by
  have hc : a - (a - 0x4000) = 0x4000 := by omega
  rw [Regs.reject_first rfl (BlockSpec.offset_host h1 h2) (by rw [hc]; exact h), hc]
  rfl

/-- A CFG register of an idle ring whose new size is none: the size stays, the other plain fields are taken, and the write is rejected.
The value that the fields' write makes of the one written is `hw`. -/
theorem exec_registerWrite_badSize {a i : Nat} {r : RegSpec} {v n : Word} {s : State} (hf : RegMap.find a = some (RegMap.host, r, i))
    (h1 : 0x4000 ≤ a) (h2 : a < 0x5000) (hs : s.running Isl.host = true) (hb : badSize a v = true)
    (hr : bitOf (s.reg 0x4000) 5 = false) (hw : r.write (blockRuns s a) (s.reg a) (mergeMask (maskOf 3 0) v (s.reg a)) = (n, false)) :
    exec (.registerWrite a 15 v) s =
      .next (((s.setReg 0x4000 (s.reg 0x4000 ||| 0x20)).setReg 0x4018 (word (a - 0x4000))).setReg a n) := by
  have ht : ∀ u, afterWrite a u = u := fun u =>
    afterWrite_none (by simp [isVectorControl]; omega) (by simp [tapCtlOf]; omega) u
  rw [exec_registerWrite (RegMap.find_lt hf), ht, writeReg_of_find hf (blockUp_of_running hs (by decide)) (by omega) (by omega) (by omega)]
  simp only [hb, if_true, hw, Bool.or_true, Regs.reject_host h1 h2 hr]
  rfl

theorem badSize_iff (a : Nat) (v : Word) : badSize a v = true ↔
    ((0x4100 ≤ a ∧ a < 0x4200 ∨ 0x4200 ≤ a ∧ a < 0x4360) ∧ a % 0x20 = 8) ∧ (fieldOf v 3 0 < 4 ∨ 12 < fieldOf v 3 0) := by
  simp [badSize]
theorem badSize_sqCfg (n : Fin 8) {v : Word} (h : fieldOf v 3 0 < 4 ∨ 12 < fieldOf v 3 0) : badSize (sqCfg n) v = true := by
  have := n.isLt
  refine (badSize_iff _ _).mpr ⟨?_, h⟩
  simp only [sqCfg]
  omega
theorem badSize_oqCfg (m : Fin 11) {v : Word} (h : fieldOf v 3 0 < 4 ∨ 12 < fieldOf v 3 0) : badSize (oqCfg m) v = true := by
  have := m.isLt
  refine (badSize_iff _ _).mpr ⟨?_, h⟩
  simp only [oqCfg]
  omega

theorem exec_registerWrite_sqCfg (n : Fin 8) {v : Word} {s : State} (hs : s.running Isl.host = true)
    (hr : bitOf (s.reg 0x4000) 5 = false) (hv : fieldOf v 3 0 < 4 ∨ 12 < fieldOf v 3 0) (hi : s.sqIdle n = true) :
    exec (.registerWrite (sqCfg n) 15 v) s =
      .next (((s.setReg 0x4000 (s.reg 0x4000 ||| 0x20)).setReg 0x4018 (word (sqCfg n - 0x4000))).setReg (sqCfg n)
        (mergeMask (maskOf 10 8 ||| maskOf 18 12) (s.reg (sqCfg n)) v)) := by
  have hn := n.isLt
  have hb : blockRuns s (sqCfg n) = false := by
    have h1 : sqCfg n / 0x1000 = 4 := by simp only [sqCfg]; omega
    have h2 : (sqCfg n - 0x4100) / 0x20 = n := by simp only [sqCfg]; omega
    have h3 : 0x4100 ≤ sqCfg n ∧ sqCfg n < 0x4200 := by simp only [sqCfg]; omega
    simp only [blockRuns, h1, h2, h3, hi]
    simp
  refine exec_registerWrite_badSize (RegMap.find_sqCfg n) (by simp only [sqCfg]; omega) (by simp only [sqCfg]; omega) hs
    (badSize_sqCfg n hv) hr ?_
  rw [hb]
  have hk := mergeMask_kept (k := maskOf 3 0) (m := maskOf 10 8 ||| maskOf 18 12) (s.reg (sqCfg n)) v (by decide)
  simp only [RegSpec.write, FieldSpec.write, Fld.stop, Fld.live, Fld.own, List.foldl_cons, List.foldl_nil, mergeMask_mergeMask, hk,
    Bool.false_eq_true, and_false, if_false, if_true, Bool.or_false, BitVec.or_assoc]

theorem exec_registerWrite_oqCfg (m : Fin 11) {v : Word} {s : State} (hs : s.running Isl.host = true)
    (hr : bitOf (s.reg 0x4000) 5 = false) (hv : fieldOf v 3 0 < 4 ∨ 12 < fieldOf v 3 0) (hi : s.oqEnabled m = false) :
    exec (.registerWrite (oqCfg m) 15 v) s =
      .next (((s.setReg 0x4000 (s.reg 0x4000 ||| 0x20)).setReg 0x4018 (word (oqCfg m - 0x4000))).setReg (oqCfg m)
        (mergeMask (maskOf 11 8) (s.reg (oqCfg m)) v)) := by
  have hn := m.isLt
  have hb : blockRuns s (oqCfg m) = false := by
    have h1 : oqCfg m / 0x1000 = 4 := by simp only [oqCfg]; omega
    have h2 : (oqCfg m - 0x4200) / 0x20 = m := by simp only [oqCfg]; omega
    have h3 : 0x4200 ≤ oqCfg m ∧ oqCfg m < 0x4360 := by simp only [oqCfg]; omega
    have h4 : ¬oqCfg m < 0x4200 := by omega
    simp only [blockRuns, h1, h2, h3, h4, hi]
    simp
  refine exec_registerWrite_badSize (RegMap.find_oqCfg m) (by simp only [oqCfg]; omega) (by simp only [oqCfg]; omega) hs
    (badSize_oqCfg m hv) hr ?_
  rw [hb]
  have hk := mergeMask_kept (k := maskOf 3 0) (m := maskOf 11 8) (s.reg (oqCfg m)) v (by decide)
  simp only [RegSpec.write, FieldSpec.write, Fld.stop, Fld.live, Fld.own, List.foldl_cons, List.foldl_nil, mergeMask_mergeMask, hk,
    Bool.false_eq_true, and_false, if_false, if_true, Bool.or_false]

/-! MSI-X Vector Control, HEARTH_TAP_CTL and the configuration space. -/

theorem exec_registerWrite_vectorControl (k : Fin 16) (v : Word) {s : State} (hs : s.running Isl.host = true) :
    exec (.registerWrite (0x500C + 16 * k) 15 v) s =
      .next (flushVectors (s.setReg (0x500C + 16 * k) (mergeMask 1 (s.reg (0x500C + 16 * k)) v))) := by
  have hk := k.isLt
  have ha : ∀ u, afterWrite (0x500C + 16 * k) u = flushVectors u := fun u =>
    if_pos (by simp only [isVectorControl, Bool.and_eq_true, decide_eq_true_eq, beq_iff_eq]; omega)
  rw [exec_registerWrite_plain (RegMap.find_vectorControl k) (blockUp_of_running hs (by decide)) rfl (by omega) (by omega) (by omega), ha]
  · rfl
  · simp only [badSize, Bool.and_eq_false_iff, Bool.or_eq_false_iff, decide_eq_false_iff_not]
    omega

theorem exec_registerWrite_tapCtl (h : Fin 8) (v : Word) {s : State} (hs : s.running Isl.conv = true) :
    exec (.registerWrite (0x10040 + 0x1000 * h) 15 v) s =
      .next ((s.setReg (0x10040 + 0x1000 * h) (mergeMask (maskOf 1 0 ||| maskOf 7 4 ||| maskOf 12 8)
        (s.reg (0x10040 + 0x1000 * h)) v)).updHearth h fun x => { x with tap := { x.tap with pend := true } }) := by
  have hh := h.isLt
  have ht : tapCtlOf (0x10040 + 0x1000 * h) = some h.val := by
    have h1 : (0x10040 + 0x1000 * h.val - 0x10000) / 0x1000 = h := by omega
    unfold tapCtlOf
    rw [if_pos (by omega), h1]
  have ha : ∀ u, u.running Isl.conv = true → afterWrite (0x10040 + 0x1000 * h) u =
      u.updHearth h fun x => { x with tap := { x.tap with pend := true } } := fun u hu => by
    have hv : isVectorControl (0x10040 + 0x1000 * h) = false := by
      simp only [isVectorControl, Bool.and_eq_false_iff, decide_eq_false_iff_not]; omega
    simp [afterWrite, hv, ht, hu]
  rw [exec_registerWrite_plain (RegMap.find_tapCtl h) (blockUp_of_running hs (by decide)) (by simp [Reg.one, Fld.frame])
    (by omega) (by omega) (by omega), ha]
  · rfl
  · exact hs
  · simp only [badSize, Bool.and_eq_false_iff, Bool.or_eq_false_iff, decide_eq_false_iff_not]
    omega

theorem exec_registerWrite_config (off : Nat) (v : Word) {s : State} (hs : s.running Isl.host = true) :
    exec (.registerWrite (0x100000 + off) 15 v) s =
      .next (flushVectors { s with host := { s.host with cfg := cfgWrite off v s.host.cfg } }) := by
  simp [exec, execRegisterWrite, cfgBase, writeConfig, hs, State.updHost]

/-! CLOCK_PIX_CFG (R10, R11, R326). -/

theorem RegMap.find_pixCfg : RegMap.find 0x200C = some (RegMap.clock, Reg.one 0x00C 0x10 [Fld.stop 5 0], 0) := by decide
theorem RegMap.find_clockStatus : RegMap.find 0x2000 = some (RegMap.clock, Reg.one 0x000 0 [Fld.w1c 8 8], 0) := by decide

theorem Regs.reject_pixCfg_first {m : List (Nat × Word)} (h : bitOf (Regs.get m 0x2000) 8 = false) :
    Regs.reject m RegMap.clock 0x200C = Regs.set (Regs.set m 0x2000 (Regs.get m 0x2000 ||| 0x100)) 0x2010 0x00C := by
  have hb : (0x100 : Word) = putAt 1 8 := by decide
  have hw : (0x00C : Word) = word 0x00C := by decide
  rw [hb, hw]
  exact Regs.reject_first (st := 0) (addr := 0x10) (off := 0xC) rfl (by decide) h
theorem Regs.reject_pixCfg_again {m : List (Nat × Word)} (h : bitOf (Regs.get m 0x2000) 8 = true) :
    Regs.reject m RegMap.clock 0x200C = m :=
  Regs.reject_again (st := 0) (addr := 0x10) (off := 0xC) rfl (by decide) h

/-- A rejection leaves the register that it rejects. -/
theorem Regs.get_reject_pixCfg (m : List (Nat × Word)) : Regs.get (Regs.reject m RegMap.clock 0x200C) 0x200C = Regs.get m 0x200C := by
  cases h : bitOf (Regs.get m 0x2000) 8 with
  | true => rw [Regs.reject_pixCfg_again h]
  | false => simp [Regs.reject_pixCfg_first h, Regs.get_set]

/-- Two words whose fields differ as numbers differ under the field's mask. -/
theorem masked_ne_of_field {v w : Word} (h : fieldOf v 5 0 ≠ fieldOf w 5 0) : v &&& maskOf 5 0 ≠ w &&& maskOf 5 0 := fun he => h (by
  have hn := congrArg BitVec.toNat he
  have hm : (maskOf 5 0).toNat = 2 ^ 6 - 1 := by decide
  rwa [BitVec.toNat_and, BitVec.toNat_and, hm, Nat.and_two_pow_sub_one_eq_mod, Nat.and_two_pow_sub_one_eq_mod] at hn)

/-- A write that would change CLOCK_PIX_CFG while the mantel engine is not idle. -/
theorem exec_registerWrite_pixCfg {v : Word} {s : State} (hm : s.memOk = true) (hs : s.running Isl.sys = true)
    (hi : s.mantelIdle = false) (hd : s.fld 0x200C 5 0 ≠ fieldOf v 5 0) :
    exec (.registerWrite 0x200C 15 v) s = .next { s with regs := Regs.reject s.regs RegMap.clock 0x200C } := by
  have hb : badSize 0x200C v = false := by simp [badSize]
  have hr : blockRuns s 0x200C = true := by simp [blockRuns, hi]
  have hne : s.reg 0x200C &&& maskOf 5 0 ≠ v &&& maskOf 5 0 := masked_ne_of_field hd
  have hwf : Regs.wf s.regs = true := by
    simp only [State.memOk, Bool.and_eq_true] at hm
    exact hm.1.1
  have hset : ∀ x, x = s.reg 0x200C → State.setReg { s with regs := Regs.reject s.regs RegMap.clock 0x200C } 0x200C x =
      { s with regs := Regs.reject s.regs RegMap.clock 0x200C } := by
    rintro x rfl
    rw [show s.reg 0x200C = _ from (Regs.get_reject_pixCfg s.regs).symm]
    exact State.setReg_reg (s := { s with regs := Regs.reject s.regs RegMap.clock 0x200C }) 0x200C
      (Regs.wf_reject RegMap.clock 0x200C hwf)
  rw [exec_registerWrite (RegMap.find_lt RegMap.find_pixCfg), afterWrite_none (by decide) (by decide),
    writeReg_of_find RegMap.find_pixCfg (blockUp_of_running hs (by decide)) (by decide) (by decide) (by decide)]
  simp only [hb, hr, RegSpec.write, Reg.one, Fld.stop, FieldSpec.write, List.foldl_cons, List.foldl_nil, hne, Bool.false_eq_true,
    if_false, ne_eq, not_false_eq_true, and_self, if_true, decide_true, Bool.or_true, Bool.true_or, hset]

/-- CFG_REJECTED of CLOCK_STATUS is W1C. -/
theorem exec_registerWrite_clockStatus (v : Word) {s : State} (hs : s.running Isl.sys = true) :
    exec (.registerWrite 0x2000 15 v) s = .next (s.setReg 0x2000 (s.reg 0x2000 &&& ~~~(v &&& 0x100))) := by
  have hb : badSize 0x2000 v = false := by simp [badSize]
  have hm : maskOf 8 8 = 0x100 := by decide
  rw [exec_registerWrite (RegMap.find_lt RegMap.find_clockStatus), afterWrite_none (by decide) (by decide),
    writeReg_of_find RegMap.find_clockStatus (blockUp_of_running hs (by decide)) (by decide) (by decide) (by decide)]
  simp only [hb, RegSpec.write, Reg.one, Fld.w1c, FieldSpec.write, List.foldl_cons, List.foldl_nil, hm, Bool.false_eq_true, if_false,
    Bool.or_false]

/-- Settles O10: the rejection notes the offset once, and leaves the register, whose value a canonical file does not list twice. -/
theorem stopWriteRejected : Obligations.StopWriteRejected := by
  unfold Obligations.StopWriteRejected
  refine ⟨fun v s hm hs hi hd => ⟨fun hr => ?_, fun hr => ?_⟩, fun v s hs => exec_registerWrite_clockStatus v hs⟩
  · rw [exec_registerWrite_pixCfg hm hs hi hd, Regs.reject_pixCfg_first hr]
    rfl
  · rw [exec_registerWrite_pixCfg hm hs hi hd, Regs.reject_pixCfg_again hr]

/-- Settles O9: a write takes a register's fields one by one; the time registers, a ring's CFG, the vector and the tap controls and the
configuration space each have a rule of their own. -/
theorem registerWrites : Obligations.RegisterWrites := by
  unfold Obligations.RegisterWrites
  refine ⟨partialWrites_ignored, ?_, ?_, ?_, ?_, ?_, ?_⟩
  · intro a b r i v s hf hu hp h1 h2 h3 hb hv ht
    rw [exec_registerWrite_plain hf hu hp h1 h2 h3 hb, afterWrite_none hv ht]
    rfl
  · intro a m v s hs ha
    obtain ⟨f1, f2, f3⟩ := RegMap.find_time
    simp only [List.mem_cons, Prod.mk.injEq, List.not_mem_nil, or_false] at ha
    rcases ha with ⟨rfl, rfl⟩ | ⟨rfl, rfl⟩ | ⟨rfl, rfl⟩
    · exact exec_registerWrite_timeReject f1 (by simp) hs
    · exact exec_registerWrite_timeReject f2 (by simp) hs
    · exact exec_registerWrite_timeReject f3 (by simp) hs
  · exact fun v s hs hr hv => ⟨fun n => exec_registerWrite_sqCfg n hs hr hv, fun m => exec_registerWrite_oqCfg m hs hr hv⟩
  · rintro k a v s hs rfl
    exact ⟨_, exec_registerWrite_vectorControl k v hs, flushVectors_sends _⟩
  · rintro h a v s hs rfl
    exact exec_registerWrite_tapCtl h v hs
  · exact fun off v s hs => ⟨_, exec_registerWrite_config off v hs, flushVectors_sends _⟩

end Sys2Proof.Machine

/-! The rings: a failed transfer, an entry that is placed or lost, and what a descriptor that finishes leaves. -/

namespace Sys2Proof.Machine

/-! Rings in the state. -/

theorem State.sqAt_updSq_same (s : State) {n : Nat} (h : n < 8) (f : SqRing → SqRing) : (s.updSq n f).sqAt n = f (s.sqAt n) :=
  Tab.at_upd_same h
theorem State.sqAt_updSq_other (s : State) {n k : Nat} (h : k ≠ n) (f : SqRing → SqRing) : (s.updSq n f).sqAt k = s.sqAt k :=
  Tab.at_upd_other h
theorem State.oqAt_updOq_same (s : State) {m : Nat} (h : m < 11) (f : OqRing → OqRing) : (s.updOq m f).oqAt m = f (s.oqAt m) :=
  Tab.at_upd_same h
theorem State.oqAt_updOq_other (s : State) {m k : Nat} (h : k ≠ m) (f : OqRing → OqRing) : (s.updOq m f).oqAt k = s.oqAt k :=
  Tab.at_upd_other h
theorem State.oqAt_congr {s t : State} (h : t.host.oq = s.host.oq) (m : Nat) : t.oqAt m = s.oqAt m :=
  congrArg (Tab.at · m OqRing.init) h
theorem State.sqAt_congr {s t : State} (h : t.host.sq = s.host.sq) (n : Nat) : t.sqAt n = s.sqAt n :=
  congrArg (Tab.at · n SqRing.init) h
theorem State.flight_congr {s t : State} (h : t.host.inflight = s.host.inflight) (ord : Nat) : t.flight ord = s.flight ord :=
  congrArg (List.find? (fun d : Inflight => d.ord == ord) ·) h
theorem State.oqEnabled_congr {s t : State} (h : t.regs = s.regs) (m : Nat) : t.oqEnabled m = s.oqEnabled m :=
  congrArg (bitOf · 31) (State.reg_congr h _)
theorem State.sqEnabled_congr {s t : State} (h : t.regs = s.regs) (n : Nat) : t.sqEnabled n = s.sqEnabled n :=
  congrArg (bitOf · 31) (State.reg_congr h _)

/-! Faults that are counted. -/

/-- A record goes to the fault collector and the ember store, and the host hears of it. -/
theorem addRecord_eq (key island code : Nat) (cls : FaultClass) (action detail rep flags : Nat) (s : State) :
    ∃ f e m p h, addRecord key island code cls action detail rep flags s =
      { s with fault := f, ember := e, host := { s.host with messages := m, pba := p, faultHeld := h } } := by
  have heard : ∀ (b c : Bool) (u : State), (∃ f e, u = { s with fault := f, ember := e }) →
      ∃ f e m p h, (if !b then u else if c then u.raiseVector (u.fld 0x401C 7 4) else u.updHost fun h => { h with faultHeld := true }) =
        { s with fault := f, ember := e, host := { s.host with messages := m, pba := p, faultHeld := h } } := by
    rintro b c u ⟨f, e, rfl⟩
    cases b
    · exact ⟨_, _, _, _, _, rfl⟩
    · cases c
      · exact ⟨_, _, _, _, _, rfl⟩
      · simp only [Bool.not_true, Bool.false_eq_true, if_false, if_true]
        rw [State.raiseVector_eq]
        exact ⟨_, _, _, _, _, rfl⟩
  unfold addRecord
  extract_lets f epoch next r room ahead after moved canWrite s1 s2
  refine heard room _ s2 ?_
  cases hw : canWrite
  · exact ⟨s1.fault, s.ember, by simp only [s2, hw]; rfl⟩
  · exact ⟨s1.fault, _, by simp only [s2, hw]; rfl⟩

/-- A correctable fault counts and is recorded. -/
theorem reportFault_correctable (island code detail : Nat) (s : State) (l : Level) (hc : faultClass code = some (.correctable, l)) :
    ∃ f e m p h, reportFault island code detail s =
      { s with fault := f, ember := e, host := { s.host with messages := m, pba := p, faultHeld := h } } := by
  unfold reportFault
  split
  · exact ⟨_, _, _, _, _, rfl⟩
  · simp only [hc]
    obtain ⟨f, e, m, p, h, heq⟩ := addRecord_eq (recordKey island code) island code .correctable 0 detail 0
      (if inRecovery { s with fault := { s.fault with corr := Tab.upd s.fault.corr island fun n => min (n + 1) (2 ^ 32 - 1) } } then 1 else 0)
      { s with fault := { s.fault with corr := Tab.upd s.fault.corr island fun n => min (n + 1) (2 ^ 32 - 1) } }
    exact ⟨f, e, m, p, h, heq⟩

/-! A transfer that fails (R275). -/

theorem State.hostErrs_eq (s : State) (bits : Word) (ring : Nat) :
    ∃ m p, s.hostErrs bits ring =
      { s with regs := Regs.set s.regs 0x4010 (s.reg 0x4010 ||| bits),
               host := { s.host with errRing := if s.reg 0x4010 = 0 then ring else s.host.errRing, messages := m, pba := p } } := by
  unfold State.hostErrs
  dsimp only
  rw [State.raiseVector_eq]
  split
  · exact ⟨_, _, rfl⟩
  · exact ⟨_, _, rfl⟩

/-- What a failed transfer leaves: HOST_ERR, the fault collector, the ember store, and of the host interface what reports it. -/
theorem transferError_eq (bit ring : Nat) (s : State) :
    ∃ f e m p h r c, transferError bit ring s =
      { s with regs := Regs.set s.regs 0x4010 (s.reg 0x4010 ||| putAt 1 bit), fault := f, ember := e,
               host := { s.host with messages := m, pba := p, faultHeld := h, errRing := r, cfg := c,
                                     failures := s.host.failures + 1 } } := by
  obtain ⟨m, p, h1⟩ := State.hostErrs_eq s (putAt 1 bit) ring
  obtain ⟨f, e, m', p', h, h2⟩ := reportFault_correctable Isl.host 0x71 0 (s.hostErr bit ring).aerError .l2 (by decide)
  unfold transferError
  rw [h2, State.hostErr, h1]
  exact ⟨_, _, _, _, _, _, _, rfl⟩

section
variable (bit ring : Nat) (s : State)

@[simp] theorem transferError_regs :
    (transferError bit ring s).regs = Regs.set s.regs 0x4010 (s.reg 0x4010 ||| putAt 1 bit) := by
  obtain ⟨f, e, m, p, h, r, c, ht⟩ := transferError_eq bit ring s; rw [ht]
@[simp] theorem transferError_sq : (transferError bit ring s).host.sq = s.host.sq := by
  obtain ⟨f, e, m, p, h, r, c, ht⟩ := transferError_eq bit ring s; rw [ht]
@[simp] theorem transferError_oq : (transferError bit ring s).host.oq = s.host.oq := by
  obtain ⟨f, e, m, p, h, r, c, ht⟩ := transferError_eq bit ring s; rw [ht]
@[simp] theorem transferError_inflight : (transferError bit ring s).host.inflight = s.host.inflight := by
  obtain ⟨f, e, m, p, h, r, c, ht⟩ := transferError_eq bit ring s; rw [ht]
@[simp] theorem transferError_dma : (transferError bit ring s).host.dma = s.host.dma := by
  obtain ⟨f, e, m, p, h, r, c, ht⟩ := transferError_eq bit ring s; rw [ht]
@[simp] theorem transferError_failures : (transferError bit ring s).host.failures = s.host.failures + 1 := by
  obtain ⟨f, e, m, p, h, r, c, ht⟩ := transferError_eq bit ring s; rw [ht]

/-- HOST_ERR shows the failure. -/
theorem transferError_flag (h : bit < 32) : bitOf ((transferError bit ring s).reg 0x4010) bit = true := by
  rw [State.reg_congr (s := s.setReg 0x4010 (s.reg 0x4010 ||| putAt 1 bit)) (transferError_regs bit ring s), State.reg_setReg_same]
  exact bitOf_or_putAt_one _ h
theorem transferError_reg_other {a : Nat} (h : a ≠ 0x4010) : (transferError bit ring s).reg a = s.reg a := by
  rw [State.reg_congr (s := s.setReg 0x4010 (s.reg 0x4010 ||| putAt 1 bit)) (transferError_regs bit ring s),
    State.reg_setReg_other _ _ h.symm]
end

/-! Placing an entry (R253, R255, R273). -/

theorem bitOf_and_not_putAt (w : Word) (i : Nat) : bitOf (w &&& ~~~(putAt 1 i)) i = false := by
  rw [bitOf_eq_getLsbD, BitVec.getLsbD_and, BitVec.getLsbD_not, putAt_one_getLsbD]
  simp

/-- A ring whose message has been sent: none follows until the head doorbell, and the count begins again. -/
def OqRing.sent (q : OqRing) : OqRing := { q with armed := false, since := 0, late := false }
/-- A ring that has taken an entry, before its message: the tail has moved on, and the entry is counted. -/
def OqRing.taken (q : OqRing) (size : Nat) (counted : Bool) : OqRing :=
  { q with tail := (q.tail + 1) % size, phase := if (q.tail + 1) % size = 0 then !q.phase else q.phase,
           since := if counted then q.since + 1 else q.since }

theorem ringMessage_eq (m : Nat) (s : State) :
    (∃ p q, ringMessage m s = { s with host := { s.host with oq := Tab.upd s.host.oq m OqRing.sent, messages := p, pba := q } }) ∧
    Raised (s.fld (oqCfg m) 11 8) s (ringMessage m s) := by
  have hr := State.raiseVector_raised (s.updOq m OqRing.sent) (s.fld (oqCfg m) 11 8)
  have he := State.raiseVector_eq (s.updOq m OqRing.sent) (s.fld (oqCfg m) 11 8)
  exact ⟨⟨_, _, he⟩, hr⟩

/-- A message goes out where it is due with what the ring has counted, and otherwise nothing changes. -/
theorem announce_cases (m : Nat) (s : State) :
    (messageDue s m (s.oqAt m).since = false ∧ announce m s = s) ∨
    (messageDue s m (s.oqAt m).since = true ∧
      (∃ p q, announce m s = { s with host := { s.host with oq := Tab.upd s.host.oq m OqRing.sent, messages := p, pba := q } }) ∧
      Raised (s.fld (oqCfg m) 11 8) s (announce m s)) := by
  have ha : announce m s = if messageDue s m (s.oqAt m).since then ringMessage m s else s := rfl
  cases hd : messageDue s m (s.oqAt m).since with
  | false => exact .inl ⟨rfl, by rw [ha, hd]; rfl⟩
  | true =>
    rw [ha, hd]
    exact .inr ⟨rfl, ringMessage_eq m s⟩

/-- The state with an entry written and ring `m` moved on. -/
def State.entryTaken (s : State) (m : Nat) (counted : Bool) (bs : List Byte) : State :=
  { s with host := { s.host with
    dma := { addr := oqBase s m + entrySize m * (s.oqAt m).tail, bytes := bs } :: s.host.dma,
    oq := Tab.upd s.host.oq m fun q =>
      { q with tail := ((s.oqAt m).tail + 1) % oqSize s m,
               phase := if ((s.oqAt m).tail + 1) % oqSize s m = 0 then !q.phase else q.phase,
               since := if counted then q.since + 1 else q.since } } }

theorem placeEntry_eq (m : Nat) (counted : Bool) (bs : List Byte) (s : State) :
    placeEntry m counted bs s = announce m (s.entryTaken m counted bs) := rfl

theorem State.oqAt_entryTaken {m : Nat} (hm : m < 11) (counted : Bool) (bs : List Byte) (s : State) :
    (s.entryTaken m counted bs).oqAt m = (s.oqAt m).taken (oqSize s m) counted := Tab.at_upd_same hm
theorem State.oqAt_entryTaken_other {m k : Nat} (hk : k ≠ m) (counted : Bool) (bs : List Byte) (s : State) :
    (s.entryTaken m counted bs).oqAt k = s.oqAt k := Tab.at_upd_other hk

theorem messageDue_entryTaken {m : Nat} (hm : m < 11) (counted : Bool) (bs : List Byte) (s : State) :
    messageDue (s.entryTaken m counted bs) m ((s.entryTaken m counted bs).oqAt m).since =
      messageDue s m ((s.oqAt m).since + if counted then 1 else 0) := by
  have hfld : (s.entryTaken m counted bs).fld (0x420C + 0x20 * m) 7 0 = s.fld (0x420C + 0x20 * m) 7 0 := rfl
  simp only [messageDue, State.oqAt_entryTaken hm, hfld]
  cases counted <;> rfl

theorem placeEntry_placed {m : Nat} (hm : m < 11) (counted : Bool) (bs : List Byte) (s : State) :
    EntryPlaced m counted bs s (placeEntry m counted bs s) ∧
    ∃ o p q d, placeEntry m counted bs s = { s with host := { s.host with oq := o, messages := p, pba := q, dma := d } } := by
  have hn : (if counted then (s.oqAt m).since + 1 else (s.oqAt m).since) = (s.oqAt m).since + if counted then 1 else 0 := by
    cases counted <;> rfl
  have hown := State.oqAt_entryTaken hm counted bs s
  have hother : ∀ k, k ≠ m → (s.entryTaken m counted bs).oqAt k = s.oqAt k := fun k hk =>
    State.oqAt_entryTaken_other hk counted bs s
  rw [placeEntry_eq]
  rcases announce_cases m (s.entryTaken m counted bs) with ⟨hd, ha⟩ | ⟨hd, ⟨p, q, ha⟩, hr⟩ <;>
    rw [messageDue_entryTaken hm] at hd
  · rw [ha]
    refine ⟨⟨rfl, ?_, ?_, ?_, fun h => ?_, fun _ => ⟨?_, ?_, rfl, rfl⟩, hother⟩, _, _, _, _, rfl⟩
    · rw [hown]; rfl
    · rw [hown]; rfl
    · rw [hown]; rfl
    · exact absurd h (by rw [hd]; decide)
    · rw [hown]; rfl
    · rw [hown]; exact hn
  · have hsent : (announce m (s.entryTaken m counted bs)).oqAt m = ((s.oqAt m).taken (oqSize s m) counted).sent := by
      rw [ha, ← hown]; exact Tab.at_upd_same hm
    refine ⟨⟨by rw [ha]; rfl, ?_, ?_, ?_, fun _ => ⟨?_, ?_, hr⟩, fun h => ?_, fun k hk => ?_⟩, _, p, q, _, by rw [ha]; rfl⟩
    · rw [hsent]; rfl
    · rw [hsent]; rfl
    · rw [hsent]; rfl
    · rw [hsent]; rfl
    · rw [hsent]; rfl
    · exact absurd hd (by rw [h]; decide)
    · rw [ha, ← hother k hk]; exact Tab.at_upd_other hk

/-! An entry that could not be written (R275). -/

theorem ringFault_lost (m : Nat) (hm : m < 11) (s : State) : EntryLost m s (ringFault m s) := by
  unfold ringFault
  dsimp only
  have h1 : oqCfg m ≠ 0x4010 := by unfold oqCfg; omega
  have h2 : (0x4218 + 0x20 * m : Nat) ≠ 0x4010 := by omega
  have h3 : (0x4218 + 0x20 * m : Nat) ≠ oqCfg m := by unfold oqCfg; omega
  refine ⟨?_, ?_, transferError_flag _ _ _ (by decide), ?_, ?_, ?_, ?_⟩
  · rw [State.oqEnabled, transferError_reg_other _ _ _ h1, State.setFlag, State.reg_setBits, if_neg h3, State.reg_setReg_same]
    exact bitOf_and_not_putAt _ _
  · rw [transferError_reg_other _ _ _ h2, State.setFlag, State.reg_setBits, if_pos rfl]
    exact bitOf_or_putAt_one _ (by decide)
  · exact transferError_failures _ _ _
  · exact transferError_dma _ _ _
  · exact transferError_oq _ _ _
  · exact transferError_inflight _ _ _

/-- A failed entry write leaves of the host interface everything but what reports it. -/
theorem ringFault_host (m : Nat) (s : State) : ∃ p q h r c, (ringFault m s).host =
    { s.host with messages := p, pba := q, faultHeld := h, errRing := r, cfg := c, failures := s.host.failures + 1 } := by
  obtain ⟨f, e, p, q, h, r, c, ht⟩ := transferError_eq 3 (8 + m)
    ((s.setReg (oqCfg m) (s.reg (oqCfg m) &&& ~~~(putAt 1 31))).setFlag (0x4218 + 0x20 * m) 1)
  exact ⟨p, q, h, r, c, congrArg State.host ht⟩

/-- An entry that the ring takes, and one whose write fails. -/
theorem tryEntry_taken {m : Nat} {s : State} (hw : canWriteRing s = true) (hf : ringFree s m = true) (counted : Bool)
    (bs : Bool → List Byte) (after : State → State) :
    tryEntry m true counted bs after s = after (placeEntry m counted (bs (s.oqAt m).phase) s) := by
  simp [tryEntry, hw, hf]
theorem tryEntry_lost {m : Nat} {s : State} (hw : canWriteRing s = true) (hf : ringFree s m = true) (counted : Bool)
    (bs : Bool → List Byte) (after : State → State) : tryEntry m false counted bs after s = ringFault m s := by
  simp [tryEntry, hw, hf]

/-- What follows an entry and leaves the rings, the vectors and the writes leaves the entry placed. -/
theorem EntryPlaced.after {m : Nat} {counted : Bool} {bs : List Byte} {s t u : State} (h : EntryPlaced m counted bs s t)
    (ho : u.host.oq = t.host.oq) (hd : u.host.dma = t.host.dma) (hm : u.host.messages = t.host.messages) (hp : u.host.pba = t.host.pba) :
    EntryPlaced m counted bs s u := by
  simpa only [EntryPlaced, Raised, State.oqAt_congr ho, hd, hm, hp] using h

end Sys2Proof.Machine

/-! Entries of the event, record and capture rings (R226, R255, R270 to R272, R275), and finished descriptors (R262, R266, R284). -/

namespace Sys2Proof.Machine

/-! Descriptors that finish. -/

/-- A descriptor that has not finished holds its completion. -/
theorem State.flight_finish {s : State} {ord : Nat} {d : Inflight} (hd : s.flight ord = some d) (ho : d.phase.isDone = false)
    (status detail : Nat) (r : List Byte) : (s.finish ord status detail r).flight ord =
      some { d with phase := .done { status := status, detail := detail, result := padTo 24 r } } := by
  rw [State.finish, flight_setPhase_same, hd, Option.map_some, Inflight.toPhase_open ho]
/-- One that has finished stays as it is. -/
theorem State.flight_finish_done {s : State} {ord : Nat} {d : Inflight} (hd : s.flight ord = some d) (ho : d.phase.isDone = true)
    (status detail : Nat) (r : List Byte) : (s.finish ord status detail r).flight ord = some d := by
  rw [State.finish, flight_setPhase_same, hd, Option.map_some, Inflight.toPhase, if_pos ho]
theorem State.flight_finish_other (s : State) {ord o : Nat} (h : o ≠ ord) (status detail : Nat) (r : List Byte) :
    (s.finish ord status detail r).flight o = s.flight o := flight_setPhase_other s ord _ o h

/-! Entries. -/

theorem exec_evqEntryWrite {s : State} {q : Nat} {e : Nat × EventEntry} (hl : evqLeft s ≠ 0) (hc : s.running Isl.ctrl = true)
    (hp : s.host.paused = false) (hf : s.fw.loader = false) (hq : q = (s.events.qseq + 2 ^ 32 + 1 - evqLeft s) % 2 ^ 32)
    (he : (s.events.slots.find? fun x => x.1 == (q + 2 ^ 32 - 1) % 1024) = some e) (ok : Bool) :
    exec (.evqEntryWrite ok) s = .next (tryEntry 8 ok true
      (fun ph => e.2.bytes ++ packTime (tsTime s e.2.ts) ++ zeros 23 ++ leBytes 1 (if ph then 1 else 0))
      (fun s => s.updHost fun h => { h with evqHeld := h.evqHeld ++ [q], evqLast := some q }) s) := by
  obtain ⟨i, e⟩ := e
  subst hq
  show execEvqEntryWrite ok s = _
  unfold execEvqEntryWrite
  rw [if_neg (by simp [hl, hc, hp, hf])]
  dsimp only
  split
  · next k e' h =>
    cases h.symm.trans he
    rfl
  · next h => exact absurd (h.symm.trans he) nofun

theorem exec_rcqEntryWrite {s : State} (hc : s.ctrlServes = true) (he : s.running Isl.ember = true) (hp : s.host.paused = false)
    (hn : s.host.rcqNext < s.ember.nextSeq) (hh : s.ember.holds s.host.rcqNext = true)
    (hs : s.ember.signedEntry s.host.rcqNext = true) (ok : Bool) :
    exec (.rcqEntryWrite ok) s = if s.ember.sigHeld s.host.rcqNext = s.ember.sigFor s.host.rcqNext then
      .next (tryEntry 9 ok true (rcqBytes s.ember s.host.rcqNext)
        (fun t => t.updHost fun h => { h with rcqNext := s.host.rcqNext + 1, rcqHeld := h.rcqHeld ++ [s.host.rcqNext] }) s)
      else .next s := by
  simp [exec, execRcqEntryWrite, hc, he, hp, hn, hh, hs]

/-- What follows an entry on CAPQ. -/
def CapEntry.written (e : CapEntry) (rest : List CapEntry) (s : State) : State :=
  match e.stop with
  | some (o, n) => (s.updHost fun h => { h with capq := rest }).finishOk o (leBytes 4 n)
  | none => s.updHost fun h => { h with capq := rest }

theorem exec_capqEntryWrite {s : State} {e : CapEntry} {rest : List CapEntry} (h : s.host.capq = e :: rest) (ok : Bool) :
    exec (.capqEntryWrite ok) s = .next (tryEntry 10 ok true e.bytes (e.written rest) s) := by
  simp [exec, execCapqEntryWrite, h]
  rfl

/-- What follows an entry on CAPQ changes of the host interface the queue of waiting entries and the descriptors in flight. -/
theorem CapEntry.written_eq (e : CapEntry) (rest : List CapEntry) (s : State) :
    ∃ l, e.written rest s = { s with host := { s.host with capq := rest, inflight := l } } := by
  unfold CapEntry.written
  split
  · exact ⟨_, rfl⟩
  · exact ⟨_, rfl⟩

/-- An entry of a ring that is written, and what follows it where that is a matter of the host interface. -/
theorem entryWritten {m : Nat} (hm : m < 11) {s : State} (hw : canWriteRing s = true) (hf : ringFree s m = true)
    (bs : Bool → List Byte) {after : State → State}
    (ha : ∀ u, ∃ g : HostIf → HostIf, after u = u.updHost g ∧
      (g u.host).oq = u.host.oq ∧ (g u.host).dma = u.host.dma ∧ (g u.host).messages = u.host.messages ∧ (g u.host).pba = u.host.pba) :
    ∃ u, tryEntry m true true bs after s = after u ∧ EntryPlaced m true (bs (s.oqAt m).phase) s (after u) ∧
      after u = { s with host := (after u).host } ∧ ∃ o p q d, u.host = { s.host with oq := o, messages := p, pba := q, dma := d } := by
  obtain ⟨hp, o, p, q, d, he⟩ := placeEntry_placed hm true (bs (s.oqAt m).phase) s
  rw [tryEntry_taken hw hf]
  generalize placeEntry m true (bs (s.oqAt m).phase) s = u at hp he
  obtain ⟨g, hg, h1, h2, h3, h4⟩ := ha u
  refine ⟨u, rfl, ?_, ?_, o, p, q, d, congrArg State.host he⟩
  · rw [hg]
    exact hp.after h1 h2 h3 h4
  · rw [hg, he]
    rfl

/-- Settles O19. -/
theorem ringEntriesWritten : Obligations.RingEntriesWritten := by
  unfold Obligations.RingEntriesWritten
  refine ⟨fun s q e hl hc hp hf hq he hw hr => ?_, fun s q hq hc he hp hn hh hsig hw hr => ?_, fun s e rest h hw hr => ?_⟩
  · have hx := exec_evqEntryWrite hl hc hp hf hq he
    constructor
    · obtain ⟨u, h1, h2, h3, o, p, q', d, h4⟩ := entryWritten (m := 8) (by decide) hw hr
        (fun ph => e.2.bytes ++ packTime (tsTime s e.2.ts) ++ zeros 23 ++ leBytes 1 (if ph then 1 else 0))
        (after := fun s => s.updHost fun h => { h with evqHeld := h.evqHeld ++ [q], evqLast := some q })
        fun u => ⟨_, rfl, rfl, rfl, rfl, rfl⟩
      refine ⟨_, (hx true).trans (congrArg _ h1), h2, ?_, rfl, h3⟩
      simp [h4]
    · obtain ⟨p, q', h, r, c, hh⟩ := ringFault_host 8 s
      refine ⟨_, (hx false).trans (congrArg _ (tryEntry_lost hw hr _ _ _)), ringFault_lost 8 (by decide) s, ?_, ?_⟩
      · rw [hh]
      · rw [hh]
  · subst hq
    have hx := exec_rcqEntryWrite hc he hp hn hh hsig
    refine ⟨fun hs ok => by rw [hx, if_neg hs], fun hs => ⟨?_, ?_⟩⟩
    · obtain ⟨u, h1, h2, h3, o, p, q', d, h4⟩ := entryWritten (m := 9) (by decide) hw hr (rcqBytes s.ember s.host.rcqNext)
        (after := fun t => t.updHost fun h =>
          { h with rcqNext := s.host.rcqNext + 1, rcqHeld := h.rcqHeld ++ [s.host.rcqNext] })
        fun u => ⟨_, rfl, rfl, rfl, rfl, rfl⟩
      refine ⟨_, (hx true).trans ((if_pos hs).trans (congrArg _ h1)), h2, rfl, ?_, h3⟩
      simp [h4]
    · obtain ⟨p, q', h, r, c, hh⟩ := ringFault_host 9 s
      refine ⟨_, (hx false).trans ((if_pos hs).trans (congrArg _ (tryEntry_lost hw hr _ _ _))), ringFault_lost 9 (by decide) s, ?_, ?_⟩
      · rw [hh]
      · rw [hh]
  · have hx := exec_capqEntryWrite h
    constructor
    · obtain ⟨u, h1, h2, h3, o, p, q', d, h4⟩ := entryWritten (m := 10) (by decide) hw hr e.bytes (after := e.written rest)
        fun u => by
          obtain ⟨l, hl⟩ := e.written_eq rest u
          exact ⟨fun _ => (e.written rest u).host, by rw [hl]; rfl, by rw [hl], by rw [hl], by rw [hl], by rw [hl]⟩
      refine ⟨_, (hx true).trans (congrArg _ h1), h2, ?_, h3, fun hs => ?_, fun o n hs d hd hdone => ?_⟩
      · obtain ⟨l, hl⟩ := e.written_eq rest u
        rw [hl]
      · simp [CapEntry.written, hs, h4]
      · rw [CapEntry.written, hs]
        refine State.flight_finish ?_ hdone _ _ _
        exact (State.flight_congr (s := s) (by simp [h4]) o).trans hd
    · obtain ⟨p, q', h', r, c, hh⟩ := ringFault_host 10 s
      refine ⟨_, (hx false).trans (congrArg _ (tryEntry_lost hw hr _ _ _)), ringFault_lost 10 (by decide) s, ?_⟩
      rw [hh]

end Sys2Proof.Machine

/-! Descriptors fetched, finished, completed and reset by (R254, R255, R262, R265 to R268, R275, R276, R284, R440). -/

namespace Sys2Proof.Machine

theorem fieldOf_lt (w : Word) (hi lo : Nat) : fieldOf w hi lo < 2 ^ (hi + 1 - lo) := Nat.mod_lt _ (by positivity)

theorem sqCq_lt (s : State) (n : Nat) : sqCq s n < 11 := (fieldOf_lt _ 10 8).trans_le (by decide)

@[simp] theorem State.reg_updSq (s : State) (n : Nat) (f : SqRing → SqRing) (a : Nat) : (s.updSq n f).reg a = s.reg a := rfl

@[simp] theorem State.sqAt_setFlag (s : State) (a i n : Nat) : (s.setFlag a i).sqAt n = s.sqAt n := rfl
@[simp] theorem State.sqAt_setReg (s : State) (a : Nat) (v : Word) (n : Nat) : (s.setReg a v).sqAt n = s.sqAt n := rfl

theorem State.flight_ord {s : State} {ord : Nat} {d : Inflight} (h : s.flight ord = some d) : d.ord = ord := by
  have := List.find?_some h
  simpa using this

/-! Field checks and isolated islands. -/

theorem withDescriptor_static {op ord st det : Nat} {s : State} {d : Inflight} (hd : s.flight ord = some d) (hop : d.opcode = op)
    (hm : mayStart s d = true) (hf : staticFault s d = some (st, det)) (f : Inflight → State) :
    withDescriptor [op] ord s f = .next (s.finish ord st det (failResult s d st)) := by
  simp [withDescriptor, hd, hop, hm, hf, State.finishStatic, State.flight_ord hd]

theorem withDescriptor_isolated {op ord i : Nat} {s : State} {d : Inflight} (hd : s.flight ord = some d) (hop : d.opcode = op)
    (hm : mayStart s d = true) (hf : staticFault s d = none)
    (hi : ((Opc.needs d.opcode).find? fun i => s.island i == .isolated) = some i) (f : Inflight → State) :
    withDescriptor [op] ord s f = .next (s.finish ord 0x0B i []) := by
  subst hop
  simp [withDescriptor, hd, hm, hf, hi, State.finishFail]

/-- The rows of descriptors that move no buffer. -/
theorem exec_withDescriptor (ord : Nat) (s : State) : ∀ c ∈ [(Instr.nop ord, Opc.nop), (.sessionTariff ord, Opc.sessionTariff),
    (.sessionPause ord, Opc.sessionPause), (.sessionResume ord, Opc.sessionResume), (.sessionClose ord, Opc.sessionClose),
    (.sessionRelease ord, Opc.sessionRelease), (.timeSet ord, Opc.timeSet), (.timeRead ord, Opc.timeRead),
    (.captureStart ord, Opc.captureStart), (.captureStop ord, Opc.captureStop), (.displayWindow ord, Opc.displayWindow),
    (.imageActivate ord, Opc.imageActivate), (.fwActivateControl ord, Opc.fwActivate), (.fwActivateMetrology ord, Opc.fwActivate),
    (.resetRequest ord, Opc.resetRequest)], ∃ f, exec c.1 s = withDescriptor [c.2] ord s f := by
  simp only [List.forall_mem_cons]
  refine ⟨⟨_, rfl⟩, ⟨_, rfl⟩, ⟨_, rfl⟩, ⟨_, rfl⟩, ⟨_, rfl⟩, ⟨_, rfl⟩, ⟨_, rfl⟩, ⟨_, rfl⟩, ⟨_, rfl⟩, ⟨_, rfl⟩, ⟨_, rfl⟩, ⟨_, rfl⟩,
    ⟨_, rfl⟩, ⟨_, rfl⟩, ⟨_, rfl⟩, by simp⟩

/-- The rows of descriptors that move a buffer. -/
theorem exec_withBuffer (ord : Nat) (ok : Bool) (buf : HostRead) (back : List Byte) (s : State) :
    ∀ c ∈ [(Instr.readPoint ord ok, Opc.readPoint), (.readTotals ord ok, Opc.readTotals),
      (.sessionOpen ord buf, Opc.sessionOpen), (.sessionRead ord ok, Opc.sessionRead), (.attest ord ok, Opc.attest),
      (.keyInfo ord ok, Opc.keyInfo), (.displayCompose ord buf, Opc.displayCompose), (.linkSend ord buf, Opc.linkSend),
      (.imageStage ord, Opc.imageStage), (.fwStage ord buf back, Opc.fwStage)], ∃ f, exec c.1 s = withBuffer [c.2] ord s f := by
  simp only [List.forall_mem_cons]
  refine ⟨⟨_, rfl⟩, ⟨_, rfl⟩, ⟨_, rfl⟩, ⟨_, rfl⟩, ⟨_, rfl⟩, ⟨_, rfl⟩, ⟨_, rfl⟩, ⟨_, rfl⟩, ⟨_, rfl⟩, ⟨_, rfl⟩, by simp⟩

theorem withBuffer_of_dma {s : State} (h : canDma s = true) (ops : List Nat) (ord : Nat) (f : Inflight → State) :
    withBuffer ops ord s f = withDescriptor ops ord s f := if_pos h

/-- LINK_POLLSET, where none before it is unfinished. -/
theorem exec_linkPollset_first {ord : Nat} {s : State} (buf : HostRead)
    (h : ∀ e ∈ s.host.inflight, e.ord < ord → e.opcode = Opc.linkPollset → e.phase.isDone = true) :
    ∃ f, exec (.linkPollset ord buf) s = withBuffer [Opc.linkPollset] ord s f := by
  refine ⟨_, if_neg ?_⟩
  simp only [List.any_eq_true, Bool.and_eq_true, decide_eq_true_eq, beq_iff_eq, Bool.not_eq_true', not_exists, not_and]
  rintro e he ⟨h1, h2⟩
  simp [h e he h1 h2]

/-- A failed buffer transfer. -/
theorem bufferError_flight {s : State} {ord : Nat} {d : Inflight} (hd : s.flight ord = some d) (ho : d.phase.isDone = false)
    (detail : Nat) : (bufferError ord detail s).flight ord =
      some { d with phase := .done { status := 0x0A, detail := detail, result := zeros 24 } } := by
  unfold bufferError State.finishFail
  exact State.flight_finish ((State.flight_congr (transferError_inflight ..) ord).trans hd) ho _ _ _

/-- Settles O24. -/
theorem finishedDescriptors : Obligations.FinishedDescriptors := by
  unfold Obligations.FinishedDescriptors
  refine ⟨fun s ord st det r => ⟨fun d hd ho => State.flight_finish hd ho st det r, fun d hd ho => State.flight_finish_done hd ho st det r,
    fun o ho => State.flight_finish_other s ho st det r, rfl⟩, ?_, ?_⟩
  · rintro s ord detail d t hd ho rfl
    refine ⟨bufferError_flight hd ho detail, transferError_flag _ _ _ (by decide), transferError_failures _ _ _,
      transferError_dma _ _ _, ?_⟩
    simp [bufferError, State.finishFail, State.finish, State.setPhase]
  · intro ord ok buf back s d c hd hm hop hc
    obtain ⟨f, hf⟩ : ∃ f, exec c.1 s = withDescriptor [c.2] ord s f := by
      rcases hc with hc | ⟨hdma, hc⟩ | ⟨hdma, rfl, hfirst⟩
      · exact exec_withDescriptor ord s c hc
      · obtain ⟨f, hf⟩ := exec_withBuffer ord ok buf back s c hc
        exact ⟨f, hf.trans (withBuffer_of_dma hdma _ _ _)⟩
      · obtain ⟨f, hf⟩ := exec_linkPollset_first buf hfirst
        exact ⟨f, hf.trans (withBuffer_of_dma hdma _ _ _)⟩
    rw [hf]
    exact ⟨fun st det hs => withDescriptor_static hd hop hm hs f, fun i hs hi => withDescriptor_isolated hd hop hm hs hi f⟩

/-! Fetching. -/

theorem fetchFault_spec {n : Nat} (hn : n < 8) (s : State) :
    (fetchFault n s).sqEnabled n = false ∧ ((fetchFault n s).sqAt n).vis = [] ∧
    bitOf ((fetchFault n s).reg (0x4114 + 0x20 * n)) 1 = true ∧ bitOf ((fetchFault n s).reg 0x4010) 2 = true ∧
    (fetchFault n s).host.failures = s.host.failures + 1 ∧ (fetchFault n s).host.inflight = s.host.inflight ∧
    (∀ k, k ≠ n → (fetchFault n s).sqAt k = s.sqAt k) ∧ (fetchFault n s).host.oq = s.host.oq := by
  unfold fetchFault
  dsimp only
  have h1 : sqCfg n ≠ 0x4010 := by unfold sqCfg; omega
  have h2 : (0x4114 + 0x20 * n : Nat) ≠ 0x4010 := by omega
  have h3 : (0x4114 + 0x20 * n : Nat) ≠ sqCfg n := by unfold sqCfg; omega
  refine ⟨?_, ?_, ?_, transferError_flag _ _ _ (by decide), transferError_failures _ _ _, transferError_inflight _ _ _, fun k hk => ?_,
    transferError_oq _ _ _⟩
  · rw [State.sqEnabled, transferError_reg_other _ _ _ h1, State.setFlag, State.reg_setBits, if_neg h3, State.reg_updSq, State.reg_setReg_same]
    exact bitOf_and_not_putAt _ _
  · rw [State.sqAt_congr (transferError_sq ..), State.sqAt_setFlag, State.sqAt_updSq_same _ hn]
  · rw [transferError_reg_other _ _ _ h2, State.setFlag, State.reg_setBits, if_pos rfl]
    exact bitOf_or_putAt_one _ (by decide)
  · rw [State.sqAt_congr (transferError_sq ..), State.sqAt_setFlag, State.sqAt_updSq_other _ hk, State.sqAt_setReg]

/-- Judging a descriptor that has just been fetched. -/
theorem judgeFetched_eq {s : State} {ord : Nat} {d : Inflight} (hd : s.flight ord = some d) : judgeFetched ord s =
    match staticFault s d with
    | some x => if Opc.all.contains d.opcode = false ∨ mayStart s d = true then s.finishStatic d x else s
    | none => s := by
  unfold judgeFetched
  rw [hd]
  dsimp only
  cases hf : staticFault s d with
  | none => rfl
  | some x => cases Opc.all.contains d.opcode <;> cases mayStart s d <;> rfl

/-- Settles O17. -/
theorem descriptorFetch : Obligations.DescriptorFetch := by
  unfold Obligations.DescriptorFetch
  intro s n ord rest hs hn hv hlt
  have hx : ∀ buf, exec (.descriptorFetch buf) s = execDescriptorFetch buf s := fun _ => rfl
  constructor
  · intro bs d u hfl hd hu
    have hfetch : exec (.descriptorFetch (some bs)) s = .next (judgeFetched ord u) := by
      have hv' : ((s.updHost fun h => { h with lastSq := n }).sqAt n).vis = ord :: rest := hv
      rw [hx]
      unfold execDescriptorFetch
      simp only [hs, hn, hv', Bool.not_true, Bool.false_eq_true, if_false, hu, hd]
      rfl
    have hfu : u.flight ord = some d := by
      have hf : s.host.inflight.find? (fun e => e.ord == ord) = none := hfl
      rw [hu]
      simp [State.flight, List.find?_append, hf, hd]
    have hsf : staticFault u d = staticFault s d := by rw [hu]; rfl
    rw [hfetch, judgeFetched_eq hfu, hsf]
    refine ⟨fun h => by rw [h], fun st det h => ⟨fun hc => ?_, fun h1 h2 => ?_⟩⟩
    · rw [h]
      dsimp only
      rw [if_pos hc, State.finishStatic, State.flight_ord hfu]
    · rw [h]
      dsimp only
      rw [if_neg (by rw [h1, h2]; decide)]
  · obtain ⟨h1, h2, h3, h4, h5, h6, h7, h8⟩ := fetchFault_spec hlt (s.updHost fun h => { h with lastSq := n })
    refine ⟨_, ?_, h1, h2, h3, h4, h5, h6, h7, h8⟩
    rw [hx]
    unfold execDescriptorFetch
    simp only [hs, hn, Bool.not_true, Bool.false_eq_true, if_false]

end Sys2Proof.Machine

/-! Completions (R254, R255, R262, R266, R268), and the reset of a RESET_REQUEST (R276, R298). -/

namespace Sys2Proof.Machine

/-! A reset leaves what the device has written to host memory. -/

@[simp] theorem clearIsland_dma (i : Nat) (s : State) : (clearIsland i s).host.dma = s.host.dma := by
  unfold clearIsland
  split <;> rfl
@[simp] theorem enterReset_dma (i : Nat) (s : State) : (enterReset i s).host.dma = s.host.dma := clearIsland_dma i s
theorem foldl_enterReset_dma (l : List Nat) (s : State) : (l.foldl (fun s i => enterReset i s) s).host.dma = s.host.dma :=
  State.foldl_part (fun s => s.host.dma) (fun s i => enterReset_dma i s) l s
@[simp] theorem endTransfer_host (s : State) : (endTransfer s).host = s.host := by
  unfold endTransfer
  split <;> rfl
@[simp] theorem dropLoading_host (s : State) : (dropLoading s).host = s.host := by
  unfold dropLoading
  split <;> rfl
@[simp] theorem enterControlReset_dma (s : State) : (enterControlReset s).host.dma = s.host.dma := by
  unfold enterControlReset
  simp [foldl_enterReset_dma, abortPanels]
@[simp] theorem clearPower_host (s : State) : (clearPower s).host = s.host := by
  unfold clearPower
  split <;> rfl
@[simp] theorem enterMetrologyReset_dma (keep : Bool) (s : State) : (enterMetrologyReset keep s).host.dma = s.host.dma := by
  unfold enterMetrologyReset
  refine (congrArg HostIf.dma (clearPower_host _)).trans ?_
  refine (State.foldl_part (fun s => s.host.dma) (f := fun s (c : Nat × Word) => s.setReg c.1 c.2) (fun _ _ => rfl) _ _).trans ?_
  exact (enterReset_dma 1 _).trans (foldl_enterReset_dma _ s)
@[simp] theorem triggerBank_host (c d : Nat) (s : State) : (triggerBank c d s).host = s.host := by
  unfold triggerBank
  split <;> rfl
@[simp] theorem awaitBank_dma (c : Nat) (s : State) : (awaitBank c s).host.dma = s.host.dma := by
  unfold awaitBank
  split
  · dsimp only
    split
    · simp
    · simp
  · simp

/-- An assertion of source 11 outside an episode: the device resets at the level asserted, but writes stay written. -/
theorem assertAt_dma {l : Level} {s : State} (he : s.rst.episode = none) : (assertAt 11 l 0 s).host.dma = s.host.dma := by
  unfold assertAt
  rw [he]
  unfold enterLevel
  dsimp only
  rw [if_neg (by decide), if_neg (by simp)]
  split
  · simp
  · simp

/-! Completions. -/

theorem writeCompletion_waits {ord : Nat} {s : State} {d : Inflight} {c : Completion} (hd : s.flight ord = some d)
    (hc : d.phase = .done c) (hf : sqFirst s d.sq ≠ some ord) (ok : Bool) : writeCompletion ord ok s = s := by
  simp [writeCompletion, hd, hc, hf]

theorem writeCompletion_first {ord : Nat} {s : State} {d : Inflight} {c : Completion} (hd : s.flight ord = some d)
    (hc : d.phase = .done c) (hf : sqFirst s d.sq = some ord) (ok : Bool) : writeCompletion ord ok s =
      tryEntry (sqCq s d.sq) ok (!(d.flagBits.testBit 2)) (completionBytes s d c)
        (fun s => afterCompletion d c (s.updHost fun h => { h with inflight := h.inflight.filter fun e => e.ord != ord })) s := by
  simp [writeCompletion, hd, hc, hf]

/-- The descriptors that a failed completion leaves in flight (R268). -/
def cancelled (d : Inflight) (c : Completion) (l : List Inflight) : List Inflight :=
  l.map fun e => if c.status ≠ 0 ∧ c.status ≠ 7 ∧ d.namesSession = true ∧ e.sessionNo = d.sessionNo ∧ e.phase = .waiting ∧
      e.flagBits.testBit 0 = false then
    { e with phase := .done { status := 7, detail := d.tag, result := zeros 24 } }
  else e

theorem cancelPrior_eq (d : Inflight) (c : Completion) (s : State) :
    cancelPrior d c s = { s with host := { s.host with inflight := cancelled d c s.host.inflight } } := by
  unfold cancelPrior cancelled
  split
  next h =>
    have hid : ∀ e : Inflight, (if c.status ≠ 0 ∧ c.status ≠ 7 ∧ d.namesSession = true ∧ e.sessionNo = d.sessionNo ∧ e.phase = .waiting ∧
        e.flagBits.testBit 0 = false then
        { e with phase := .done { status := 7, detail := d.tag, result := zeros 24 } } else e) = e := fun e => by
      rw [if_neg]
      rintro ⟨h1, h2, h3, -⟩
      rcases h with h | h | h
      · exact h1 h
      · exact h2 h
      · rw [h3] at h; cases h
    simp only [hid, List.map_id']
  next h =>
    rw [not_or, not_or, Bool.not_eq_false] at h
    obtain ⟨h1, h2, h3⟩ := h
    have hcond : ∀ e : Inflight, ((e.namesSession && e.sessionNo == d.sessionNo && e.phase == .waiting && !(e.flagBits.testBit 0)) = true) =
        (c.status ≠ 0 ∧ c.status ≠ 7 ∧ d.namesSession = true ∧ e.sessionNo = d.sessionNo ∧ e.phase = .waiting ∧
          e.flagBits.testBit 0 = false) := fun e => by
      have hs : e.sessionNo = d.sessionNo → e.namesSession = true := fun he => by
        rw [Inflight.namesSession, he]; exact h3
      simp only [Bool.and_eq_true, beq_iff_eq, Bool.not_eq_true', eq_iff_iff]
      tauto
    simp only [hcond]
    rfl

/-- The state once a completion is written: the cancellation it starts, and `st` for the staging at work. -/
def State.completed (s : State) (d : Inflight) (c : Completion) (st : Option Nat) : State :=
  { s with host := { s.host with inflight := cancelled d c s.host.inflight }, fw := { s.fw with staging := st } }

/-- What follows a completion while no control firmware activation runs: the cancellation, and the reset of a RESET_REQUEST. -/
theorem afterCompletion_eq {d : Inflight} {c : Completion} {s : State} (hc : s.fw.ctlAct = none) :
    ∃ st, (s.fw.staging ≠ some d.ord → st = s.fw.staging) ∧ afterCompletion d c s =
      if d.opcode = Opc.resetRequest ∧ c.status = 0 then
        assertAt 11 ((if d.op 24 1 = 1 then Level.l1 else Level.l2).deeper (sourceLevel s 11)) 0 (s.completed d c st)
      else s.completed d c st := by
  have hctl : (cancelPrior d c s).fw.ctlAct ≠ some d.ord := by rw [cancelPrior_eq, hc]; simp
  have hpause : ∀ t : State, t.fw.ctlAct = none → ctlPause t = t := fun t ht => by simp [ctlPause, ht]
  have hst : (cancelPrior d c s).fw.staging = s.fw.staging := by rw [cancelPrior_eq]
  have hcomp : ∃ st, (s.fw.staging ≠ some d.ord → st = s.fw.staging) ∧
      (if (cancelPrior d c s).fw.staging = some d.ord then
        { cancelPrior d c s with fw := { (cancelPrior d c s).fw with staging := none } } else cancelPrior d c s) = s.completed d c st := by
    rw [hst, cancelPrior_eq]
    by_cases hs : s.fw.staging = some d.ord
    · exact ⟨none, fun h => absurd hs h, if_pos hs⟩
    · exact ⟨s.fw.staging, fun _ => rfl, if_neg hs⟩
  obtain ⟨st, h1, h2⟩ := hcomp
  refine ⟨st, h1, ?_⟩
  unfold afterCompletion
  simp only [hctl, if_false, h2, hpause (s.completed d c st) hc]
  rfl

theorem exec_completionWrite (ord : Nat) (ok : Bool) (s : State) :
    exec (.completionWrite ord ok) s = .next (writeCompletion ord ok s) := rfl

/-- Settles O18. -/
theorem completionWritten : Obligations.CompletionWritten := by
  unfold Obligations.CompletionWritten
  intro ord s d c hd hc hlt
  refine ⟨fun hf ok => by rw [exec_completionWrite, writeCompletion_waits hd hc hf], fun hf hw hr => ⟨?_, fun hctl hst hop => ?_⟩⟩
  · refine ⟨_, ?_, ringFault_lost _ (sqCq_lt s d.sq) s⟩
    rw [exec_completionWrite, writeCompletion_first hd hc hf, tryEntry_lost hw hr]
  · obtain ⟨hp, o, p, q, dm, he⟩ := placeEntry_placed (sqCq_lt s d.sq) (!(d.flagBits.testBit 2))
      (completionBytes s d c (s.oqAt (sqCq s d.sq)).phase) s
    have hx := (writeCompletion_first hd hc hf true).trans (tryEntry_taken hw hr _ _ _)
    generalize placeEntry _ _ _ _ = u at hp he hx
    obtain ⟨st, hst', ha⟩ := afterCompletion_eq (d := d) (c := c)
      (s := u.updHost fun h => { h with inflight := h.inflight.filter fun e => e.ord != ord }) (by rw [he]; exact hctl)
    have hst'' : st = s.fw.staging := by
      rw [hst' (by rw [he, State.flight_ord hd]; exact hst), he]
      rfl
    rw [ha, if_neg (fun h => hop h.1), hst''] at hx
    refine ⟨_, congrArg Host.Outcome.next hx, hp.after rfl rfl rfl rfl, ?_, ?_, ?_⟩
    · rw [he]; rfl
    · rw [he]; rfl
    · rw [he]; rfl

/-- Settles O23: the completion is written as any other, and source 11 asserts outside an episode. -/
theorem resetRequest : Obligations.ResetRequest := by
  unfold Obligations.ResetRequest
  intro ord s d
  refine ⟨fun h => withDescriptor_starts h _, fun c hd hop hc => ⟨fun hf ok => by
    rw [exec_completionWrite, writeCompletion_waits hd hc hf], ?_⟩⟩
  intro hf hst hw hr hctl hep hrel
  obtain ⟨hp, o, p, q, dm, he⟩ := placeEntry_placed (sqCq_lt s d.sq) (!(d.flagBits.testBit 2))
    (completionBytes s d c (s.oqAt (sqCq s d.sq)).phase) s
  have hx := (writeCompletion_first hd hc hf true).trans (tryEntry_taken hw hr _ _ _)
  generalize placeEntry _ _ _ _ = u at hp he hx
  obtain ⟨st, -, ha⟩ := afterCompletion_eq (d := d) (c := c)
    (s := u.updHost fun h => { h with inflight := h.inflight.filter fun e => e.ord != ord }) (by rw [he]; exact hctl)
  have hl : sourceLevel (u.updHost fun h => { h with inflight := h.inflight.filter fun e => e.ord != ord }) 11 = sourceLevel s 11 := by
    rw [he]; rfl
  rw [ha, if_pos ⟨hop, hst⟩, hl] at hx
  have hx' : exec (.completionWrite ord true) s = _ := congrArg Host.Outcome.next hx
  refine ⟨?_, _, hx', ?_⟩
  · rw [hx']
    exact (assertAt_began 11 _ 0 _ (by rw [he]; exact hep) (by rw [he]; exact hrel)).begins
  · rw [assertAt_dma (by rw [he]; exact hep)]
    have hdma := hp.1
    have hes : entrySize (sqCq s d.sq) = 32 := by
      have := fieldOf_lt (s.reg (sqCfg d.sq)) 10 8
      unfold entrySize
      rw [if_neg, if_neg]
      all_goals (show ¬fieldOf (s.reg (sqCfg d.sq)) 10 8 = _; omega)
    rw [hes] at hdma
    show _ ∈ u.host.dma
    rw [hdma]
    exact List.mem_cons_self

end Sys2Proof.Machine

/-! Enabling and disabling of rings (R255, R270, R271, R278). -/

namespace Sys2Proof.Machine

/-! A write of a register. -/

/-- A write changes the register file, and during a halt the count that is written. -/
theorem writeReg_eq (a : Nat) (v : Word) (s : State) : ∃ m r, writeReg a v s = { s with regs := m, rtc := r } := by
  unfold writeReg
  split
  · exact ⟨_, _, rfl⟩
  · split
    · exact ⟨_, _, rfl⟩
    · dsimp only
      repeat' split
      all_goals exact ⟨_, _, rfl⟩

@[simp] theorem writeReg_host (a : Nat) (v : Word) (s : State) : (writeReg a v s).host = s.host := by
  obtain ⟨m, r, h⟩ := writeReg_eq a v s; rw [h]
@[simp] theorem writeReg_ember (a : Nat) (v : Word) (s : State) : (writeReg a v s).ember = s.ember := by
  obtain ⟨m, r, h⟩ := writeReg_eq a v s; rw [h]
@[simp] theorem writeReg_events (a : Nat) (v : Word) (s : State) : (writeReg a v s).events = s.events := by
  obtain ⟨m, r, h⟩ := writeReg_eq a v s; rw [h]

/-- ENABLE of a device-to-host ring is not written with the other fields of its CFG. -/
theorem writeReg_oqEnabled (m : Fin 11) (v : Word) {s : State} (hs : s.running Isl.host = true) :
    (writeReg (oqCfg m) v s).oqEnabled m = s.oqEnabled m := by
  have ha : oqCfg m ≠ 0x3008 ∧ oqCfg m ≠ 0x300C ∧ oqCfg m ≠ 0x3010 := by unfold oqCfg; omega
  have hmask : ∀ hi lo : Nat, hi < 31 → ∀ a b : Word, bitOf (mergeMask (maskOf hi lo) a b) 31 = bitOf a 31 := fun hi lo h a b => by
    have : (maskOf hi lo).getLsbD 31 = false := by rw [maskOf_getLsbD]; simp; omega
    rw [bitOf_eq_getLsbD, mergeMask_getLsbD, this, bitOf_eq_getLsbD]
    rfl
  rw [writeReg_of_find (RegMap.find_oqCfg m) (blockUp_of_running hs (by decide)) ha.1 ha.2.1 ha.2.2, State.oqEnabled]
  dsimp only
  rw [State.reg_setReg_same]
  cases blockRuns s (oqCfg m) <;>
    simp [RegSpec.write, FieldSpec.write, Fld.stop, Fld.live, Fld.own, hmask 3 0 (by decide), hmask 11 8 (by decide), State.oqEnabled]

/-! A rejected write of HOST. -/

theorem Regs.get_reject_host_flag {m : List (Nat × Word)} {a : Nat} (h1 : 0x4000 ≤ a) (h2 : a < 0x5000) :
    bitOf (Regs.get (Regs.reject m RegMap.host a) 0x4000) 5 = true := by
  have hc : a - (a - 0x4000) + 0 = 0x4000 := by omega
  cases h : bitOf (Regs.get m 0x4000) 5 with
  | true => rwa [Regs.reject_again (st := 0) (bit := 5) (addr := 0x18) rfl (BlockSpec.offset_host h1 h2) (by rwa [hc])]
  | false =>
    rw [Regs.reject_host h1 h2 h, Regs.get_set, if_neg (by decide), Regs.get_set, if_pos rfl]
    exact bitOf_or_putAt_one (i := 5) _ (by decide)

theorem Regs.get_reject_host_other {m : List (Nat × Word)} {a b : Nat} (h1 : 0x4000 ≤ a) (h2 : a < 0x5000) (hb : b ≠ 0x4000)
    (hb' : b ≠ 0x4018) : Regs.get (Regs.reject m RegMap.host a) b = Regs.get m b := by
  have hc : a - (a - 0x4000) + 0 = 0x4000 := by omega
  cases h : bitOf (Regs.get m 0x4000) 5 with
  | true => rw [Regs.reject_again (st := 0) (bit := 5) (addr := 0x18) rfl (BlockSpec.offset_host h1 h2) (by rwa [hc])]
  | false => rw [Regs.reject_host h1 h2 h, Regs.get_set, if_neg hb'.symm, Regs.get_set, if_neg hb.symm]

/-! The end of captures. -/

theorem State.endCapture_regs (n cause : Nat) (s : State) : (endCapture n cause s).regs = s.regs := by
  unfold endCapture
  split <;> rfl

/-- The END entry of a capture that ends with a cause. -/
def Capture.last (c : Capture) (n cause : Nat) : CapEntry :=
  { cap := n, isEnd := true, cause := cause, flags := c.flags, offset := c.spanOff, len := 4 * c.taken - c.spanOff, first := c.first,
    stop := c.stopOrd.map fun o => (o, c.taken) }

theorem endCapture_running {s : State} {n : Nat} {c : Capture} (h : s.captureAt n = some c) (cause : Nat) :
    endCapture n cause s = { s with host := { s.host with
      captures := Tab.upd s.host.captures n fun _ => none, capq := s.host.capq ++ [c.last n cause] } } := by
  have h' : Tab.at s.host.captures n none = some c := h
  simp [endCapture, h', Capture.last, State.updHost]
theorem endCapture_none {s : State} {n : Nat} (h : s.captureAt n = none) (cause : Nat) : endCapture n cause s = s := by
  have h' : Tab.at s.host.captures n none = none := h
  simp [endCapture, h']

theorem endCapture_captureAt (n cause k : Nat) (s : State) (hn : n < 4) :
    (endCapture n cause s).captureAt k = if k = n then none else s.captureAt k := by
  cases h : s.captureAt n with
  | none =>
    rw [endCapture_none h]
    split
    next hk => rw [hk, h]
    next => rfl
  | some c =>
    rw [endCapture_running h]
    split
    next hk => subst hk; exact Tab.at_upd_same hn
    next hk => exact Tab.at_upd_other hk

/-- All captures of the first `n` slots end. -/
theorem endCaptures_below (cause n : Nat) (hn : n ≤ 4) (s t : State) (ht : t = (List.range n).foldl (fun s k => endCapture k cause s) s) :
    t.regs = s.regs ∧ (∀ k, t.captureAt k = if k < n then none else s.captureAt k) ∧ (∀ e ∈ s.host.capq, e ∈ t.host.capq) ∧
    ∀ k c, k < n → s.captureAt k = some c → c.last k cause ∈ t.host.capq := by
  induction n generalizing t with
  | zero => subst ht; simp
  | succ n ih =>
    rw [List.range_succ, List.foldl_append, List.foldl_cons, List.foldl_nil] at ht
    obtain ⟨h1, h2, h3, h4⟩ := ih (by omega) _ rfl
    generalize (List.range n).foldl _ s = u at h1 h2 h3 h4 ht
    subst ht
    have hmono : ∀ e ∈ u.host.capq, e ∈ (endCapture n cause u).host.capq := fun e he => by
      cases hc : u.captureAt n with
      | none => rwa [endCapture_none hc]
      | some c => rw [endCapture_running hc]; exact List.mem_append_left _ he
    refine ⟨(State.endCapture_regs ..).trans h1, fun k => ?_, fun e he => hmono e (h3 e he), fun k c hk hc => ?_⟩
    · rw [endCapture_captureAt _ _ _ _ (by omega), h2]
      by_cases hkn : k = n
      · simp [hkn]
      · have : (k < n + 1) = (k < n) := by rw [eq_iff_iff]; omega
        simp [hkn, this]
    · rcases Nat.lt_succ_iff_lt_or_eq.mp hk with hk | rfl
      · exact hmono _ (h4 k c hk hc)
      · have hc' : u.captureAt k = some c := by rw [h2, if_neg (Nat.lt_irrefl _), hc]
        rw [endCapture_running hc']
        exact List.mem_append_right _ (List.mem_singleton_self _)

/-! The switches. -/

theorem State.sqEnabled_setFlag (s : State) (n : Nat) : (s.setFlag (sqCfg n) 31).sqEnabled n = true := by
  rw [State.sqEnabled, State.setFlag, State.reg_setBits, if_pos rfl]
  exact bitOf_or_putAt_one _ (by decide)
theorem State.oqEnabled_setFlag (s : State) (m : Nat) : (s.setFlag (oqCfg m) 31).oqEnabled m = true := by
  rw [State.oqEnabled, State.setFlag, State.reg_setBits, if_pos rfl]
  exact bitOf_or_putAt_one _ (by decide)

/-- A state whose bit 31 of a register is cleared. -/
def State.disabled (s : State) (a : Nat) : State := s.setReg a (s.reg a &&& ~~~(putAt 1 31))
theorem State.sqEnabled_disabled (s : State) (n : Nat) : (s.disabled (sqCfg n)).sqEnabled n = false := by
  rw [State.sqEnabled, State.disabled, State.reg_setReg_same]; exact bitOf_and_not_putAt _ _
theorem State.oqEnabled_disabled (s : State) (m : Nat) : (s.disabled (oqCfg m)).oqEnabled m = false := by
  rw [State.oqEnabled, State.disabled, State.reg_setReg_same]; exact bitOf_and_not_putAt _ _

theorem exec_ringEnable_sq {s : State} {v : Word} {n : Fin 11} (hs : s.running Isl.host = true) (hv : bitOf v 31 = true)
    (hn : n.val < 8) (h : s.sqEnabled n = false) :
    exec (.ringEnable true n v) s = .next (((writeReg (sqCfg n) v s).setFlag (sqCfg n) 31).updSq n fun _ => SqRing.init) := by
  have h' : bitOf (s.reg (sqCfg n)) 31 = false := h
  show execRingEnable true n v s = _
  simp [execRingEnable, hs, hv, h', Nat.not_le.mpr hn]

/-- A device-to-host ring as RING_ENABLE leaves it. -/
def State.oqRenewed (s : State) (m : Nat) (v : Word) : State :=
  ((writeReg (oqCfg m) v s).setFlag (oqCfg m) 31).updOq m fun _ => OqRing.init

theorem exec_ringEnable_oq {s : State} {v : Word} {m : Fin 11} (hs : s.running Isl.host = true) (hv : bitOf v 31 = true)
    (h : s.oqEnabled m = false) : exec (.ringEnable false m v) s = .next (
      if m.val = 9 then (s.oqRenewed m v).updHost fun h => { h with rcqNext := (s.oqRenewed m v).ember.ackSeq + 1, rcqHeld := [] }
      else if m.val = 8 then (s.oqRenewed m v).updHost fun h => { h with evqHeld := [], evqLast := none } else s.oqRenewed m v) := by
  have h' : bitOf (s.reg (oqCfg m)) 31 = false := h
  show execRingEnable false m v s = _
  simp [execRingEnable, hs, hv, h', State.oqRenewed]

theorem State.oqRenewed_spec (s : State) (m : Fin 11) (v : Word) : (s.oqRenewed m v).oqEnabled m = true ∧
    (s.oqRenewed m v).oqAt m = OqRing.init ∧ (∀ k : Fin 11, k ≠ m → (s.oqRenewed m v).oqAt k = s.oqAt k) ∧
    (s.oqRenewed m v).ember = s.ember ∧ (s.oqRenewed m v).events = s.events ∧
    (s.oqRenewed m v).host = { s.host with oq := Tab.upd s.host.oq m fun _ => OqRing.init } := by
  have hh : ((writeReg (oqCfg m) v s).setFlag (oqCfg m) 31).host = s.host := writeReg_host ..
  refine ⟨State.oqEnabled_setFlag _ m, State.oqAt_updOq_same _ m.isLt _, fun k hk => ?_, writeReg_ember .., writeReg_events .., ?_⟩
  · rw [State.oqRenewed, State.oqAt_updOq_other _ (Fin.val_ne_of_ne hk)]
    exact State.oqAt_congr (congrArg _ hh) k
  · rw [State.oqRenewed, State.updOq, State.updHost, hh]

theorem exec_sqDisable {s : State} {v : Word} (n : Fin 8) (hs : s.running Isl.host = true) (hv : bitOf v 31 = false) :
    exec (.sqDisable n v) s = .next (((writeReg (sqCfg n) v s).disabled (sqCfg n)).updSq n fun q => { q with vis := [] }) := by
  show execSqDisable n v s = _
  simp [execSqDisable, hs, hv, State.disabled]

theorem exec_oqDisable {s : State} {v : Word} (m : Fin 11) (hs : s.running Isl.host = true) (hv : bitOf v 31 = false)
    (h : s.oqEnabled m = true) : exec (.oqDisable m v) s = .next (
      if m.val < 8 ∧ cqInUse (writeReg (oqCfg m) v s) m = true then
        { writeReg (oqCfg m) v s with regs := Regs.reject (writeReg (oqCfg m) v s).regs RegMap.host (oqCfg m) }
      else if m.val = 10 then endCaptures 1 ((writeReg (oqCfg m) v s).disabled (oqCfg m))
      else (writeReg (oqCfg m) v s).disabled (oqCfg m)) := by
  have h' : bitOf (s.reg (oqCfg m)) 31 = true := h
  show execOqDisable m v s = _
  unfold execOqDisable
  simp only [hs, hv, h', State.disabled, Bool.not_true, Bool.or_self, Bool.false_eq_true, if_false]
  split <;> rfl

/-- Settles O21: each switch goes through its equation; a write leaves the rings and ENABLE alone. -/
theorem ringSwitches : Obligations.RingSwitches := by
  unfold Obligations.RingSwitches
  refine fun v s hs => ⟨fun hv => ⟨fun n hn h => ?_, fun m h => ?_⟩,
    fun hv => ⟨fun n => ?_, fun m h hm hne => ?_, fun m h hm huse => ?_, fun h => ?_⟩⟩
  · refine ⟨_, exec_ringEnable_sq hs hv hn h, State.sqEnabled_setFlag _ n, ?_⟩
    have hh : ((writeReg (sqCfg n) v s).setFlag (sqCfg n) 31).host = s.host := writeReg_host ..
    rw [State.updSq, State.updHost, hh]
    rfl
  · obtain ⟨h1, h2, h3, h4, h5, h6⟩ := s.oqRenewed_spec m v
    refine ⟨_, exec_ringEnable_oq hs hv h, ?_⟩
    generalize s.oqRenewed m v = u at h1 h2 h3 h4 h5 h6
    have hev : evqLeft u = evqLeft s := by unfold evqLeft qBehind; rw [h6, h5]
    have hheld : ∀ f : HostIf → HostIf, (f u.host).oq = u.host.oq → ∀ k, (u.updHost f).oqAt k = u.oqAt k := fun f hf k =>
      State.oqAt_congr hf k
    have hsame : ∀ w : State, w.regs = u.regs → w.host.oq = u.host.oq → w.oqEnabled m = true ∧ (w.oqAt m).head = 0 ∧
        (w.oqAt m).tail = 0 ∧ (w.oqAt m).phase = true ∧ ∀ k : Fin 11, k ≠ m → w.oqAt k = s.oqAt k := fun w hr ho => by
      refine ⟨(State.oqEnabled_congr hr m).trans h1, ?_, ?_, ?_, fun k hk => (State.oqAt_congr ho k).trans (h3 k hk)⟩ <;>
        rw [State.oqAt_congr ho, h2] <;> rfl
    have hm : (m.val = 9 ∧ m.val ≠ 8) ∨ (m.val = 8 ∧ m.val ≠ 9) ∨ (m.val ≠ 9 ∧ m.val ≠ 8) := by omega
    rcases hm with ⟨hm, hm'⟩ | ⟨hm, hm'⟩ | ⟨hm, hm'⟩
    · obtain ⟨e, a, b, c, k⟩ := hsame (u.updHost fun h => { h with rcqNext := u.ember.ackSeq + 1, rcqHeld := [] }) rfl rfl
      rw [if_pos hm, if_pos hm, if_neg hm']
      exact ⟨e, a, b, c, by rw [State.updHost, h6], k, by rw [State.updHost, h6], by rw [State.updHost, h4], hev⟩
    · obtain ⟨e, a, b, c, k⟩ := hsame (u.updHost fun h => { h with evqHeld := [], evqLast := none }) rfl rfl
      rw [if_neg hm', if_pos hm, if_neg hm', if_pos hm]
      refine ⟨e, a, b, c, by rw [State.updHost, h6], k, by rw [State.updHost, h6], by rw [State.updHost, h6], ?_⟩
      rw [← h5]; rfl
    · obtain ⟨e, a, b, c, k⟩ := hsame u rfl rfl
      rw [if_neg hm, if_neg hm', if_neg hm, if_neg hm']
      exact ⟨e, a, b, c, by rw [h6], k, by rw [h6], by rw [h6], hev⟩
  · refine ⟨_, exec_sqDisable n hs hv, State.sqEnabled_disabled _ n, ?_⟩
    have hh : ((writeReg (sqCfg n) v s).disabled (sqCfg n)).host = s.host := writeReg_host ..
    rw [State.updSq, State.updHost, hh]
  · have hno : ¬(m.val < 8 ∧ cqInUse (writeReg (oqCfg m) v s) m = true) := by
      rintro ⟨h8, hu⟩
      rcases hm with hm | hm
      · omega
      · rw [hm] at hu; exact Bool.noConfusion hu
    refine ⟨_, exec_oqDisable m hs hv h, ?_⟩
    rw [if_neg hno, if_neg hne]
    exact ⟨State.oqEnabled_disabled _ m, writeReg_host ..⟩
  · refine ⟨_, exec_oqDisable m hs hv h, ?_⟩
    rw [if_pos ⟨hm, huse⟩]
    have ha : 0x4000 ≤ oqCfg m ∧ oqCfg m < 0x5000 ∧ oqCfg m ≠ 0x4000 ∧ oqCfg m ≠ 0x4018 := by unfold oqCfg; omega
    obtain ⟨hlo, hhi, hst, haddr⟩ := ha
    refine ⟨?_, Regs.get_reject_host_flag hlo hhi, writeReg_host ..⟩
    have hkept := writeReg_oqEnabled m v hs
    rw [h] at hkept
    rw [State.oqEnabled, State.reg, Regs.get_reject_host_other hlo hhi hst haddr]
    exact hkept
  · have hno : ¬((10 : Fin 11).val < 8 ∧ cqInUse (writeReg (oqCfg (10 : Fin 11).val) v s) (10 : Fin 11).val = true) := by
      rintro ⟨h8, -⟩; exact absurd h8 (by decide)
    refine ⟨_, exec_oqDisable 10 hs hv h, ?_⟩
    rw [if_neg hno, if_pos (by decide)]
    have hh : ((writeReg (oqCfg (10 : Fin 11).val) v s).disabled (oqCfg (10 : Fin 11).val)).host = s.host := writeReg_host ..
    have hd := State.oqEnabled_disabled (writeReg (oqCfg (10 : Fin 11).val) v s) 10
    obtain ⟨h1, h2, -, h4⟩ := endCaptures_below 1 4 (Nat.le_refl 4) _ _ rfl
    refine ⟨(State.oqEnabled_congr h1 10).trans hd, fun k hk => (h2 k).trans (if_pos hk), fun k c hk hc => ?_⟩
    have hc' : State.captureAt ((writeReg (oqCfg (10 : Fin 11).val) v s).disabled (oqCfg (10 : Fin 11).val)) k = some c := by
      rw [State.captureAt, hh]; exact hc
    exact ⟨_, h4 k c hk hc', rfl, rfl, rfl⟩

end Sys2Proof.Machine

/-! The sets of the clock, its prescaler and its halt (R327, R329, R330, R335). -/

namespace Sys2Proof.Machine

/-! Two writes of one address: the last one counts. -/

section
variable {β : Type}

theorem Sparse.drop_insert (m : List (Nat × β)) (a : Nat) (v : β) : Sparse.drop (Sparse.insert m a v) a = Sparse.drop m a := by
  induction m with
  | nil => simp [Sparse.insert, Sparse.drop]
  | cons c m ih =>
    obtain ⟨k, x⟩ := c
    unfold Sparse.drop at ih ⊢
    unfold Sparse.insert
    split
    · rw [List.filter_cons_of_neg (by simp)]
    · rw [List.filter_cons, List.filter_cons, ih]

theorem Sparse.drop_drop (m : List (Nat × β)) (a : Nat) : Sparse.drop (Sparse.drop m a) a = Sparse.drop m a := by
  simp [Sparse.drop, List.filter_filter]

theorem Sparse.drop_set [DecidableEq β] {dflt : Nat → β} (m : List (Nat × β)) (a : Nat) (v : β) :
    Sparse.drop (Sparse.set dflt m a v) a = Sparse.drop m a := by
  unfold Sparse.set
  split
  · exact Sparse.drop_drop m a
  · rw [Sparse.drop_insert, Sparse.drop_drop]

theorem Sparse.set_set [DecidableEq β] {dflt : Nat → β} (m : List (Nat × β)) (a : Nat) (v w : β) :
    Sparse.set dflt (Sparse.set dflt m a v) a w = Sparse.set dflt m a w := by
  rw [Sparse.set, Sparse.drop_set, Sparse.set]

end

theorem State.setReg_setReg (s : State) (a : Nat) (v w : Word) : (s.setReg a v).setReg a w = s.setReg a w := by
  have h : Regs.set (Regs.set s.regs a v) a w = Regs.set s.regs a w := Sparse.set_set s.regs a v w
  rw [State.setReg, State.setReg_regs, h]
  rfl

/-! Requests that are taken and requests that are refused. -/

/-- A state with a refused set: RTC_STATUS.REFUSED and the cause. -/
def State.setRefused (s : State) (c : Nat) : State :=
  { s.setReg 0x3004 (s.reg 0x3004 ||| 8) with rtc := { s.rtc with refuseCause := c } }
theorem refuseSet_eq (c : Nat) (s : State) : refuseSet c s = s.setRefused c := rfl

section
variable {s : State} (hd : s.damperRunning = true) (hg : s.ember.gated = false) (hu : s.rtc.unit = none) (hn : s.rtc.notice = none)
  (hh : s.rtc.halted = false)
include hd hg hu hn hh

theorem setRefusal_free : setRefusal s none = none := by simp [setRefusal, setPending, hd, hg, hu, hn, hh]
theorem setRefusal_within {v : Nat} (hv : v ≤ 252455615999) : setRefusal s (some v) = none := by
  simp [setRefusal, setPending, hd, hg, hu, hn, hh, rtcMaxSeconds, Nat.not_lt.mpr hv]
theorem setRefusal_beyond {v : Nat} (hv : 252455615999 < v) : setRefusal s (some v) = some 5 := by
  simp [setRefusal, setPending, hd, hg, hu, hn, hh, rtcMaxSeconds, hv]

end

/-- The causes of R329 that do not depend on the count. -/
def SetBarred (s : State) (c : Nat) : Prop :=
  s.damperRunning = false ∧ c = 1 ∨ s.damperRunning = true ∧ s.ember.gated = true ∧ c = 2 ∨
    s.damperRunning = true ∧ s.ember.gated = false ∧
      (s.rtc.unit.isSome = true ∨ s.rtc.notice.isSome = true ∨ s.rtc.halted = true) ∧ c = 3

theorem setRefusal_barred {s : State} {c : Nat} (h : SetBarred s c) (o : Option Nat) : setRefusal s o = some c := by
  rcases h with ⟨h, rfl⟩ | ⟨h, hg, rfl⟩ | ⟨h, hg, hp, rfl⟩
  · simp [setRefusal, h]
  · simp [setRefusal, h, hg]
  · have : setPending s = true ∨ s.rtc.halted = true := by simpa [setPending, or_assoc] using hp
    simp [setRefusal, h, hg, this]

/-! TIME_SET, HALT and CAL_APPLY. -/

theorem exec_timeSet_refused {s : State} {ord c : Nat} {d : Inflight} (h : Starts s ord Opc.timeSet d)
    (hr : setRefusal s (some (d.op 20 5)) = some c) : exec (.timeSet ord) s = .next ((s.setRefused c).finishFail ord 0x0C 0) := by
  show execTimeSet ord s = _
  rw [execTimeSet, withDescriptor_starts h, hr]
  rfl

theorem exec_timeSet_taken {s : State} {ord : Nat} {d : Inflight} (h : Starts s ord Opc.timeSet d)
    (hr : setRefusal s (some (d.op 20 5)) = none) : exec (.timeSet ord) s = .next ((s.updRtc fun r => { r with
      unit := some { new := d.op 20 5 * 32768 + d.op 25 2, path := 1, ord := some ord } }).setPhase ord .working) := by
  show execTimeSet ord s = _
  rw [execTimeSet, withDescriptor_starts h, hr]

theorem exec_halt_refused {s : State} {c : Nat} (hh : s.rtc.halted = false) (hr : setRefusal s none = some c) :
    exec .halt s = .next (s.setRefused c) := by
  show execHalt s = _
  rw [execHalt, hh, hr]
  rfl

theorem exec_halt_taken {s : State} (hh : s.rtc.halted = false) (hr : setRefusal s none = none) :
    exec .halt s = .next (s.updRtc fun r => { r with halted := true, written := r.count, elapsed := 0 }) := by
  show execHalt s = _
  rw [execHalt, hh, hr]
  rfl

theorem exec_halt_again {s : State} (hh : s.rtc.halted = true) : exec .halt s = .next s := by
  show execHalt s = _
  rw [execHalt, if_pos hh]

/-- CAL_ERR is W1C. -/
def State.calCleared (s : State) (v : Word) : State := s.setReg 0x3028 (s.reg 0x3028 &&& ~~~(v &&& 2))

theorem maskOf_calErr : maskOf 1 1 = 2 := by decide

theorem exec_calApply_clear {s : State} {v : Word} (hv : bitOf v 0 = false) : exec (.calApply v) s = .next (s.calCleared v) := by
  show execCalApply v s = _
  simp [execCalApply, hv, maskOf_calErr, State.calCleared]

/-- The outcome of CAL_APPLY by the first failing field, and then by the cause of a refusal. -/
theorem exec_calApply {s : State} {v : Word} (hv : bitOf v 0 = true) {y mo d h mi sec : Nat} (hy : y = s.fld 0x3020 13 0)
    (hmo : mo = s.fld 0x3020 19 16) (hd : d = s.fld 0x3020 28 24) (hh : h = s.fld 0x3024 4 0) (hmi : mi = s.fld 0x3024 13 8)
    (hsec : sec = s.fld 0x3024 21 16) : exec (.calApply v) s = match calendarFault y mo d h mi sec with
      | 0 => match setRefusal s (some (daysOf y mo d * 86400 + h * 3600 + mi * 60 + sec)) with
        | some c => .next ((s.calCleared v).setRefused c)
        | none => .next ((s.calCleared v).updRtc fun r => { r with
            unit := some { new := (daysOf y mo d * 86400 + h * 3600 + mi * 60 + sec) * 32768, path := 2, ord := none } })
      | e => .next (((s.calCleared v).setFlag 0x3028 1).updRtc fun r => { r with errField := e }) := by
  subst hy hmo hd hh hmi hsec
  have hdate : (s.calCleared v).reg 0x3020 = s.reg 0x3020 := State.reg_setReg_other _ _ (by decide)
  have htime : (s.calCleared v).reg 0x3024 = s.reg 0x3024 := State.reg_setReg_other _ _ (by decide)
  have href : ∀ o, setRefusal (s.calCleared v) o = setRefusal s o := fun _ => rfl
  show execCalApply v s = _
  unfold execCalApply
  rw [maskOf_calErr, ← State.calCleared, hv]
  simp only [hdate, htime, href, Bool.not_true, Bool.false_eq_true, if_false, State.fld, refuseSet_eq] <;> rfl

theorem calendarFault_eq_zero {y mo d h mi sec : Nat} : calendarFault y mo d h mi sec = 0 ↔
    2000 ≤ y ∧ y ≤ 9999 ∧ 1 ≤ mo ∧ mo ≤ 12 ∧ 1 ≤ d ∧ d ≤ monthDays y mo ∧ h ≤ 23 ∧ mi ≤ 59 ∧ sec ≤ 59 := by
  unfold calendarFault
  repeat' split
  all_goals omega

/-- Settles O28: the outcome of each set follows from the first cause of refusal that holds. -/
theorem timeSets : Obligations.TimeSets := by
  unfold Obligations.TimeSets
  refine ⟨fun s hd hg hu hn hh => ⟨fun ord d hs hmax => ?_, ?_, fun v y mo d h mi sec hv hy hmo hd' hh' hmi hsec h1 h2 h3 h4 h5 h6
      h7 h8 h9 hmax => ?_⟩, fun s => ⟨fun v hv => exec_calApply_clear hv, exec_halt_again,
      fun v w y mo d h mi sec e hv hw hy hmo hd hh hmi hsec he hne => ?_⟩, fun s c hc => ⟨fun ord d hs => ?_, fun hh => ?_,
      fun v u hv hu hz => ?_⟩, fun s ord d hd hg hu hn hh hs hmax => ?_⟩
  · exact exec_timeSet_taken hs (setRefusal_within hd hg hu hn hh hmax)
  · exact exec_halt_taken hh (setRefusal_free hd hg hu hn hh)
  · rw [exec_calApply hv hy hmo hd' hh' hmi hsec, calendarFault_eq_zero.mpr ⟨h1, h2, h3, h4, h5, h6, h7, h8, h9⟩,
      setRefusal_within hd hg hu hn hh hmax]
    rfl
  · have he' : calendarFault y mo d h mi sec = e := he.symm
    rw [exec_calApply hv hy hmo hd hh hmi hsec, he', hw]
    have hreg : (s.calCleared v).reg 0x3028 = s.reg 0x3028 &&& ~~~(v &&& 2) := State.reg_setReg_same ..
    cases e with
    | zero => exact absurd rfl hne
    | succ e =>
      dsimp only
      rw [State.setFlag, State.setBits, hreg, State.calCleared, State.setReg_setReg]
      rfl
  · exact exec_timeSet_refused hs (setRefusal_barred hc _)
  · exact exec_halt_refused hh (setRefusal_barred hc _)
  · rw [exec_calApply hv rfl rfl rfl rfl rfl rfl, hz, setRefusal_barred hc, hu]
    have hreg : (s.calCleared v).reg 0x3004 = s.reg 0x3004 := State.reg_setReg_other _ _ (by decide)
    dsimp only
    rw [State.setRefused, hreg]
    rfl
  · exact exec_timeSet_refused hs (setRefusal_beyond hd hg hu hn hh hmax)

/-! The prescaler and the halt. -/

/-- The causes of R330 for which the write that clears HALT is refused. -/
def HaltBarred (s : State) (c : Nat) : Prop :=
  s.damperRunning = false ∧ c = 1 ∨ s.damperRunning = true ∧ s.ember.gated = true ∧ c = 2 ∨
    s.damperRunning = true ∧ s.ember.gated = false ∧ 32768 ≤ s.rtc.elapsed ∧ c = 4 ∨
    s.damperRunning = true ∧ s.ember.gated = false ∧ s.rtc.elapsed < 32768 ∧ 252455615999 < s.rtc.written / 32768 ∧ c = 5

theorem haltRefusal_barred {s : State} {c : Nat} (h : HaltBarred s c) : haltRefusal s = some c := by
  rcases h with ⟨h, rfl⟩ | ⟨h, hg, rfl⟩ | ⟨h, hg, he, rfl⟩ | ⟨h, hg, he, hw, rfl⟩
  · simp [haltRefusal, h]
  · simp [haltRefusal, h, hg]
  · simp [haltRefusal, h, hg, he]
  · simp [haltRefusal, h, hg, Nat.not_le.mpr he, rtcMaxSeconds, hw]

theorem haltRefusal_free {s : State} (h : s.damperRunning = true) (hg : s.ember.gated = false) (he : s.rtc.elapsed < 32768)
    (hw : s.rtc.written / 32768 ≤ 252455615999) : haltRefusal s = none := by
  simp [haltRefusal, h, hg, Nat.not_le.mpr he, rtcMaxSeconds, Nat.not_lt.mpr hw]

theorem exec_haltClear {s : State} (h : s.rtc.halted = true) : exec .haltClear s = match haltRefusal s with
    | some c => .next ((s.updRtc resumeCount).setRefused c)
    | none => .next (s.updRtc fun r => applySet { r with halted := false, elapsed := 0 } r.count r.written 0 none) := by
  show execHaltClear s = _
  rw [execHaltClear, h]
  rfl

theorem exec_prescalerEdge {s : State} (h : s.rtc.halted = false) : exec .prescalerEdge s = match s.rtc.unit with
    | some q => .next { s with
        rtc := applySet { s.rtc with withhold := s.rtc.withhold - 1, unit := none } (edgeCount s.rtc) q.new q.path q.ord }
    | none => .next { s with rtc := { s.rtc with withhold := s.rtc.withhold - 1, count := edgeCount s.rtc } } := by
  show execPrescalerEdge s = _
  exact (if_neg (by simp [h])).trans rfl

/-- Settles O29: an edge by the pending set, the end of a halt by the first cause of refusal. -/
theorem prescalerAndHalt : Obligations.PrescalerAndHalt := by
  unfold Obligations.PrescalerAndHalt
  refine ⟨fun s => ⟨fun h => ?_, fun h n hn => ⟨fun hu => ?_, fun q hu => ?_⟩⟩,
    fun s h => ⟨fun hd hg he hw => ?_, fun c hc => ?_, fun he => ?_, fun he => ?_⟩, fun s h => ⟨?_, ?_⟩⟩
  · show execPrescalerEdge s = _
    rw [execPrescalerEdge, if_pos h]
    rfl
  · rw [exec_prescalerEdge h, hu, hn]
    rfl
  · rw [exec_prescalerEdge h, hu, hn]
    rfl
  · rw [exec_haltClear h, haltRefusal_free hd hg he hw]
    rfl
  · rw [exec_haltClear h, haltRefusal_barred hc]
    rfl
  · show execHaltTimeout s = _
    rw [execHaltTimeout, if_pos ⟨h, he⟩]
    rfl
  · show execHaltTimeout s = _
    rw [execHaltTimeout, if_neg fun hc => Nat.not_le.mpr he hc.2]
  · show execHaltClear s = _
    rw [execHaltClear, h]
    rfl
  · show execHaltTimeout s = _
    rw [execHaltTimeout, h]
    exact if_neg fun hc => Bool.noConfusion hc.1

end Sys2Proof.Machine

/-! The calendar (R333, R335), the trim (R336), the loss of VBAT and the control watchdog (R296, R300, R312, R337). -/

namespace Sys2Proof.Machine

/-! Fields of a word built from fields. -/

theorem fieldOf_or (v w : Word) (hi lo : Nat) : fieldOf (v ||| w) hi lo = fieldOf v hi lo ||| fieldOf w hi lo := by
  simp only [fieldOf, BitVec.toNat_or, Nat.shiftRight_or_distrib, Nat.or_mod_two_pow]

theorem putAt_toNat {v lo n : Nat} (hv : v < 2 ^ n) (h : lo + n ≤ 32) : (putAt v lo).toNat = v * 2 ^ lo := by
  have hb : v * 2 ^ lo < 2 ^ 32 := calc
    v * 2 ^ lo < 2 ^ n * 2 ^ lo := Nat.mul_lt_mul_of_pos_right hv (by positivity)
    _ = 2 ^ (lo + n) := by rw [Nat.pow_add, Nat.mul_comm]
    _ ≤ 2 ^ 32 := Nat.pow_le_pow_right (by decide) h
  rw [putAt, BitVec.toNat_ofNat, Nat.shiftLeft_eq, Nat.mod_eq_of_lt hb]

/-- A field reads what was put there. -/
theorem fieldOf_putAt_same {v hi lo : Nat} (hv : v < 2 ^ (hi + 1 - lo)) (h : lo ≤ hi) (hhi : hi < 32) : fieldOf (putAt v lo) hi lo = v := by
  rw [fieldOf, putAt_toNat hv (by omega), Nat.shiftRight_eq_div_pow, Nat.mul_div_cancel _ (by positivity), Nat.mod_eq_of_lt hv]

/-- A field reads 0 of what was put below it. -/
theorem fieldOf_putAt_below {v hi lo l n : Nat} (hv : v < 2 ^ n) (h : l + n ≤ lo) (hlo : lo ≤ 32) : fieldOf (putAt v l) hi lo = 0 := by
  have hb : v * 2 ^ l < 2 ^ lo := calc
    v * 2 ^ l < 2 ^ n * 2 ^ l := Nat.mul_lt_mul_of_pos_right hv (by positivity)
    _ = 2 ^ (l + n) := by rw [Nat.pow_add, Nat.mul_comm]
    _ ≤ 2 ^ lo := Nat.pow_le_pow_right (by decide) h
  rw [fieldOf, putAt_toNat hv (by omega), Nat.shiftRight_eq_div_pow, Nat.div_eq_of_lt hb, Nat.zero_mod]

/-- A field reads 0 of what was put above it. -/
theorem fieldOf_putAt_above {v hi lo l n : Nat} (hv : v < 2 ^ n) (hl : l + n ≤ 32) (h : hi < l) (hlo : lo ≤ hi) :
    fieldOf (putAt v l) hi lo = 0 := by
  obtain ⟨k, rfl⟩ : ∃ k, l = lo + ((hi + 1 - lo) + k) := ⟨l - lo - (hi + 1 - lo), by omega⟩
  rw [fieldOf, putAt_toNat hv hl, Nat.shiftRight_eq_div_pow, Nat.pow_add, Nat.mul_left_comm, Nat.mul_div_cancel_left _ (by positivity),
    Nat.pow_add, Nat.mul_left_comm, Nat.mul_mod_right]

theorem fieldOf_flagAt_above {b : Bool} {hi lo i : Nat} (hi' : hi < i) (h : i < 32) (hlo : lo ≤ hi) : fieldOf (flagAt b i) hi lo = 0 := by
  cases b
  · simp [flagAt, fieldOf]
  · exact fieldOf_putAt_above (n := 1) (by decide) (by omega) hi' hlo

/-! Years. -/

/-- The days from 2000-01-01 to the start of a year. -/
def yearStart (y : Nat) : Nat :=
  365 * (y - 2000) + ((y - 1) / 4 - (y - 1) / 100 + (y - 1) / 400 - (1999 / 4 - 1999 / 100 + 1999 / 400))

theorem isLeap_iff (y : Nat) : isLeap y = true ↔ (y % 4 = 0 ∧ y % 100 ≠ 0) ∨ y % 400 = 0 := by simp [isLeap]

theorem yearStart_succ {y : Nat} (h : 2000 ≤ y) : yearStart (y + 1) = yearStart y + yearDays y := by
  obtain ⟨z, rfl⟩ : ∃ z, y = z + 1 := ⟨y - 1, by omega⟩
  have hdvd : isLeap (z + 1) = true ↔ (4 ∣ z + 1 ∧ ¬100 ∣ z + 1) ∨ 400 ∣ z + 1 := by
    rw [isLeap_iff, Nat.dvd_iff_mod_eq_zero, Nat.dvd_iff_mod_eq_zero, Nat.dvd_iff_mod_eq_zero]
  have h4 : 400 ∣ z + 1 → 100 ∣ z + 1 := fun h => by omega
  have h1 : 100 ∣ z + 1 → 4 ∣ z + 1 := fun h => by omega
  have hge : z / 100 ≤ z / 4 := by omega
  have hbase : 1999 ≤ z := by omega
  unfold yearStart yearDays
  rw [Nat.add_sub_cancel, Nat.add_sub_cancel, Nat.succ_div (a := z) (b := 4), Nat.succ_div (a := z) (b := 100),
    Nat.succ_div (a := z) (b := 400)]
  simp only [hdvd]
  by_cases a : 4 ∣ z + 1 <;> by_cases b : 100 ∣ z + 1 <;> by_cases c : 400 ∣ z + 1 <;>
    simp only [a, b, c, if_true, if_false, and_true, and_false, not_true, not_false_eq_true, or_self, or_true, or_false] at h4 h1 ⊢ <;>
    omega

theorem yearStart_cycle (q : Nat) : yearStart (2000 + 400 * q) = 146097 * q := by
  unfold yearStart
  omega

theorem yearDays_pos (y : Nat) : 0 < yearDays y := by unfold yearDays; split <;> decide

theorem yearStart_le {y z : Nat} (hy : 2000 ≤ y) (h : y ≤ z) : yearStart y ≤ yearStart z := by
  induction h with
  | refl => exact Nat.le_refl _
  | step hz ih =>
    rw [Nat.succ_eq_add_one, yearStart_succ (hy.trans hz)]
    exact ih.trans (Nat.le_add_right _ _)

/-- Whole years are taken up to the one in which the day falls. -/
theorem takeYears_eq {n a y r : Nat} (ha : 2000 ≤ a) (hay : a ≤ y) (hn : y ≤ a + n) (hr : r < yearDays y) :
    takeYears n a (yearStart y + r - yearStart a) = (y, r) := by
  induction n generalizing a with
  | zero =>
    obtain rfl : a = y := by omega
    rw [takeYears, Nat.add_sub_cancel_left]
  | succ n ih =>
    rw [takeYears]
    rcases Nat.eq_or_lt_of_le hay with rfl | hlt
    · rw [Nat.add_sub_cancel_left, if_neg (by omega)]
    · have hstep := yearStart_succ ha
      have hle : yearStart (a + 1) ≤ yearStart y := yearStart_le (by omega) hlt
      rw [if_pos (by omega), Nat.sub_sub, ← hstep]
      exact ih (by omega) hlt (by omega)

/-! Months. -/

/-- The days from the start of a year to that of a month. -/
def monthStart (y m : Nat) : Nat := (List.range (m - 1)).foldl (fun acc k => acc + monthDays y (k + 1)) 0

theorem monthStart_succ (y m : Nat) : monthStart y (m + 2) = monthStart y (m + 1) + monthDays y (m + 1) := by
  simp [monthStart, List.range_succ]

theorem monthStart_le {y m k : Nat} (hm : 1 ≤ m) (h : m ≤ k) : monthStart y m ≤ monthStart y k := by
  induction h with
  | refl => exact Nat.le_refl _
  | @step k hk ih =>
    obtain ⟨j, rfl⟩ : ∃ j, k = j + 1 := ⟨k - 1, by have := hm.trans hk; omega⟩
    rw [Nat.succ_eq_add_one, monthStart_succ]
    exact ih.trans (Nat.le_add_right _ _)

theorem monthStart_year (y : Nat) : monthStart y 13 = yearDays y := by
  have h : ∀ b : Bool, 31 + (if b then 29 else 28) + 31 + 30 + 31 + 30 + 31 + 31 + 30 + 31 + 30 + 31 = if b then 366 else 365 := by decide
  have := h (isLeap y)
  simpa [monthStart, List.range_succ, monthDays, yearDays] using this

theorem takeMonths_eq {n y a m r : Nat} (ha : 1 ≤ a) (ham : a ≤ m) (hn : m ≤ a + n) (hr : r < monthDays y m) :
    takeMonths n y a (monthStart y m + r - monthStart y a) = (m, r) := by
  induction n generalizing a with
  | zero =>
    obtain rfl : a = m := by omega
    rw [takeMonths, Nat.add_sub_cancel_left]
  | succ n ih =>
    rw [takeMonths]
    rcases Nat.eq_or_lt_of_le ham with rfl | hlt
    · rw [Nat.add_sub_cancel_left, if_neg (by omega)]
    · obtain ⟨j, rfl⟩ : ∃ j, a = j + 1 := ⟨a - 1, by omega⟩
      have hstep := monthStart_succ y j
      have hle : monthStart y (j + 2) ≤ monthStart y m := monthStart_le (by omega) hlt
      rw [if_pos (by omega), Nat.sub_sub, ← hstep]
      exact ih (by omega) hlt (by omega)

theorem monthDays_le (y m : Nat) : monthDays y m ≤ 31 := by
  unfold monthDays
  repeat' split
  all_goals decide

/-! Dates. -/

theorem daysOf_eq (y mo d : Nat) : daysOf y mo d = yearStart y + (monthStart y mo + (d - 1)) := by
  unfold daysOf yearStart monthStart
  exact Nat.add_assoc _ _ _

/-- The year, the month and the day come back from the number of days. -/
theorem takeDate_eq {y mo d : Nat} (hy : 2000 ≤ y) (hm : 1 ≤ mo) (hm' : mo ≤ 12) (hd : 1 ≤ d) (hd' : d ≤ monthDays y mo) :
    takeYears 400 (2000 + 400 * (daysOf y mo d / 146097)) (daysOf y mo d % 146097) = (y, monthStart y mo + (d - 1)) ∧
    takeMonths 12 y 1 (monthStart y mo + (d - 1)) = (mo, d - 1) := by
  obtain ⟨k, rfl⟩ : ∃ k, mo = k + 1 := ⟨mo - 1, by omega⟩
  have hr : monthStart y (k + 1) + (d - 1) < yearDays y := by
    have h1 := monthStart_succ y k
    have h2 : monthStart y (k + 2) ≤ monthStart y 13 := monthStart_le (by omega) (by omega)
    have h3 := monthStart_year y
    omega
  constructor
  · rw [daysOf_eq]
    generalize monthStart y (k + 1) + (d - 1) = r at hr
    generalize hq : (yearStart y + r) / 146097 = q
    have hc := yearStart_cycle q
    have hc' := yearStart_cycle (q + 1)
    have hnext := yearStart_succ hy
    have hlo : 2000 + 400 * q ≤ y := by
      by_contra hlt
      have := yearStart_le (y := y + 1) (by omega) (by omega : y + 1 ≤ 2000 + 400 * q)
      omega
    have hhi : y < 2000 + 400 * (q + 1) := by
      by_contra hge
      have := yearStart_le (by omega) (not_lt.mp hge)
      omega
    have : (yearStart y + r) % 146097 = yearStart y + r - yearStart (2000 + 400 * q) := by omega
    rw [this]
    exact takeYears_eq (by omega) hlo (by omega) hr
  · exact takeMonths_eq (a := 1) (Nat.le_refl 1) (by omega) (by omega) (by omega)

theorem calendarView_eq {y mo d t : Nat} (hy : 2000 ≤ y) (hm : 1 ≤ mo) (hm' : mo ≤ 12) (hd : 1 ≤ d) (hd' : d ≤ monthDays y mo)
    (ht : t < 86400) : calendarView (daysOf y mo d * 86400 + t) =
      (putAt (y % 2 ^ 14) 0 ||| putAt mo 16 ||| putAt d 24 ||| putAt ((daysOf y mo d + 5) % 7 + 1) 29,
       putAt (t / 3600) 0 ||| putAt (t % 3600 / 60) 8 ||| putAt (t % 60) 16 |||
         flagAt (decide (daysOf y mo d * 86400 + t ≤ rtcMaxSeconds)) 31) := by
  obtain ⟨h1, h2⟩ := takeDate_eq hy hm hm' hd hd'
  have hdays : (daysOf y mo d * 86400 + t) / 86400 = daysOf y mo d := by omega
  have hrest : (daysOf y mo d * 86400 + t) % 86400 = t := by omega
  unfold calendarView
  simp only [hdays, hrest, h1, h2, Nat.sub_add_cancel hd]

/-- Settles O31: years and months are taken back one at a time, and the fields of the words lie apart. -/
theorem calendarInverse : Obligations.CalendarInverse := by
  unfold Obligations.CalendarInverse
  intro y mo d h mi sec hz w hw
  obtain ⟨hy, hy', hm, hm', hd, hd', hh, hmi, hsec⟩ := calendarFault_eq_zero.mp hz
  have ht : h * 3600 + mi * 60 + sec < 86400 := by omega
  have hhour : (h * 3600 + mi * 60 + sec) / 3600 = h := by omega
  have hmin : (h * 3600 + mi * 60 + sec) % 3600 / 60 = mi := by omega
  have hs : (h * 3600 + mi * 60 + sec) % 60 = sec := by omega
  rw [Nat.add_assoc, Nat.add_assoc, ← Nat.add_assoc (h * 3600), calendarView_eq hy hm hm' hd hd' ht, hhour, hmin, hs,
    Nat.mod_eq_of_lt (by omega : y < 2 ^ 14)] at hw
  subst hw
  have b1 : y < 2 ^ 14 := by omega
  have b2 : mo < 2 ^ 4 := by omega
  have b3 : d < 2 ^ 5 := by have := monthDays_le y mo; omega
  have b4 : (daysOf y mo d + 5) % 7 + 1 < 2 ^ 3 := by omega
  have b5 : h < 2 ^ 5 := by omega
  have b6 : mi < 2 ^ 6 := by omega
  have b7 : sec < 2 ^ 6 := by omega
  simp only [fieldOf_or]
  refine ⟨?_, ?_, ?_, ?_, ?_, ?_⟩
  · rw [fieldOf_putAt_same b1 (by decide) (by decide), fieldOf_putAt_above b2 (by decide) (by decide) (by decide),
      fieldOf_putAt_above b3 (by decide) (by decide) (by decide), fieldOf_putAt_above b4 (by decide) (by decide) (by decide)]
    simp
  · rw [fieldOf_putAt_below b1 (by decide) (by decide), fieldOf_putAt_same b2 (by decide) (by decide),
      fieldOf_putAt_above b3 (by decide) (by decide) (by decide), fieldOf_putAt_above b4 (by decide) (by decide) (by decide)]
    simp
  · rw [fieldOf_putAt_below b1 (by decide) (by decide), fieldOf_putAt_below b2 (by decide) (by decide),
      fieldOf_putAt_same b3 (by decide) (by decide), fieldOf_putAt_above b4 (by decide) (by decide) (by decide)]
    simp
  · rw [fieldOf_putAt_same b5 (by decide) (by decide), fieldOf_putAt_above b6 (by decide) (by decide) (by decide),
      fieldOf_putAt_above b7 (by decide) (by decide) (by decide), fieldOf_flagAt_above (by decide) (by decide) (by decide)]
    simp
  · rw [fieldOf_putAt_below b5 (by decide) (by decide), fieldOf_putAt_same b6 (by decide) (by decide),
      fieldOf_putAt_above b7 (by decide) (by decide) (by decide), fieldOf_flagAt_above (by decide) (by decide) (by decide)]
    simp
  · rw [fieldOf_putAt_below b5 (by decide) (by decide), fieldOf_putAt_below b6 (by decide) (by decide),
      fieldOf_putAt_same b7 (by decide) (by decide), fieldOf_flagAt_above (by decide) (by decide) (by decide)]
    simp

/-! The trim. -/

theorem trimUnits_sum (c : Int) (n : Nat) : ((List.range n).map fun k => trimUnits c k).sum = c * n / 32 := by
  induction n with
  | zero => simp
  | succ n ih =>
    rw [List.range_succ, List.map_append, List.sum_append, ih, List.map_singleton, List.sum_singleton, trimUnits]
    omega

/-- Settles O30: the units of the steps telescope. -/
theorem trimInsertsC : Obligations.TrimInsertsC := by
  unfold Obligations.TrimInsertsC
  refine ⟨fun c => ?_, fun temp s h c n hc hn => ?_, fun temp s h => ?_⟩
  · rw [trimUnits_sum]
    omega
  · refine ⟨_, if_neg (by simp [h]), rfl, rfl, hc.symm, rfl, fun hn0 => ⟨?_, ?_⟩, fun hn0 => ⟨?_, ?_⟩⟩ <;>
      simp only [State.updRtc] <;> rw [← State.fld, ← State.fld, ← State.fld, ← hc, ← hn] <;> omega
  · exact if_pos h

end Sys2Proof.Machine

/-! The loss of VBAT, the control watchdog, the reference's deviation (R296, R300, R312, R337). -/

namespace Sys2Proof.Machine

section
variable {β : Type} {dflt : Nat → β}

theorem Sparse.get_filter (m : List (Nat × β)) (p : Nat → Bool) (a : Nat) :
    Sparse.get dflt (m.filter fun c => p c.1) a = if p a then Sparse.get dflt m a else dflt a := by
  induction m with
  | nil => simp [Sparse.get]
  | cons c m ih =>
    obtain ⟨k, x⟩ := c
    rw [List.filter_cons]
    by_cases hk : k = a
    · subst hk
      by_cases hp : p k = true
      · simp [hp, Sparse.get]
      · simp only [hp, Bool.false_eq_true, if_false, ih]
    · by_cases hp : p k = true <;> simp [hp, Sparse.get, hk, ih]

end

theorem Regs.get_clear (m : List (Nat × Word)) (base size a : Nat) :
    Regs.get (Regs.clear m base size) a = if base ≤ a ∧ a < base + size then RegMap.dflt a else Regs.get m a := by
  have h := Sparse.get_filter (dflt := RegMap.dflt) m (fun k => !(decide (base ≤ k) && decide (k < base + size))) a
  rw [Regs.get, Regs.clear, h]
  by_cases hr : base ≤ a ∧ a < base + size
  · simp [hr]
  · rw [if_neg hr, if_pos (by simp; omega)]
    rfl

/-- AON as a loss of VBAT leaves it, with the trim from the fuses. -/
def State.unpowered (s : State) : State :=
  loadTrim { s with regs := Regs.clear s.regs 0x3000 0x1000, rtc := Rtc.init 0 0 }

theorem exec_vbatLost {s : State} {e : Episode} (h : s.rst.episode = some e) (hl : e.level = .l0) :
    exec .vbatLost s = .next s.unpowered := by
  refine if_pos ?_
  rw [h]
  simp [hl]

theorem State.unpowered_reg (s : State) (a : Nat) : s.unpowered.reg a =
    if a = 0x3030 then s.fuse 17 &&& 0xFFFF else if a = 0x302C then s.fuse 16 &&& 0x0FFF0FFF
    else if 0x3000 ≤ a ∧ a < 0x4000 then State.reset.reg a else s.reg a := by
  rw [State.unpowered, loadTrim, State.reg_setReg, State.reg_setReg]
  simp only [eq_comm (b := a), State.reg]
  rw [Regs.get_clear]
  rfl

theorem exec_resetWdtKick {s : State} (hs : s.running Isl.sys = true) (v : Word) : exec (.resetWdtKick v) s = .next (
    if fieldOf v 31 16 = 0x6B1C then { s with rst := { s.rst with wdtRemain := wdtTimeout s, wdtTick := 0 } } else s) := by
  show execResetWdtKick v s = _
  simp [execResetWdtKick, sysWrite, hs]

theorem exec_resetWdtCfg {s : State} (hs : s.running Isl.sys = true) (v : Word) : exec (.resetWdtCfg v) s = .next (
    if bitOf (s.reg 0x1028) 31 then s
    else if bitOf v 31 then { s.setReg 0x1028 (v &&& 0x8000FFFF) with
      rst := { s.rst with wdtRemain := wdtTimeout (s.setReg 0x1028 (v &&& 0x8000FFFF)), wdtTick := 0 } }
    else s.setReg 0x1028 (v &&& 0x8000FFFF)) := by
  show execResetWdtCfg v s = _
  simp [execResetWdtCfg, sysWrite, hs]

/-- The time of the watchdog is not among the bits that are not written. -/
theorem wdtTimeout_written (s : State) (v : Word) : wdtTimeout (s.setReg 0x1028 (v &&& 0x8000FFFF)) = max 1 (fieldOf v 15 0) := by
  have h : fieldOf (0x8000FFFF : Word) 15 0 = 2 ^ 16 - 1 := by decide
  rw [wdtTimeout, State.fld, State.reg_setReg_same, fieldOf_and, h, Nat.and_two_pow_sub_one_eq_mod,
    Nat.mod_eq_of_lt (fieldOf_lt v 15 0)]

/-- Settles O32: each command by its condition; the register file of a state without VBAT is read address by address. -/
theorem vbatLossAndWatchdog : Obligations.VbatLossAndWatchdog := by
  unfold Obligations.VbatLossAndWatchdog
  refine ⟨fun s e he hl => ⟨_, exec_vbatLost he hl, rfl, rfl, rfl, rfl, rfl, rfl, rfl, fun a h1 h2 h3 h4 => ?_, fun a ha => ?_, ?_, ?_⟩,
    fun s hs => if_neg ?_, fun s v hs => ⟨fun h => ?_, fun h => ⟨fun hv => ?_, fun hv => ?_⟩, fun h => ?_, fun h => ?_, fun dev => ?_⟩⟩
  · rw [State.unpowered_reg, if_neg h4, if_neg h3, if_pos ⟨h1, h2⟩]
  · rw [State.unpowered_reg, if_neg (by omega), if_neg (by omega), if_neg (by omega)]
  · exact State.unpowered_reg s 0x302C
  · exact State.unpowered_reg s 0x3030
  · cases he : s.rst.episode with
    | none => simp
    | some e => simpa using hs e he
  · rw [exec_resetWdtCfg hs, if_pos h]
  · rw [exec_resetWdtCfg hs, if_neg (by simp [h]), if_neg (by simp [hv])]
  · rw [exec_resetWdtCfg hs, if_neg (by simp [h]), if_pos hv, wdtTimeout_written]
  · rw [exec_resetWdtKick hs, if_pos h]
    rfl
  · rw [exec_resetWdtKick hs, if_neg h]
  · show execClockRefDevMeasure dev s = _
    simp [execClockRefDevMeasure, sysWrite, hs]

end Sys2Proof.Machine

/-! Captures and the descriptors of the display (R272, R402, R403). -/

namespace Sys2Proof.Machine

/-! Elements of a table. -/

theorem Tab.at_beyond {α : Type} {n : Nat} (v : Vector α n) {i : Nat} (h : n ≤ i) (d : α) : Tab.at v i d = d := by
  simp [Tab.at, h]

theorem Tab.upd_upd {α : Type} {n : Nat} (v : Vector α n) (i : Nat) (f g : α → α) :
    Tab.upd (Tab.upd v i f) i g = Tab.upd v i (g ∘ f) := by
  by_cases h : i < n
  · simp [Tab.upd, h]
  · simp [Tab.upd, h]

theorem Tab.all_at {α : Type} {n : Nat} (v : Vector α n) (d : α) (p : α → Bool) (h : ∀ k, k < n → p (Tab.at v k d) = true) :
    v.toList.all p = true := by
  rw [List.all_eq_true]
  intro x hx
  obtain ⟨k, hk, rfl⟩ := List.getElem_of_mem hx
  have hn : k < n := by simpa using hk
  simpa [Tab.at, List.getD, hn] using h k hn

/-- A descriptor that starts takes its phase in any state with the same descriptors in flight. -/
theorem Starts.flight_setPhase {s t : State} {ord op : Nat} {d : Inflight} (h : Starts s ord op d)
    (ht : t.host.inflight = s.host.inflight) (ph : Phase) : (t.setPhase ord ph).flight ord = some { d with phase := ph } := by
  have hopen : d.phase.isDone = false := by rw [h.waiting]; rfl
  rw [flight_setPhase_same, State.flight_congr ht, h.flight, Option.map_some, Inflight.toPhase_open hopen]

/-! Captures. -/

theorem State.captureAt_lt {s : State} {n : Nat} {c : Capture} (h : s.captureAt n = some c) : n < 4 := by
  by_contra hn
  rw [State.captureAt, Tab.at_beyond _ (not_lt.mp hn)] at h
  cases h

theorem captureFault_busy {s : State} (h : ∀ k, k < 4 → (s.captureAt k).isSome = true) (d : Inflight) :
    captureFault s d = some (0x06, 3) := by
  simp only [captureFault, Tab.all_at s.host.captures none Option.isSome h, if_true]

theorem exec_captureStart_failed {s : State} {ord st det : Nat} {d : Inflight} (h : Starts s ord Opc.captureStart d)
    (hf : captureFault s d = some (st, det)) : exec (.captureStart ord) s = .next (s.finish ord st det []) := by
  show execCaptureStart ord s = _
  simp only [execCaptureStart, withDescriptor_starts h, hf, State.finishFail]

theorem exec_captureTrigger {s : State} {n : Fin 4} {c : Capture} (h : s.captureAt n = some c) : exec (.captureTrigger n) s =
    if c.begun = false ∧ c.start ≤ nextIndex s c.source c.preset then .next (s.setCapture n (some { c with begun := true }))
    else .next s := by
  show execCaptureTrigger n s = _
  simp [execCaptureTrigger, h]

theorem exec_captureStop {s : State} {ord : Nat} {d : Inflight} (h : Starts s ord Opc.captureStop d) :
    exec (.captureStop ord) s = .next (match s.captureAt (d.op 20 1) with
      | some c => (endCapture (d.op 20 1) 1 (s.setCapture (d.op 20 1) (some { c with stopOrd := some ord }))).setPhase ord .working
      | none => s.finishOk ord (leBytes 4 0)) := by
  show execCaptureStop ord s = _
  rw [execCaptureStop, withDescriptor_starts h] <;> rfl

/-- The end of a capture that CAPTURE_STOP has marked. -/
theorem endCapture_marked {s : State} {n : Nat} {c : Capture} (h : s.captureAt n = some c) (e : Capture) (cause : Nat) :
    endCapture n cause (s.setCapture n (some e)) = { s with host := { s.host with
      captures := Tab.upd s.host.captures n fun _ => none, capq := s.host.capq ++ [e.last n cause] } } := by
  have hat : (s.setCapture n (some e)).captureAt n = some e := Tab.at_upd_same (State.captureAt_lt h)
  rw [endCapture_running hat]
  simp only [State.setCapture, State.updHost, Tab.upd_upd]
  rfl

/-- Settles O33: CAPTURE_START and CAPTURE_TRIGGER by their conditions, CAPTURE_STOP through the end of the marked capture. -/
theorem captureCommands : Obligations.CaptureCommands := by
  unfold Obligations.CaptureCommands
  refine fun s ord d => ⟨fun n now start h hf hn hnow hstart => ?_, fun st det h hf => exec_captureStart_failed h hf,
    fun h hall => exec_captureStart_failed h (captureFault_busy hall d), fun n c hc => ⟨fun hb hle => ?_, fun hor => ?_⟩,
    fun c h hc => ?_, fun h hc => ?_⟩
  · subst hnow hstart
    show execCaptureStart ord s = _
    simp only [execCaptureStart, withDescriptor_starts h, hf, hn]
  · rw [exec_captureTrigger hc, if_pos ⟨hb, hle⟩]
  · refine (exec_captureTrigger hc).trans (if_neg ?_)
    rintro ⟨hb, hle⟩
    rcases hor with h | h
    · rw [hb] at h; cases h
    · omega
  · have hx := exec_captureStop h
    rw [hc] at hx
    dsimp only at hx
    rw [endCapture_marked hc] at hx
    refine ⟨_, hx, rfl, Tab.at_upd_same (State.captureAt_lt hc), fun k hk => Tab.at_upd_other hk, rfl,
      h.flight_setPhase rfl _, rfl⟩
  · rw [exec_captureStop h, hc]
    rfl

/-! The display. -/

/-- Settles O34. -/
theorem displayDescriptors : Obligations.DisplayDescriptors := by
  unfold Obligations.DisplayDescriptors
  intro s ord d p r hp hr
  subst hp hr
  refine ⟨fun h => ⟨?_, fun data px kept hpx hkept => ?_⟩, fun h => ⟨fun h0 => ?_, fun h0 hall => ?_, fun h0 hex => ?_⟩⟩
  · exact withBuffer_starts h _
  · subst hpx hkept
    exact withBuffer_starts h _
  · exact (withDescriptor_starts h _).trans (congrArg Host.Outcome.next (if_pos h0))
  · refine (withDescriptor_starts h _).trans (congrArg Host.Outcome.next ((if_neg h0).trans (if_pos ?_)))
    rw [List.all_eq_true]
    exact fun n hn => (Bool.or_eq_true ..).mpr (hall n hn)
  · refine (withDescriptor_starts h _).trans (congrArg Host.Outcome.next ((if_neg h0).trans (if_neg ?_)))
    obtain ⟨n, hn, h1, h2⟩ := hex
    rw [List.all_eq_true]
    intro hall
    have := hall n hn
    rw [h1, h2] at this
    cases this

end Sys2Proof.Machine

/-! The run bit, the digest request and the tables of the mantel engine (R390, R398, R401, R408). -/

namespace Sys2Proof.Machine

/-! Registers. -/

theorem RegMap.find_mantelCtl : RegMap.find 0x35004 = some (RegMap.mantel, Reg.one 0x004 0x1E00 [Fld.own 0 0 .rw, Fld.live 15 8], 0) := by
  decide

@[simp] theorem writeReg_mantel (a : Nat) (v : Word) (s : State) : (writeReg a v s).mantel = s.mantel := by
  obtain ⟨m, r, h⟩ := writeReg_eq a v s; rw [h]

/-- A single bit put into its place is the bit of the word. -/
theorem putAt_bitOf_and_mask (v : Word) : putAt (bitOf v 0).toNat 0 &&& maskOf 0 0 = v &&& maskOf 0 0 := by
  refine Word.ext_bits fun j => ?_
  rw [BitVec.getLsbD_and, BitVec.getLsbD_and, maskOf_getLsbD]
  rcases Nat.eq_zero_or_pos j with rfl | hj
  · rw [bitOf_eq_getLsbD]
    cases v.getLsbD 0 <;> simp [putAt]
  · have : ¬ j < 1 := by omega
    simp [this]

theorem mergeMask_congr {m c v w : Word} (h : v &&& m = w &&& m) : mergeMask m c v = mergeMask m c w := by
  rw [mergeMask, mergeMask, h]

theorem exec_mantelRun {s : State} (hs : s.running Isl.mantel = true) (v : Word) : exec (.mantelRun v) s =
    .next { s.setReg 0x35004 (mergeMask (maskOf 15 8 ||| maskOf 0 0) (s.reg 0x35004) v) with
      mantel := { s.mantel with run := bitOf v 0 } } := by
  have hw : writeReg 0x35004 v s = s.setReg 0x35004 (mergeMask (maskOf 15 8) (s.reg 0x35004) v) := by
    rw [writeReg_of_find RegMap.find_mantelCtl (blockUp_of_running hs (by decide)) (by decide) (by decide) (by decide)]
    simp [badSize, RegSpec.write, Reg.one, Fld.own, Fld.live, FieldSpec.write]
  show execMantelRun v s = _
  rw [execMantelRun, hs, hw]
  simp only [State.putField, State.reg_setReg_same, State.setReg_setReg, mergeMask_congr (putAt_bitOf_and_mask v),
    mergeMask_mergeMask, Bool.not_true, Bool.false_eq_true, if_false]
  rfl

/-! Loading. -/

theorem tableWritable_iff {s : State} {n : Nat} : tableWritable s n = true ↔
    n < 5 ∧ (s.tableAt n).pending = false ∧ s.mantel.commit ≠ some n := by
  simp [tableWritable, and_assoc]

theorem exec_mantelTblData {s : State} (hs : s.running Isl.mantel = true) (v : Word) : exec (.mantelTblData v) s = .next (
    if tableWritable s (s.fld 0x35010 2 0) then
      (storeWord (s.fld 0x35010 2 0) (4 * s.fld 0x35014 18 2) v s).putField 0x35014 18 2 ((s.fld 0x35014 18 2 + 1) % 2 ^ 17)
    else if s.fld 0x35010 2 0 < 5 then s.setReg 0x3501C (s.reg 0x3501C ||| 0x100) else s) := by
  have ha : (4 * s.fld 0x35014 18 2 + 4) / 4 % 2 ^ 17 = (s.fld 0x35014 18 2 + 1) % 2 ^ 17 := by omega
  show execMantelTblData v s = _
  simp only [execMantelTblData, hs, ha, Bool.not_true, Bool.false_eq_true, if_false]
  repeat' split
  all_goals rfl

theorem storeWord_eq (n a : Nat) (v : Word) (s : State) : storeWord n a v s = s.updTable n fun b =>
    if b.active then { b with bank0 := Memory.writeN b.bank0 a (leBytes 4 v.toNat) }
    else { b with bank1 := Memory.writeN b.bank1 a (leBytes 4 v.toNat) } := by
  refine congrArg (State.updTable s n) (funext fun b => ?_)
  obtain ⟨b0, b1, act, pend, copy⟩ := b
  cases act <;> rfl

/-! Commits. -/

/-- A commit that has failed. -/
def State.commitFailed (s : State) (c : Nat) : State :=
  { s.setReg 0x3501C (s.reg 0x3501C ||| 8) with mantel := { s.mantel with commit := none, cause := c } }
theorem commitFail_eq (c : Nat) (s : State) : commitFail c s = s.commitFailed c := rfl

theorem exec_commit_ignored {s t : State} {v : Word} (hs : s.running Isl.mantel = true) (ht : t = writeReg 0x35010 v s)
    (h : bitOf v 4 = false ∨ 5 ≤ t.fld 0x35010 2 0 ∨ s.mantel.commit ≠ none ∨ (s.tableAt (t.fld 0x35010 2 0)).pending = true) :
    exec (.commit v) s = .next t := by
  have hm : t.mantel = s.mantel := by rw [ht, writeReg_mantel]
  have hno : (!(bitOf v 4) || t.mantel.commit.isSome || !(tableWritable t (t.fld 0x35010 2 0))) = true := by
    rw [Bool.or_eq_true, Bool.or_eq_true, Bool.not_eq_true', Bool.not_eq_true', hm, ← Bool.not_eq_true, ← Bool.not_eq_true,
      tableWritable_iff, Bool.not_eq_true, State.tableAt, hm, ← State.tableAt]
    rcases h with h | h | h | h
    · exact .inl (.inl h)
    · exact .inr fun hw => absurd hw.1 (by omega)
    · exact .inl (.inr (Option.isSome_iff_ne_none.mpr h))
    · exact .inr fun hw => by rw [hw.2.1] at h; cases h
  show execCommit v s = _
  rw [execCommit, hs, ← ht]
  simp only [hno, Bool.not_true, Bool.false_eq_true, if_false, if_true]

theorem exec_commit_checked {s t : State} {v : Word} (hs : s.running Isl.mantel = true) (ht : t = writeReg 0x35010 v s)
    (hv : bitOf v 4 = true) (hn : t.fld 0x35010 2 0 < 5) (hc : s.mantel.commit = none)
    (hp : (s.tableAt (t.fld 0x35010 2 0)).pending = false) : exec (.commit v) s =
      .next (if commitCheck t (t.fld 0x35010 2 0) = 0 then { t with mantel := { s.mantel with commit := some (t.fld 0x35010 2 0) } }
        else t.commitFailed (commitCheck t (t.fld 0x35010 2 0))) := by
  have hm : t.mantel = s.mantel := by rw [ht, writeReg_mantel]
  have hw : tableWritable t (t.fld 0x35010 2 0) = true := by
    rw [tableWritable_iff, State.tableAt, hm]
    exact ⟨hn, hp, by rw [hc]; exact nofun⟩
  have hc' : t.mantel.commit = none := by rw [hm, hc]
  show execCommit v s = _
  rw [execCommit, hs, ← ht]
  simp only [hv, hc', hw, Bool.not_true, Bool.false_eq_true, if_false, Option.isSome_none, Bool.or_self, commitFail_eq, ← hm]
  cases commitCheck t (t.fld 0x35010 2 0) with
  | zero => rfl
  | succ c => rfl

/-! Committed banks that come into use. -/

/-- The slot of a target after the banks that wait have come into use where they can. -/
def State.tableUsed (s : State) (k : Nat) : TableSlot := if (s.tableAt k).pending && canSwap s k then (s.tableAt k).swap else s.tableAt k

theorem swapTables_below (n : Nat) (hn : n ≤ 5) (s t : State)
    (ht : t = (List.range n).foldl (fun s t => if (s.tableAt t).pending && canSwap s t then s.updTable t TableSlot.swap else s) s) :
    t = { s with mantel := { s.mantel with tables := t.mantel.tables } } ∧ ∀ k, t.tableAt k = if k < n then s.tableUsed k else s.tableAt k := by
  induction n generalizing t with
  | zero => subst ht; exact ⟨rfl, fun k => rfl⟩
  | succ n ih =>
    rw [List.range_succ, List.foldl_append, List.foldl_cons, List.foldl_nil] at ht
    obtain ⟨hu, hk⟩ := ih (by omega) _ rfl
    generalize (List.range n).foldl _ s = u at hu hk ht
    have hcan : canSwap u n = canSwap s n := by rw [hu]; rfl
    have hat : u.tableAt n = s.tableAt n := (hk n).trans (if_neg (Nat.lt_irrefl n))
    rw [hcan, hat] at ht
    have hother : ∀ k, k ≠ n → (if k < n + 1 then s.tableUsed k else s.tableAt k) = u.tableAt k := fun k hne => by
      have : k < n + 1 ↔ k < n := by omega
      rw [hk]
      simp only [this]
    split at ht
    · rename_i hsw
      subst ht
      refine ⟨by rw [hu]; rfl, fun k => ?_⟩
      by_cases hkn : k = n
      · subst hkn
        rw [if_pos (Nat.lt_succ_self _), State.tableUsed, if_pos hsw, ← hat]
        exact Tab.at_upd_same (by omega)
      · rw [hother k hkn]
        exact Tab.at_upd_other hkn
    · rename_i hsw
      subst ht
      refine ⟨hu, fun k => ?_⟩
      by_cases hkn : k = n
      · subst hkn
        rw [if_pos (Nat.lt_succ_self _), State.tableUsed, if_neg hsw, hat]
      · exact (hother k hkn).symm

theorem swapPending_spec (s : State) : swapPending s = { s with mantel := { s.mantel with tables := (swapPending s).mantel.tables } } ∧
    ∀ k, k < 5 → (swapPending s).tableAt k = s.tableUsed k := by
  obtain ⟨h1, h2⟩ := swapTables_below 5 (Nat.le_refl 5) s _ rfl
  exact ⟨h1, fun k hk => (h2 k).trans (if_pos hk)⟩

theorem State.tableAt_beyond (s : State) {k : Nat} (h : 5 ≤ k) : s.tableAt k = .init := Tab.at_beyond _ h _

/-- The state in which the committed bank of a target has reached the flash and waits to come into use. -/
def State.committed (s : State) (n : Nat) : State :=
  { s with
    fw := { s.fw with flash := Memory.writeN s.fw.flash (copyOff n (!(s.tableAt n).copy)) (Memory.readN (s.tableAt n).spareBank 0
      (if n = 0 then Wave.size (s.tableAt n).spareBank else Map.size (s.tableAt n).spareBank)) },
    mantel := { s.mantel with commit := none, tables := Tab.upd s.mantel.tables n fun b => { b with pending := true } } }

theorem exec_commitComplete_failed {s : State} {n : Nat} (h : s.mantel.commit = some n) :
    exec (.commitComplete false) s = .next (s.commitFailed 4) := by
  show execCommitComplete false s = _
  rw [execCommitComplete, h]
  rfl
theorem exec_commitComplete_written {s : State} {n : Nat} (h : s.mantel.commit = some n) :
    exec (.commitComplete true) s = .next (swapPending (s.committed n)) := by
  show execCommitComplete true s = _
  rw [execCommitComplete, h]
  rfl

theorem State.tableAt_committed_same (s : State) {n : Nat} (h : n < 5) :
    (s.committed n).tableAt n = { s.tableAt n with pending := true } := Tab.at_upd_same h
theorem State.tableAt_committed_other (s : State) {n k : Nat} (h : k ≠ n) : (s.committed n).tableAt k = s.tableAt k := Tab.at_upd_other h
theorem canSwap_committed (s : State) (n k : Nat) : canSwap (s.committed n) k = canSwap s k := rfl

/-- Settles O35: each command by its condition; a commit through the banks that come into use after it. -/
theorem mantelTables : Obligations.MantelTables := by
  unfold Obligations.MantelTables
  refine fun s => ⟨fun hs => ⟨fun v => ⟨_, exec_mantelRun hs v, rfl, fun a ha => ?_, ?_⟩, ?_, fun v n a hn ha =>
      ⟨fun h1 h2 h3 => ?_, fun h1 h2 => ?_, fun h1 => ?_⟩, fun v t n ht hn => ⟨fun hv h1 h2 h3 => ?_, fun h => ?_⟩⟩, rfl,
    fun n hc hn => ⟨exec_commitComplete_failed hc, _, exec_commitComplete_written hc, ?_⟩⟩
  · exact State.reg_setReg_other s _ ha.symm
  · exact State.reg_setReg_same s _ _
  · exact if_pos hs
  · subst hn ha
    rw [exec_mantelTblData hs, if_pos (tableWritable_iff.mpr ⟨h1, h2, h3⟩), storeWord_eq]
  · subst hn
    have hno : ¬tableWritable s (s.fld 0x35010 2 0) = true := fun hw => by
      obtain ⟨-, hp, hc⟩ := tableWritable_iff.mp hw
      rcases h2 with h2 | h2
      · rw [hp] at h2; cases h2
      · exact hc h2
    rw [exec_mantelTblData hs, if_neg hno, if_pos h1]
  · subst hn
    have hno : ¬tableWritable s (s.fld 0x35010 2 0) = true := fun hw => absurd (tableWritable_iff.mp hw).1 (by omega)
    rw [exec_mantelTblData hs, if_neg hno, if_neg (by omega)]
  · have hm : t.mantel = s.mantel := by rw [ht, writeReg_mantel]
    subst hn
    rw [exec_commit_checked hs ht hv h1 h2 h3, State.commitFailed, hm]
  · subst hn
    exact exec_commit_ignored hs ht h
  · obtain ⟨hfr, hat⟩ := swapPending_spec (s.committed n)
    have hused : (swapPending (s.committed n)).tableAt n =
        if canSwap s n = true then (s.tableAt n).swap else { s.tableAt n with pending := true } := by
      rw [hat n hn, State.tableUsed, State.tableAt_committed_same s hn, canSwap_committed, Bool.true_and]
      rfl
    refine ⟨?_, ?_, fun off size hoff hsize => ?_, fun hcan => hused.trans (if_pos hcan), fun hcan => hused.trans (if_neg ?_),
      fun k hk hp => ?_⟩
    · rw [hfr]; rfl
    · rw [hfr]; rfl
    · have hlen : (Memory.readN (s.tableAt n).spareBank 0 size).length = size := by simp [Memory.readN]
      have hfl : (swapPending (s.committed n)).fw.flash =
          Memory.writeN s.fw.flash off (Memory.readN (s.tableAt n).spareBank 0 size) := by rw [hfr, hoff, hsize]; rfl
      rw [hfl]
      refine ⟨?_, fun a ha => Memory.read_writeN_out _ _ _ _ (by rwa [hlen])⟩
      have := Memory.readN_writeN s.fw.flash off (Memory.readN (s.tableAt n).spareBank 0 size) 0 size (by omega)
      rwa [Nat.add_zero, List.drop_zero, List.take_of_length_le (by omega)] at this
    · rw [hcan]; exact Bool.noConfusion
    · by_cases h5 : k < 5
      · rw [hat k h5, State.tableUsed, State.tableAt_committed_other s hk, hp]
        rfl
      · rw [State.tableAt_beyond _ (by omega), State.tableAt_beyond _ (by omega)]

end Sys2Proof.Machine

/-! The course of a panel update (R394, R396, R404, R405, R407). -/

namespace Sys2Proof.Machine

/-! Ports. -/

theorem Tab.upd_self {α : Type} {n : Nat} (v : Vector α n) (i : Nat) (d : α) (f : α → α) (h : f (Tab.at v i d) = Tab.at v i d) :
    Tab.upd v i f = v := by
  by_cases hi : i < n
  · have hg : Tab.at v i d = v[i] := by simp [Tab.at, List.getD, hi]
    rw [hg] at h
    rw [Tab.upd, dif_pos hi, h]
    exact Vector.set_getElem_self hi
  · rw [Tab.upd, dif_neg hi]

theorem State.portAt_updPort_same (s : State) {p : Nat} (h : p < 4) (f : Port → Port) : (s.updPort p f).portAt p = f (s.portAt p) :=
  Tab.at_upd_same h
theorem State.portAt_updPort_other (s : State) {p q : Nat} (h : q ≠ p) (f : Port → Port) : (s.updPort p f).portAt q = s.portAt q :=
  Tab.at_upd_other h
theorem State.portAt_congr {s t : State} (h : t.mantel.ports = s.mantel.ports) (p : Nat) : t.portAt p = s.portAt p :=
  congrArg (Tab.at · p Port.init) h
theorem State.updPort_updPort (s : State) (p : Nat) (f g : Port → Port) : (s.updPort p f).updPort p g = s.updPort p (g ∘ f) := by
  simp only [State.updPort, Tab.upd_upd]
theorem State.updPort_self (s : State) (p : Nat) (f : Port → Port) (h : f (s.portAt p) = s.portAt p) : s.updPort p f = s := by
  rw [State.updPort, Tab.upd_self s.mantel.ports p .init f h]

/-- A port between updates. -/
def State.portIdle (s : State) (p : Nat) : State := s.updPort p fun q => { q with phase := .idle }

/-! What an update plans does not depend on the course of the one before it. -/

section
variable {s : State} {p : Nat} {f : Port → Port} {ph : PortPhase} {te : Int} {ta : Option Nat} (hp : p < 4)
  (hf : f (s.portAt p) = { s.portAt p with phase := ph, temp := te, tempAt := ta })
include hp hf

theorem activeWindow_updPort : activeWindow (s.updPort p f) p = activeWindow s p := by
  unfold activeWindow
  rw [State.portAt_updPort_same s hp, hf]
  rfl

theorem targetLevel_updPort : targetLevel (s.updPort p f) p = targetLevel s p := by
  funext px
  unfold targetLevel
  rw [activeWindow_updPort hp hf, State.portAt_updPort_same s hp, hf]
  rfl

theorem planUpdate_updPort (n : NextUpdate) : planUpdate (s.updPort p f) p n = planUpdate s p n := by
  have hrest : restLevel (s.updPort p f) p = restLevel s p := by
    funext px
    unfold restLevel
    rw [targetLevel_updPort hp hf, State.portAt_updPort_same s hp, hf]
    rfl
  have hdiff : differing (s.updPort p f) p = differing s p := by
    unfold differing
    rw [targetLevel_updPort hp hf, State.portAt_updPort_same s hp, hf]
    rfl
  have hlim : ∀ r, limited (s.updPort p f) p r = limited s p r := fun r => by
    unfold limited
    rw [activeWindow_updPort hp hf]
  unfold planUpdate
  rw [activeWindow_updPort hp hf, targetLevel_updPort hp hf, hrest, hdiff]
  simp only [hlim]
  rfl

theorem mustWait_updPort (n : NextUpdate) : mustWait (s.updPort p f) p n = mustWait s p n := by
  unfold mustWait
  rw [State.portAt_updPort_same s hp, hf]
  rfl

end

/-! The start of an update. -/

/-- Taking an update out of what waits changes its port, but not the temperature, and finishes a descriptor. -/
theorem takeNext_eq (p : Nat) (n : NextUpdate) (s : State) : ∃ f h, (∀ q, (f q).temp = q.temp) ∧
    takeNext p n s = { s.updPort p f with host := h } := by
  cases n with
  | step st => exact ⟨fun q => { q with start := q.start.drop 1 }, s.host, fun _ => rfl, rfl⟩
  | legal r => exact ⟨fun q => { q with legal := none }, s.host, fun _ => rfl, rfl⟩
  | windowOff => exact ⟨fun q => { q with winOff := false }, s.host, fun _ => rfl, rfl⟩
  | comp c => exact ⟨fun q => { q with comps := q.comps.drop 1 }, (s.finishOk c.ord (leBytes 1 c.clipped.toNat)).host, fun _ => rfl, rfl⟩

theorem State.ite_setFlag {b : Prop} [Decidable b] (s : State) (a i : Nat) : ∃ m, (if b then s.setFlag a i else s) = { s with regs := m } := by
  split
  · exact ⟨_, rfl⟩
  · exact ⟨s.regs, rfl⟩

theorem State.updPort_updPort_hostRegs (s : State) (p : Nat) (f g : Port → Port) (h : HostIf) (m : List (Nat × Word)) :
    State.updPort { s.updPort p f with host := h, regs := m } p g = { s.updPort p (g ∘ f) with host := h, regs := m } := by
  simp only [State.updPort, Tab.upd_upd]

/-- An update that begins: what it drives, the change of its port, and the journal. -/
theorem beginUpdate_eq (p : Nat) (n : NextUpdate) (deg : Int) (s : State) : ∃ u f h m,
    (∀ q : Port, (f q).phase = .rising u ∧ (f q).hven = true ∧ (f q).temp = q.temp) ∧
    (u.region = (planUpdate s p n).1 ∧ u.mode = (planUpdate s p n).2.1 ∧ u.kind = (planUpdate s p n).2.2.1 ∧
      u.range = Wave.range (s.tableAt 0).activeBank deg ∧ u.frames = Wave.frames (s.tableAt 0).activeBank u.mode u.range ∧
      u.targets = Px.setAll [] (u.region.pixels.map fun px => (px, (planUpdate s p n).2.2.2.2 px))) ∧
    beginUpdate p n deg s = journal p true u { s.updPort p f with host := h, regs := m } := by
  obtain ⟨f, h, hf, htake⟩ := takeNext_eq p n s
  unfold beginUpdate
  generalize planUpdate s p n = plan
  obtain ⟨region, mode, kind, id, level⟩ := plan
  dsimp -zeta only
  extract_lets table map r lost u s1 s2 mismatch
  obtain ⟨m, hm⟩ : ∃ m, s2 = { s1 with regs := m } := State.ite_setFlag ..
  have hs1 : s1 = { s.updPort p f with host := h } := htake
  clear_value s1 s2 mismatch
  subst hs1 hm
  rw [State.updPort_updPort_hostRegs]
  refine ⟨u, _, h, m, ?_, ⟨rfl, rfl, rfl, rfl, rfl, rfl⟩, rfl⟩
  exact fun q => ⟨rfl, rfl, hf q⟩

theorem beginUpdate_spec {p : Nat} (hp : p < 4) (n : NextUpdate) (deg : Int) (s t : State) (ht : t = beginUpdate p n deg s) :
    ∃ u, t = { s with mantel := t.mantel, ember := t.ember, host := t.host, regs := t.regs } ∧
      (t.portAt p).phase = .rising u ∧ (t.portAt p).hven = true ∧ (t.portAt p).temp = (s.portAt p).temp ∧
      (u.region = (planUpdate s p n).1 ∧ u.mode = (planUpdate s p n).2.1 ∧ u.kind = (planUpdate s p n).2.2.1 ∧
        u.range = Wave.range (s.tableAt 0).activeBank deg ∧ u.frames = Wave.frames (s.tableAt 0).activeBank u.mode u.range ∧
        u.targets = Px.setAll [] (u.region.pixels.map fun px => (px, (planUpdate s p n).2.2.2.2 px))) ∧
      t.ember = s.ember.putJournal p true u.kind.code u.mode u.region u.imageId u.frames u.range s.rtc.count ∧
      ∀ q, q ≠ p → t.portAt q = s.portAt q := by
  obtain ⟨u, f, h, m, hf, hu, hx⟩ := beginUpdate_eq p n deg s
  rw [← ht] at hx
  have hport : t.portAt p = f (s.portAt p) := by rw [hx]; exact State.portAt_updPort_same s hp f
  obtain ⟨h1, h2, h3⟩ := hf (s.portAt p)
  refine ⟨u, by rw [hx]; rfl, by rw [hport, h1], by rw [hport, h2], by rw [hport, h3], hu, by rw [hx]; rfl, fun q hq => ?_⟩
  rw [hx]
  exact State.portAt_updPort_other s hq f

/-- Both commands try the next update from a port between updates. -/
theorem exec_tryUpdate {s : State} {p : Fin 4} {temp : TempRead} {c : Instr} {ph : PortPhase} (hfree : engineFree s p = true)
    (hc : (c, ph) ∈ [(Instr.updateStart p temp, PortPhase.idle), (.temperatureRetry p temp, .waitTemp)]) (hph : (s.portAt p).phase = ph) :
    exec c s = .next (tryUpdate p temp (s.portIdle p)) := by
  simp only [List.mem_cons, List.not_mem_nil, or_false, Prod.mk.injEq] at hc
  rcases hc with ⟨rfl, rfl⟩ | ⟨rfl, rfl⟩
  · have hidle : s.portIdle p = s := State.updPort_self s p _ (by rw [← hph])
    show execUpdateStart p temp s = _
    rw [execUpdateStart, hfree, hph, hidle]
    rfl
  · show execTemperatureRetry p temp s = _
    rw [execTemperatureRetry, hfree, hph]
    rfl

section
variable {s : State} {p : Fin 4} {n : NextUpdate} (hn : nextUpdate (s.portAt p) = some n) (hw : mustWait s p n = false)
include hn hw

/-- The course of an attempt, by what is left to drive, the timing and the temperature. -/
theorem tryUpdate_idle (temp : TempRead) : tryUpdate p temp (s.portIdle p) =
    if (planUpdate s p n).1.isEmpty then takeNext p n (s.portIdle p)
    else if timingOk s p = false then (s.portIdle p).updPort p fun q => { q with timingErr := true }
    else match readTemp s p temp with
      | some t => beginUpdate p n t ((s.portIdle p).updPort p fun q => { q with temp := t, tempAt := some s.fault.timeBase })
      | none => match lastTemp s p with
        | some t => beginUpdate p n t (s.portIdle p)
        | none => ((s.portIdle p).setFlag (portReg p 0x10) 2).updPort p fun q => { q with phase := .waitTemp } := by
  have hport : (s.portIdle p).portAt p = { s.portAt p with phase := .idle } := State.portAt_updPort_same s p.isLt _
  have hn' : nextUpdate ((s.portIdle p).portAt p) = some n := by rw [hport]; exact hn
  have hw' : mustWait (s.portIdle p) p n = false := (mustWait_updPort p.isLt rfl n).trans hw
  have hplan : planUpdate (s.portIdle p) p n = planUpdate s p n := planUpdate_updPort p.isLt rfl n
  have hlast : lastTemp (s.portIdle p) p = lastTemp s p := by
    unfold lastTemp
    rw [hport]
    rfl
  unfold tryUpdate
  simp only [hn', hw', hplan, hlast, Bool.false_eq_true, if_false, Bool.not_eq_true'] <;> rfl

/-- With a temperature the update begins, from a port that has kept its picture. -/
theorem tryUpdate_warm {temp : TempRead} {deg : Int} (h : (planUpdate s p n).1.isEmpty = false) (ht : timingOk s p = true)
    (hor : readTemp s p temp = some deg ∨ readTemp s p temp = none ∧ lastTemp s p = some deg) :
    ∃ f te ta, f (s.portAt p) = { s.portAt p with phase := .idle, temp := te, tempAt := ta } ∧ (readTemp s p temp = some deg → te = deg) ∧
      tryUpdate p temp (s.portIdle p) = beginUpdate p n deg (s.updPort p f) := by
  rw [tryUpdate_idle hn hw, if_neg (by simp [h]), if_neg (by simp [ht])]
  rcases hor with hr | ⟨hr, hl⟩
  · rw [hr]
    exact ⟨_, deg, some s.fault.timeBase, rfl, fun _ => rfl, congrArg (beginUpdate p n deg) (State.updPort_updPort s p _ _)⟩
  · rw [hr, hl]
    exact ⟨_, (s.portAt p).temp, (s.portAt p).tempAt, rfl, nofun, rfl⟩

end

/-! The end of an update. -/

/-- A port after the zero frame of an update. -/
def Port.ended (q : Port) (u : Update) : Port :=
  { q with phase := .idle, hven := false, updates := (q.updates + 1) % 2 ^ 32, pol := q.pol != (u.frames % 2 == 0),
           levels := Px.setAll (q.levels.filter fun c => !(u.region.has c.1)) u.targets }

/-- The state in which an update has ended and its journal is CLEAN. -/
def State.scanned (s : State) (p : Nat) (u : Update) : State := journal p false u (s.updPort p fun q => q.ended u)

/-- The ember store with the journal of a port CLEAN. -/
def State.cleaned (s : State) (p : Nat) (u : Update) : Ember :=
  s.ember.putJournal p false u.kind.code u.mode u.region u.imageId u.frames u.range s.rtc.count

theorem swapPending_scanned (s : State) (p : Nat) (u : Update) : ∃ m,
    swapPending (s.scanned p u) = { s with mantel := m, ember := s.cleaned p u } ∧
    m.ports = (s.updPort p fun q => q.ended u).mantel.ports := by
  have h : s.scanned p u = { s with mantel := (s.updPort p fun q => q.ended u).mantel, ember := s.cleaned p u } := rfl
  rw [h, (swapPending_spec _).1]
  exact ⟨_, rfl, rfl⟩

theorem exec_updateEnd {s : State} {p : Fin 4} {u : Update} (h : (s.portAt p).phase = .scanning u) :
    exec (.updateEnd p) s = .next (swapPending (s.scanned p u)) := by
  show execUpdateEnd p s = _
  rw [execUpdateEnd, h]
  rfl

/-- Settles O36: an attempt by its conditions; what an update plans is read before the port changes. -/
theorem panelUpdates : Obligations.PanelUpdates := by
  unfold Obligations.PanelUpdates
  refine fun p s => ⟨fun temp c ph hfree hc hph n plan hn hplan hw => ?_, fun u hu => ?_, fun u hu => ?_, fun h w hw => ?_, fun h high => ?_⟩
  · subst hplan
    rw [exec_tryUpdate hfree hc hph, tryUpdate_idle hn hw]
    refine ⟨fun h => ?_, fun h ht => ?_, fun h ht hr hl => ?_, fun deg h ht hor => ?_⟩
    · rw [if_pos h]
      rfl
    · rw [if_neg (by simp [h]), if_pos ht, State.portIdle, State.updPort_updPort]
      rfl
    · rw [if_neg (by simp [h]), if_neg (by simp [ht]), hr, hl]
      refine ⟨_, rfl, rfl, congrArg Port.phase (State.portAt_updPort_same _ p.isLt _), ?_⟩
      have hreg : ((s.portIdle p).setFlag (portReg p 0x10) 2).reg (portReg p 0x10) = s.reg (portReg p 0x10) ||| putAt 1 2 :=
        State.reg_setReg_same ..
      exact (congrArg (bitOf · 2) hreg).trans (bitOf_or_putAt_one _ (by decide))
    · obtain ⟨f, te, ta, hf, hte, hx⟩ := tryUpdate_warm hn hw h ht hor
      rw [← tryUpdate_idle hn hw, hx]
      obtain ⟨u, h1, h2, h3, h4, ⟨h5, h6, h7, h8, h9, h10⟩, h11, h12⟩ := beginUpdate_spec p.isLt n deg (s.updPort p f) _ rfl
      rw [planUpdate_updPort p.isLt hf n] at h5 h6 h7 h10
      rw [State.portAt_updPort_same s p.isLt, hf] at h4
      exact ⟨_, u, rfl, h1, h2, h3, fun hr => h4.trans (hte hr), h5, h6, h7, h8, h9, h10, h11,
        fun q hq => (h12 q (Fin.val_ne_of_ne hq)).trans (State.portAt_updPort_other s (Fin.val_ne_of_ne hq) f)⟩
  · show execHvDlyExpiry p s = _
    simp only [execHvDlyExpiry, hu]
  · obtain ⟨m, hx, hports⟩ := swapPending_scanned s p u
    have hport : State.portAt { s with mantel := m, ember := s.cleaned p u } p = (s.portAt p).ended u :=
      (State.portAt_congr hports p).trans (State.portAt_updPort_same s p.isLt _)
    refine ⟨_, (exec_updateEnd hu).trans (congrArg Host.Outcome.next hx), rfl, ?_, ?_, ?_, ?_, rfl, fun q hq => ?_⟩
    · rw [hport]; rfl
    · rw [hport]; rfl
    · rw [hport]; rfl
    · rw [hport]; rfl
    · exact (State.portAt_congr hports q).trans (State.portAt_updPort_other s (Fin.val_ne_of_ne hq) _)
  · subst hw
    refine ⟨?_, fun hp => ?_, fun hp => ?_⟩
    · exact (if_neg (by rw [h]; decide)).trans (if_neg fun hc => Bool.noConfusion hc.1)
    · exact (if_neg (by rw [h]; decide)).trans (if_pos ⟨rfl, hp⟩)
    · exact (if_neg (by rw [h]; decide)).trans (if_neg fun hc => Nat.not_le.mpr hc.2 hp)
  · exact if_pos (by rw [h]; rfl)

end Sys2Proof.Machine

/-! The cycles of the Penad link and the end of an exchange (R380 to R384). -/

namespace Sys2Proof.Machine

/-! What a cycle leaves alone. -/

/-- The link without its cycle, its exchange and the counts of their ends. -/
def Link.steady (k : Link) : Link :=
  { k with polling := false, wrote := false, next := 0, cycles := 0, bank := false, live := false, work := none, swapOrd := none,
           seqs := [], exch := none, dropped := 0, owed := [] }

theorem Link.steady_line {j k : Link} (h : j.steady = k.steady) :
    j.en = k.en ∧ j.enPend = k.enPend ∧ j.txen = k.txen ∧ j.frame = k.frame ∧ j.sends = k.sends ∧ j.spans = k.spans :=
  ⟨(congrArg Link.en h :), (congrArg Link.enPend h :), (congrArg Link.txen h :), (congrArg Link.frame h :), (congrArg Link.sends h :),
    (congrArg Link.spans h :)⟩

/-- A step of the cycle: it changes the cycle, the messages and descriptors that have not finished. -/
structure Cycled (s t : State) : Prop where
  frame : t = { s with link := t.link, host := t.host }
  steady : t.link.steady = s.link.steady
  exch : t.link.exch = s.link.exch
  dropped : t.link.dropped = s.link.dropped
  dma : t.host.dma = s.host.dma
  finished : ∀ o d, s.flight o = some d → d.phase.isDone = true → t.flight o = some d

theorem Cycled.refl (s : State) : Cycled s s := ⟨rfl, rfl, rfl, rfl, rfl, fun _ _ h _ => h⟩
theorem Cycled.trans {s t u : State} (h : Cycled s t) (g : Cycled t u) : Cycled s u where
  frame := by
    have hh : ∀ l h, ({ t with link := l, host := h } : State) = { s with link := l, host := h } := fun l h' => by rw [h.frame]
    exact g.frame.trans (hh _ _)
  steady := g.steady.trans h.steady
  exch := g.exch.trans h.exch
  dropped := g.dropped.trans h.dropped
  dma := g.dma.trans h.dma
  finished := fun o d hd hp => g.finished o d (h.finished o d hd hp) hp
theorem Cycled.regs {s t : State} (h : Cycled s t) : t.regs = s.regs := by rw [h.frame]

theorem State.flight_finish_kept {s : State} {o : Nat} {d : Inflight} (hd : s.flight o = some d) (hp : d.phase.isDone = true)
    (ord status detail : Nat) (r : List Byte) : (s.finish ord status detail r).flight o = some d := by
  by_cases h : o = ord
  · subst h; exact State.flight_finish_done hd hp status detail r
  · rw [State.flight_finish_other s h, hd]

/-- A change of the cycle's own fields. -/
theorem Cycled.updLink (s : State) (f : Link → Link) (h1 : (f s.link).steady = s.link.steady) (h2 : (f s.link).exch = s.link.exch)
    (h3 : (f s.link).dropped = s.link.dropped) : Cycled s (s.updLink f) := ⟨rfl, h1, h2, h3, rfl, fun _ _ h _ => h⟩

theorem Cycled.finish (s : State) (ord status detail : Nat) (r : List Byte) : Cycled s (s.finish ord status detail r) :=
  ⟨rfl, rfl, rfl, rfl, rfl, fun _ _ hd hp => State.flight_finish_kept hd hp ord status detail r⟩

/-! Steps of the cycle. -/

theorem bankSwap_cycled (s : State) : Cycled s (bankSwap s) := by
  unfold bankSwap
  split
  · exact (Cycled.updLink s _ rfl rfl rfl).trans (Cycled.finish ..)
  · exact Cycled.refl s
theorem bankSwap_polling (s : State) : (bankSwap s).link.polling = s.link.polling := by unfold bankSwap; split <;> rfl
theorem bankSwap_cycles (s : State) : (bankSwap s).link.cycles = s.link.cycles := by unfold bankSwap; split <;> rfl

theorem cycleMessage_cycled (s : State) : Cycled s (cycleMessage s) := by
  unfold cycleMessage
  split
  · rw [State.raiseVector_eq]
    exact ⟨rfl, rfl, rfl, rfl, rfl, fun _ _ h _ => h⟩
  · exact Cycled.refl s
theorem cycleMessage_link (s : State) : (cycleMessage s).link = s.link := by
  unfold cycleMessage
  split
  · rw [State.raiseVector_eq]
  · rfl

theorem endCycle_cycled (whole : Bool) (s : State) : Cycled s (endCycle whole s) :=
  ((cycleMessage_cycled s).trans (Cycled.updLink _ _ rfl rfl rfl)).trans (bankSwap_cycled _)
theorem endCycle_polling (whole : Bool) (s : State) : (endCycle whole s).link.polling = false := bankSwap_polling _
theorem endCycle_cycles (s : State) : (endCycle true s).link.cycles = (s.link.cycles + 1) % 2 ^ 32 := by
  refine (bankSwap_cycles _).trans ?_
  exact congrArg (fun k : Link => (k.cycles + 1) % 2 ^ 32) (cycleMessage_link s)

theorem startCycle_eq (s : State) : startCycle s =
    if (s.pollRun && s.linkEnabled && s.link.live && !s.link.polling) = true then
      if (Poll.nextFrom s.pollList 0).isSome = true then s.updLink fun k => { k with polling := true, wrote := false, next := 0 }
      else endCycle true s
    else s := rfl

theorem startCycle_cycled (s : State) : Cycled s (startCycle s) := by
  rw [startCycle_eq]
  split
  · split
    · exact Cycled.updLink s _ rfl rfl rfl
    · exact endCycle_cycled true s
  · exact Cycled.refl s

theorem startCycle_running {s : State} (h1 : s.pollRun = true) (h2 : s.linkEnabled = true) (h3 : s.link.live = true)
    (h4 : s.link.polling = false) : startCycle s = if (Poll.nextFrom s.pollList 0).isSome = true then
      s.updLink fun k => { k with polling := true, wrote := false, next := 0 } else endCycle true s := by
  rw [startCycle_eq, h1, h2, h3, h4]
  rfl
theorem startCycle_idle {s : State} (h : s.pollRun = false ∨ s.linkEnabled = false ∨ s.link.live = false ∨ s.link.polling = true) :
    startCycle s = s := by
  rw [startCycle_eq]
  refine if_neg ?_
  rcases h with h | h | h | h <;> simp [h]

theorem betweenExchanges_cycled (s : State) : Cycled s (betweenExchanges s) := by
  unfold betweenExchanges
  split
  · exact Cycled.refl s
  · split
    · exact endCycle_cycled false s
    · split
      · exact (endCycle_cycled true s).trans (startCycle_cycled _)
      · exact Cycled.refl s

/-! The end of an exchange. -/

/-- The number that the slot of a poll-list entry gets next. -/
def State.pollSeq (s : State) (e : Exchange) : Nat := (s.link.seqs.getD e.entry 0 + 1) % 2 ^ 32

theorem finishPoll_written {e : Exchange} {code : Nat} {ok : Bool} {s : State} (hok : ok = true) (hd : canDma s = true) :
    ∃ k, finishPoll e code ok s = { s with link := k, host := { s.host with
        dma := ⟨e.respAddr, pollSlot s e code (s.pollSeq e)⟩ :: s.host.dma } } ∧
      k.steady = s.link.steady ∧ k.exch = none := by
  have hc : canDma (s.updLink fun k => { k with seqs := k.seqs.set e.entry (s.pollSeq e), exch := none, next := e.entry + 1 }) = true := hd
  exact ⟨_, if_pos (by rw [hok]; exact hc), rfl, rfl⟩

theorem finishPoll_dropped {e : Exchange} {code : Nat} {ok : Bool} {s : State} (h : ok = false ∨ canDma s = false) :
    ∃ k, finishPoll e code ok s = { s.setFlag 0x34040 0 with link := k } ∧ k.steady = s.link.steady ∧ k.exch = none ∧
      k.dropped = (s.link.dropped + 1) % 2 ^ 32 := by
  have hc : (ok && canDma (s.updLink fun k =>
      { k with seqs := k.seqs.set e.entry (s.pollSeq e), exch := none, next := e.entry + 1 })) = false := by
    rcases h with h | h
    · rw [h]; rfl
    · exact (Bool.and_eq_false_iff ..).mpr (.inr h)
  exact ⟨_, if_neg (by rw [← Bool.not_eq_true] at hc; exact hc), rfl, rfl, rfl⟩

/-- The reply that a LINK_SEND returns, and its RESULT. -/
def Exchange.reply (e : Exchange) (code : Nat) : List Byte := if code = 0 then e.got.take e.respMax else []
def Exchange.result (e : Exchange) (code : Nat) : List Byte := leBytes 1 code ++ leBytes 1 e.attempt ++ leBytes 2 (e.reply code).length

theorem finishSend_eq (o : Nat) (e : Exchange) (code : Nat) (ok : Bool) (s : State) : finishSend o e code ok s =
    if (e.reply code).isEmpty then (s.updLink fun k => { k with exch := none }).finishOk o (e.result code)
    else if !(canDma s) then s.updLink fun k =>
      { k with exch := none, owed := k.owed ++ [{ ord := o, addr := e.respAddr, data := e.reply code, result := e.result code }] }
    else if ok then ((s.updLink fun k => { k with exch := none }).dmaWrite e.respAddr (e.reply code)).finishOk o (e.result code)
    else bufferError o 2 (s.updLink fun k => { k with exch := none }) := rfl

/-- A failed buffer transfer leaves the link and, but for HOST_ERR, the registers. -/
theorem bufferError_link (o detail : Nat) (s : State) : (bufferError o detail s).link = s.link := by
  obtain ⟨f, e, m, p, h, r, c, ht⟩ := transferError_eq 4 ((s.flight o).map Inflight.sq |>.getD 0) s
  rw [bufferError, ht]
  rfl
theorem bufferError_reg {a : Nat} (h : a ≠ 0x4010) (o detail : Nat) (s : State) : (bufferError o detail s).reg a = s.reg a :=
  transferError_reg_other _ _ _ h

theorem finishSend_link (o : Nat) (e : Exchange) (code : Nat) (ok : Bool) (s : State) :
    (finishSend o e code ok s).link.steady = s.link.steady ∧ (finishSend o e code ok s).link.exch = none := by
  rw [finishSend_eq]
  split
  · exact ⟨rfl, rfl⟩
  · split
    · exact ⟨rfl, rfl⟩
    · split
      · exact ⟨rfl, rfl⟩
      · rw [bufferError_link]
        exact ⟨rfl, rfl⟩

theorem finishSend_reg {a : Nat} (h : a ≠ 0x4010) (o : Nat) (e : Exchange) (code : Nat) (ok : Bool) (s : State) :
    (finishSend o e code ok s).reg a = s.reg a := by
  rw [finishSend_eq]
  repeat' split
  · rfl
  · rfl
  · rfl
  · exact bufferError_reg h o 2 _

theorem finishExchange_send {e : Exchange} {o : Nat} (h : e.send = some o) (code : Nat) (ok : Bool) (s : State) :
    finishExchange e code ok s = betweenExchanges (finishSend o e code ok s) := by rw [finishExchange, h]
theorem finishExchange_poll {e : Exchange} (h : e.send = none) (code : Nat) (ok : Bool) (s : State) :
    finishExchange e code ok s = betweenExchanges (finishPoll e code ok s) := by rw [finishExchange, h]

/-- After the end of an exchange none is in progress; the line stands as before. -/
theorem finishExchange_link (e : Exchange) (code : Nat) (ok : Bool) (s : State) :
    (finishExchange e code ok s).link.steady = s.link.steady ∧ (finishExchange e code ok s).link.exch = none := by
  cases h : e.send with
  | some o =>
    rw [finishExchange_send h]
    have hc := betweenExchanges_cycled (finishSend o e code ok s)
    obtain ⟨h1, h2⟩ := finishSend_link o e code ok s
    exact ⟨hc.steady.trans h1, hc.exch.trans h2⟩
  | none =>
    rw [finishExchange_poll h]
    have hc := betweenExchanges_cycled (finishPoll e code ok s)
    rcases Bool.eq_false_or_eq_true (ok && canDma s) with hd | hd
    · obtain ⟨k, hk, h1, h2⟩ := finishPoll_written (e := e) (code := code) (Bool.and_eq_true_iff.mp hd).1 (Bool.and_eq_true_iff.mp hd).2
      rw [hk] at hc ⊢
      exact ⟨hc.steady.trans h1, hc.exch.trans h2⟩
    · obtain ⟨k, hk, h1, h2, -⟩ := finishPoll_dropped (e := e) (code := code) ((Bool.and_eq_false_iff ..).mp hd)
      rw [hk] at hc ⊢
      exact ⟨hc.steady.trans h1, hc.exch.trans h2⟩

theorem finishExchange_reg {a : Nat} (h : a ≠ 0x4010) (h' : a ≠ 0x34040) (e : Exchange) (code : Nat) (ok : Bool) (s : State) :
    (finishExchange e code ok s).reg a = s.reg a := by
  cases hs : e.send with
  | some o =>
    rw [finishExchange_send hs, State.reg_congr (betweenExchanges_cycled _).regs, finishSend_reg h]
  | none =>
    rw [finishExchange_poll hs, State.reg_congr (betweenExchanges_cycled _).regs]
    rcases Bool.eq_false_or_eq_true (ok && canDma s) with hd | hd
    · obtain ⟨k, hk, -, -⟩ := finishPoll_written (e := e) (code := code) (Bool.and_eq_true_iff.mp hd).1 (Bool.and_eq_true_iff.mp hd).2
      rw [hk]
      rfl
    · obtain ⟨k, hk, -, -, -⟩ := finishPoll_dropped (e := e) (code := code) ((Bool.and_eq_false_iff ..).mp hd)
      rw [hk]
      exact State.reg_setReg_other s _ h'.symm

/-- The slot of a POLL is written. -/
theorem finishExchange_slot {e : Exchange} (h : e.send = none) {ok : Bool} {s : State} (hok : ok = true) (hd : canDma s = true)
    (code : Nat) : (finishExchange e code ok s).host.dma = ⟨e.respAddr, pollSlot s e code (s.pollSeq e)⟩ :: s.host.dma := by
  obtain ⟨k, hk, -, -⟩ := finishPoll_written (e := e) (code := code) hok hd
  rw [finishExchange_poll h, (betweenExchanges_cycled _).dma, hk]

/-- The slot of a POLL is dropped and counted. -/
theorem finishExchange_dropped {e : Exchange} (h : e.send = none) {ok : Bool} {s : State} (hor : ok = false ∨ canDma s = false)
    (code : Nat) : (finishExchange e code ok s).host.dma = s.host.dma ∧ bitOf ((finishExchange e code ok s).reg 0x34040) 0 = true ∧
      (finishExchange e code ok s).link.dropped = (s.link.dropped + 1) % 2 ^ 32 := by
  obtain ⟨k, hk, -, -, hn⟩ := finishPoll_dropped (e := e) (code := code) hor
  rw [finishExchange_poll h]
  have hc := betweenExchanges_cycled (finishPoll e code ok s)
  refine ⟨?_, ?_, ?_⟩
  · rw [hc.dma, hk]; rfl
  · rw [State.reg_congr hc.regs, hk]
    have hr : State.reg { s.setFlag 0x34040 0 with link := k } 0x34040 = s.reg 0x34040 ||| putAt 1 0 := State.reg_setReg_same ..
    rw [hr]
    exact bitOf_or_putAt_one _ (by decide)
  · rw [hc.dropped, hk, hn]

/-- A LINK_SEND that returns no data finishes. -/
theorem finishExchange_empty {e : Exchange} {o code : Nat} (h : e.send = some o) (hr : (e.reply code).isEmpty = true) {s : State}
    {d : Inflight} (hd : s.flight o = some d) (hp : d.phase.isDone = false) (ok : Bool) :
    (finishExchange e code ok s).flight o =
      some { d with phase := .done { status := 0, detail := 0, result := padTo 24 (e.result code) } } := by
  rw [finishExchange_send h]
  refine (betweenExchanges_cycled _).finished o _ ?_ rfl
  rw [finishSend_eq, if_pos hr]
  exact State.flight_finish (s := s.updLink fun k => { k with exch := none }) hd hp 0 0 _

/-- A LINK_SEND whose reply is written finishes. -/
theorem finishExchange_reply {e : Exchange} {o code : Nat} (h : e.send = some o) (hr : (e.reply code).isEmpty = false) {s : State}
    {ok : Bool} (hok : ok = true) (hc : canDma s = true) :
    (finishExchange e code ok s).host.dma = ⟨e.respAddr, e.reply code⟩ :: s.host.dma ∧
    ∀ d, s.flight o = some d → d.phase.isDone = false → (finishExchange e code ok s).flight o =
      some { d with phase := .done { status := 0, detail := 0, result := padTo 24 (e.result code) } } := by
  have hx : finishSend o e code ok s =
      ((s.updLink fun k => { k with exch := none }).dmaWrite e.respAddr (e.reply code)).finishOk o (e.result code) := by
    rw [finishSend_eq, if_neg (by rw [hr]; exact Bool.false_ne_true), if_neg (by rw [hc]; decide), if_pos hok]
  rw [finishExchange_send h, hx]
  refine ⟨(betweenExchanges_cycled _).dma, fun d hd hp => (betweenExchanges_cycled _).finished o _ ?_ rfl⟩
  exact State.flight_finish (s := (s.updLink fun k => { k with exch := none }).dmaWrite e.respAddr (e.reply code)) hd hp 0 0 _

/-! The link goes off. -/

/-- Has a descriptor finished, or is it no longer in flight? -/
def State.answered (s : State) (o : Nat) : Prop := ∀ d, s.flight o = some d → d.phase.isDone = true

theorem State.answered_finish_same (s : State) (ord status detail : Nat) (r : List Byte) :
    (s.finish ord status detail r).answered ord := by
  intro d hd
  rw [State.finish, flight_setPhase_same, Option.map_eq_some_iff] at hd
  obtain ⟨e, -, rfl⟩ := hd
  unfold Inflight.toPhase
  split
  · assumption
  · rfl
theorem State.answered_finish_kept {s : State} {o : Nat} (h : s.answered o) (ord status detail : Nat) (r : List Byte) :
    (s.finish ord status detail r).answered o := by
  by_cases ho : o = ord
  · subst ho; exact State.answered_finish_same s o status detail r
  · intro d hd
    rw [State.flight_finish_other s ho] at hd
    exact h d hd

theorem answered_finishAll_kept {o : Nat} (l : List SendWait) (status detail : Nat) {s : State} (h : s.answered o) :
    (l.foldl (fun s w => s.finishFail w.ord status detail) s).answered o := by
  induction l generalizing s with
  | nil => exact h
  | cons w l ih => exact ih (State.answered_finish_kept h _ _ _ _)

/-- Every LINK_SEND that waits is answered. -/
theorem answered_finishAll (l : List SendWait) (status detail : Nat) (s : State) :
    ∀ w ∈ l, (l.foldl (fun s w => s.finishFail w.ord status detail) s).answered w.ord := by
  induction l generalizing s with
  | nil => exact nofun
  | cons x l ih =>
    intro w hw
    rcases List.mem_cons.mp hw with rfl | hw
    · exact answered_finishAll_kept l status detail (State.answered_finish_same _ _ _ _ _)
    · exact ih _ w hw

theorem finishAll_cycled (l : List SendWait) (status detail : Nat) (s : State) :
    Cycled s (l.foldl (fun s w => s.finishFail w.ord status detail) s) := by
  induction l generalizing s with
  | nil => exact Cycled.refl s
  | cons w l ih => exact (Cycled.finish ..).trans (ih _)
theorem finishAll_link (l : List SendWait) (status detail : Nat) (s : State) :
    (l.foldl (fun s w => s.finishFail w.ord status detail) s).link = s.link := by
  induction l generalizing s with
  | nil => rfl
  | cons w l ih => exact ih _

/-- The line is cut: no frame is sent or received, and LINK_TXEN falls. -/
def State.lineCut (s : State) : State :=
  s.updLink fun k => { k with txen := false, fall := if k.txen then some s.gridFrame else k.fall.map (min s.gridFrame ·),
                              frame := none, rx := { k.rx with run := [], frame := none } }
/-- The exchange in progress has been cut off. -/
def State.exchangeCut (s : State) : State := match s.link.exch with | some e => finishExchange e e.cutCode true s | none => s
def State.cycleCut (s : State) : State := if s.link.polling then endCycle false s else s

theorem linkOff_eq (s : State) : linkOff s =
    s.lineCut.exchangeCut.cycleCut.link.sends.foldl (fun s w => s.finishFail w.ord 0x0E 0)
      (s.lineCut.exchangeCut.cycleCut.updLink fun k => { k with sends := [] }) := rfl

theorem State.exchangeCut_link (s : State) : s.exchangeCut.link.steady = s.link.steady ∧ s.exchangeCut.link.exch = none := by
  unfold State.exchangeCut
  split
  · exact finishExchange_link ..
  · rename_i h; exact ⟨rfl, h⟩
theorem State.exchangeCut_reg {a : Nat} (h : a ≠ 0x4010) (h' : a ≠ 0x34040) (s : State) : s.exchangeCut.reg a = s.reg a := by
  unfold State.exchangeCut
  split
  · exact finishExchange_reg h h' ..
  · rfl
theorem State.cycleCut_cycled (s : State) : Cycled s s.cycleCut := by
  unfold State.cycleCut
  split
  · exact endCycle_cycled false s
  · exact Cycled.refl s
theorem State.cycleCut_polling (s : State) : s.cycleCut.link.polling = false := by
  unfold State.cycleCut
  split
  · exact endCycle_polling false s
  · rename_i h; exact Bool.not_eq_true _ |>.mp h

/-- The link as it is off: nothing is in progress, and every LINK_SEND that waited is answered. -/
theorem linkOff_spec (s t : State) (ht : t = linkOff s) :
    t.link.en = s.link.en ∧ t.link.enPend = s.link.enPend ∧ t.link.txen = false ∧ t.link.frame = none ∧ t.link.exch = none ∧
    t.link.polling = false ∧ t.link.sends = [] ∧ t.link.spans = s.link.spans ∧
    (∀ a, a ≠ 0x4010 → a ≠ 0x34040 → t.reg a = s.reg a) ∧ ∀ w ∈ s.link.sends, t.answered w.ord := by
  rw [linkOff_eq] at ht
  obtain ⟨hs, hx⟩ := State.exchangeCut_link s.lineCut
  have hc := State.cycleCut_cycled s.lineCut.exchangeCut
  have hst : s.lineCut.exchangeCut.cycleCut.link.steady = s.lineCut.link.steady := hc.steady.trans hs
  have hp := State.cycleCut_polling s.lineCut.exchangeCut
  have hex := hc.exch.trans hx
  have hr : ∀ a, a ≠ 0x4010 → a ≠ 0x34040 → s.lineCut.exchangeCut.cycleCut.reg a = s.reg a := fun a h h' => by
    rw [State.reg_congr hc.regs, State.exchangeCut_reg h h']
    rfl
  generalize s.lineCut.exchangeCut.cycleCut = u at ht hst hp hex hr
  have hlink : t.link = { u.link with sends := [] } := by rw [ht, finishAll_link]; rfl
  obtain ⟨hen, hpend, htx, hframe, hsends, hspans⟩ : u.link.en = s.link.en ∧ u.link.enPend = s.link.enPend ∧
    u.link.txen = false ∧ u.link.frame = none ∧ u.link.sends = s.link.sends ∧ u.link.spans = s.link.spans := Link.steady_line hst
  refine ⟨?_, ?_, ?_, ?_, ?_, ?_, ?_, ?_, fun a h h' => ?_, fun w hw => ?_⟩
  · rw [hlink]; exact hen
  · rw [hlink]; exact hpend
  · rw [hlink]; exact htx
  · rw [hlink]; exact hframe
  · rw [hlink]; exact hex
  · rw [hlink]; exact hp
  · rw [hlink]
  · rw [hlink]; exact hspans
  · rw [ht, State.reg_congr (finishAll_cycled ..).regs]
    exact hr a h h'
  · rw [ht]
    exact answered_finishAll _ _ _ _ w (by rwa [hsends])

end Sys2Proof.Machine

/-! The commands of the Penad link (R366, R379 to R381). -/

namespace Sys2Proof.Machine

/-! LINK_POLLSET. -/

/-- LINK_POLLSET as it works where none before it is unfinished. -/
def pollsetTaken (ord : Nat) (d : Inflight) (buf : HostRead) (s : State) : State :=
  if !s.linkRx then s.finishFail ord 0x0E 0 else
  match buf with
  | none => bufferError ord 1 s
  | some bs =>
    match Poll.reject (padTo d.bufLen bs) with
    | some (i, o) => (s.updLink fun k => { k with rejEntry := i, rejOffset := o }).finishFail ord 0x02 8
    | none =>
      let s := (s.updLink fun k =>
        { k with banks := Tab.upd k.banks (!k.bank).toNat fun _ => padTo d.bufLen bs, swapOrd := some ord }).setPhase ord .working
      if s.link.polling then s else startCycle (bankSwap s)

theorem exec_linkPollset {s : State} {ord : Nat} {d : Inflight} (h : StartsDma s ord Opc.linkPollset d)
    (hfirst : ∀ e ∈ s.host.inflight, e.ord < ord → e.opcode = Opc.linkPollset → e.phase.isDone = true) (buf : HostRead) :
    exec (.linkPollset ord buf) s = .next (pollsetTaken ord d buf s) := by
  refine (if_neg ?_).trans (withBuffer_starts h _)
  simp only [List.any_eq_true, Bool.and_eq_true, decide_eq_true_eq, beq_iff_eq, Bool.not_eq_true', not_exists, not_and]
  rintro e he ⟨h1, h2⟩
  simp [hfirst e he h1 h2]

theorem exec_linkPollset_waits {s : State} {ord : Nat}
    (h : ∃ e ∈ s.host.inflight, e.ord < ord ∧ e.opcode = Opc.linkPollset ∧ e.phase.isDone = false) (buf : HostRead) :
    exec (.linkPollset ord buf) s = .next s := by
  refine if_pos ?_
  simp only [List.any_eq_true, Bool.and_eq_true, decide_eq_true_eq, beq_iff_eq, Bool.not_eq_true']
  obtain ⟨e, he, h1, h2, h3⟩ := h
  exact ⟨e, he, ⟨h1, h2⟩, h3⟩

/-- A list that is taken, in the bank not in use. -/
def State.listWritten (s : State) (ord : Nat) (l : List Byte) : State :=
  ({ s with link := { s.link with
      banks := Tab.upd s.link.banks (!s.link.bank).toNat (fun _ => l), swapOrd := some ord } } : State).setPhase ord .working

theorem pollsetTaken_valid {s : State} {ord : Nat} {d : Inflight} {bs l : List Byte} (hrx : s.linkRx = true) (hl : l = padTo d.bufLen bs)
    (hr : Poll.reject l = none) : pollsetTaken ord d (some bs) s =
      if s.link.polling = true then s.listWritten ord l else startCycle (bankSwap (s.listWritten ord l)) := by
  subst hl
  unfold pollsetTaken
  rw [hrx]
  simp only [hr, Bool.not_true, Bool.false_eq_true, if_false] <;> rfl

/-- The other bank in use, with its exchange counts from 0. -/
def State.listUsed (s : State) (l : List Byte) : State :=
  { s with link := { s.link with
      bank := !s.link.bank, live := true, work := some l, swapOrd := none, next := 0, seqs := List.replicate (Poll.count l) 0 } }

theorem bankSwap_some {s : State} {o : Nat} {l : List Byte} (h : s.link.swapOrd = some o)
    (hl : Tab.at s.link.banks (!s.link.bank).toNat [] = l) : bankSwap s = (s.listUsed l).finishOk o [] := by
  subst hl
  rw [bankSwap, h]
  rfl

/-- The state with the list in use and its descriptor finished. -/
def State.listTaken (s : State) (ord : Nat) (l : List Byte) : State := ((s.listWritten ord l).listUsed l).finishOk ord []

/-- A list comes into use at once where no cycle runs. -/
theorem bankSwap_listWritten (s : State) (ord : Nat) (l : List Byte) :
    bankSwap (s.listWritten ord l) = s.listTaken ord l :=
  bankSwap_some rfl (Tab.at_upd_same (by cases s.link.bank <;> decide))

/-- The first cycle over a list with an ENABLED entry. -/
theorem startCycle_listed {s : State} {l : List Byte} (hl : s.link.work = some l) (hlive : s.link.live = true)
    (hp : s.link.polling = false) (hn : (Poll.nextFrom l 0).isSome = true) : startCycle s = if (s.pollRun && s.linkEnabled) = true then
      s.updLink fun k => { k with polling := true, wrote := false, next := 0 } else s := by
  have hlist : s.pollList = l := by rw [State.pollList, hl]; rfl
  rw [startCycle_eq, hlist, if_pos hn, hlive, hp]
  simp only [Bool.and_true, Bool.not_false]

theorem State.listTaken_eq (s : State) (ord : Nat) (l : List Byte) : ∃ h, s.listTaken ord l = { s with
    host := h,
    link := { s.link with
      banks := Tab.upd s.link.banks (!s.link.bank).toNat (fun _ => l), bank := !s.link.bank, live := true, work := some l,
      swapOrd := none, next := 0, seqs := List.replicate (Poll.count l) 0 } } := ⟨_, rfl⟩

theorem State.flight_listTaken {s : State} {ord op : Nat} {d : Inflight} (h : Starts s ord op d) (l : List Byte) :
    (s.listTaken ord l).flight ord = some { d with phase := .done { status := 0, detail := 0, result := zeros 24 } } :=
  State.flight_finish (s := (s.listWritten ord l).listUsed l) (h.flight_setPhase rfl .working) rfl 0 0 []

/-- A list in use, a cycle begun or not. -/
theorem State.listTaken_spec {s t : State} {ord op : Nat} {d : Inflight} (h : Starts s ord op d) (l : List Byte)
    (hp : s.link.polling = false) (b : Bool) (ht : t = if b = true then
      (s.listTaken ord l).updLink fun k => { k with polling := true, wrote := false, next := 0 } else s.listTaken ord l) :
    t = { s with link := t.link, host := t.host } ∧ t.link.bank = (!s.link.bank) ∧ t.link.work = some l ∧ t.link.live = true ∧
    t.link.swapOrd = none ∧ t.link.polling = b ∧
    t.flight ord = some { d with phase := .done { status := 0, detail := 0, result := zeros 24 } } := by
  have hfl := State.flight_listTaken h l
  obtain ⟨x, hx⟩ := State.listTaken_eq s ord l
  rw [hx] at ht hfl
  cases b with
  | true =>
    rw [if_pos rfl] at ht
    subst ht
    exact ⟨rfl, rfl, rfl, rfl, rfl, rfl, hfl⟩
  | false =>
    rw [if_neg Bool.false_ne_true] at ht
    subst ht
    exact ⟨rfl, rfl, rfl, rfl, rfl, hp, hfl⟩

/-! LINK_SEND. -/

theorem exec_linkSend {s : State} {ord : Nat} {d : Inflight} (h : StartsDma s ord Opc.linkSend d) (buf : HostRead) :
    exec (.linkSend ord buf) s = .next (
      if !s.linkEnabled || s.link.enPend then s.finishFail ord 0x0E 0
      else if !s.link.sends.isEmpty || (s.link.exch.any fun e => e.send.isSome) then s.finishFail ord 0x06 4
      else match buf with
      | none => bufferError ord 1 s
      | some bs => ({ s with link := { s.link with sends := s.link.sends ++ [
          { ord := ord, outpost := d.op 20 1, robust := d.op 21 1 == 1, retries := d.op 22 1, timeout := d.op 36 2,
            req := padTo d.bufLen bs, respAddr := d.op 24 8, respLen := d.op 32 4 }] } } : State).setPhase ord .working) := by
  refine (withBuffer_starts h _).trans ?_
  cases buf <;> rfl

theorem exec_linkSend_off {s : State} {ord : Nat} {d : Inflight} (h : StartsDma s ord Opc.linkSend d)
    (hoff : s.linkEnabled = false ∨ s.link.enPend = true) (buf : HostRead) :
    exec (.linkSend ord buf) s = .next (s.finish ord 0x0E 0 []) := by
  rw [exec_linkSend h, if_pos (by rcases hoff with h | h <;> simp [h])]
  rfl

section
variable {s : State} {ord : Nat} {d : Inflight} (h : StartsDma s ord Opc.linkSend d) (hen : s.linkEnabled = true)
  (hpend : s.link.enPend = false)
include h hen hpend

theorem exec_linkSend_busy (hbusy : s.link.sends ≠ [] ∨ ∃ e, s.link.exch = some e ∧ e.send.isSome = true) (buf : HostRead) :
    exec (.linkSend ord buf) s = .next (s.finish ord 0x06 4 []) := by
  have hb : (!s.link.sends.isEmpty || (s.link.exch.any fun e => e.send.isSome)) = true := by
    rcases hbusy with hs | ⟨e, he, hsend⟩
    · simp [hs]
    · simp [he, hsend]
  rw [exec_linkSend h, if_neg (by simp [hen, hpend]), if_pos hb]
  rfl

theorem exec_linkSend_free (hs : s.link.sends = []) (he : ∀ e, s.link.exch = some e → e.send = none) (buf : HostRead) :
    exec (.linkSend ord buf) s = .next (match buf with
      | none => bufferError ord 1 s
      | some bs => ({ s with link := { s.link with sends := [
          { ord := ord, outpost := d.op 20 1, robust := d.op 21 1 == 1, retries := d.op 22 1, timeout := d.op 36 2,
            req := padTo d.bufLen bs, respAddr := d.op 24 8, respLen := d.op 32 4 }] } } : State).setPhase ord .working) := by
  have hb : ¬(!s.link.sends.isEmpty || (s.link.exch.any fun e => e.send.isSome)) = true := by
    cases hx : s.link.exch with
    | none => simp [hs]
    | some e => simp [hs, he e hx]
  rw [exec_linkSend h, if_neg (by simp [hen, hpend]), if_neg hb, hs]
  cases buf <;> rfl

end

/-! LINK_CTL. -/

/-- LINK_EN and POLL_RUN set begin a cycle where one should run. -/
theorem exec_linkCtl_set {s : State} (hs : s.running Isl.link = true) {c : Instr} {u : State}
    (h : c = .linkEn true ∧ u = { s.putField 0x34004 0 0 1 with link := { s.link with en := true, enPend := false } } ∨
       c = .pollRun true ∧ u = s.putField 0x34004 1 1 1) : exec c s = .next (startCycle u) := by
  rcases h with ⟨rfl, rfl⟩ | ⟨rfl, rfl⟩
  · show execLinkEn true s = _
    rw [execLinkEn, hs]
    rfl
  · show execPollRun true s = _
    rw [execPollRun, hs]
    rfl

theorem exec_linkEn_clear {s : State} (hs : s.running Isl.link = true) : exec (.linkEn false) s = .next (
    if s.link.frame.isSome || s.link.rx.frame.isSome then
      { s.putField 0x34004 0 0 0 with link := { s.link with enPend := s.link.en } }
    else if s.link.en then linkDisable (s.putField 0x34004 0 0 0) else s.putField 0x34004 0 0 0) := by
  show execLinkEn false s = _
  rw [execLinkEn, hs]
  by_cases hf : (s.link.frame.isSome || s.link.rx.frame.isSome) = true
  · rw [if_pos hf]; exact if_pos hf
  · rw [if_neg hf]; exact if_neg hf

theorem exec_pollRun_clear {s : State} (hs : s.running Isl.link = true) : exec (.pollRun false) s = .next (
    if s.link.exch.isNone then betweenExchanges (s.putField 0x34004 1 1 0) else s.putField 0x34004 1 1 0) := by
  show execPollRun false s = _
  rw [execPollRun, hs]
  rfl

/-- A field of one bit. -/
theorem fieldOf_bit (w : Word) (i : Nat) : fieldOf w i i = (bitOf w i).toNat := by
  rw [fieldOf, bitOf, Nat.toNat_testBit, Nat.shiftRight_eq_div_pow, Nat.add_sub_cancel_left, pow_one]

/-- A field that was put to 0 reads 0. -/
theorem State.fld_putField_zero (s : State) (a hi lo : Nat) : (s.putField a hi lo 0).fld a hi lo = 0 := by
  rw [State.putField, State.fld, State.reg_setReg_same]
  refine Nat.eq_of_testBit_eq fun j => ?_
  rw [fieldOf, Nat.testBit_mod_two_pow, Nat.testBit_shiftRight, BitVec.testBit_toNat, mergeMask_getLsbD, maskOf_getLsbD, Nat.zero_testBit]
  have hz : (putAt 0 lo).getLsbD (lo + j) = false := by simp [putAt]
  rw [hz]
  by_cases h32 : lo + j < 32
  · simp only [h32, decide_true, Bool.true_and]
    simp
    omega
  · have : (s.reg a).getLsbD (lo + j) = false := BitVec.getLsbD_of_ge _ _ (by omega)
    simp [this]

/-- Settles O37. -/
theorem linkCommands : Obligations.LinkCommands := by
  unfold Obligations.LinkCommands
  refine fun s => ⟨fun ord d h => ⟨exec_linkPollset_waits, fun hfirst => ⟨fun hrx buf => ?_, fun hrx => ?_, fun bs l hrx hl =>
      ⟨fun e o hr => ?_, fun hr hp => ?_, fun hr hp hn => ?_⟩⟩⟩, fun ord d h => ⟨exec_linkSend_off h, fun hen hpend =>
      ⟨exec_linkSend_busy h hen hpend, fun hs he => ⟨exec_linkSend_free h hen hpend hs he none,
        fun bs => exec_linkSend_free h hen hpend hs he (some bs)⟩⟩⟩,
    fun hs c u hcu => ⟨fun hrun hen hlive hp => ⟨fun hn => ?_, fun hn => ?_⟩, fun hor => ?_⟩,
    fun hs => ⟨fun hf => ?_, fun hf hr hen => ?_, fun hf hr hen => ?_, fun hor => ?_, fun hx hp => ?_⟩⟩
  · rw [exec_linkPollset h hfirst]
    unfold pollsetTaken
    rw [hrx]
    rfl
  · rw [exec_linkPollset h hfirst]
    unfold pollsetTaken
    rw [hrx]
    rfl
  · subst hl
    rw [exec_linkPollset h hfirst, pollsetTaken, hrx]
    simp only [hr, Bool.not_true, Bool.false_eq_true, if_false] <;> rfl
  · rw [exec_linkPollset h hfirst, pollsetTaken_valid hrx hl hr, if_pos hp]
    rfl
  · have hx := exec_linkPollset h hfirst (some bs)
    rw [pollsetTaken_valid hrx hl hr, if_neg (by rw [hp]; exact Bool.false_ne_true), bankSwap_listWritten,
      startCycle_listed (s := s.listTaken ord l) (l := l) rfl rfl hp hn] at hx
    have hrun : ((s.listTaken ord l).pollRun && (s.listTaken ord l).linkEnabled) = (s.pollRun && s.linkEnabled) := rfl
    rw [hrun] at hx
    exact ⟨_, hx, State.listTaken_spec h.toStarts l hp _ rfl⟩
  · have hl : u.link.live = true ∧ u.link.polling = false ∧ u.pollList = s.pollList := by
      rcases hcu with ⟨-, rfl⟩ | ⟨-, rfl⟩ <;> exact ⟨hlive, hp, rfl⟩
    rw [exec_linkCtl_set hs hcu, startCycle_running hrun hen hl.1 hl.2.1, hl.2.2, if_pos hn]
    rfl
  · have hl : u.link.live = true ∧ u.link.polling = false ∧ u.pollList = s.pollList ∧ u.link.cycles = s.link.cycles := by
      rcases hcu with ⟨-, rfl⟩ | ⟨-, rfl⟩ <;> exact ⟨hlive, hp, rfl, rfl⟩
    obtain ⟨h1, h2, h3, h4⟩ := hl
    have hx := exec_linkCtl_set hs hcu
    rw [startCycle_running hrun hen h1 h2, h3, if_neg (by rw [hn]; exact Bool.false_ne_true)] at hx
    exact ⟨_, hx, endCycle_polling true u, (Link.steady_line (endCycle_cycled true u).steady).1, by rw [endCycle_cycles, h4]⟩
  · rw [exec_linkCtl_set hs hcu, startCycle_idle]
    have hl : u.link.live = s.link.live ∧ u.link.polling = s.link.polling := by
      rcases hcu with ⟨-, rfl⟩ | ⟨-, rfl⟩ <;> exact ⟨rfl, rfl⟩
    rwa [hl.1, hl.2]
  · rw [exec_linkEn_clear hs, if_pos ((Bool.or_eq_true ..).mpr hf)]
  · rw [exec_linkEn_clear hs, hf, hr, hen]
    rfl
  · have hx := exec_linkEn_clear hs
    rw [hf, hr, hen] at hx
    obtain ⟨h1, -, h3, -, h5, h6, h7, -, h9, h10⟩ :=
      linkOff_spec ((s.putField 0x34004 0 0 0).updLink fun k => { k with enPend := false, en := false }) _ rfl
    refine ⟨_, hx, h1, h3, h5, h6, h7, ?_, h10⟩
    have hreg := h9 0x34004 (by decide) (by decide)
    exact (congrArg (fieldOf · 0 0) hreg).trans (State.fld_putField_zero s 0x34004 0 0)
  · have hx := exec_pollRun_clear hs
    rw [hx]
    rcases hor with h | h
    · rw [if_neg (by cases he : s.link.exch <;> simp_all)]
    · have hb : betweenExchanges (s.putField 0x34004 1 1 0) = s.putField 0x34004 1 1 0 := if_pos (by
        show (!s.link.polling) = true
        rw [h]; rfl)
      rw [hb, ite_self]
  · have hr : (s.putField 0x34004 1 1 0).pollRun = false := by
      have h0 := State.fld_putField_zero s 0x34004 1 1
      rw [State.fld, fieldOf_bit] at h0
      exact Bool.toNat_eq_zero.mp h0
    have hb : betweenExchanges (s.putField 0x34004 1 1 0) = endCycle false (s.putField 0x34004 1 1 0) := by
      unfold betweenExchanges
      rw [if_neg (by show ¬(!s.link.polling) = true; rw [hp]; decide), hr]
      rfl
    have hx' := exec_pollRun_clear hs
    rw [hx, hb, if_pos (show (none : Option Exchange).isNone = true from rfl)] at hx'
    have hc := endCycle_cycled false (s.putField 0x34004 1 1 0)
    refine ⟨_, hx', endCycle_polling false _, hc.exch.trans hx, ?_⟩
    rw [State.fld_congr hc.regs]
    exact State.fld_putField_zero s 0x34004 1 1

end Sys2Proof.Machine

/-! Attempts of an exchange on the Penad link (R369, R371, R374 to R385). -/

namespace Sys2Proof.Machine

/-! Sending. -/

section
variable {s : State} (hen : s.linkEnabled = true) (htx : s.link.txen = false) (hp : s.link.enPend = false)
  (hc : s.link.polling = true ∨ s.pollRun = false)
include hen htx hp hc

theorem exec_attemptStart {e : Exchange} {k : Link} (hn : nextExchange s = { s with link := k }) (he : k.exch = some e)
    (hw : e.wait = .silence) {e1 : Exchange}
    (h1 : e1 = { e with attempt := e.attempt + 1, wait := .sending 0, replied := false, got := [], seg := 0 }) :
    exec .attemptStart s = .next { s with link := { k with
      txen := true, rise := s.gridFrame, fall := none, exch := some e1, frame := some (e1.frame s 0 (s.gridFrame + 2000)) } } := by
  have hcyc : startCycle s = s := startCycle_idle (by rcases hc with h | h <;> simp [h])
  subst h1
  show execAttemptStart s = _
  rw [execAttemptStart, hen, htx, hp, hcyc, hn]
  simp only [he, hw, if_true, Bool.not_true, Bool.or_self, Bool.false_eq_true, if_false] <;> rfl

end

/-- The link with the request of an exchange begun. -/
def Link.begun (k : Link) (e : Exchange) (rest : List SendWait) : Link :=
  { k with
    sends := rest, toggles := setBitN k.toggles e.outpost (!(k.toggles.testBit e.outpost)), resync := setBitN k.resync e.outpost false,
    exch := some { e with toggle := !(k.toggles.testBit e.outpost), resync := k.resync.testBit e.outpost } }

theorem nextExchange_running {s : State} {e : Exchange} (h : s.link.exch = some e) : nextExchange s = { s with link := s.link } := by
  rw [nextExchange, h]
  rfl

/-- The next exchange: a waiting LINK_SEND, else the cycle's next entry. -/
theorem nextExchange_begins {s : State} {e0 : Exchange} {rest : List SendWait} (hx : s.link.exch = none)
    (h : (∃ w, s.link.sends = w :: rest ∧ e0 = sendExchange s w) ∨
       s.link.sends = [] ∧ rest = [] ∧ s.link.polling = true ∧ ∃ i, Poll.nextFrom s.pollList s.link.next = some i ∧
         e0 = pollExchange s.pollList i) :
    nextExchange s = { s with link := s.link.begun e0 rest } ∧
      e0.wait = .silence ∧ e0.attempt = 0 ∧ e0.replied = false ∧ e0.got = [] ∧ e0.seg = 0 := by
  rcases h with ⟨w, hs, rfl⟩ | ⟨hs, rfl, hp, i, hi, rfl⟩
  · refine ⟨?_, rfl, rfl, rfl, rfl, rfl⟩
    rw [nextExchange, hx, hs]
    rfl
  · refine ⟨?_, rfl, rfl, rfl, rfl, rfl⟩
    rw [nextExchange, hx, hs]
    simp only [hp, hi, Option.isSome_none, Bool.false_eq_true, if_false, if_true, beginExchange, State.updLink, Link.begun, hs]

theorem afterFrame_idle {s : State} (h : s.link.enPend = false) : afterFrame s = s := by rw [afterFrame, h]; rfl

theorem exec_transmitEnd {s : State} {e : Exchange} {f : TxFrame} (he : s.link.exch = some e) (hf : s.link.frame = some f) {k : Link}
    (hk : k = { s.link with txFrames := (s.link.txFrames + 1) % 2 ^ 32,
                            spans := (f.phases, s.gridFrame - 7200 * f.symbols, s.gridFrame) :: s.link.spans }) :
    exec .transmitEnd s = .next (
      if Hdr.seg f.header + 1 < segCount e.req.length e.robust ∧ (!s.link.enPend) = true then
        { s with link := { k with frame := some (e.frame s (Hdr.seg f.header + 1) (s.gridFrame + 14400)),
                                  exch := some { e with wait := .sending (Hdr.seg f.header + 1) } } }
      else afterFrame { s with link := { k with
        frame := none, txen := false, fall := some (s.gridFrame + 1000), exch := some { e with wait := .reply } } }) := by
  subst hk
  show execTransmitEnd s = _
  rw [execTransmitEnd, hf, he]
  dsimp only
  split
  · rename_i h
    exact congrArg Host.Outcome.next (if_pos h).symm
  · rename_i h
    exact congrArg Host.Outcome.next (if_neg h).symm

/-! Attempts that fail. -/

theorem failAttempt_again {e : Exchange} (h : e.attempt < 1 + e.retries) (crc ok : Bool) (s : State) : failAttempt e crc ok s =
    { s with link := { s.link with exch := some { e with allCrc := e.allCrc && crc, wait := .silence } } } := if_pos h

theorem failAttempt_last {e : Exchange} (h : 1 + e.retries ≤ e.attempt) (ok : Bool) (s : State) :
    failAttempt e false ok s = finishExchange { e with allCrc := false } 1 ok s := by
  refine (if_neg (Nat.not_lt.mpr h)).trans ?_
  rw [Bool.and_false]
  rfl

theorem exec_replyTimeout {s : State} {e : Exchange} (he : s.link.exch = some e) (ok : Bool) : exec (.replyTimeout ok) s =
    if e.wait = .reply then
      .next (failAttempt e false ok { s with link := { s.link with timeouts := (s.link.timeouts + 1) % 2 ^ 32 } }) else .next s := by
  show execReplyTimeout ok s = _
  rw [execReplyTimeout, he]
  rfl
theorem exec_segmentTimeout {s : State} {e : Exchange} (he : s.link.exch = some e) (ok : Bool) : exec (.segmentTimeout ok) s =
    if e.wait = .segment then .next (failAttempt e false ok s) else .next s := by
  show execSegmentTimeout ok s = _
  rw [execSegmentTimeout, he]

/-- Bytes 0 at the end are those that padding adds. -/
theorem padTo_zeros {n k : Nat} {l : List Byte} (h : l.length + k ≤ n) : padTo n (l ++ zeros k) = padTo n l := by
  have hk : k + (n - (l.length + k)) = n - l.length := by omega
  rw [padTo, padTo, zeros, List.length_append, List.length_replicate, List.append_assoc, List.replicate_append_replicate, hk]

/-! Reception. -/

/-- The state after a frame whose header is lost, `n` of its symbols erased. -/
def State.headerLost (s : State) (n : Nat) : State :=
  { s with link := { s.link with
      rx := { s.link.rx with frame := none }, erased := if n = 0 then s.link.erased else (s.link.erased + n) % 2 ^ 32 } }

section
variable {s : State} {x : RxSync} (hs : s.running Isl.link = true) (hx : s.link.rx.frame = some x) (hl : 3 ≤ x.symbols.length)
  {f : RxFrame} {h n : Nat} (hh : h = (decodeHeader x.headBits).getD f.header) (hn : n = ([8, 9].filter x.symbolHit).length)
include hs hx hl hh hn

/-- A frame whose header is lost or discarded. -/
theorem exec_frameReceived_lost (hor : n ≠ 0 ∨ judgeHeader h = .bad) (ok : Bool) : exec (.frameReceived f ok) s =
    .next (afterFrame (dropFrame ok (s.headerLost n))) := by
  have hl' : decide (x.symbols.length < 3) = false := by simpa using hl
  show execFrameReceived f ok s = _
  rw [execFrameReceived, hx]
  simp only [hs, hl', Bool.not_true, Bool.or_self, Bool.false_eq_true, if_false, ← hh, ← hn]
  by_cases h0 : n = 0
  · have hj : judgeHeader h = .bad := by rcases hor with hne | hj; exact absurd h0 hne; exact hj
    simp only [State.headerLost, h0, ne_eq, not_true, if_false, if_true, hj]
    rfl
  · simp only [State.headerLost, h0, ne_eq, not_false_eq_true, if_true, if_false]
    rfl

theorem exec_frameReceived_kept (h0 : n = 0) (hj : judgeHeader h = .kept) (ok : Bool) : exec (.frameReceived f ok) s =
    if x.symbols.length < 3 + Hdr.psym h then .next s else .next (afterFrame (takeFrame x f h ok (endReception s))) := by
  have hl' : decide (x.symbols.length < 3) = false := by simpa using hl
  show execFrameReceived f ok s = _
  rw [execFrameReceived, hx]
  simp only [hs, hl', Bool.not_true, Bool.or_self, Bool.false_eq_true, if_false, ← hh, ← hn]
  simp only [h0, ne_eq, not_true, if_false, hj]

end

/-- The state in which a frame has been received and counted. -/
def State.noted (s : State) (x : RxSync) (f : RxFrame) (h : Nat) : State :=
  noteFrame h (x.erasedCount (Hdr.psym h)) f.snr (rxData x f h).isSome (endReception s)

theorem State.noted_spec (s : State) (x : RxSync) (f : RxFrame) (h : Nat) :
    s.noted x f h = { s with link := (s.noted x f h).link } ∧ (s.noted x f h).link.rxFrames = (s.link.rxFrames + 1) % 2 ^ 32 ∧
    (s.noted x f h).link.exch = s.link.exch ∧ (s.noted x f h).link.enPend = s.link.enPend := ⟨rfl, rfl, rfl, rfl⟩

theorem takeFrame_split (x : RxSync) (f : RxFrame) (h : Nat) (ok : Bool) (s : State) : takeFrame x f h ok (endReception s) =
    match s.link.exch.filter Exchange.awaits with
    | some e => if (!(Hdr.dir h)) = true ∨ Hdr.addr h ≠ e.outpost then (s.noted x f h).setFlag 0x34040 1
        else if Hdr.kind h ≠ 2 then s.noted x f h else replySegment e h (rxData x f h) ok (s.noted x f h)
    | none => if (!(Hdr.dir h)) = true then (s.noted x f h).setFlag 0x34040 1
        else if Hdr.kind h = 2 then (s.noted x f h).setFlag 0x34040 2 else s.noted x f h := rfl

theorem State.setFlag_flag (s : State) (a : Nat) {i : Nat} (h : i < 32) : bitOf ((s.setFlag a i).reg a) i = true := by
  rw [State.setFlag, State.reg_setBits, if_pos rfl]
  exact bitOf_or_putAt_one _ h

/-- The awaited segment of a reply. -/
theorem replySegment_good {e : Exchange} {h : Nat} (h1 : Hdr.seg h = e.seg) (h2 : Hdr.seg h < Hdr.nseg h) (data : Option (List Byte))
    (ok : Bool) (s : State) : replySegment e h data ok s = match data with
      | none => failAttempt { e with replied := true } true ok s
      | some bytes =>
        if e.seg + 1 = Hdr.nseg h then
          finishExchange { e with replied := true, got := e.got ++ bytes, seg := e.seg + 1, wait := .segment } 0 ok s
        else { s with link := { s.link with
          exch := some { e with replied := true, got := e.got ++ bytes, seg := e.seg + 1, wait := .segment } } } :=
  (if_neg (by rintro (h | h); exact h h1; omega)).trans (by cases data <;> rfl)

theorem filter_awaits {o : Option Exchange} {e : Exchange} (he : o = some e) (ha : e.awaits = true) :
    o.filter Exchange.awaits = some e := by rw [he, Option.filter_some, ha]; rfl
theorem filter_awaits_none {o : Option Exchange} (h : o.any Exchange.awaits = false) : o.filter Exchange.awaits = none := by
  cases o with
  | none => rfl
  | some e => rw [Option.filter_some, show e.awaits = false from h]; rfl

theorem takeFrame_awaiting (x : RxSync) (f : RxFrame) (h : Nat) (ok : Bool) {s : State} {e : Exchange} (he : s.link.exch = some e)
    (ha : e.awaits = true) : takeFrame x f h ok (endReception s) =
      if (!(Hdr.dir h)) = true ∨ Hdr.addr h ≠ e.outpost then (s.noted x f h).setFlag 0x34040 1
      else if Hdr.kind h ≠ 2 then s.noted x f h else replySegment e h (rxData x f h) ok (s.noted x f h) := by
  rw [takeFrame_split, filter_awaits he ha]
theorem takeFrame_idle (x : RxSync) (f : RxFrame) (h : Nat) (ok : Bool) {s : State} (hno : s.link.exch.any Exchange.awaits = false) :
    takeFrame x f h ok (endReception s) = if (!(Hdr.dir h)) = true then (s.noted x f h).setFlag 0x34040 1
      else if Hdr.kind h = 2 then (s.noted x f h).setFlag 0x34040 2 else s.noted x f h := by
  rw [takeFrame_split, filter_awaits_none hno]

theorem dropFrame_awaiting {s : State} {e : Exchange} (he : s.link.exch = some e) (ha : e.awaits = true) (ok : Bool) :
    dropFrame ok s = failAttempt e false ok s := by rw [dropFrame, filter_awaits he ha]
theorem dropFrame_idle {s : State} (hno : s.link.exch.any Exchange.awaits = false) (ok : Bool) : dropFrame ok s = s := by
  rw [dropFrame, filter_awaits_none hno]

/-- The end of an exchange whose last attempt fails. -/
theorem finishExchange_noReply {e : Exchange} {s t : State} {ok : Bool} (ht : t = finishExchange { e with allCrc := false } 1 ok s) :
    t.link.exch = none ∧
    (∀ o d, e.send = some o → s.flight o = some d → d.phase.isDone = false → t.flight o =
      some { d with phase := .done { status := 0, detail := 0, result := padTo 24 (leBytes 1 1 ++ leBytes 1 e.attempt) } }) ∧
    (e.send = none → ok = true → canDma s = true → t.host.dma =
      ⟨e.respAddr, pollSlot s e 1 ((s.link.seqs.getD e.entry 0 + 1) % 2 ^ 32)⟩ :: s.host.dma) ∧
    (e.send = none → ok = false ∨ canDma s = false → t.host.dma = s.host.dma ∧ bitOf (t.reg 0x34040) 0 = true ∧
      t.link.dropped = (s.link.dropped + 1) % 2 ^ 32) := by
  subst ht
  refine ⟨(finishExchange_link ..).2, fun o d ho hd hp => ?_, fun hn hok hc => finishExchange_slot (e := { e with allCrc := false }) hn hok hc 1,
    fun hn hor => finishExchange_dropped (e := { e with allCrc := false }) hn hor 1⟩
  rw [finishExchange_empty (e := { e with allCrc := false }) ho rfl hd hp]
  have hz : leBytes 2 0 = zeros 2 := by decide
  have hres : Exchange.result { e with allCrc := false } 1 = leBytes 1 1 ++ leBytes 1 e.attempt ++ zeros 2 := by rw [← hz]; rfl
  rw [hres, padTo_zeros (by simp [leBytes])]

/-- The end of an exchange whose reply has come. -/
theorem finishExchange_replied {e e1 : Exchange} {s t : State} {ok : Bool} (hg : e.got = e1.got) (hr : e.respMax = e1.respMax)
    (ha : e.attempt = e1.attempt) (haddr : e.respAddr = e1.respAddr) (hsend : e.send = e1.send) (hent : e.entry = e1.entry)
    (ht : t = finishExchange e 0 ok s) :
    t.link.exch = none ∧
    (e1.send = none → ok = true → canDma s = true → t.host.dma =
      ⟨e1.respAddr, pollSlot s e1 0 ((s.link.seqs.getD e1.entry 0 + 1) % 2 ^ 32)⟩ :: s.host.dma) ∧
    (∀ o d, e1.send = some o → s.flight o = some d → d.phase.isDone = false → ok = true → canDma s = true →
      t.flight o = some { d with phase := .done (Completion.mk 0 0
        (padTo 24 (leBytes 1 0 ++ leBytes 1 e1.attempt ++ leBytes 2 (e1.got.take e1.respMax).length))) } ∧
      (e1.got.take e1.respMax ≠ [] → t.host.dma = ⟨e1.respAddr, e1.got.take e1.respMax⟩ :: s.host.dma)) := by
  subst ht
  have hreply : e.reply 0 = e1.got.take e1.respMax := by rw [← hg, ← hr]; rfl
  have hres : e.result 0 = leBytes 1 0 ++ leBytes 1 e1.attempt ++ leBytes 2 (e1.got.take e1.respMax).length := by
    rw [Exchange.result, hreply, ha]
  have hslot : ∀ n, pollSlot s e 0 n = pollSlot s e1 0 n := fun n => by
    unfold pollSlot
    rw [hg, hr, ha]
  refine ⟨(finishExchange_link ..).2, fun hn hok hc => ?_, fun o d ho hd hp hok hc => ?_⟩
  · rw [finishExchange_slot (hsend.trans hn) hok hc, hslot, haddr, State.pollSeq, hent]
  · rw [← hreply, ← haddr]
    rw [← hreply] at hres
    cases hemp : (e.reply 0).isEmpty with
    | true =>
      rw [finishExchange_empty (hsend.trans ho) hemp hd hp, hres]
      exact ⟨rfl, fun hne => absurd (List.isEmpty_iff.mp hemp) hne⟩
    | false =>
      obtain ⟨h1, h2⟩ := finishExchange_reply (hsend.trans ho) hemp hok hc
      rw [h2 d hd hp, hres]
      exact ⟨rfl, fun _ => h1⟩

/-- Settles O38. -/
theorem linkExchange : Obligations.LinkExchange := by
  unfold Obligations.LinkExchange
  refine ⟨fun s hen htx hp hc => ⟨fun e e1 he hw h1 => ?_, fun e0 e1 rest he hor h1 => ?_⟩,
    fun s e f k he hf hk n hn => ⟨fun hp hlt => ?_, fun hp hge => ?_, fun hp => ?_⟩,
    fun s e ok he => ⟨fun hw => ?_, fun hw => ?_, fun ha => ⟨fun hw => ?_, fun hw => ?_⟩, fun ha c hc => ?_⟩,
    fun s x f ok h n hs hp hx hl hh hn => ⟨fun hor => ⟨fun e he haw ha => ?_, fun hno => ?_⟩, fun h0 hj =>
      ⟨fun hlt => ?_, fun hge data hdata => ⟨fun hno => ?_, fun e he haw => ⟨fun hor => ?_, fun hdir haddr hkind hseg hns =>
        ⟨fun hd ha => ?_, fun bytes hd hne => ?_, fun bytes e1 hd heq h1 => ?_⟩⟩⟩⟩⟩⟩
  · exact exec_attemptStart hen htx hp hc (nextExchange_running he) he hw h1
  · obtain ⟨hnext, hw, ha, hr, hg, hseg⟩ := nextExchange_begins he hor
    refine exec_attemptStart hen htx hp hc hnext rfl hw (h1.trans ?_)
    rw [ha, hr, hg, hseg]
  · subst hn
    rw [exec_transmitEnd he hf hk, if_pos ⟨hlt, by rw [hp]; rfl⟩]
  · subst hn
    rw [exec_transmitEnd he hf hk, if_neg (by omega), afterFrame_idle (by rw [hk]; exact hp)]
  · have hx := exec_transmitEnd he hf hk
    rw [if_neg (by rw [hp]; exact fun h => Bool.noConfusion h.2)] at hx
    obtain ⟨h1, -, h3, h4, h5, -, -, h8, -, -⟩ := linkOff_spec (({ s with link := { k with
      frame := none, txen := false, fall := some (s.gridFrame + 1000), exch := some { e with wait := .reply } } } : State).updLink
        fun k => { k with enPend := false, en := false }) _ rfl
    have hoff : afterFrame ({ s with link := { k with
        frame := none, txen := false, fall := some (s.gridFrame + 1000), exch := some { e with wait := .reply } } } : State) =
        linkDisable _ := if_pos (by rw [hk]; exact hp)
    rw [hoff] at hx
    exact ⟨_, hx, h1, h3, h4, h5, h8⟩
  · rw [exec_replyTimeout he, if_neg hw]
  · rw [exec_segmentTimeout he, if_neg hw]
  · rw [exec_replyTimeout he, if_pos hw, failAttempt_again ha, Bool.and_false]
  · rw [exec_segmentTimeout he, if_pos hw, failAttempt_again ha, Bool.and_false]
  · rcases hc with ⟨rfl, hw⟩ | ⟨rfl, hw⟩
    · have hx := exec_replyTimeout he ok
      rw [if_pos hw, failAttempt_last ha] at hx
      exact ⟨_, hx, finishExchange_noReply (s := { s with link := { s.link with timeouts := (s.link.timeouts + 1) % 2 ^ 32 } }) rfl⟩
    · have hx := exec_segmentTimeout he ok
      rw [if_pos hw, failAttempt_last ha] at hx
      exact ⟨_, hx, finishExchange_noReply rfl⟩
  · rw [exec_frameReceived_lost hs hx hl hh hn hor, dropFrame_awaiting (s := s.headerLost n) he haw, failAttempt_again ha, Bool.and_false, afterFrame_idle]
    · rfl
    · exact hp
  · rw [exec_frameReceived_lost hs hx hl hh hn hor, dropFrame_idle (s := s.headerLost n) hno, afterFrame_idle]
    · rfl
    · exact hp
  · rw [exec_frameReceived_kept hs hx hl hh hn h0 hj, if_pos hlt]
  · have hr := exec_frameReceived_kept (f := f) hs hx hl hh hn h0 hj ok
    rw [if_neg (Nat.not_lt.mpr hge), takeFrame_idle x f h ok hno] at hr
    obtain ⟨g1, g2, g3, g4⟩ := s.noted_spec x f h
    cases hdir : Hdr.dir h with
    | false =>
      rw [hdir, if_pos (by rfl), afterFrame_idle (by exact g4.trans hp)] at hr
      exact ⟨_, hr, g2, g3, fun _ => State.setFlag_flag _ _ (by decide), nofun⟩
    | true =>
      rw [hdir, if_neg (by decide)] at hr
      by_cases hk : Hdr.kind h = 2
      · rw [if_pos hk, afterFrame_idle (by exact g4.trans hp)] at hr
        exact ⟨_, hr, g2, g3, nofun, fun _ _ => State.setFlag_flag _ _ (by decide)⟩
      · rw [if_neg hk, afterFrame_idle (by exact g4.trans hp)] at hr
        exact ⟨_, hr, g2, g3, nofun, fun _ h2 => absurd h2 hk⟩
  · have hr := exec_frameReceived_kept (f := f) hs hx hl hh hn h0 hj ok
    obtain ⟨g1, g2, g3, g4⟩ := s.noted_spec x f h
    rw [if_neg (Nat.not_lt.mpr hge), takeFrame_awaiting x f h ok he haw, if_pos (by simpa using hor), afterFrame_idle (by exact g4.trans hp)] at hr
    exact ⟨_, hr, g2, g3.trans he, State.setFlag_flag _ _ (by decide)⟩
  all_goals
    have hr := exec_frameReceived_kept (f := f) hs hx hl hh hn h0 hj ok
    obtain ⟨g1, g2, g3, g4⟩ := s.noted_spec x f h
    rw [if_neg (Nat.not_lt.mpr hge), takeFrame_awaiting x f h ok he haw, if_neg (by simp [hdir, haddr]), if_neg (by simp [hkind]),
      replySegment_good hseg hns, ← hdata, hd] at hr
    dsimp only at hr
  · rw [failAttempt_again (e := { e with replied := true }) ha, Bool.and_true, afterFrame_idle (by exact g4.trans hp)] at hr
    refine ⟨_, hr, rfl, ?_, rfl, rfl⟩
    rw [State.noted, ← hdata, hd]
    rfl
  · rw [if_neg hne, afterFrame_idle (by exact g4.trans hp)] at hr
    exact ⟨_, hr, rfl, g2, rfl, rfl⟩
  · rw [if_pos heq] at hr
    obtain ⟨hst, -⟩ := finishExchange_link { e with replied := true, got := e.got ++ bytes, seg := e.seg + 1, wait := .segment } 0 ok
      (s.noted x f h)
    obtain ⟨-, hpend, -⟩ := Link.steady_line hst
    rw [afterFrame_idle (hpend.trans (g4.trans hp))] at hr
    subst h1
    obtain ⟨h2, h3, h4⟩ := finishExchange_replied
      (e := { e with replied := true, got := e.got ++ bytes, seg := e.seg + 1, wait := .segment }) (e1 := { e with got := e.got ++ bytes })
      (s := s.noted x f h) (ok := ok) rfl rfl rfl rfl rfl rfl rfl
    exact ⟨_, hr, ((congrArg Link.rxFrames hst :)).trans g2, h2, h3, h4⟩

end Sys2Proof.Machine

/-! Staging and activation of an image (R202, R207, R208, R261). -/

namespace Sys2Proof.Machine

/-! Staging. -/

theorem exec_imageStage {s : State} {ord : Nat} {d : Inflight} (h : StartsDma s ord Opc.imageStage d) (hc : s.running Isl.conv = true) :
    exec (.imageStage ord) s = .next (if stageBusy s then s.finish ord 0x06 2 []
      else ({ s with damper := { s.damper with stage := .loading, staged := none, stageOrd := some ord } } : State).setPhase ord .working) := by
  have hb : (stageBusy s || !(s.running Isl.conv)) = stageBusy s := by rw [hc, Bool.not_true, Bool.or_false]
  refine (withBuffer_starts h _).trans ?_
  rw [hb]
  rfl

theorem writeSlot_frame (layer : Nat) (b : Bool) (bs : List Byte) (s : State) :
    writeSlot layer b bs s = { s with fw := (writeSlot layer b bs s).fw } := rfl

/-- The control plane writes the staged image where CTRL runs. -/
theorem keepStaged_spec (bs : List Byte) (s : State) :
    keepStaged bs s = { s with fw := (keepStaged bs s).fw } ∧ (s.running Isl.ctrl = false → (keepStaged bs s).fw = s.fw) := by
  unfold keepStaged
  split
  · rename_i h
    exact ⟨rfl, fun hn => by rw [hn] at h; cases h⟩
  · exact ⟨rfl, fun _ => rfl⟩

theorem exec_imageTransferComplete {s : State} {ord : Nat} {d : Inflight} (h1 : s.damper.stage = .loading)
    (h2 : s.damper.stageOrd = some ord) (hd : s.flight ord = some d) (bs : List Byte) :
    exec (.imageTransferComplete (some bs)) s = .next (keepStaged ((padTo d.bufLen bs).take 1048576)
      { s with damper := { s.damper with
          stage := .admitting,
          staged := some { bytes := Memory.ofBytes ((padTo d.bufLen bs).take 1048576), size := (padTo d.bufLen bs).length } } }) := by
  show execImageTransferComplete (some bs) s = _
  rw [execImageTransferComplete, h1, h2]
  simp only [hd]
  rfl

theorem exec_imageTransferComplete_failed {s : State} {ord : Nat} (h1 : s.damper.stage = .loading) (h2 : s.damper.stageOrd = some ord) :
    exec (.imageTransferComplete none) s =
      .next (bufferError ord 1 { s with damper := { s.damper with stage := .empty, staged := none, stageOrd := none } }) := by
  show execImageTransferComplete none s = _
  rw [execImageTransferComplete, h1, h2]
  rfl

theorem exec_admissionComplete {s : State} {ord : Nat} {g : Image} (h1 : s.damper.stage = .admitting) (h2 : s.damper.staged = some g)
    (h3 : s.damper.stageOrd = some ord) : exec .admissionComplete s = .next (match admission s g with
        | none => { s with damper := { s.damper with stage := .staged, stageOrd := none, stgSigned := g.hasSig,
                                                     stgMatch := keyMatches s g } }.finish ord 0 0
                    (zeros 4 ++ (bytes384 g.imageDigest).take 16)
        | some (r, sec, off) => { s with damper := { s.damper with
            stage := .rejected, staged := none, stageOrd := none, reason := r, sect := sec, offset := off } }.finish ord 0x09
              (r + 256 * sec) (leBytes 4 off)) := by
  show execAdmissionComplete s = _
  rw [execAdmissionComplete, h1, h2]
  dsimp only
  rw [h3]
  cases admission s g with
  | none => rfl
  | some x => rfl

/-! Activation. -/

theorem exec_imageActivate {s : State} {ord : Nat} {d : Inflight} (h : Starts s ord Opc.imageActivate d) :
    exec (.imageActivate ord) s = .next (match activateFault s d with
      | some (st, det) => s.finish ord st det []
      | none => ({ s with damper := { s.damper with pending := true, latchedAct := false, actOrd := some ord } } : State).setPhase ord
          .working) := by
  refine (withDescriptor_starts h _).trans ?_
  cases activateFault s d <;> rfl

theorem activateFault_unstaged {s : State} (h : s.damper.stage ≠ .staged) (d : Inflight) : activateFault s d = some (0x0E, 0) := by
  unfold activateFault
  split
  · rename_i h1 h2; exact absurd h1 h
  · rfl

theorem activateFault_staged {s : State} {g : Image} (h1 : s.damper.stage = .staged) (h2 : s.damper.staged = some g) (d : Inflight) :
    activateFault s d =
      if allZero (sliceOf d.bytes 20 32) = false ∧ sliceOf d.bytes 20 32 ≠ (bytes384 g.imageDigest).take 32 then some (0x02, 20)
      else if s.damper.pending then some (0x06, 2) else none := by
  unfold activateFault
  rw [h1, h2]
  simp only [Bool.and_eq_true, Bool.not_eq_true', bne_iff_ne, ne_eq]

/-- Settles O39: each command by its conditions. -/
theorem imageCommands : Obligations.ImageCommands := by
  unfold Obligations.ImageCommands
  refine fun s ord d => ⟨fun h hc => ⟨fun hb => ?_, fun hb => ?_⟩, fun h1 h2 hd => ⟨fun bs b hb => ?_, ?_⟩,
    fun g h1 h2 h3 => (exec_admissionComplete h1 h2 h3).trans ?_, fun h => ⟨fun hs => ?_, fun g x h1 h2 hx => ⟨fun hor => ⟨fun hp => ?_, fun hp => ?_⟩, fun hz hne => ?_⟩⟩⟩
  · rw [exec_imageStage h hc, hb]
    rfl
  · rw [exec_imageStage h hc, hb]
    rfl
  · subst hb
    obtain ⟨h3, h4⟩ := keepStaged_spec ((padTo d.bufLen bs).take 1048576) { s with damper := { s.damper with
      stage := .admitting,
      staged := some { bytes := Memory.ofBytes ((padTo d.bufLen bs).take 1048576), size := (padTo d.bufLen bs).length } } }
    refine ⟨_, exec_imageTransferComplete h1 h2 hd bs, ?_, ?_, h4⟩
    · rw [h3]
    · rw [h3]
  · exact exec_imageTransferComplete_failed h1 h2
  · cases admission s g <;> rfl
  · rw [exec_imageActivate h, activateFault_unstaged hs]
  · subst hx
    rw [exec_imageActivate h, activateFault_staged h1 h2, if_neg (by rintro ⟨hz, hne⟩; rcases hor with h | h <;> simp_all), hp]
    rfl
  · subst hx
    rw [exec_imageActivate h, activateFault_staged h1 h2, if_neg (by rintro ⟨hz, hne⟩; rcases hor with h | h <;> simp_all), hp]
    rfl
  · subst hx
    rw [exec_imageActivate h, activateFault_staged h1 h2, if_pos ⟨hz, hne⟩]

end Sys2Proof.Machine

/-! Firmware slots and FW_STAGE (R351, R354, R355). -/

namespace Sys2Proof.Machine

/-! The boot record and the slots. -/

/-- GEN of a boot record that follows another. -/
theorem bootGen_writeBoot (l1 l2 img : Nat) (s : State) (hg : leField (bootBytes s) 4 8 + 1 < 2 ^ 64) :
    leField (bootBytes (writeBoot l1 l2 img s)) 4 8 = leField (bootBytes s) 4 8 + 1 := by
  rw [bootBytes_writeBoot _ _ _ _ hg]
  have h := leField_part (leBytes 4 0x424F4F54) (leBytes 1 l1 ++ leBytes 1 l2 ++ leBytes 1 img ++ ((bootBytes s).drop 15).take 4077 ++
    leBytes 4 (crc32 (bootBody (bootBytes s) l1 l2 img))) 8 (leField (bootBytes s) 4 8 + 1)
  have hm : (leField (bootBytes s) 4 8 + 1) % 256 ^ 8 = leField (bootBytes s) 4 8 + 1 := Nat.mod_eq_of_lt (by omega)
  rw [hm] at h
  simpa [withCrc, bootBody] using h

theorem bootGen_setSlot (layer : Nat) (b : Bool) (st : Nat) (s : State) (hg : leField (bootBytes s) 4 8 + 1 < 2 ^ 64) :
    leField (bootBytes (setSlot layer b st s)) 4 8 = leField (bootBytes s) 4 8 + 1 := bootGen_writeBoot _ _ _ s hg

/-- A boot record is written below the slots. -/
theorem readN_writeBoot (l1 l2 img : Nat) (s : State) {a : Nat} (n : Nat) (h : 0x2000 ≤ a) :
    Memory.readN (writeBoot l1 l2 img s).fw.flash a n = Memory.readN s.fw.flash a n := by
  have hl : (withCrc (bootBody (bootBytes s) l1 l2 img)).length = 4096 := by
    simp [withCrc, bootBody_length _ _ _ _ (bootBytes_length s)]
  rw [writeBoot]
  generalize withCrc (bootBody (bootBytes s) l1 l2 img) = w at hl
  exact Memory.readN_writeN_out _ _ _ _ _ (.inr (by rw [hl]; split <;> omega))

theorem readN_setSlot (layer : Nat) (b : Bool) (st : Nat) (s : State) {a : Nat} (n : Nat) (h : 0x2000 ≤ a) :
    Memory.readN (setSlot layer b st s).fw.flash a n = Memory.readN s.fw.flash a n := readN_writeBoot _ _ _ s n h

theorem setSlot_frame (layer : Nat) (b : Bool) (st : Nat) (s : State) :
    ∃ m, setSlot layer b st s = { s with fw := { s.fw with flash := m } } := ⟨_, by rw [setSlot, writeLayer, writeBoot]⟩

/-- The slots lie above the boot record, and the two of a layer beside each other. -/
theorem slotBase_apart {layer : Nat} (hl : layer = 1 ∨ layer = 2) (b : Bool) : 0x2000 ≤ slotBase layer b ∧
    (slotBase layer b + slotSize layer ≤ slotBase layer (!b) ∨ slotBase layer (!b) + slotSize layer ≤ slotBase layer b) := by
  rcases hl with rfl | rfl <;> cases b <;> decide

theorem layerByte_congr {s t : State} (h : t.fw.flash = s.fw.flash) (k : Nat) : layerByte t k = layerByte s k := by
  rw [layerByte, bootByte, bootBytes_congr (s := s) fun k => by rw [bootCopy, Flash.bytes, h, ← Flash.bytes, ← bootCopy], ← bootByte,
    ← layerByte]

/-- The parts of the boot record that a slot's bytes leave alone. -/
theorem layerByte_writeSlot (layer : Nat) (b : Bool) (bs : List Byte) (s : State) (k : Nat) :
    layerByte (writeSlot layer b bs s) k = layerByte s k := by
  rw [layerByte, bootByte, bootBytes_writeSlot, ← bootByte, ← layerByte]
theorem slotState_writeSlot (layer : Nat) (b : Bool) (bs : List Byte) (s : State) (k : Nat) (c : Bool) :
    slotState (writeSlot layer b bs s) k c = slotState s k c := by rw [slotState, layerByte_writeSlot, ← slotState]
theorem activeSlot_writeSlot (layer : Nat) (b : Bool) (bs : List Byte) (s : State) (k : Nat) :
    activeSlot (writeSlot layer b bs s) k = activeSlot s k := by rw [activeSlot, layerByte_writeSlot, ← activeSlot]
theorem layerTrial_writeSlot (layer : Nat) (b : Bool) (bs : List Byte) (s : State) (k : Nat) :
    layerTrial (writeSlot layer b bs s) k = layerTrial s k := by rw [layerTrial, layerByte_writeSlot, ← layerTrial]

theorem padTo_length (n : Nat) (bs : List Byte) : (padTo n bs).length = n := by
  simp [padTo]
  omega

/-! Staging. -/

/-- What a stage has done to the slots of a layer: the state of one, and the bytes outside it. -/
structure SlotStaged (s t : State) (layer : Nat) (b : Bool) (st : Nat) : Prop where
  frame : t = { s with fw := { s.fw with flash := t.fw.flash } }
  slot : slotState t layer b = st
  other : slotState t layer (!b) = slotState s layer (!b)
  active : activeSlot t layer = activeSlot s layer
  trial : layerTrial t layer = layerTrial s layer
  layers : layerByte t (3 - layer) = layerByte s (3 - layer)
  bytes : ∀ a n, slotBase layer (!b) ≤ a → a + n ≤ slotBase layer (!b) + slotSize layer →
    Memory.readN t.fw.flash a n = Memory.readN s.fw.flash a n

section
variable {s : State} {layer : Nat} (b : Bool) {st : Nat} (hg : leField (bootBytes s) 4 8 + 2 < 2 ^ 64) (hl : layer = 1 ∨ layer = 2)
  (hst : st < 4)
include hg hl hst

/-- An image that fails its check is not written: the slot is EMPTY. -/
theorem setSlot_staged : SlotStaged s (setSlot layer b st s) layer b st := by
  obtain ⟨h1, h2, h3, h4, h5⟩ := layerByte_setSlot layer b st s (by omega) hl hst
  refine ⟨?_, h1, h2, h3, h4, h5, fun a n ha _ => readN_setSlot _ _ _ _ _ ?_⟩
  · obtain ⟨m, hm⟩ := setSlot_frame layer b st s
    rw [hm]
  · exact (slotBase_apart hl (!b)).1.trans ha

/-- A slot written: WRITING while its bytes change, then the state that the copy deserves. -/
theorem writeSlot_staged {copy : List Byte} (hc : copy.length ≤ slotSize layer) (t : State)
    (ht : t = setSlot layer b st (writeSlot layer b copy (setSlot layer b 3 s))) :
    SlotStaged s t layer b st ∧ Memory.readN t.fw.flash (slotBase layer b) copy.length = copy := by
  obtain ⟨-, h2, h3, h4, h5⟩ := layerByte_setSlot layer b 3 s (by omega) hl (by decide)
  have hgen := bootGen_setSlot layer b 3 s (by omega)
  obtain ⟨g1, g2, g3, g4, g5⟩ := layerByte_setSlot layer b st (writeSlot layer b copy (setSlot layer b 3 s))
    (by rw [bootBytes_writeSlot, hgen]; omega) hl hst
  rw [← ht] at g1 g2 g3 g4 g5
  rw [slotState_writeSlot, h2] at g2
  rw [activeSlot_writeSlot, h3] at g3
  rw [layerTrial_writeSlot, h4] at g4
  rw [layerByte_writeSlot, h5] at g5
  obtain ⟨hb, -⟩ := slotBase_apart hl b
  obtain ⟨hb', happ⟩ := slotBase_apart hl (!b)
  rw [Bool.not_not] at happ
  refine ⟨⟨?_, g1, g2, g3, g4, g5, fun a n ha hn => ?_⟩, ?_⟩
  · obtain ⟨m, hm⟩ := setSlot_frame layer b 3 s
    obtain ⟨m', hm'⟩ := setSlot_frame layer b st (writeSlot layer b copy (setSlot layer b 3 s))
    rw [ht, hm', writeSlot, hm]
  · rw [ht, readN_setSlot _ _ _ _ _ (hb'.trans ha)]
    refine (Memory.readN_writeN_out _ _ _ _ _ ?_).trans (readN_setSlot layer b 3 s n (hb'.trans ha))
    rcases happ with h | h
    · exact .inl (by omega)
    · exact .inr (by omega)
  · rw [ht, readN_setSlot _ _ _ _ _ hb]
    have := Memory.readN_writeN (setSlot layer b 3 s).fw.flash (slotBase layer b) copy 0 copy.length (by omega)
    rwa [Nat.add_zero, List.drop_zero, List.take_length] at this

end

/-- A descriptor that passes its checks has no operand out of its range (R261). -/
theorem staticFault_operands {s : State} {d : Inflight} (h : staticFault s d = none) : operandFaults d = [] := by
  unfold staticFault at h
  split at h
  · cases h
  · split at h
    · cases h
    · rw [Option.map_eq_none_iff, fieldFault, List.min?_eq_none_iff, List.append_eq_nil_iff, List.append_eq_nil_iff] at h
      exact h.1.2

/-- The layer that a FW_STAGE names has passed its check (R261). -/
theorem fwStage_layer {s : State} {ord : Nat} {d : Inflight} (h : Starts s ord Opc.fwStage d) : d.op 20 1 = 1 ∨ d.op 20 1 = 2 := by
  have ho := staticFault_operands h.fields
  rw [operandFaults, h.opcode] at ho
  have hmem : ¬(d.op 20 1 == 0 || decide (2 < d.op 20 1)) = true := fun hc => by
    simp [offending, Opc.fwStage, hc] at ho
  simp at hmem
  omega

/-! FW_STAGE. -/

theorem exec_fwStage {s : State} {ord : Nat} {d : Inflight} (h : StartsDma s ord Opc.fwStage d) (bs back : List Byte) {fw : List Byte}
    (hfw : fw = padTo d.bufLen bs) {layer : Nat} (hl : layer = d.op 20 1) : exec (.fwStage ord (some bs) back) s = .next (
      if d.bufLen ≠ Fwh.totalSize fw ∨ slotSize layer < d.bufLen then (stageNote layer 0 s).finishFail ord 0x02 16
      else if s.fw.staging.isSome || s.fw.ctlAct.isSome || layerTrial s layer then (stageNote layer 0 s).finishFail ord 0x06 2
      else if verifyStep s layer fw ≠ 0 then
        (stageNote layer (verifyStep s layer fw) (setSlot layer (!(activeSlot s layer)) 0 s)).finishFail ord 0x08 0
      else match writeInactive layer fw back s with
        | (t, true) => (stageNote layer 0 t).finishOk ord ((bytes384 (Fwh.digest fw)).take 16)
        | (t, false) => (stageNote layer 6 t).finishFail ord 0x08 0) := by
  subst hfw hl
  show execFwStage ord (some bs) back s = _
  rw [execFwStage, withBuffer_starts h]
    <;> dsimp only
    <;> generalize writeInactive (d.op 20 1) (padTo d.bufLen bs) back s = w
    <;> obtain ⟨t, _ | _⟩ := w
    <;> rfl

theorem writeInactive_eq (layer : Nat) (fw back : List Byte) (s : State) {b : Bool} {copy : List Byte}
    (hb : b = !(activeSlot s layer)) (hc : copy = padTo fw.length back) : writeInactive layer fw back s =
      (setSlot layer b (if verifyStep s layer copy = 0 then 1 else 0) (writeSlot layer b copy (setSlot layer b 3 s)),
        decide (verifyStep s layer copy = 0)) := by
  subst hb hc
  have hv : verifyStep (writeSlot layer (!(activeSlot s layer)) (padTo fw.length back) (setSlot layer (!(activeSlot s layer)) 3 s)) layer
      (padTo fw.length back) = verifyStep s layer (padTo fw.length back) := by
    obtain ⟨m, hm⟩ := setSlot_frame layer (!(activeSlot s layer)) 3 s
    rw [hm]
    rfl
  unfold writeInactive
  dsimp only
  rw [hv]
  by_cases h : verifyStep s layer (padTo fw.length back) = 0
  · simp only [h, if_true, decide_true]
  · simp only [h, if_false, decide_false]

/-- The end of a stage: FWUPD_STAGE_STATUS and the completion, on top of what it has done to the slots. -/
theorem SlotStaged.noted {s T t : State} {layer ord op st : Nat} {b : Bool} {d : Inflight} (h : SlotStaged s T layer b st)
    (hs : Starts s ord op d) (ht0 : layerTrial s layer = false) (cause status : Nat) (r : List Byte)
    (ht : t = (stageNote layer cause T).finish ord status 0 r) :
    t = { s with fw := t.fw, host := t.host } ∧
    t.fw = { s.fw with flash := t.fw.flash, stageLayer := layer, stageCause := cause } ∧
    slotState t layer b = st ∧ slotState t layer (!b) = slotState s layer (!b) ∧ activeSlot t layer = activeSlot s layer ∧
    layerTrial t layer = false ∧ layerByte t (3 - layer) = layerByte s (3 - layer) ∧
    (∀ a n, slotBase layer (!b) ≤ a → a + n ≤ slotBase layer (!b) + slotSize layer →
      Memory.readN t.fw.flash a n = Memory.readN s.fw.flash a n) ∧
    t.fw.flash = T.fw.flash ∧ t.flight ord = some { d with phase := .done ⟨status, 0, padTo 24 r⟩ } := by
  obtain ⟨hfr, h1, h2, h3, h4, h5, h6⟩ := h
  have hfl : t.fw.flash = T.fw.flash := by rw [ht]; rfl
  have hw := layerByte_congr hfl
  refine ⟨?_, ?_, ?_, ?_, ?_, ?_, (hw _).trans h5, fun a n ha hn => by rw [hfl]; exact h6 a n ha hn, hfl, ?_⟩
  · rw [ht, hfr]; rfl
  · rw [ht, hfr]; rfl
  · rw [slotState, hw]; exact h1
  · rw [slotState, hw]; exact h2
  · rw [activeSlot, hw]; exact h3
  · rw [layerTrial, hw]; exact h4.trans ht0
  · have hin : (stageNote layer cause T).host.inflight = s.host.inflight := by rw [hfr]; rfl
    have hd : (stageNote layer cause T).flight ord = some d := (State.flight_congr hin ord).trans hs.flight
    rw [ht]
    exact State.flight_finish hd (by rw [hs.waiting]; rfl) status 0 r

/-- Settles O40: the checks in order; what a stage has done to the slots is read from the boot record that it writes. -/
theorem firmwareStaged : Obligations.FirmwareStaged := by
  unfold Obligations.FirmwareStaged
  refine fun s ord layer d bs fw back h hl hfw => ⟨?_, fun hlen => ?_, fun hlen hsize => ⟨fun hbusy => ?_, fun h1 h2 h3 hg b copy good hb hc hgood => ?_⟩⟩
  · exact withBuffer_starts h _
  · rw [exec_fwStage h bs back hfw hl, if_pos hlen]
    rfl
  · rw [exec_fwStage h bs back hfw hl, if_neg (by omega), if_pos (by rcases hbusy with h | h | h <;> simp [h])]
    rfl
  · have hx := exec_fwStage h bs back hfw hl
    rw [if_neg (by omega), if_neg (by simp [h1, h2, h3])] at hx
    have hlayer : layer = 1 ∨ layer = 2 := by rw [hl]; exact fwStage_layer h.toStarts
    have hcopy : copy.length = fw.length := by rw [hc, padTo_length]
    have hfwlen : fw.length = d.bufLen := by rw [hfw, padTo_length]
    by_cases hv : verifyStep s layer fw = 0
    · rw [if_neg (by simpa using hv), writeInactive_eq layer fw back s hb hc] at hx
      have hgood' : good = decide (verifyStep s layer copy = 0) := by rw [hgood]; simp [hv]
      rw [← hgood'] at hx
      obtain ⟨hT, hread⟩ := writeSlot_staged b (st := if verifyStep s layer copy = 0 then 1 else 0) hg hlayer (by split <;> decide)
        (copy := copy) (by omega) _ rfl
      have hst : (if verifyStep s layer copy = 0 then 1 else 0) = if good = true then 1 else 0 := by rw [hgood']; simp
      rw [hst] at hT hread hx
      generalize setSlot layer b _ _ = T at hT hread hx
      cases good with
      | true =>
        dsimp only at hx
        obtain ⟨g1, g2, g3, g4, g5, g6, g7, g8, g9, g10⟩ := hT.noted h.toStarts h3 0 0 ((bytes384 (Fwh.digest fw)).take 16) rfl
        refine ⟨_, hx, g1, ?_, g3, g4, g5, g6, g7, fun _ => ?_, g8, g10⟩
        · rw [if_neg (by simpa using hv)]; exact g2
        · exact (congrArg (Memory.readN · (slotBase layer b) copy.length) g9).trans hread
      | false =>
        dsimp only at hx
        obtain ⟨g1, g2, g3, g4, g5, g6, g7, g8, g9, g10⟩ := hT.noted h.toStarts h3 6 0x08 [] rfl
        refine ⟨_, hx, g1, ?_, g3, g4, g5, g6, g7, fun _ => ?_, g8, g10⟩
        · rw [if_neg (by simpa using hv)]; exact g2
        · exact (congrArg (Memory.readN · (slotBase layer b) copy.length) g9).trans hread
    · have hgood' : good = false := by rw [hgood]; simp [hv]
      rw [if_pos hv, ← hb] at hx
      subst hgood'
      obtain ⟨g1, g2, g3, g4, g5, g6, g7, g8, -, g10⟩ := (setSlot_staged b (st := 0) hg hlayer (by decide)).noted h.toStarts h3
        (verifyStep s layer fw) 0x08 [] rfl
      exact ⟨_, hx, g1, by rw [if_pos hv]; exact g2, g3, g4, g5, g6, g7, fun h0 => absurd h0 hv, g8, g10⟩

end Sys2Proof.Machine

/-! Commands of a hearth, and its raw tap (R56, R67 to R70, R72, R73, R78). -/

namespace Sys2Proof.Machine

/-! Hearths of the state. -/

@[simp] theorem State.hearthAt_updHearth_same (s : State) (h : Fin 8) (f : Hearth → Hearth) :
    (s.updHearth h f).hearthAt h = f (s.hearthAt h) := Tab.at_upd_same h.isLt
theorem State.hearthAt_updHearth_other (s : State) {h k : Nat} (hk : k ≠ h) (f : Hearth → Hearth) :
    (s.updHearth h f).hearthAt k = s.hearthAt k := Tab.at_upd_other hk
theorem State.hearthAt_congr {s t : State} (h : t.hearth = s.hearth) (k : Nat) : t.hearthAt k = s.hearthAt k :=
  congrArg (Tab.at · k Hearth.init) h

/-- A point fault is recorded. -/
theorem reportFault_point (island code detail : Nat) (s : State) (l : Level) (hc : faultClass code = some (.point, l)) :
    ∃ f e m p h, reportFault island code detail s =
      { s with fault := f, ember := e, host := { s.host with messages := m, pba := p, faultHeld := h } } := by
  unfold reportFault
  split
  · exact ⟨_, _, _, _, _, rfl⟩
  · simp only [hc]
    exact addRecord_eq ..

/-! The raw tap (R72, R73). -/

theorem bitOf_putAt (v lo j : Nat) : bitOf (putAt v lo) j = (decide (j < 32) && (decide (lo ≤ j) && v.testBit (j - lo))) := by
  rw [bitOf_eq_getLsbD, putAt, BitVec.getLsbD_ofNat, Nat.testBit_shiftLeft]

theorem bitOf_flagAt (b : Bool) (i j : Nat) : bitOf (flagAt b i) j = (b && (decide (j < 32) && decide (i = j))) := by
  cases b
  · simp [flagAt, bitOf]
  · simp only [flagAt, if_true, bitOf_eq_getLsbD, putAt_one_getLsbD, Bool.true_and]

/-- HEARTH_TAP_DATA of a kept code. -/
def tapWord (code clamp : Nat) (clamped nsusp : Bool) : Word :=
  putAt code 0 ||| flagAt clamped 14 ||| flagAt nsusp 15 ||| putAt clamp 16 ||| putAt 1 31

section
variable {code seq : Nat} (clamped nsusp : Bool) (hcode : code < 2 ^ 14) (hseq : seq < 2 ^ 8)
include hcode hseq

theorem tapWord_code : fieldOf (tapWord code seq clamped nsusp) 13 0 = code := by
  simp only [tapWord, fieldOf_or]
  rw [fieldOf_putAt_same hcode (by decide) (by decide), fieldOf_flagAt_above (by decide) (by decide) (by decide),
    fieldOf_flagAt_above (by decide) (by decide) (by decide),
    fieldOf_putAt_above hseq (by decide) (by decide) (by decide), fieldOf_putAt_above (n := 1) (by decide) (by decide) (by decide) (by decide)]
  simp

theorem tapWord_seq : fieldOf (tapWord code seq clamped nsusp) 23 16 = seq := by
  have hflag : ∀ (b : Bool) (i : Nat), i < 16 → fieldOf (flagAt b i) 23 16 = 0 := fun b i hi => by
    cases b
    · simp [flagAt, fieldOf]
    · exact fieldOf_putAt_below (n := 1) (by decide) (by omega) (by decide)
  simp only [tapWord, fieldOf_or]
  rw [fieldOf_putAt_below hcode (by decide) (by decide), hflag _ _ (by decide), hflag _ _ (by decide),
    fieldOf_putAt_same hseq (by decide) (by decide), fieldOf_putAt_above (n := 1) (by decide) (by decide) (by decide) (by decide)]
  simp

end

theorem tapWord_flags {code : Nat} (seq : Nat) (clamped nsusp : Bool) (hcode : code < 2 ^ 14) :
    bitOf (tapWord code seq clamped nsusp) 14 = clamped ∧ bitOf (tapWord code seq clamped nsusp) 15 = nsusp ∧
    bitOf (tapWord code seq clamped nsusp) 31 = true := by
  have h14 : code.testBit 14 = false := Nat.testBit_lt_two_pow hcode
  have h15 : code.testBit 15 = false := Nat.testBit_lt_two_pow (Nat.lt_of_lt_of_le hcode (by decide))
  have h31 : code.testBit 31 = false := Nat.testBit_lt_two_pow (Nat.lt_of_lt_of_le hcode (by decide))
  refine ⟨?_, ?_, ?_⟩
  all_goals simp [tapWord, bitOf_or, bitOf_putAt, bitOf_flagAt, h14, h15, h31]

/-- The word that a kept code leaves. -/
def keptWord (code : Int) (h : Nat) (s : State) : Word :=
  tapWord ((clampCode code).1 % 16384).toNat (((s.hearthAt h).tap.seq + 1) % 256) (clampCode code).2
    (((s.hearthAt h).nsusp s.img h).testBit (fieldOf (s.hearthAt h).tap.ctl 7 4))

/-- A kept code replaces the tap's word; TAP_OVR where the one before had not been read. -/
theorem exec_tapLatch_keeps (h : Fin 8) (code : Int) (s : State) (hl : tapLive s h = true) (hk : (s.hearthAt h).tap.keeps = true) :
    exec (.tapLatch h code) s =
      .next ((if bitOf (s.hearthAt h).tap.data 31 then s.setFlag (hearthReg h 0x048) 0 else s).updHearth h fun x =>
        { x with tap := { x.tap with data := keptWord code h s, seq := ((s.hearthAt h).tap.seq + 1) % 256, count := 0 } }) := by
  show execTapLatch h code s = _
  rw [execTapLatch, hl, hk]
  simp only [Bool.not_true, Bool.false_eq_true, if_false]
  rfl

theorem clampCode_within {code : Int} (hl : -8192 ≤ code) (hu : code ≤ 8191) : clampCode code = (code, false) := by
  rw [clampCode, if_neg (by omega), if_neg (by omega)]
theorem clampCode_below {code : Int} (h : code < -8192) : clampCode code = (-8192, true) := by
  rw [clampCode, if_neg (by omega), if_pos (by omega)]
theorem clampCode_above {code : Int} (h : 8191 < code) : clampCode code = (8191, true) := by
  rw [clampCode, if_pos (by omega)]

/-- Settles O51: a tap that is off changes nothing, a code that is not kept counts, and the fields of a kept code's word are read
off one by one. -/
theorem tapLatches : Obligations.TapLatches := by
  unfold Obligations.TapLatches
  rintro h code s x rfl
  refine ⟨fun hl => ?_, fun hl hn => ?_, fun hl hn => ?_⟩
  · show execTapLatch h code s = _
    rw [execTapLatch, hl]
    rfl
  · have hk : (s.hearthAt h).tap.keeps = false := beq_eq_false_iff_ne.mpr hn
    have hcount : exec (.tapLatch h code) s =
        .next (s.updHearth h fun x => { x with tap := { x.tap with count := x.tap.count + 1 } }) := by
      show execTapLatch h code s = _
      rw [execTapLatch, hl, hk]
      rfl
    exact ⟨_, hcount, rfl, by rw [State.hearthAt_updHearth_same]⟩
  · have hk : (s.hearthAt h).tap.keeps = true := beq_iff_eq.mpr hn
    have hcode : ((clampCode code).1 % 16384).toNat < 2 ^ 14 := by omega
    have hseq : ((s.hearthAt h).tap.seq + 1) % 256 < 2 ^ 8 := by omega
    obtain ⟨m, hm, hset, hkept⟩ : ∃ m, (if bitOf (s.hearthAt h).tap.data 31 then s.setFlag (hearthReg h 0x048) 0 else s) =
        { s with regs := m } ∧ (bitOf (s.hearthAt h).tap.data 31 = true → m = (s.setFlag (hearthReg h 0x048) 0).regs) ∧
        (bitOf (s.hearthAt h).tap.data 31 = false → m = s.regs) := by
      cases bitOf (s.hearthAt h).tap.data 31
      · exact ⟨s.regs, rfl, nofun, fun _ => rfl⟩
      · exact ⟨_, rfl, fun _ => rfl, nofun⟩
    refine ⟨_, exec_tapLatch_keeps h code s hl hk, ?_⟩
    rw [hm]
    simp only [State.hearthAt_updHearth_same]
    obtain ⟨hf14, hf15, hf31⟩ := tapWord_flags (((s.hearthAt h).tap.seq + 1) % 256) (clampCode code).2
      (((s.hearthAt h).nsusp s.img h).testBit (fieldOf (s.hearthAt h).tap.ctl 7 4)) hcode
    have hval := tapWord_code (clampCode code).2
      (((s.hearthAt h).nsusp s.img h).testBit (fieldOf (s.hearthAt h).tap.ctl 7 4)) hcode hseq
    refine ⟨rfl, rfl, hf31, tapWord_seq _ _ hcode hseq, hf15, fun hlo hhi => ?_, fun hlo => ?_, fun hhi => ?_, fun hb => ?_, hkept⟩
    · refine ⟨hf14.trans (by rw [clampCode_within hlo hhi]), (congrArg Int.ofNat hval).trans ?_⟩
      rw [clampCode_within hlo hhi]
      exact Int.toNat_of_nonneg (Int.emod_nonneg _ (by decide))
    · exact ⟨hf14.trans (by rw [clampCode_below hlo]), hval.trans (by rw [clampCode_below hlo]; rfl)⟩
    · exact ⟨hf14.trans (by rw [clampCode_above hhi]), hval.trans (by rw [clampCode_above hhi]; rfl)⟩
    · have ha : hearthReg h 0x048 = 0x10048 + 0x1000 * h := by unfold hearthReg; omega
      rw [← ha, State.reg_congr (hset hb : _ = (s.setFlag (hearthReg h 0x048) 0).regs), State.setFlag_flag]
      decide

end Sys2Proof.Machine

/-! Kindling and rebuilding of a hearth (R56, R67 to R70, R78). -/

namespace Sys2Proof.Machine

/-! Converters of a hearth. -/

theorem Hearth.conv_setConv_same (x : Hearth) (w : Bool) (c : Converter) : (x.setConv w c).conv w = c := by
  cases w
  · rfl
  · rfl
theorem Hearth.conv_setConv_other (x : Hearth) (w : Bool) (c : Converter) : (x.setConv w c).conv (!w) = x.conv (!w) := by
  cases w
  · rfl
  · rfl
theorem Hearth.kindle_setConv (x : Hearth) (w : Bool) (c : Converter) :
    (x.setConv w c).kindle = x.kindle ∧ (x.setConv w c).waitRef = x.waitRef := by
  cases w
  · exact ⟨rfl, rfl⟩
  · exact ⟨rfl, rfl⟩

theorem Hearth.conv_kindleCheck (x : Hearth) (w : Bool) : x.kindleCheck.conv w = x.conv w := by
  unfold Hearth.kindleCheck
  split
  · rfl
  · rfl

/-- Start-up kindling is judged once both converters have no rebuild left. -/
theorem Hearth.kindleCheck_of_rebuild {x : Hearth} {w : Bool} (h : (x.conv w).rebuild ≠ .none) : x.kindleCheck = x := by
  unfold Hearth.kindleCheck
  refine if_neg fun hc => h ?_
  obtain ⟨-, -, hm, hw, -⟩ := hc
  cases w
  · exact hm
  · exact hw

theorem Hearth.kindleCheck_running {x : Hearth} (w : Bool) (hk : x.kindle = .running) (hr : x.waitRef = false)
    (hn : (x.conv w).rebuild = .none) (hm : (x.conv w).met = true) :
    x.kindleCheck.kindle = if (x.conv (!w)).rebuild = .none ∧ (x.conv (!w)).met = true then .pass else .running := by
  have hiff : (x.kindle = .running ∧ !x.waitRef ∧ x.main.rebuild = .none ∧ x.wit.rebuild = .none ∧ x.main.met ∧ x.wit.met) ↔
      (x.conv (!w)).rebuild = .none ∧ (x.conv (!w)).met = true := by
    cases w
    · simp [Hearth.conv] at hn hm ⊢
      simp [hk, hr, hn, hm]
    · simp [Hearth.conv] at hn hm ⊢
      simp [hk, hr, hn, hm]
  unfold Hearth.kindleCheck
  by_cases h : (x.conv (!w)).rebuild = .none ∧ (x.conv (!w)).met = true
  · rw [if_pos (hiff.mpr h), if_pos h]
  · rw [if_neg fun hc => h (hiff.mp hc), if_neg h, hk]

/-! A rebuild that meets R67. -/

theorem Converter.table_setBank (c : Converter) (b met doubtful : Bool) (t : LinTable) (r : Rebuild) (n : Nat) :
    Converter.table { c.setBank b t with active := b, met := met, rebuild := r, bgFails := n, doubtful := doubtful } = t := by
  cases b
  · rfl
  · rfl

theorem Hearth.rebuilt_background {x : Hearth} {w : Bool} (t : LinTable) (h : (x.conv w).rebuild = .background) :
    x.rebuilt w t = { x.setConv w { (x.conv w).setBank (!(x.conv w).active) t with
      active := !(x.conv w).active, rebuild := .none, bgFails := 0, doubtful := false } with swaps := (x.swaps + 1) % 65536 } := by
  rw [Hearth.rebuilt, h]

theorem Hearth.rebuilt_startup {x : Hearth} {w b : Bool} (t : LinTable) (h : (x.conv w).rebuild = .startup b) :
    x.rebuilt w t = (x.setConv w { (x.conv w).setBank b t with
      active := b, met := true, rebuild := if b then .none else .startup true }).kindleCheck := by
  rw [Hearth.rebuilt, h]

/-! A rebuild that has not met R67. -/

theorem Hearth.rebuildFail_met {x : Hearth} {w b : Bool} (cause : Nat) (h : (x.conv w).rebuild = .startup b) (hm : (x.conv w).met = true) :
    x.rebuildFail w cause = ((x.setConv w { x.conv w with rebuild := .none }).kindleCheck, none) := by
  rw [Hearth.rebuildFail, h]
  exact if_pos hm

theorem Hearth.rebuildFail_unmet {x : Hearth} {w b : Bool} (cause : Nat) (h : (x.conv w).rebuild = .startup b) (hm : (x.conv w).met = false) :
    x.rebuildFail w cause = (x.kindleFail cause, some 0x23) := by
  rw [Hearth.rebuildFail, h]
  exact if_neg (by rw [hm]; decide)

theorem Hearth.rebuildFail_code {x : Hearth} {w : Bool} (cause : Nat) :
    (x.rebuildFail w cause).2 = none ∨ (x.rebuildFail w cause).2 = some 0x23 ∨ (x.rebuildFail w cause).2 = some 0x24 ∨
      (x.rebuildFail w cause).2 = some 0x25 := by
  unfold Hearth.rebuildFail
  dsimp only
  split
  · exact .inl rfl
  · split
    · exact .inl rfl
    · exact .inr (.inl rfl)
  · dsimp only
    split
    · exact .inr (.inr (.inr rfl))
    · exact .inr (.inr (.inl rfl))

/-- The fault of a kindling or rebuild is recorded, and nothing else. -/
theorem reportFault_kindling (code : Nat) (detail : Nat) (s : State) (h : code = 0x23 ∨ code = 0x24 ∨ code = 0x25) :
    ∃ f e g, reportFault Isl.conv code detail s = { s with fault := f, ember := e, host := g } := by
  rcases h with rfl | rfl | rfl
  · obtain ⟨f, e, m, p, g, h⟩ := reportFault_point Isl.conv 0x23 detail s .l2 rfl
    exact ⟨f, e, _, h⟩
  · obtain ⟨f, e, m, p, g, h⟩ := reportFault_correctable Isl.conv 0x24 detail s .l2 rfl
    exact ⟨f, e, _, h⟩
  · obtain ⟨f, e, m, p, g, h⟩ := reportFault_point Isl.conv 0x25 detail s .l2 rfl
    exact ⟨f, e, _, h⟩

theorem rebuildEnd_eq (h : Nat) (w : Bool) (cause : Nat) (s : State) :
    ∃ f e g, rebuildEnd h w cause s =
      { s.updHearth h (fun _ => ((s.hearthAt h).rebuildFail w cause).1) with fault := f, ember := e, host := g } := by
  unfold rebuildEnd
  have hc := Hearth.rebuildFail_code (x := s.hearthAt h) (w := w) cause
  generalize (s.hearthAt h).rebuildFail w cause = r at hc ⊢
  obtain ⟨x, code⟩ := r
  cases code with
  | none => exact ⟨s.fault, s.ember, s.host, rfl⟩
  | some c => exact reportFault_kindling _ _ _ (by simpa using hc)

theorem rebuildEnd_silent {h : Nat} {w : Bool} {cause : Nat} {s : State} {x : Hearth}
    (hr : (s.hearthAt h).rebuildFail w cause = (x, none)) : rebuildEnd h w cause s = s.updHearth h fun _ => x := by
  unfold rebuildEnd
  rw [hr]

/-! The commands. -/

section
variable {h : Fin 8} {s : State} (hr : s.hearthRunning = true)
include hr

theorem exec_overrange (n : Fin 16) (hm : (s.img.mask h).testBit n = true) : exec (.overrange h n) s = .next (clampInput h n s) := by
  show execOverrange h n s = _
  rw [execOverrange, hr, hm]
  rfl

theorem exec_refTimeout (hk : (s.hearthAt h).kindle = .running) (hw : (s.hearthAt h).waitRef = true) :
    exec (.refTimeout h) s = .next (reportFault Isl.conv 0x23 (faultDetail (s.hearthPoints h)) (s.updHearth h fun x => x.kindleFail 1)) := by
  show execRefTimeout h s = _
  rw [execRefTimeout, hr, hk, hw]
  rfl

theorem exec_rebuildComplete (w : Bool) {a : Rebuilt} (hg : a.good = true) :
    exec (.rebuildComplete h w a) s = .next (s.updHearth h fun x => x.rebuilt w a.table) := by
  show execRebuildComplete h w a s = _
  rw [execRebuildComplete, hr, hg]
  rfl

theorem exec_rebuildTimeout (w : Bool) (a : Rebuilt) : exec (.rebuildTimeout h w a) s = .next (rebuildEnd h w a.cause s) := by
  show execRebuildTimeout h w a s = _
  rw [execRebuildTimeout, hr]
  rfl

theorem exec_retry (mask : BitVec 8) : exec (.retry mask) s =
    .next ((List.range 8).foldl (fun s h => if mask.toNat.testBit h ∧ (s.hearthAt h).kindle = .fail then s.updHearth h Hearth.kindle1 else s) s) := by
  show execRetry mask s = _
  rw [execRetry, hr]
  rfl

end

/-- An enabled input that clamps is marked, with the input of the next slot and the flue's stream. -/
theorem clampInput_spec (h : Fin 8) (n : Fin 16) (s t : State) (ht : t = clampInput h n s) :
    t = { s with regs := t.regs, hearth := t.hearth, chain := t.chain } ∧
    (t.hearthAt h).ovrNow = setBitN (s.hearthAt h).ovrNow n true ∧ bitOf (t.reg (hearthReg h 0x020)) n = true ∧
    (∀ j, s.img.nextInSlot h n = some j → j < 16 → bitOf (t.reg (hearthReg h 0x024)) j = true) ∧
    (s.running Isl.flue = true → (t.chainAt (16 * h + n)).clampLeft = 24) := by
  have hchain : ∀ u : State, 16 * h.val + n.val < 128 ∧
      ((if u.running Isl.flue then u.updChain (16 * h + n) fun c => { c with clampLeft := 24 } else u) =
        { u with chain := (if u.running Isl.flue then u.updChain (16 * h + n) fun c => { c with clampLeft := 24 } else u).chain }) ∧
      (u.running Isl.flue = true →
        ((if u.running Isl.flue then u.updChain (16 * h + n) fun c => { c with clampLeft := 24 } else u).chainAt (16 * h + n)).clampLeft = 24) := by
    intro u
    have hlt : 16 * h.val + n.val < 128 := by omega
    refine ⟨hlt, ?_⟩
    cases u.running Isl.flue
    · exact ⟨rfl, nofun⟩
    · exact ⟨rfl, fun _ => congrArg Chain.clampLeft (Tab.at_upd_same (v := u.chain) hlt :)⟩
  have hmark : ∃ m, markOver h n s = { s.updHearth h (fun x => { x with ovrNow := setBitN x.ovrNow n true }) with regs := m } ∧
      bitOf (Regs.get m (hearthReg h 0x020)) n = true ∧
      (∀ j, s.img.nextInSlot h n = some j → j < 16 → bitOf (Regs.get m (hearthReg h 0x024)) j = true) := by
    have hflag := State.setFlag_flag (s.updHearth h fun x => { x with ovrNow := setBitN x.ovrNow n true }) (hearthReg h 0x020)
      (Nat.lt_trans n.isLt (by decide))
    unfold markOver
    dsimp only
    have himg : ∀ u : State, ((u.updHearth h fun x => { x with ovrNow := setBitN x.ovrNow n true }).setFlag (hearthReg h 0x020) n).img = u.img :=
      fun _ => rfl
    rw [himg]
    cases hn : s.img.nextInSlot h n with
    | none => exact ⟨_, rfl, hflag, nofun⟩
    | some j =>
      refine ⟨_, rfl, ?_, fun j' hj hlt => ?_⟩
      · exact (congrArg (bitOf · n) (State.reg_setReg_other _ _ (by unfold hearthReg; omega))).trans hflag
      · cases hj
        exact State.setFlag_flag _ _ (by omega)
  obtain ⟨m, hm, hbit, hnext⟩ := hmark
  unfold clampInput at ht
  dsimp only at ht
  rw [hm] at ht
  subst ht
  obtain ⟨-, heq, hleft⟩ := hchain { s.updHearth h (fun x => { x with ovrNow := setBitN x.ovrNow n true }) with regs := m }
  generalize hu : { s.updHearth h (fun x => { x with ovrNow := setBitN x.ovrNow n true }) with regs := m } = u at heq hleft ⊢
  generalize (if u.running Isl.flue then u.updChain (16 * h + n) fun c => { c with clampLeft := 24 } else u) = t at heq hleft ⊢
  subst hu
  have hregs : t.regs = m := by rw [heq]
  have hhearth : t.hearth = (s.updHearth h fun x => { x with ovrNow := setBitN x.ovrNow n true }).hearth := (congrArg State.hearth heq :)
  refine ⟨?_, ?_, ?_, ?_, hleft⟩
  · rw [heq]
    rfl
  · rw [State.hearthAt_congr hhearth, State.hearthAt_updHearth_same]
  · rw [State.reg, hregs, hbit]
  · rw [State.reg, hregs]
    exact hnext

/-- The hearths that RETRY names and that are in FAIL, below `n`, kindle. -/
theorem retry_below (mask : BitVec 8) (s : State) {n : Nat} (hn : n ≤ 8) (t : State)
    (ht : t = (List.range n).foldl
      (fun s h => if mask.toNat.testBit h ∧ (s.hearthAt h).kindle = .fail then s.updHearth h Hearth.kindle1 else s) s) :
    t = { s with hearth := t.hearth } ∧ ∀ k : Fin 8, t.hearthAt k =
      if k.val < n ∧ mask.toNat.testBit k ∧ (s.hearthAt k).kindle = .fail then (s.hearthAt k).kindle1 else s.hearthAt k := by
  induction n generalizing t with
  | zero =>
    subst ht
    exact ⟨rfl, fun k => (if_neg fun hc => absurd hc.1 (Nat.not_lt_zero _)).symm⟩
  | succ n ih =>
    rw [List.range_succ, List.foldl_append] at ht
    obtain ⟨heq, hat⟩ := ih (by omega) _ rfl
    generalize (List.range n).foldl _ s = u at ht heq hat
    have hself : u.hearthAt n = s.hearthAt n := (hat ⟨n, by omega⟩).trans (if_neg fun hc => absurd hc.1 (Nat.lt_irrefl n))
    simp only [List.foldl_cons, List.foldl_nil, hself] at ht
    by_cases hc : mask.toNat.testBit n ∧ (s.hearthAt n).kindle = .fail
    · rw [if_pos hc] at ht
      subst ht
      refine ⟨by rw [State.updHearth, heq], fun k => ?_⟩
      by_cases hk : k.val = n
      · rw [hk, if_pos ⟨Nat.lt_succ_self n, hc⟩, ← hself]
        exact Tab.at_upd_same (by omega)
      · rw [State.hearthAt_updHearth_other u hk, hat k]
        simp only [show k.val < n + 1 ↔ k.val < n by omega]
    · rw [if_neg hc] at ht
      subst ht
      refine ⟨heq, fun k => ?_⟩
      rw [hat k]
      by_cases hk : k.val = n
      · rw [hk, if_neg fun h => absurd h.1 (Nat.lt_irrefl n), if_neg fun h => hc h.2]
      · simp only [show k.val < n + 1 ↔ k.val < n by omega]

/-- A bank that meets R67 becomes active. -/
theorem rebuilt_spec (x : Hearth) (w : Bool) (t : LinTable) (h : (x.conv w).rebuild ≠ .none) :
    ((x.rebuilt w t).conv w).table = t ∧ (x.rebuilt w t).conv (!w) = x.conv (!w) ∧
    ((x.conv w).rebuild = .background → ((x.rebuilt w t).conv w).active = (!(x.conv w).active) ∧ ((x.rebuilt w t).conv w).bgFails = 0 ∧
      ((x.rebuilt w t).conv w).doubtful = false ∧ ((x.rebuilt w t).conv w).rebuild = .none ∧
      (x.rebuilt w t).swaps = (x.swaps + 1) % 65536 ∧ (x.rebuilt w t).kindle = x.kindle) ∧
    (∀ b, (x.conv w).rebuild = .startup b → ((x.rebuilt w t).conv w).met = true ∧ ((x.rebuilt w t).conv w).active = b ∧
      ((x.rebuilt w t).conv w).rebuild = (if b then .none else .startup true)) ∧
    ((x.conv w).rebuild = .startup true → x.kindle = .running → x.waitRef = false →
      (x.rebuilt w t).kindle = (if (x.conv (!w)).rebuild = .none ∧ (x.conv (!w)).met = true then .pass else .running)) ∧
    ((x.conv w).rebuild = .startup false → (x.rebuilt w t).kindle = x.kindle) := by
  cases hc : (x.conv w).rebuild with
  | none => exact absurd hc h
  | background =>
    rw [Hearth.rebuilt_background t hc]
    have hsame := Hearth.conv_setConv_same x w { (x.conv w).setBank (!(x.conv w).active) t with
      active := !(x.conv w).active, rebuild := .none, bgFails := 0, doubtful := false }
    have hother := Hearth.conv_setConv_other x w { (x.conv w).setBank (!(x.conv w).active) t with
      active := !(x.conv w).active, rebuild := .none, bgFails := 0, doubtful := false }
    have hkept := (Hearth.kindle_setConv x w { (x.conv w).setBank (!(x.conv w).active) t with
      active := !(x.conv w).active, rebuild := .none, bgFails := 0, doubtful := false }).1
    generalize x.setConv w _ = y at hsame hother hkept
    have hy : ∀ v, Hearth.conv { y with swaps := (x.swaps + 1) % 65536 } v = y.conv v := fun _ => rfl
    rw [hy, hy, hsame, hother]
    exact ⟨Converter.table_setBank _ _ _ _ t _ _, rfl, fun _ => ⟨rfl, rfl, rfl, rfl, rfl, hkept⟩, nofun, nofun, nofun⟩
  | startup b =>
    rw [Hearth.rebuilt_startup t hc]
    have hsame := Hearth.conv_setConv_same x w { (x.conv w).setBank b t with
      active := b, met := true, rebuild := if b then .none else .startup true }
    have hother := Hearth.conv_setConv_other x w { (x.conv w).setBank b t with
      active := b, met := true, rebuild := if b then .none else .startup true }
    obtain ⟨hkind, hwait⟩ := Hearth.kindle_setConv x w { (x.conv w).setBank b t with
      active := b, met := true, rebuild := if b then .none else .startup true }
    generalize x.setConv w _ = y at hsame hother hkind hwait
    simp only [Hearth.conv_kindleCheck]
    refine ⟨?_, hother, nofun, ?_, ?_, ?_⟩
    · rw [hsame]
      exact Converter.table_setBank _ _ _ _ t _ _
    · rintro b' hb
      cases hb
      rw [hsame]
      exact ⟨rfl, rfl, rfl⟩
    · rintro hb hk hw
      cases hb
      rw [← hother]
      exact Hearth.kindleCheck_running w (hkind.trans hk) (hwait.trans hw) (by rw [hsame]; rfl) (by rw [hsame])
    · rintro hb
      cases hb
      rw [Hearth.kindleCheck_of_rebuild (w := w) (by rw [hsame]; exact Rebuild.noConfusion), hkind]

/-- A rebuild without a bank that meets R67. -/
theorem rebuildEnd_spec (h : Fin 8) (w : Bool) (cause : Nat) (s t : State) (ht : t = rebuildEnd h w cause s) :
    t = { s with hearth := t.hearth, fault := t.fault, ember := t.ember, host := t.host } ∧
    (∀ b, ((s.hearthAt h).conv w).rebuild = .startup b →
      (((s.hearthAt h).conv w).met = false → (t.hearthAt h).kindle = .fail ∧ (t.hearthAt h).cause = cause) ∧
      (((s.hearthAt h).conv w).met = true → (t.hearthAt h).conv w = { (s.hearthAt h).conv w with rebuild := .none } ∧
        t = { s with hearth := t.hearth } ∧
        ((s.hearthAt h).kindle = .running → (s.hearthAt h).waitRef = false →
          (t.hearthAt h).kindle = (if ((s.hearthAt h).conv (!w)).rebuild = .none ∧ ((s.hearthAt h).conv (!w)).met = true
            then .pass else .running)))) ∧
    (((s.hearthAt h).conv w).rebuild = .background →
      ((t.hearthAt h).conv w).bgFails = min (((s.hearthAt h).conv w).bgFails + 1) 3 ∧
      ((t.hearthAt h).conv w).active = ((s.hearthAt h).conv w).active ∧ (t.hearthAt h).kindle = (s.hearthAt h).kindle ∧
      (t.hearthAt h).cause = cause ∧ (2 ≤ ((s.hearthAt h).conv w).bgFails → ((t.hearthAt h).conv w).doubtful = true)) := by
  obtain ⟨f, e, g, heq⟩ := rebuildEnd_eq h w cause s
  have hat : t.hearthAt h = ((s.hearthAt h).rebuildFail w cause).1 := by
    rw [ht, heq]
    exact State.hearthAt_updHearth_same s h fun _ => ((s.hearthAt h).rebuildFail w cause).1
  have hframe : t = { s with hearth := t.hearth, fault := t.fault, ember := t.ember, host := t.host } := by
    rw [ht, heq]
    rfl
  refine ⟨hframe, fun b hb => ⟨fun hm => ?_, fun hm => ?_⟩, fun hb => ?_⟩
  · rw [hat, Hearth.rebuildFail_unmet cause hb hm]
    exact ⟨rfl, rfl⟩
  · have hfail := Hearth.rebuildFail_met cause hb hm
    rw [hat, hfail]
    have hsame := Hearth.conv_setConv_same (s.hearthAt h) w { (s.hearthAt h).conv w with rebuild := .none }
    have hother := Hearth.conv_setConv_other (s.hearthAt h) w { (s.hearthAt h).conv w with rebuild := .none }
    obtain ⟨hkind, hwait⟩ := Hearth.kindle_setConv (s.hearthAt h) w { (s.hearthAt h).conv w with rebuild := .none }
    refine ⟨(Hearth.conv_kindleCheck _ w).trans hsame, ?_, fun hk hw => ?_⟩
    · rw [ht, rebuildEnd_silent hfail]
      rfl
    · rw [← hother]
      exact Hearth.kindleCheck_running w (hkind.trans hk) (hwait.trans hw) (by rw [hsame]) (by rw [hsame]; exact hm)
  · rw [hat, Hearth.rebuildFail, hb]
    have hsame := Hearth.conv_setConv_same (s.hearthAt h) w { (s.hearthAt h).conv w with
      rebuild := .none, bgFails := min (((s.hearthAt h).conv w).bgFails + 1) 3,
      doubtful := ((s.hearthAt h).conv w).doubtful || min (((s.hearthAt h).conv w).bgFails + 1) 3 == 3 }
    refine ⟨(congrArg Converter.bgFails hsame :), (congrArg Converter.active hsame :), (Hearth.kindle_setConv ..).1, rfl, fun h2 => ?_⟩
    refine (congrArg Converter.doubtful hsame :).trans ?_
    rw [show min (((s.hearthAt h).conv w).bgFails + 1) 3 = 3 by omega]
    exact Bool.or_true _

/-- Settles O50: each command through the lemma that says what it does to the hearth it names. -/
theorem hearthCommands : Obligations.HearthCommands := by
  unfold Obligations.HearthCommands
  intro h s hr
  refine ⟨fun n => ⟨fun hm => ?_, fun hm => ?_⟩, fun hk hw => ?_, fun hk => ?_, ?_, fun hk hp => ?_, fun hk => ?_, fun mask => ?_⟩
  · obtain ⟨hframe, hnow, hovr, hnsusp, hleft⟩ := clampInput_spec h n s _ rfl
    have ha : hearthReg h 0x020 = 0x10020 + 0x1000 * h := by unfold hearthReg; omega
    have hb : hearthReg h 0x024 = 0x10024 + 0x1000 * h := by unfold hearthReg; omega
    exact ⟨_, exec_overrange hr n hm, hframe, hnow, ha ▸ hovr, hb ▸ hnsusp, hleft⟩
  · show execOverrange h n s = _
    rw [execOverrange, hm, Bool.and_false]
    rfl
  · obtain ⟨f, e, g, heq⟩ := reportFault_kindling 0x23 (faultDetail (s.hearthPoints h)) (s.updHearth h fun x => x.kindleFail 1) (.inl rfl)
    have hat := State.hearthAt_updHearth_same s h fun x => x.kindleFail 1
    refine ⟨_, (exec_refTimeout hr hk hw).trans (congrArg _ heq), rfl, (congrArg Hearth.kindle hat :), (congrArg Hearth.cause hat :)⟩
  · show execRefTimeout h s = _
    rw [execRefTimeout]
    refine if_neg ?_
    rcases hk with hk | hk
    · simp [hk]
    · simp [hk]
  · rintro w a c o rfl rfl
    refine ⟨fun hg => ?_, fun hg hc => ?_, fun hc => ?_⟩
    · show execRebuildComplete h w a s = _
      rw [execRebuildComplete, hg, Bool.and_false]
      rfl
    · refine ⟨_, exec_rebuildComplete hr w hg, rfl, ?_⟩
      rw [State.hearthAt_updHearth_same]
      exact rebuilt_spec _ w a.table hc
    · exact ⟨_, exec_rebuildTimeout hr w a, rebuildEnd_spec h w a.cause s _ rfl⟩
  · have hgo : exec (.backgroundRekindle h) s = .next (s.updHearth h fun x =>
        { x with main := { x.main with rebuild := .background }, wit := { x.wit with rebuild := .background }, bgCount := x.bgCount + 1 }) := by
      show execBackgroundRekindle h s = _
      rw [execBackgroundRekindle, hr, hk, if_pos]
      simp [hp]
    refine ⟨_, hgo, rfl, ?_⟩
    rw [State.hearthAt_updHearth_same]
    exact ⟨rfl, rfl⟩
  · show execBackgroundRekindle h s = _
    rw [execBackgroundRekindle]
    refine if_neg ?_
    rcases hk with hk | hk
    · simp [hk]
    · simp [hk]
  · obtain ⟨hframe, hat⟩ := retry_below mask s (Nat.le_refl 8) _ rfl
    refine ⟨_, exec_retry hr mask, hframe, fun k => ⟨fun hc => ?_, fun hc => ?_⟩⟩
    · rw [hat k, if_pos ⟨k.isLt, hc⟩]
      exact ⟨rfl, rfl⟩
    · rw [hat k, if_neg fun h => hc h.2]

end Sys2Proof.Machine

/-! Commands of a flue engine (R95, R96, R101 to R104). -/

namespace Sys2Proof.Machine

/-! Engines and chains of the state. -/

theorem State.flueAt_congr {s t : State} (h : t.flue = s.flue) (k : Nat) : t.flueAt k = s.flueAt k :=
  congrArg (Tab.at · k Flue.init) h
theorem State.chainAt_updChain_same (s : State) {i : Nat} (hi : i < 128) (f : Chain → Chain) :
    (s.updChain i f).chainAt i = f (s.chainAt i) := Tab.at_upd_same hi
theorem State.chainAt_updChain_other (s : State) {i k : Nat} (hk : k ≠ i) (f : Chain → Chain) :
    (s.updChain i f).chainAt k = s.chainAt k := Tab.at_upd_other hk

/-- A change of the first `n` chains of an engine. -/
theorem foldl_updChain (h : Fin 8) (f : Chain → Chain) (s : State) {n : Nat} (hn : n ≤ 16) (t : State)
    (ht : t = (List.range n).foldl (fun s i => s.updChain (16 * h + i) f) s) :
    t = { s with chain := t.chain } ∧
      ∀ k : Fin 16, t.chainAt (16 * h + k) = if k.val < n then f (s.chainAt (16 * h + k)) else s.chainAt (16 * h + k) := by
  induction n generalizing t with
  | zero =>
    subst ht
    exact ⟨rfl, fun k => (if_neg (Nat.not_lt_zero _)).symm⟩
  | succ n ih =>
    rw [List.range_succ, List.foldl_append] at ht
    obtain ⟨heq, hat⟩ := ih (by omega) _ rfl
    generalize (List.range n).foldl _ s = u at ht heq hat
    subst ht
    refine ⟨by rw [List.foldl_cons, List.foldl_nil, State.updChain, heq], fun k => ?_⟩
    rw [List.foldl_cons, List.foldl_nil]
    by_cases hk : k.val = n
    · have hself := hat k
      rw [if_neg (by omega)] at hself
      rw [if_pos (by omega), ← hself, hk]
      exact State.chainAt_updChain_same u (by omega) f
    · rw [State.chainAt_updChain_other u (by omega), hat k]
      simp only [show k.val < n + 1 ↔ k.val < n by omega]

theorem foldl_updChain_frame (h : Fin 8) (f : Chain → Chain) (s : State) :
    ∃ c, (List.range 16).foldl (fun s i => s.updChain (16 * h + i) f) s = { s with chain := c } :=
  ⟨_, (foldl_updChain h f s (Nat.le_refl 16) _ rfl).1⟩

/-! Banks. -/

theorem Flue.bank_setBank_same (f : Flue) (b : Bool) (m : List (Nat × BitVec 24)) : (f.setBank b m).bank b = m := by
  cases b
  · rfl
  · rfl
theorem Flue.bank_setBank_other (f : Flue) (b : Bool) (m : List (Nat × BitVec 24)) : (f.setBank (!b) m).bank b = f.bank b := by
  cases b
  · rfl
  · rfl

theorem flueReg_eq (h off : Nat) : flueReg h off = 0x18000 + off + 0x1000 * h := by
  unfold flueReg
  omega

/-- A field reads the value put into it. -/
theorem State.fld_putField (s : State) (a : Nat) {hi lo v : Nat} (hv : v < 2 ^ (hi + 1 - lo)) (h : lo ≤ hi) (hhi : hi < 32) :
    (s.putField a hi lo v).fld a hi lo = v := by
  rw [State.putField, State.fld, State.reg_setReg_same]
  refine (Nat.eq_of_testBit_eq fun j => ?_).trans (fieldOf_putAt_same hv h hhi)
  rw [fieldOf, fieldOf, Nat.testBit_mod_two_pow, Nat.testBit_mod_two_pow, Nat.testBit_shiftRight, Nat.testBit_shiftRight,
    BitVec.testBit_toNat, BitVec.testBit_toNat, mergeMask_getLsbD, maskOf_getLsbD]
  by_cases hj : j < hi + 1 - lo
  · have h32 : lo + j < 32 := by omega
    simp [h32, hj]
  · simp [hj]

/-- A write of a register other than the clock's time registers changes registers only. -/
theorem writeReg_regs {a : Nat} (v : Word) (s : State) (h1 : a ≠ 0x3008) (h2 : a ≠ 0x300C) (h3 : a ≠ 0x3010) :
    ∃ m, writeReg a v s = { s with regs := m } := by
  cases hf : RegMap.find a with
  | none => exact ⟨s.regs, by simp only [writeReg, hf]⟩
  | some x =>
    obtain ⟨b, r, i⟩ := x
    cases hu : blockUp s b.island with
    | false => exact ⟨s.regs, by simp only [writeReg, hf, hu, Bool.not_false, if_true]⟩
    | true =>
      rw [writeReg_of_find hf hu h1 h2 h3]
      generalize r.write _ _ _ = x
      dsimp only
      cases x.2 || badSize a v
      · exact ⟨_, rfl⟩
      · exact ⟨_, rfl⟩

/-! Crossings and the detectors. -/

/-- Detectors change the events and flag a session. -/
def DetectorsOnly (s t : State) : Prop := ∃ e x, t = { s with events := e, session := x }

theorem DetectorsOnly.refl (s : State) : DetectorsOnly s s := ⟨s.events, s.session, rfl⟩
theorem DetectorsOnly.trans {s t u : State} (h1 : DetectorsOnly s t) (h2 : DetectorsOnly t u) : DetectorsOnly s u := by
  obtain ⟨e, x, rfl⟩ := h1
  obtain ⟨e', x', rfl⟩ := h2
  exact ⟨e', x', rfl⟩

theorem flagOpen_eq (p code : Nat) (s : State) : ∃ x, flagOpen p code s = { s with session := x } := by
  unfold flagOpen
  split
  · exact ⟨_, rfl⟩
  · exact ⟨s.session, rfl⟩

theorem declare_eq (p code kind : Nat) (d : Detector) (ts pos : Nat) (s : State) :
    ∃ b x, declare p code kind d ts pos s = { s with events := { s.events with batch := b }, session := x } := by
  obtain ⟨x, hx⟩ := flagOpen_eq p code s
  unfold declare
  dsimp only
  rw [hx]
  split
  · exact ⟨_, x, rfl⟩
  · exact ⟨_, s.session, rfl⟩

theorem runDetector_eq (p code minStart minEnd : Nat) (hit clear : Bool) (onset ts : Nat) (value : Rat) (pick : Rat → Rat → Rat)
    (pos : Nat) (s : State) : ∃ d b x, runDetector p code minStart minEnd hit clear onset ts value pick pos s =
      { s with events := { s.events with point := Tab.upd s.events.point p fun y => y.setDetector code d, batch := b }, session := x } := by
  unfold runDetector
  generalize ((s.eventsAt p).detector code).advance minStart minEnd hit clear onset value pick pos = r
  obtain ⟨d, out⟩ := r
  have hdecl : ∀ k q, ∃ b x, declare p code k d ts q (s.updEvents p fun y => y.setDetector code d) =
      { s with events := { s.events with point := Tab.upd s.events.point p fun y => y.setDetector code d, batch := b }, session := x } :=
    fun k q => declare_eq p code k d ts q (s.updEvents p fun y => y.setDetector code d)
  obtain _ | _ | k := out
  · exact ⟨d, s.events.batch, s.session, rfl⟩
  · exact ⟨d, hdecl 0 pos⟩
  · exact ⟨d, hdecl (k + 1) d.posmask⟩

theorem runDetector_only (p code minStart minEnd : Nat) (hit clear : Bool) (onset ts : Nat) (value : Rat) (pick : Rat → Rat → Rat)
    (pos : Nat) (s : State) : DetectorsOnly s (runDetector p code minStart minEnd hit clear onset ts value pick pos s) := by
  obtain ⟨d, b, x, h⟩ := runDetector_eq p code minStart minEnd hit clear onset ts value pick pos s
  exact ⟨_, x, h⟩

theorem judgeFreq_only (ts : Nat) (f : Rat) (locked : Bool) (s : State) (p : Nat) : DetectorsOnly s (judgeFreq ts f locked s p) := by
  unfold judgeFreq
  dsimp only
  split
  · exact runDetector_only ..
  · exact .refl s

theorem DetectorsOnly.foldl {α : Type} (f : State → α → State) (hf : ∀ s a, DetectorsOnly s (f s a)) (l : List α) (s : State) :
    DetectorsOnly s (l.foldl f s) := by
  induction l generalizing s with
  | nil => exact .refl s
  | cons a l ih => exact (hf s a).trans (ih (f s a))

/-- A reported crossing goes to the tracker and the detectors. -/
theorem reportCrossing_eq (h pos : Nat) (s : State) :
    DetectorsOnly (s.updFlue h fun f => { f with tracker := (s.flueAt h).tracker.cross pos }) (reportCrossing h pos s) := by
  unfold reportCrossing
  dsimp only
  split
  · exact .foldl _ (judgeFreq_only _ _ _) _ _
  · exact .refl _

/-! The commands. -/

section
variable {h : Fin 8} {s : State} (hr : s.running Isl.flue = true)
include hr

theorem exec_flueBankData (v : Word) : exec (.flueBankData h v) s = .next (if (s.flueAt h).writable then
    (s.updFlue h fun f => f.setBank (!f.active)
      (Sparse.set (fun _ => 0) ((s.flueAt h).bank !(s.flueAt h).active) (s.fld (flueReg h 0x038) 11 0) (BitVec.ofNat 24 v.toNat))).putField
        (flueReg h 0x038) 11 0 ((s.fld (flueReg h 0x038) 11 0 + 1) % 4096)
    else s.setFlag (flueReg h 0x034) 5) := by
  show execFlueBankData h v s = _
  rw [execFlueBankData, hr, if_neg (by decide)]
  dsimp only
  split
  · rfl
  · rfl

theorem exec_swap (v : Word) : exec (.swap h v) s = .next (if bitOf v 0 then
    (writeReg (flueReg h 0x030) v s).updFlue h fun f => { f with swapReq := true } else writeReg (flueReg h 0x030) v s) := by
  show execSwap h v s = _
  rw [execSwap, hr]
  rfl

theorem exec_bankHashComplete {sw : Swap} (hw : (s.flueAt h).swap = some sw) (hh : sw.hashed = false) :
    exec (.bankHashComplete h) s = .next (if s.img.feedsBilling h && ((s.flueAt h).bankMatch s.img h sw.target).isNone then
      (s.updFlue h fun f => f.endSwap).setFlag (flueReg h 0x034) 6
    else (List.range 16).foldl (fun s i => s.updChain (16 * h + i) fun c => { c with rs := { c.rs with switchJ := 0 } })
      (s.updFlue h fun f => { f with swap := some { sw with hashed := true } })) := by
  show execBankHashComplete h s = _
  rw [execBankHashComplete]
  dsimp only
  rw [hw]
  dsimp only
  rw [hh, hr, if_neg (by decide)]
  split
  · rfl
  · rfl

theorem exec_swapComplete {sw : Swap} (hw : (s.flueAt h).swap = some sw) : exec (.swapComplete h) s = .next (if swapDone s h sw then
    s.updFlue h fun f => { f with active := sw.target, swaps := (f.swaps + 1) % 65536 }.endSwap else s) := by
  show execSwapComplete h s = _
  rw [execSwapComplete, hw]
  dsimp only
  rw [hr, Bool.true_and]
  cases swapDone s h sw
  · rfl
  · rfl

theorem exec_fillEnd : exec (.fillEnd h) s = .next ((List.range 16).foldl
    (fun s i => s.updChain (16 * h + i) fun c => { c with newFill := false }) (s.updFlue h fun f => { f with filling := false })) := by
  show execFillEnd h s = _
  rw [execFillEnd, if_pos hr]

end

/-- What a tracker keeps of its found crossings once one is taken. -/
def Tracker.after (k : Tracker) (pos : Nat) : Tracker := { k with found := k.found.filter fun p => decide (pos < p) }

theorem exec_trackerCrossing {h : Fin 8} {s : State} {pos : Nat} (he : s.engineRunning = true) (ht : s.img.trkEn h = true)
    (hf : pos ∈ (s.flueAt h).tracker.found) : exec (.trackerCrossing h pos) s = .next
      (if (s.flueAt h).tracker.last.all fun p => decide (p < pos) then
        reportCrossing h pos (s.updFlue h fun f => { f with tracker := (s.flueAt h).tracker.after pos })
      else s.updFlue h fun f => { f with tracker := (s.flueAt h).tracker.after pos }) := by
  show execTrackerCrossing h pos s = _
  rw [execTrackerCrossing]
  dsimp only
  rw [he, ht, List.contains_iff_mem.mpr hf]
  rfl

/-- A crossing that lies after the last one is reported; the tracker takes it. -/
theorem reportCrossing_spec (h : Fin 8) (pos : Nat) (k : Tracker) (s t : State)
    (ht : t = reportCrossing h pos (s.updFlue h fun f => { f with tracker := k })) :
    t = { s with flue := t.flue, events := t.events, session := t.session } ∧
      t.flueAt h = { s.flueAt h with tracker := k.cross pos } := by
  obtain ⟨e, x, heq⟩ := reportCrossing_eq h pos (s.updFlue h fun f => { f with tracker := k })
  have hk : ((s.updFlue h fun f => { f with tracker := k }).flueAt h).tracker = k := congrArg Flue.tracker (State.flueAt_updFlue_same ..)
  rw [hk, ← ht] at heq
  have hflue := State.flueAt_congr (congrArg State.flue heq :) h
  subst heq
  exact ⟨rfl, hflue.trans ((State.flueAt_updFlue_same ..).trans (by rw [State.flueAt_updFlue_same]))⟩

/-- Settles O52: each command through the equation that says what it does while FLUE runs. -/
theorem flueCommands : Obligations.FlueCommands := by
  unfold Obligations.FlueCommands
  intro h s hr
  have h30 : flueReg h 0x030 = 0x18030 + 0x1000 * h := flueReg_eq h 0x030
  have h34 : flueReg h 0x034 = 0x18034 + 0x1000 * h := flueReg_eq h 0x034
  have h38 : flueReg h 0x038 = 0x18038 + 0x1000 * h := flueReg_eq h 0x038
  refine ⟨fun v => ⟨?_, fun hl => ?_, ?_⟩, fun hn => ⟨?_, ?_⟩, fun sw hw => ⟨fun hh => ?_, fun hh => ?_, fun hd => ?_, fun hd => ?_⟩,
    ?_, fun n => ?_, ?_⟩
  · rintro hsw hq a rfl
    have hwr : (s.flueAt h).writable = true := by rw [Flue.writable, hsw, hq]; rfl
    refine ⟨_, (exec_flueBankData hr v).trans (congrArg _ (if_pos hwr)), rfl, ?_⟩
    rw [← h38]
    have hat := State.flueAt_updFlue_same s h fun f => f.setBank (!f.active)
      (Sparse.set (fun _ => 0) ((s.flueAt h).bank !(s.flueAt h).active) (s.fld (flueReg h 0x038) 11 0) (BitVec.ofNat 24 v.toNat))
    have hput : ∀ (u : State) (a v : Nat), (u.putField a 11 0 v).flueAt h = u.flueAt h := fun _ _ _ => rfl
    rw [hput, hat, Flue.bank_setBank_same]
    refine ⟨Flue.bank_setBank_other .., ?_, fun b hb => ?_, State.fld_putField _ _ (by omega) (by decide) (by decide)⟩
    · rw [Sparse.get_set, if_pos rfl, BitVec.ofNat_toNat]
    · rw [Sparse.get_set, if_neg (Ne.symm hb)]
  · have hwr : ¬(s.flueAt h).writable = true := by
      rcases hl with hl | hl
      · simp [Flue.writable, hl]
      · simp [Flue.writable, hl]
    rw [exec_flueBankData hr, if_neg hwr, ← h34]
    rfl
  · obtain ⟨m, hm⟩ := writeReg_regs v s (a := flueReg h 0x030) (by omega) (by omega) (by omega)
    have hex := exec_swap (h := h) hr v
    rw [hm] at hex
    refine ⟨_, hex, ?_⟩
    cases bitOf v 0
    · exact ⟨rfl, by rw [Bool.or_false]; rfl⟩
    · refine ⟨rfl, ?_⟩
      rw [if_pos rfl, State.flueAt_updFlue_same, Bool.or_true]
      rfl
  · show execBankHashComplete h s = _
    rw [execBankHashComplete]
    dsimp only
    rw [hn]
  · show execSwapComplete h s = _
    rw [execSwapComplete, hn]
  · show execBankHashComplete h s = _
    rw [execBankHashComplete]
    dsimp only
    rw [hw]
    dsimp only
    rw [hh]
    rfl
  · by_cases hc : (s.img.feedsBilling h && ((s.flueAt h).bankMatch s.img h sw.target).isNone) = true
    · refine ⟨_, (exec_bankHashComplete hr hw hh).trans (congrArg _ (if_pos hc)), rfl, fun hk => ?_, fun _ _ => ?_⟩
      · rw [Bool.and_eq_true, Option.isNone_iff_eq_none] at hc
        rcases hk with hk | hk
        · exact absurd hk (by rw [hc.1]; decide)
        · exact absurd hk (by rw [hc.2]; decide)
      · rw [← h34]
        exact ⟨State.flueAt_updFlue_same s h fun f => f.endSwap, State.setFlag_flag _ _ (by decide)⟩
    · obtain ⟨x, hx⟩ := foldl_updChain_frame h (fun c => { c with rs := { c.rs with switchJ := 0 } })
        (s.updFlue h fun f => { f with swap := some { sw with hashed := true } })
      have hex := (exec_bankHashComplete hr hw hh).trans (congrArg _ (if_neg hc))
      rw [hx] at hex
      refine ⟨_, hex, rfl, fun _ => ⟨?_, rfl⟩, fun hb hm => absurd (by rw [hb, hm]; rfl) hc⟩
      exact State.flueAt_updFlue_same s h fun f => { f with swap := some { sw with hashed := true } }
  · rw [exec_swapComplete hr hw, hd]
    rfl
  · refine ⟨_, (exec_swapComplete hr hw).trans (congrArg _ (if_pos hd)), rfl, ?_⟩
    exact State.flueAt_updFlue_same ..
  · obtain ⟨hframe, hat⟩ := foldl_updChain h (fun c => { c with newFill := false })
      (s.updFlue h fun f => { f with filling := false }) (Nat.le_refl 16) _ rfl
    have hex := exec_fillEnd (h := h) hr
    generalize (List.range 16).foldl _ _ = t at hframe hat hex
    have hflue : t.flue = (s.updFlue h fun f => { f with filling := false }).flue := (congrArg State.flue hframe :)
    refine ⟨t, hex, ?_, ?_, fun n => ?_⟩
    · rw [hflue]
      exact hframe
    · exact (State.flueAt_congr hflue h).trans (State.flueAt_updFlue_same s h fun f => { f with filling := false })
    · rw [hat n, if_pos n.isLt]
  · show execIntegratorFillEnd n s = _
    rw [execIntegratorFillEnd, if_pos hr]
  · rintro pos k he ht rfl
    refine ⟨fun hf => ?_, fun hf hl => ?_, fun hf hl => ?_⟩
    · show execTrackerCrossing h pos s = _
      rw [execTrackerCrossing]
      refine if_neg fun hc => hf ?_
      simp at hc
      exact hc.2
    · obtain ⟨p, hp, hle⟩ := hl
      have hno : ¬(s.flueAt h).tracker.last.all (fun p => decide (p < pos)) = true := by
        rw [show (s.flueAt h).tracker.last = some p from hp]
        simp
        omega
      refine ⟨_, (exec_trackerCrossing he ht hf).trans (congrArg _ (if_neg hno)), rfl, ?_⟩
      exact State.flueAt_updFlue_same s h fun f => { f with tracker := (s.flueAt h).tracker.after pos }
    · have hyes : (s.flueAt h).tracker.last.all (fun p => decide (p < pos)) = true := by
        cases hk : (s.flueAt h).tracker.last with
        | none => rfl
        | some p => exact decide_eq_true (hl p hk)
      exact ⟨_, (exec_trackerCrossing he ht hf).trans (congrArg _ (if_pos hyes)),
        reportCrossing_spec h pos ((s.flueAt h).tracker.after pos) s _ rfl⟩

end Sys2Proof.Machine

/-! The evaluations of a point, and the impulses (R137 to R139, R162 to R164). -/

namespace Sys2Proof.Machine

theorem State.eventsAt_updEvents_same (s : State) {p : Nat} (hp : p < 32) (f : PointEvents → PointEvents) :
    (s.updEvents p f).eventsAt p = f (s.eventsAt p) := Tab.at_upd_same hp
@[simp] theorem State.pulseAt_updPulse_same (s : State) (c : Fin 8) (f : Pulse → Pulse) :
    (s.updPulse c f).pulseAt c = f (s.pulseAt c) := Tab.at_upd_same c.isLt
theorem State.pulseAt_updPulse_other (s : State) {c d : Nat} (h : d ≠ c) (f : Pulse → Pulse) :
    (s.updPulse c f).pulseAt d = s.pulseAt d := Tab.at_upd_other h

/-! What the detectors leave of a point. -/

/-- A detector of point `p` ran: the events and sessions change, and of the point's own evaluations nothing. -/
def Judged (p : Nat) (s t : State) : Prop :=
  DetectorsOnly s t ∧ ∃ d, t.eventsAt p = { s.eventsAt p with det := d }

theorem Judged.refl (p : Nat) (s : State) : Judged p s s := ⟨.refl s, (s.eventsAt p).det, rfl⟩
theorem Judged.trans {p : Nat} {s t u : State} (h1 : Judged p s t) (h2 : Judged p t u) : Judged p s u := by
  obtain ⟨h1, d1, hd1⟩ := h1
  obtain ⟨h2, d2, hd2⟩ := h2
  exact ⟨h1.trans h2, d2, by rw [hd2, hd1]⟩

theorem runDetector_judged {p : Nat} (hp : p < 32) (code minStart minEnd : Nat) (hit clear : Bool) (onset ts : Nat) (value : Rat)
    (pick : Rat → Rat → Rat) (pos : Nat) (s : State) :
    Judged p s (runDetector p code minStart minEnd hit clear onset ts value pick pos s) := by
  obtain ⟨d, b, x, h⟩ := runDetector_eq p code minStart minEnd hit clear onset ts value pick pos s
  refine ⟨⟨_, x, h⟩, ((s.eventsAt p).setDetector code d).det, ?_⟩
  rw [h]
  exact State.eventsAt_updEvents_same s hp fun y => y.setDetector code d

theorem Judged.ite {p : Nat} {s t : State} (b : Bool) (h : Judged p s t) : Judged p s (if b then t else s) := by
  cases b
  · exact .refl p s
  · exact h

theorem judgeUrms_judged {p : Nat} (hp : p < 32) (ts : Nat) (s : State) : Judged p s (judgeUrms p ts s) := by
  unfold judgeUrms
  extract_lets g u vs sq lowest highest vlim vint vmin hyst sag swell int low high s1 s2
  have h1 : Judged p s s1 := .ite _ (runDetector_judged hp ..)
  have h2 : Judged p s1 s2 := .ite _ (runDetector_judged hp ..)
  exact (h1.trans h2).trans (.ite _ (runDetector_judged hp ..))

/-- A judged state after an update of its point. -/
theorem Judged.updated {p : Nat} (hp : p < 32) {s t : State} {f : PointEvents → PointEvents} (h : Judged p (s.updEvents p f) t) :
    t = { s with events := t.events, session := t.session } ∧ ∃ d, t.eventsAt p = { f (s.eventsAt p) with det := d } := by
  obtain ⟨⟨e, x, heq⟩, d, hd⟩ := h
  rw [State.eventsAt_updEvents_same s hp] at hd
  refine ⟨?_, d, hd⟩
  subst heq
  rfl

/-! The commands. -/

/-- What an evaluation writes into its point. -/
def evaluated (s : State) (p : Nat) (x : PointEvents) : PointEvents :=
  let late := newestWide s.gridFrame - (s.eventsAt p).urmsNext
  let sq := fun q => urmsSquare s p q late (urmsLength s p)
  { x with urmsSq := #v[sq 4, sq 5, sq 6], urmsDone := true, urmsHalf := !x.urmsHalf,
           urmsNext := x.urmsNext + if (s.eventsAt p).urmsHalf then urmsLength s p - urmsLength s p / 2 else urmsLength s p / 2 }

theorem exec_urmsEvaluation {p : Fin 32} {s : State} (hm : s.metering = true) (ha : s.img.isAC p = true)
    (hn : (s.eventsAt p).urmsNext ≠ 0) (hl : (s.eventsAt p).urmsNext ≤ newestWide s.gridFrame) :
    exec (.urmsEvaluation p) s = .next (judgeUrms p (s.eventsAt p).urmsNext (s.updEvents p (evaluated s p))) := by
  show execUrmsEvaluation p s = _
  rw [execUrmsEvaluation]
  dsimp only
  rw [hm, ha, if_pos (by simp [hn, hl])]
  rfl

/-- A crossing of the fundamental is judged, and the neutral's cycle begins again. -/
theorem exec_fundamentalCrossing {p : Fin 32} {s : State} (hm : s.metering = true) (ha : s.img.isAC p = true)
    (hf : (s.eventsAt p).fresh = true) (h0 : (s.eventsAt p).f4Prev < 0) (h1 : 0 ≤ (s.eventsAt p).f4Now) :
    ∃ u, Judged p s u ∧ exec (.fundamentalCrossing p) s =
      .next (u.updEvents p fun x => { x with fresh := false, u0Run := true, u0Sq := x.u0Last, u0N := 1 }) := by
  show ∃ u, _ ∧ execFundamentalCrossing p s = _
  unfold execFundamentalCrossing
  extract_lets g x pos n judged s1 sq hit s2
  have hj1 : Judged p s s1 := .ite _ (runDetector_judged p.isLt ..)
  have hj2 : Judged p s1 s2 := .ite _ (runDetector_judged p.isLt ..)
  refine ⟨s2, hj1.trans hj2, if_pos ?_⟩
  simp [g, x, hm, ha, hf, h0, h1]

theorem exec_impulseStart {c : Fin 8} {s : State} (h : pulseReady s c s.gridFrame = true) : ∃ m low,
    (((s.pulseAt c).dueNow < (s.pulseAt c).pending) → bitOf (Regs.get m (pulseReg c 0x00C)) 16 = true) ∧
    low = (if (s.pulseAt c).fresh then 100000 else match (s.pulseAt c).lastAt with | some t => min 100000 ((s.gridFrame - t) / 2) | none => 100000) ∧
    exec (.impulseStart c) s = .next ({ s with regs := m }.updPulse c fun x =>
      { x with pending := x.pending - 1, dueNow := min x.dueNow (x.pending - 1), low := true, fresh := false,
               lowFor := low, lastAt := some s.gridFrame, count := (x.count + 1) % 2 ^ 32 }) := by
  show ∃ m low, _ ∧ _ ∧ execImpulseStart c s = _
  unfold execImpulseStart
  extract_lets f x low u
  obtain ⟨m, hm, hbit⟩ : ∃ m, u = { s with regs := m } ∧ (x.dueNow < x.pending → bitOf (Regs.get m (pulseReg c 0x00C)) 16 = true) := by
    by_cases hd : x.dueNow < x.pending
    · exact ⟨_, if_pos hd, fun _ => State.setFlag_flag s _ (by decide)⟩
    · exact ⟨s.regs, if_neg hd, fun h => absurd h hd⟩
  refine ⟨m, low, hbit, ?_, (if_pos h).trans ?_⟩
  · cases hf : (s.pulseAt c).fresh <;> cases hl : (s.pulseAt c).lastAt <;> simp [low, x, f, hf, hl]
  · rw [hm]

/-- Settles O54: what each command writes of its point or channel is read off its equation; the detectors keep the rest. -/
theorem evaluationsAndImpulses : Obligations.EvaluationsAndImpulses := by
  unfold Obligations.EvaluationsAndImpulses
  refine ⟨fun p s hm ha => ⟨fun h => ?_, fun hn hl n sq hlen hsq => ?_, fun h => ?_, fun hf h0 h1 => ?_⟩,
    fun c s => ⟨fun h => ?_, fun h => ?_, fun hr hlow => ⟨fun h => ?_, fun x hx h => ?_⟩, fun h => ?_⟩⟩
  · show execUrmsEvaluation p s = _
    rw [execUrmsEvaluation]
    refine if_neg ?_
    rcases h with h | h
    · simp [h]
    · simp [h]
  · obtain ⟨hframe, d, hat⟩ := (judgeUrms_judged p.isLt (s.eventsAt p).urmsNext (s.updEvents p (evaluated s p))).updated p.isLt
    refine ⟨_, exec_urmsEvaluation hm ha hn hl, hframe, ?_⟩
    rw [hat]
    subst hlen
    obtain rfl : sq = fun q => urmsSquare s p q (newestWide s.gridFrame - (s.eventsAt p).urmsNext) (urmsLength s p) := funext hsq
    exact ⟨rfl, rfl, rfl, rfl⟩
  · show execFundamentalCrossing p s = _
    rw [execFundamentalCrossing]
    refine if_neg ?_
    rcases h with h | h | h
    · simp [h]
    · simp [not_lt.mpr h]
    · simp [not_le.mpr h]
  · obtain ⟨u, ⟨⟨e, x, heq⟩, d, hd⟩, hex⟩ := exec_fundamentalCrossing hm ha hf h0 h1
    refine ⟨_, hex, ?_, ?_⟩
    · rw [heq]
      rfl
    · rw [State.eventsAt_updEvents_same u p.isLt, hd]
      exact ⟨rfl, rfl, rfl, rfl⟩
  · show execImpulseStart c s = _
    rw [execImpulseStart, h]
    rfl
  · obtain ⟨m, low, hbit, hlow, hex⟩ := exec_impulseStart h
    refine ⟨_, hex, rfl, ?_⟩
    rw [State.pulseAt_updPulse_same]
    refine ⟨rfl, rfl, rfl, rfl, ?_, fun hf => ?_, fun x hf hx => ?_, hbit, fun d hd => ?_⟩
    · rw [hlow]
      split
      · exact Nat.le_refl _
      · split
        · exact Nat.min_le_left ..
        · exact Nat.le_refl _
    · rw [hlow, hf]
      rfl
    · rw [hlow, hf, hx]
      rfl
    · exact State.pulseAt_updPulse_other _ (fun h => hd (Fin.ext h)) _
  · show execImpulseEnd c s = _
    rw [execImpulseEnd]
    refine if_pos ?_
    rw [hr, hlow]
    cases hl : (s.pulseAt c).lastAt with
    | none => simp
    | some t => simpa [hl] using h t hl
  · show execImpulseEnd c s = _
    rw [execImpulseEnd]
    refine if_neg ?_
    simp [hx]
    omega
  · show execImpulseEnd c s = _
    rw [execImpulseEnd]
    refine if_neg ?_
    simp [h]

end Sys2Proof.Machine

/-! Recorded faults, and the reset sources outside an episode (R289, R298 to R301, R306, R311, R325). -/

namespace Sys2Proof.Machine

/-! A recorded fault. -/

@[simp] theorem State.raiseVector_fault (s : State) (v : Nat) : (s.raiseVector v).fault = s.fault := by rw [State.raiseVector_eq]

/-- A record takes the next FSEQ; the counts of the collector stay. -/
theorem addRecord_fault (key island code : Nat) (cls : FaultClass) (action detail rep flags : Nat) (s : State) :
    ∃ q o l, (addRecord key island code cls action detail rep flags s).fault =
      { s.fault with fseq := (s.fault.fseq + 1) % 2 ^ 32, queue := q, overflow := o, held := l } := by
  unfold addRecord
  extract_lets f epoch next r room ahead after moved canWrite s1 s2
  have h2 : s2.fault = s1.fault := by
    simp only [s2]
    split
    · rfl
    · rfl
  refine ⟨s1.fault.queue, s1.fault.overflow, s1.fault.held, ?_⟩
  refine Eq.trans ?_ (h2.trans rfl)
  split
  · rfl
  · split
    · exact State.raiseVector_fault ..
    · rfl

/-- A correctable fault of an island that is not in reset counts, and takes the next FSEQ. -/
theorem reportFault_counted {island code : Nat} {s : State} (detail : Nat) (hr : s.island island ≠ .inReset)
    (hs : s.running Isl.sys = true) {l : Level} (hc : faultClass code = some (.correctable, l)) :
    ∃ q o h, (reportFault island code detail s).fault =
      { s.fault with fseq := (s.fault.fseq + 1) % 2 ^ 32, queue := q, overflow := o, held := h,
                     corr := Tab.upd s.fault.corr island fun n => min (n + 1) (2 ^ 32 - 1) } := by
  unfold reportFault
  rw [if_neg (by simp [hr, hs]), hc]
  exact addRecord_fault ..

theorem State.island_of_running {s : State} {i : Nat} (h : s.running i = true) : s.island i = .running := by
  simpa [State.running] using h

/-! Sources. -/

theorem Began.released {c : Nat} {l : Level} {clk : Nat} {t : State} (d : Nat) (h : Began c l clk t) : Began c l clk (releaseSource d t) := h

theorem assertSource_begins (c : Nat) {s : State} (he : s.rst.episode = none) (hr : s.rst.release = none) :
    Begins c (sourceLevel s c) 0 (.next (assertSource c s)) := (assertSource_began c s he hr).begins

/-- A rise above 105 °C changes the reset controller's temperature and the fault collector's records only. -/
theorem thermal_reported (b : Bool) (s : State) : ∃ f e h, (if b then reportFault Isl.sys 0x14 0 s else s) =
    { s with fault := f, ember := e, host := h } := by
  cases b
  · exact ⟨s.fault, s.ember, s.host, rfl⟩
  · obtain ⟨f, e, m, p, h, heq⟩ := reportFault_correctable Isl.sys 0x14 0 s .l2 rfl
    exact ⟨f, e, _, heq⟩

section
variable {s : State} (he : s.rst.episode = none) (hr : s.rst.release = none)
include he hr

theorem resetNPin_begins {ns : Nat} (hi : resetIgnored s = false) (h : 1200 ≤ ns) :
    Begins 4 (sourceLevel s 4) 0 (exec (.resetNPin ns) s) := by
  show Begins 4 (sourceLevel s 4) 0 (execResetNPin ns s)
  rw [execResetNPin, if_neg (by simp [hi]; omega), if_pos h]
  exact ((assertSource_began 4 s he hr).released 4).begins

/-- Between 1 µs and 1.2 µs the filter decides. -/
theorem resetNPin_filter {ns : Nat} (hi : resetIgnored s = false) (h1 : 1000 ≤ ns) (h2 : ns < 1200) {u : State}
    (hu : u = { s with rst := { s.rst with nDraws := s.rst.nDraws + 1 } }) :
    exec (.resetNPin ns) s = .next u ∨ Begins 4 (sourceLevel s 4) 0 (exec (.resetNPin ns) s) := by
  show execResetNPin ns s = .next u ∨ Begins 4 (sourceLevel s 4) 0 (execResetNPin ns s)
  rw [execResetNPin, if_neg (by simp [hi]; omega), if_neg (by omega)]
  subst hu
  dsimp only
  cases Config.resetPulse (s.rst.nDraws + 1)
  · exact .inl rfl
  · exact .inr ((assertSource_began 4 { s with rst := { s.rst with nDraws := s.rst.nDraws + 1 } } he hr).released 4).begins

/-- A level-sensitive source that asserts. -/
theorem sourceLine_begins {c : Nat} (h : isAsserted s c = false) : Begins c (sourceLevel s c) 0 (.next (sourceLine c true s)) := by
  rw [sourceLine, if_pos rfl, h]
  exact assertSource_begins c he hr

theorem por_begins (h : s.rst.asserted.testBit 0 = false) : Begins 1 .l0 0 (exec (.por true) s) := by
  show Begins 1 .l0 0 (execPor true s)
  rw [execPor, if_pos rfl]
  exact sourceLine_begins (by exact he) (by exact hr) (by exact h)

theorem thermalTrip_begins {tj : Int} (ht : 480 ≤ tj) (ha : s.rst.asserted.testBit 6 = false) :
    Begins 7 (sourceLevel s 7) 0 (exec (.thermalTrip tj) s) := by
  show Begins 7 (sourceLevel s 7) 0 (execThermalTrip tj s)
  unfold execThermalTrip
  extract_lets rise f0 r0 u v
  obtain ⟨f, e, h, hv⟩ : ∃ f e h, v = { u with fault := f, ember := e, host := h } := thermal_reported rise u
  rw [if_pos ht, hv]
  exact sourceLine_begins (s := { u with fault := f, ember := e, host := h }) he hr ha

/-- The code of a clock loss is that of the first that falls. -/
theorem clockLoss_begins {f : Nat} {r m c : Bool} (ha : s.rst.asserted.testBit 15 = false) (hf : clockFalls s.clk r m c = f) (h0 : f ≠ 0) :
    Begins 16 (sourceLevel s 16) f (exec (.clockLoss r m c) s) := by
  show Begins 16 (sourceLevel s 16) f (execClockLoss r m c s)
  unfold execClockLoss
  dsimp only
  rw [hf, if_pos ⟨h0, ha⟩]
  exact (assertAt_began 16 _ f _ (by exact he) (by exact hr)).begins

end

/-- A rise above 105 °C below the trip is logged once. -/
theorem thermalTrip_logged {s : State} {tj : Int} (h1 : 420 < tj) (h2 : tj < 480) (hh : s.fault.hotTj = false)
    (hs : s.running Isl.sys = true) : ∃ t, exec (.thermalTrip tj) s = .next t ∧
      t.rst = { s.rst with tj := tj } ∧ t.fault.hotTj = true ∧ t.fault.fseq = (s.fault.fseq + 1) % 2 ^ 32 ∧
      Tab.at t.fault.corr Isl.sys 0 = min (Tab.at s.fault.corr Isl.sys 0 + 1) (2 ^ 32 - 1) := by
  show ∃ t, execThermalTrip tj s = .next t ∧ _
  unfold execThermalTrip
  extract_lets rise f0 r0 u v
  obtain ⟨f, e, h, hv⟩ : ∃ f e h, v = { u with fault := f, ember := e, host := h } := thermal_reported rise u
  have hrise : rise = true := by simp [rise, h1, hh]
  have hsu : u.running Isl.sys = true := hs
  obtain ⟨q, o, l, hf⟩ := reportFault_counted 0 (by rw [State.island_of_running hsu]; decide) hsu
    (show faultClass 0x14 = some (.correctable, .l2) from rfl)
  have hvf : v.fault = (reportFault Isl.sys 0x14 0 u).fault := by simp only [v, hrise, if_true]
  rw [hf] at hvf
  refine ⟨v, by rw [if_neg (by omega), if_neg (by omega)], by rw [hv], ?_⟩
  rw [hvf]
  exact ⟨decide_eq_true h1, rfl, Tab.at_upd_same (by decide)⟩

/-- Settles O55: a source that asserts outside an episode begins one at its level (`assertSource_began`); the other clauses say when
none asserts. -/
theorem sourcesBeginEpisodes : Obligations.SourcesBeginEpisodes := by
  unfold Obligations.SourcesBeginEpisodes
  intro s he hr
  refine ⟨por_begins he hr, fun ha hd => ?_, fun h => ?_, fun ha low => ⟨?_, ?_⟩, fun ha => ⟨fun h => ?_, ?_, fun h => ?_, ?_⟩,
    fun ns => ⟨fun h => ?_, resetNPin_begins he hr, fun hi h1 h2 u hu => resetNPin_filter he hr hi h1 h2 hu⟩,
    fun h0 h1 => ?_, fun h => ?_, fun ha hc => ?_, fun h => ?_,
    fun tj => ⟨thermalTrip_begins he hr, fun h1 h2 hh hs => ?_, fun h1 h2 => ?_, fun h => ?_⟩,
    fun h => ?_, rfl, fun h => ?_, rfl, fun h0 h1 => ?_, fun h => ?_, fun v => ⟨fun hs hk => ⟨fun h => ?_, fun h => ?_⟩, fun h => ?_⟩,
    fun h => ?_, fun h => ?_, fun ha r m c => ⟨fun h1 h2 => ?_, fun h1 h2 h3 => ?_, fun h1 h2 h3 h4 => ?_⟩, ?_⟩
  · show execPor false s = _
    rw [execPor, if_neg (by decide), if_neg]
    simp [isAsserted, ha, hd]
  · show execPor false s = _
    rw [execPor, if_neg (by decide), if_pos]
    · rfl
    · rcases h with h | h
      · simp [isAsserted, h]
      · simp [h]
  · show execBorCore low s = _
    rw [execBorCore, if_pos (by exact ha)]
  · show execBorIo low s = _
    rw [execBorIo, if_pos (by exact ha)]
  · show Begins 2 .l0 0 (execBorCore true s)
    rw [execBorCore, if_neg (by rw [isAsserted, ha]; decide)]
    exact sourceLine_begins he hr h
  · show execBorCore false s = _
    rw [execBorCore, if_neg (by rw [isAsserted, ha]; decide)]
    rfl
  · show Begins 3 (sourceLevel s 3) 0 (execBorIo true s)
    rw [execBorIo, if_neg (by rw [isAsserted, ha]; decide)]
    exact sourceLine_begins he hr h
  · show execBorIo false s = _
    rw [execBorIo, if_neg (by rw [isAsserted, ha]; decide)]
    rfl
  · show execResetNPin ns s = _
    rw [execResetNPin, if_pos h]
  · show Begins 5 _ 0 (execCtrlWatchdog s)
    rw [execCtrlWatchdog, if_pos (by rw [h0, h1]; rfl)]
    exact assertSource_begins 5 he hr
  · show execCtrlWatchdog s = _
    rw [execCtrlWatchdog, if_neg]
    rcases h with h | h
    · simp [h]
    · simp [h]
  · show Begins 6 .l1 0 (execDamperWatchdog s)
    rw [execDamperWatchdog, if_pos (by rw [ha, hc]; rfl)]
    exact assertSource_begins 6 he hr
  · show execDamperWatchdog s = _
    rw [execDamperWatchdog, if_neg]
    rcases h with h | h
    · simp [h]
    · simp [h]
  · exact thermalTrip_logged h1 h2 hh hs
  · show execThermalTrip tj s = _
    rw [execThermalTrip]
    simp only [show ¬420 < tj by omega, show ¬480 ≤ tj by omega, show ¬tj < 400 by omega, decide_false, Bool.false_and,
      Bool.false_eq_true, if_false]
  · show execThermalTrip tj s = _
    rw [execThermalTrip]
    simp only [show ¬420 < tj by omega, show ¬480 ≤ tj by omega, h, decide_false, Bool.false_and,
      Bool.false_eq_true, if_false, if_true]
    rfl
  · exact sourceLine_begins (s := { s with pins := { s.pins with tamper := true } }) he hr h
  · exact sourceLine_begins (s := { s with pins := { s.pins with perst := true } }) he hr h
  · show Begins 10 _ 0 (execPcieHotReset s)
    rw [execPcieHotReset, if_pos (by rw [h0, h1]; rfl)]
    exact assertSource_begins 10 he hr
  · show execPcieHotReset s = _
    rw [execPcieHotReset, if_neg]
    rcases h with h | h
    · simp [h]
    · simp [h]
  · show Begins 12 _ 0 (execResetSoft v s)
    rw [execResetSoft, sysWrite, if_pos hs, if_neg (by simp [hk]), h]
    exact (assertAt_began 12 _ 0 s he hr).begins
  · show Begins 12 _ 0 (execResetSoft v s)
    rw [execResetSoft, sysWrite, if_pos hs, if_neg (by simp [hk]), h]
    exact (assertAt_began 12 _ 0 s he hr).begins
  · show execResetSoft v s = _
    have hkeep : (if fieldOf v 31 16 ≠ 0xB160 then s else match fieldOf v 1 0 with
        | 1 => assertAt 12 (Level.l1.deeper (sourceLevel s 12)) 0 s
        | 2 => assertAt 12 (sourceLevel s 12) 0 s
        | _ => s) = s := by
      rcases h with h | h | h
      · exact if_pos h
      · rw [h]
        exact ite_self s
      · rw [h]
        exact ite_self s
    rw [execResetSoft, sysWrite]
    refine congrArg Host.Outcome.next ((ite_congr rfl (fun _ => ?_) fun _ => rfl).trans (ite_self s))
    exact hkeep
  · show Begins 13 _ 0 (execDebugReset s)
    rw [execDebugReset, if_neg (by simpa [isSealed] using h)]
    exact assertSource_begins 13 he hr
  · show execDebugReset s = _
    rw [execDebugReset, if_pos (by simpa [isSealed] using h)]
  · exact clockLoss_begins he hr ha (by simp [clockFalls, h1, h2]) (by decide)
  · refine clockLoss_begins he hr ha ?_ (by decide)
    rcases h1 with h1 | h1 <;> simp [clockFalls, h1, h2, h3]
  · refine clockLoss_begins he hr ha ?_ (by decide)
    rcases h1 with h1 | h1 <;> rcases h2 with h2 | h2 <;> simp [clockFalls, h1, h2, h3, h4]
  · show execClockLoss true true true s = _
    have hf : clockFalls s.clk true true true = 0 := by simp [clockFalls]
    rw [execClockLoss]
    dsimp only
    rw [hf]
    rfl

end Sys2Proof.Machine

/-! What the islands load when they come back, and the start confirmation: which parts of the state are touched (R284, R317 to R319,
R356, R358). -/

namespace Sys2Proof.Machine

/-! The boot record. -/

theorem writeLayer_frame (layer v : Nat) (s : State) : ∃ m, writeLayer layer v s = { s with fw := { s.fw with flash := m } } :=
  ⟨_, by rw [writeLayer, writeBoot]⟩

theorem activateSlot_frame (layer : Nat) (b trial : Bool) (s : State) :
    ∃ m, activateSlot layer b trial s = { s with fw := { s.fw with flash := m } } := by
  rw [activateSlot]
  exact writeLayer_frame ..

theorem clearTrial_frame (s : State) : ∃ m, clearTrial s = { s with fw := { s.fw with flash := m } } := by
  have hstep : ∀ (layer : Nat) (b : Bool) (m : List (Nat × Byte)), ∃ m',
      (if layerTrial { s with fw := { s.fw with flash := m } } layer then
        activateSlot layer b false { s with fw := { s.fw with flash := m } } else { s with fw := { s.fw with flash := m } }) =
      { s with fw := { s.fw with flash := m' } } := by
    intro layer b m
    split
    · obtain ⟨m', h⟩ := activateSlot_frame layer b false { s with fw := { s.fw with flash := m } }
      exact ⟨m', h⟩
    · exact ⟨m, rfl⟩
  obtain ⟨m1, h1⟩ := hstep 1 (activeSlot s 1) s.fw.flash
  unfold clearTrial
  dsimp only
  rw [show (if layerTrial s 1 then activateSlot 1 (activeSlot s 1) false s else s) = _ from h1]
  exact hstep 2 _ m1

theorem acceptStart_frame (s : State) : ∃ m, acceptStart s =
    { s with rtc := { s.rtc with starts := 0, trial := false }, rst := { s.rst with window := false, started := true },
             fw := { s.fw with flash := m } } := by
  obtain ⟨m, h⟩ := clearTrial_frame { s with rtc := { s.rtc with starts := 0, trial := false },
                                             rst := { s.rst with window := false, started := true } }
  exact ⟨m, h⟩

theorem giveUp_frame (layer : Nat) (s : State) : ∃ m b, giveUp layer s =
    { s with rtc := { s.rtc with trial := b }, fw := { s.fw with flash := m } } := by
  unfold giveUp
  extract_lets a c0 u
  obtain ⟨b, hb⟩ : ∃ b, u = { s with rtc := { s.rtc with trial := b } } := by
    simp only [u]
    split
    · exact ⟨false, rfl⟩
    · exact ⟨s.rtc.trial, rfl⟩
  obtain ⟨m, hm⟩ := writeLayer_frame layer (packLayer (!a) false (if a then slotState s layer false else 2)
    (if a then 2 else slotState s layer true)) u
  rw [hm, hb]
  exact ⟨m, b, rfl⟩

/-! The control layer. -/

theorem chooseSlot_frame {layer : Nat} {s t : State} (h : chooseSlot layer s = some t) :
    ∃ r m b, t = { s with regs := r, rtc := { s.rtc with trial := b }, fw := { s.fw with flash := m } } := by
  unfold chooseSlot at h
  dsimp only at h
  split at h
  · cases h
    exact ⟨s.regs, s.fw.flash, s.rtc.trial, rfl⟩
  · split at h
    · obtain ⟨m, b, hg⟩ := giveUp_frame layer s
      cases h
      rw [markRollback, hg]
      exact ⟨_, m, b, rfl⟩
    · cases h

theorem runControl_frame (slot : Bool) (fw : List Byte) (s : State) : ∃ m, runControl slot fw s =
    { s with trust := { s.trust with mreg := m },
             fw := { s.fw with ctlSlot := slot, ctlDigest := Fwh.digest fw, ctlSvn := Fwh.svn fw, loader := false } } := ⟨_, rfl⟩

theorem runLoader_frame (inPlace : Bool) (s : State) : ∃ m, runLoader inPlace s =
    { s with trust := { s.trust with mreg := m },
             fw := { s.fw with ctlDigest := Config.recoveryDigest, ctlSvn := 0, loader := inPlace } } := ⟨_, rfl⟩

/-- What CTRL loads touches the start window, the clock's trial mark, the measurement registers and the flash's record. -/
theorem loadControl_frame (s : State) : ∃ r w b c m f, loadControl s =
    { s with regs := r, rst := { s.rst with window := w, started := b }, rtc := c, trust := { s.trust with mreg := m }, fw := f } := by
  unfold loadControl
  split
  · exact ⟨s.regs, s.rst.window, s.rst.started, s.rtc, _, _, rfl⟩
  · split
    · exact ⟨s.regs, s.rst.window, s.rst.started, s.rtc, _, _, rfl⟩
    · unfold runChosen
      split
      · next t h =>
        obtain ⟨r, m, b, rfl⟩ := chooseSlot_frame h
        exact ⟨r, s.rst.window, s.rst.started, _, _, _, rfl⟩
      · dsimp only
        split
        · obtain ⟨m, h⟩ := acceptStart_frame (runLoader true s)
          rw [h]
          exact ⟨s.regs, false, true, _, _, _, rfl⟩
        · exact ⟨s.regs, s.rst.window, s.rst.started, s.rtc, _, _, rfl⟩

/-! The other islands. -/

theorem setMreg_frame (i : Nat) (v : BitVec 384) (s : State) : ∃ m l, setMreg i v s = { s with trust := { s.trust with mreg := m, legal := l } } := by
  unfold setMreg
  dsimp only
  split
  · exact ⟨_, _, rfl⟩
  · exact ⟨_, s.trust.legal, rfl⟩

theorem setMreg_setMreg_frame {s t : State} (i : Nat) (v : BitVec 384) (h : ∃ m l, t = { s with trust := { s.trust with mreg := m, legal := l } }) :
    ∃ m l, setMreg i v t = { s with trust := { s.trust with mreg := m, legal := l } } := by
  obtain ⟨m, l, rfl⟩ := h
  exact setMreg_frame i v { s with trust := { s.trust with mreg := m, legal := l } }

theorem measuredBoot_frame (s : State) : ∃ m l, measuredBoot s = { s with trust := { s.trust with mreg := m, legal := l } } := by
  unfold measuredBoot
  extract_lets s1 s2 s3 s4
  have h1 := setMreg_frame 0 (ext 0 Config.bootRomDigest) s
  have h2 : ∃ m l, s2 = { s with trust := { s.trust with mreg := m, legal := l } } := setMreg_setMreg_frame _ _ h1
  have h3 : ∃ m l, s3 = { s with trust := { s.trust with mreg := m, legal := l } } := setMreg_setMreg_frame _ _ h2
  have h4 : ∃ m l, s4 = { s with trust := { s.trust with mreg := m, legal := l } } := setMreg_setMreg_frame _ _ h3
  exact setMreg_setMreg_frame _ _ (setMreg_setMreg_frame _ _ (setMreg_setMreg_frame _ _ h4))

theorem mantelStart_frame (both : Bool) (s : State) : ∃ m, mantelStart both s = { s with mantel := m } := by
  have hfold : ∀ (l : List Nat) (u : State), ∃ m, l.foldl (fun s p =>
      let st := startSteps s p; s.updPort p fun q => { q with start := st, legalPx := none }) u = { u with mantel := m } := by
    intro l
    induction l with
    | nil => exact fun u => ⟨u.mantel, rfl⟩
    | cons p l ih =>
      intro u
      obtain ⟨m, h⟩ := ih (u.updPort p fun q => { q with start := startSteps u p, legalPx := none })
      exact ⟨m, h⟩
  obtain ⟨m, h⟩ := hfold (List.range 4) (loadTables both s)
  exact ⟨m, h⟩

/-- What an island finds when its fireguard passes transfers again. -/
theorem islandBack_frame (i : Nat) (s : State) : ∃ r sp w b k c tr f lk mt dr, islandBack i s =
    { s with regs := r, spectral := sp, rst := { s.rst with window := w, started := b }, clk := k, rtc := c, trust := tr, fw := f,
             link := lk, mantel := mt, dram := dr } := by
  have hself : ∃ r sp w b k c tr f lk mt dr, s =
      { s with regs := r, spectral := sp, rst := { s.rst with window := w, started := b }, clk := k, rtc := c, trust := tr, fw := f,
               link := lk, mantel := mt, dram := dr } := ⟨_, _, _, _, _, _, _, _, _, _, _, rfl⟩
  unfold islandBack
  split
  · obtain ⟨r, w, b, c, m, f, h⟩ := loadControl_frame s
    rw [h]
    unfold bankFromWork
    split
    · exact ⟨r, s.spectral, w, b, s.clk, c, _, f, _, s.mantel, s.dram, rfl⟩
    · exact ⟨r, s.spectral, w, b, s.clk, c, _, f, s.link, s.mantel, s.dram, rfl⟩
  · exact ⟨s.regs, s.spectral, s.rst.window, s.rst.started, _, s.rtc, s.trust, s.fw, s.link, s.mantel, s.dram, rfl⟩
  · dsimp only
    split
    · obtain ⟨m, h⟩ := mantelStart_frame true (dramUp s)
      rw [h]
      exact ⟨s.regs, _, s.rst.window, s.rst.started, _, s.rtc, s.trust, s.fw, s.link, m, _, rfl⟩
    · exact ⟨s.regs, _, s.rst.window, s.rst.started, _, s.rtc, s.trust, s.fw, s.link, s.mantel, _, rfl⟩
  · obtain ⟨m, l, h⟩ := measuredBoot_frame s
    rw [h]
    exact ⟨s.regs, s.spectral, s.rst.window, s.rst.started, s.clk, s.rtc, _, s.fw, s.link, s.mantel, s.dram, rfl⟩
  · unfold workFromBank
    split
    · exact ⟨s.regs, s.spectral, s.rst.window, s.rst.started, s.clk, s.rtc, s.trust, s.fw, _, s.mantel, s.dram, rfl⟩
    · exact hself
  · obtain ⟨m, h⟩ := mantelStart_frame false s
    rw [h]
    exact ⟨s.regs, s.spectral, s.rst.window, s.rst.started, s.clk, s.rtc, s.trust, s.fw, s.link, m, s.dram, rfl⟩
  · exact hself

end Sys2Proof.Machine

/-! The start confirmation (R319). -/

namespace Sys2Proof.Machine

/-- Clearing one layer's TRIAL leaves its ACTIVE slot and the other layer. -/
theorem clearTrial_layer {layer : Nat} (hl : layer = 1 ∨ layer = 2) (s t : State) (hg : leField (bootBytes s) 4 8 + 1 < 2 ^ 64)
    (ht : t = if layerTrial s layer then activateSlot layer (activeSlot s layer) false s else s) :
    layerTrial t layer = false ∧ activeSlot t layer = activeSlot s layer ∧ layerByte t (3 - layer) = layerByte s (3 - layer) ∧
      leField (bootBytes t) 4 8 ≤ leField (bootBytes s) 4 8 + 1 := by
  cases hs : layerTrial s layer with
  | false =>
    rw [hs, if_neg Bool.false_ne_true] at ht
    subst ht
    exact ⟨hs, rfl, rfl, Nat.le_succ _⟩
  | true =>
    rw [hs, if_pos rfl] at ht
    obtain ⟨hact, htri, -, hother⟩ := layerByte_activateSlot layer (activeSlot s layer) false s hg hl
    subst ht
    exact ⟨htri, hact, hother, Nat.le_of_eq (bootGen_writeBoot _ _ _ s hg)⟩

/-- TRIAL is clear in both layers, and each keeps its ACTIVE slot. -/
theorem clearTrial_spec (s : State) (hg : leField (bootBytes s) 4 8 + 2 < 2 ^ 64) :
    layerTrial (clearTrial s) 1 = false ∧ layerTrial (clearTrial s) 2 = false ∧ activeSlot (clearTrial s) 1 = activeSlot s 1 ∧
      activeSlot (clearTrial s) 2 = activeSlot s 2 := by
  obtain ⟨htri1, hact1, hother1, hgen⟩ := clearTrial_layer (.inl rfl) s _ (by omega) rfl
  unfold clearTrial
  dsimp only
  generalize (if layerTrial s 1 then activateSlot 1 (activeSlot s 1) false s else s) = u at htri1 hact1 hother1 hgen ⊢
  obtain ⟨htri2, hact2, hother2, -⟩ := clearTrial_layer (.inr rfl) u _ (by omega) rfl
  have hkeep : layerByte (if layerTrial u 2 then activateSlot 2 (activeSlot u 2) false u else u) 1 = layerByte u 1 := hother2
  refine ⟨?_, htri2, ?_, hact2.trans ?_⟩
  · rw [layerTrial, hkeep]
    exact htri1
  · rw [activeSlot, hkeep]
    exact hact1
  · rw [activeSlot, hother1, ← activeSlot]

theorem clearTrial_none {s : State} (h1 : layerTrial s 1 = false) (h2 : layerTrial s 2 = false) : clearTrial s = s := by
  unfold clearTrial
  simp only [h1, h2, Bool.false_eq_true, if_false]

theorem bootBytes_of_flash {s t : State} (h : t.fw.flash = s.fw.flash) : bootBytes t = bootBytes s :=
  bootBytes_congr fun k => by rw [bootCopy, Flash.bytes, h, ← Flash.bytes, ← bootCopy]
theorem layerTrial_congr {s t : State} (h : t.fw.flash = s.fw.flash) (k : Nat) : layerTrial t k = layerTrial s k := by
  rw [layerTrial, layerByte_congr h, ← layerTrial]
theorem activeSlot_congr {s t : State} (h : t.fw.flash = s.fw.flash) (k : Nat) : activeSlot t k = activeSlot s k := by
  rw [activeSlot, layerByte_congr h, ← activeSlot]

/-- The start is confirmed, before TRIAL clears in the boot record. -/
def State.confirmed (s : State) : State :=
  { s with rtc := { s.rtc with starts := 0, trial := false }, rst := { s.rst with window := false, started := true } }

theorem State.confirmed_flash (s : State) : s.confirmed.fw.flash = s.fw.flash := rfl
theorem acceptStart_eq (s : State) : acceptStart s = clearTrial s.confirmed := rfl

theorem exec_startOk {s : State} {v : Word} (hs : s.running Isl.sys = true) (hk : fieldOf v 31 16 = 0x5A17) (hb : bitOf v 0 = true) :
    exec (.startOk v) s = .next (if s.rst.window then acceptStart s else s.setFlag 0x1000 9) := by
  show execStartOk v s = _
  rw [execStartOk, sysWrite, if_pos hs, if_neg (by simp [hk, hb])]

/-- Settles O56: an accepted START_OK is `acceptStart`, whose frame and boot record the lemmas above give. -/
theorem startConfirmed : Obligations.StartConfirmed := by
  unfold Obligations.StartConfirmed
  intro s v
  refine ⟨fun hs hk hb => ⟨fun hw => ?_, fun hw => ?_⟩, fun h => ?_, fun hw he hr => ?_, fun hw => ?_⟩
  · have hex := exec_startOk hs hk hb
    rw [hw, if_pos rfl] at hex
    obtain ⟨m, hm⟩ := acceptStart_frame s
    refine ⟨_, hex, ?_, ?_, ?_, fun h1 h2 => ?_, fun hg => ?_⟩
    · rw [hm]
    · rw [hm]
    · rw [hm]
    · have hnone := clearTrial_none (s := s.confirmed) ((layerTrial_congr s.confirmed_flash 1).trans h1) ((layerTrial_congr s.confirmed_flash 2).trans h2)
      rw [acceptStart_eq, hnone]
      rfl
    · obtain ⟨htri1, htri2, hact1, hact2⟩ := clearTrial_spec s.confirmed (by rw [bootBytes_of_flash s.confirmed_flash]; exact hg)
      rw [acceptStart_eq]
      exact ⟨htri1, htri2, hact1.trans (activeSlot_congr s.confirmed_flash 1), hact2.trans (activeSlot_congr s.confirmed_flash 2)⟩
  · rw [exec_startOk hs hk hb, hw]
    rfl
  · show execStartOk v s = _
    rw [execStartOk, sysWrite, if_pos h, ite_self]
  · show Begins 5 _ 0 (execStartWindowExpiry s)
    rw [execStartWindowExpiry, if_pos hw]
    exact assertSource_begins (s := { s with rst := { s.rst with window := false } }) 5 he hr
  · show execStartWindowExpiry s = _
    rw [execStartWindowExpiry, hw]
    rfl

end Sys2Proof.Machine

/-! Faults by their class, and the commands of the fault collector (R34, R40, R280 to R289, R295). -/

namespace Sys2Proof.Machine

/-! Fault codes. -/

theorem faultClass_correctable {code : Nat} {l : Level} (h : faultClass code = some (.correctable, l)) :
    code ∈ [0x01, 0x11, 0x14, 0x24, 0x55, 0x63, 0x71, 0x81, 0x82] := by
  unfold faultClass at h
  split_ifs at h with h1
  · exact List.contains_iff_mem.mp h1
  all_goals cases h

theorem faultClass_point {code : Nat} {l : Level} (h : faultClass code = some (.point, l)) :
    code ∈ [0x21, 0x22, 0x23, 0x25, 0x43, 0x53, 0x54] := by
  unfold faultClass at h
  split_ifs at h with h1 h2
  · cases h
  · exact List.contains_iff_mem.mp h2
  all_goals cases h

theorem faultClass_island {code : Nat} {l : Level} (h : faultClass code = some (.island, l)) :
    code ∈ [0x31, 0x32, 0x61, 0x62, 0x72, 0x83, 0x84, 0x91, 0xA1, 0xB1, 0xB2] := by
  unfold faultClass at h
  split_ifs at h with h1 h2 h3
  · cases h
  · cases h
  · exact List.contains_iff_mem.mp h3
  all_goals cases h

/-- The islands that an ISLAND fault can isolate. -/
theorem faultIsland_of_island {code : Nat} {l : Level} (h : faultClass code = some (.island, l)) :
    faultIsland code ∈ [3, 6, 7, 8, 9, 10, 11] := by
  have hm := faultClass_island h
  have : ∀ c ∈ [0x31, 0x32, 0x61, 0x62, 0x72, 0x83, 0x84, 0x91, 0xA1, 0xB1, 0xB2], faultIsland c ∈ [3, 6, 7, 8, 9, 10, 11] := by decide
  exact this code hm

/-! Isolation of an island. -/

theorem failInflight_frame (i : Nat) (s : State) : ∃ f, failInflight i s = { s with host := { s.host with inflight := f } } := ⟨_, rfl⟩

theorem endTransfer_frame (s : State) : ∃ f a, endTransfer s = { s with fw := f, aud := a } := by
  unfold endTransfer
  split
  · exact ⟨_, _, rfl⟩
  · exact ⟨s.fw, s.aud, rfl⟩

theorem dropLoading_frame (s : State) : ∃ d, dropLoading s = { s with damper := d } := by
  unfold dropLoading
  split
  · exact ⟨_, rfl⟩
  · exact ⟨s.damper, rfl⟩

theorem endCapture_frame (n cause : Nat) (s : State) : ∃ h, endCapture n cause s = { s with host := h } := by
  unfold endCapture
  split
  · exact ⟨_, rfl⟩
  · exact ⟨s.host, rfl⟩

theorem endCaptures_frame (cause : Nat) (s : State) : ∃ h, endCaptures cause s = { s with host := h } := by
  have hfold : ∀ (l : List Nat) (u : State), ∃ h, l.foldl (fun s n => endCapture n cause s) u = { u with host := h } := by
    intro l
    induction l with
    | nil => exact fun u => ⟨u.host, rfl⟩
    | cons n l ih =>
      intro u
      obtain ⟨h, hu⟩ := endCapture_frame n cause u
      obtain ⟨h', hv⟩ := ih (endCapture n cause u)
      exact ⟨h', by rw [List.foldl_cons, hv, hu]⟩
  exact hfold _ s

/-- What the isolation of an island leaves: the other islands, the episode, and the fault collector's counts. -/
structure Isolated (i : Nat) (s t : State) : Prop where
  islands : t.rst.islands = Tab.upd s.rst.islands i fun _ => .isolated
  episode : t.rst.episode = s.rst.episode
  fseq : t.fault.fseq = s.fault.fseq
  reps : t.fault.reps = s.fault.reps

theorem isolate_isolated {i : Nat} (hi : i ∈ [3, 6, 7, 8, 9, 10, 11]) (s : State) : Isolated i s (isolate i s) := by
  obtain ⟨f, hf⟩ := failInflight_frame i s
  unfold isolate
  dsimp only
  rw [hf]
  simp only [List.mem_cons, List.not_mem_nil, or_false] at hi
  rcases hi with rfl | rfl | rfl | rfl | rfl | rfl | rfl
  · exact ⟨rfl, rfl, rfl, rfl⟩
  · dsimp only
    generalize hu : ({ s with host := _, rst := _, fw := _ } : State) = u
    obtain ⟨f, a, h⟩ := endTransfer_frame u
    rw [h, ← hu]
    exact ⟨rfl, rfl, rfl, rfl⟩
  · dsimp only
    generalize hu : (if ({ s with host := { s.host with inflight := f } } : State).running Isl.ctrl = true then _ else _ : State) = u
    obtain ⟨w, hw⟩ : ∃ w, u = { s with host := { s.host with inflight := f }, fw := w } := by
      rw [← hu]
      split
      · exact ⟨_, rfl⟩
      · exact ⟨s.fw, rfl⟩
    obtain ⟨d, h⟩ := dropLoading_frame u
    rw [h, hw]
    exact ⟨rfl, rfl, rfl, rfl⟩
  · obtain ⟨d, hd⟩ := dropLoading_frame { s with host := { s.host with inflight := f } }
    obtain ⟨g, hg⟩ := endCaptures_frame 4 { s with host := { s.host with inflight := f }, damper := d }
    dsimp only
    rw [hd, hg]
    exact ⟨rfl, rfl, rfl, rfl⟩
  · obtain ⟨f, a, h⟩ := endTransfer_frame { s with host := { s.host with inflight := f } }
    dsimp only
    rw [h]
    exact ⟨rfl, rfl, rfl, rfl⟩
  · exact ⟨rfl, rfl, rfl, rfl⟩
  · exact ⟨rfl, rfl, rfl, rfl⟩

/-! The decision of an ISLAND or DEVICE fault outside any recovery (R281, R288). -/

section
variable {u : State} {k : Nat} (hrec : inRecovery u = false)
include hrec

theorem outside_recovery : recovering u = [] ∧ u.rst.episode = none ∧ u.rst.release = none := by
  rw [inRecovery, Bool.or_eq_false_iff, Bool.or_eq_false_iff, Bool.not_eq_false', List.isEmpty_iff, Option.isSome_eq_false_iff,
    Option.isSome_eq_false_iff, Option.isNone_iff_eq_none, Option.isNone_iff_eq_none] at hrec
  exact ⟨hrec.1.1, hrec.1.2, hrec.2⟩

theorem escalatedBy_none : escalatedBy u k = [] := by
  obtain ⟨hr, -, hrel⟩ := outside_recovery hrec
  rw [escalatedBy, hr, hrel]
  exact ite_self _

theorem stillRecovering_none (cls : FaultClass) (hk : u.running k = true) : stillRecovering u k cls = false := by
  obtain ⟨-, hep, hrel⟩ := outside_recovery hrec
  rw [stillRecovering, State.island_of_running hk, hep, hrel]
  exact Bool.and_false _

theorem repeatAfter_first {cls : FaultClass} (hk : u.running k = true) (hc : (u.reps k).cls ≠ some cls ∨ (u.reps k).count < 2) :
    repeatAfter u k cls = (if (u.reps k).cls = some cls then (u.reps k).count + 1 else 0, false) := by
  rw [repeatAfter]
  rw [stillRecovering_none hrec cls hk]
  by_cases h : (u.reps k).cls = some cls
  · have hlt := hc.resolve_left (fun hn => hn h)
    rw [if_neg (by simp [h]), if_neg (by decide), if_neg (by omega), if_pos h]
  · rw [if_pos h, if_neg h]

theorem repeatAfter_third {cls : FaultClass} (hk : u.running k = true) (hc : (u.reps k).cls = some cls) (h2 : 2 ≤ (u.reps k).count) :
    repeatAfter u k cls = (3, true) := by
  rw [repeatAfter]
  rw [stillRecovering_none hrec cls hk, if_neg (by simp [hc]), if_neg (by decide), if_pos (by omega)]

/-- A first fault of an island is recorded and isolates it. -/
theorem islandFault_isolates (code detail : Nat) (hk : u.running k = true)
    (hc : (u.reps k).cls ≠ some .island ∨ (u.reps k).count < 2) : ∃ n, n = (if (u.reps k).cls = some .island then (u.reps k).count + 1 else 0) ∧
    ∃ v, v = addRecord (recordKey k code) k code .island 2 detail n 0 u ∧
      islandFault k code detail u = isolate k (v.setReps k { cls := some .island, time := v.fault.timeBase, count := n }) := by
  obtain ⟨-, -, hrel⟩ := outside_recovery hrec
  refine ⟨_, rfl, _, rfl, ?_⟩
  rw [islandFault]
  dsimp only
  rw [hrel, escalatedBy_none hrec, repeatAfter_first hrec hk hc, hrec, if_neg (by decide : ¬Option.any _ none = true)]
  dsimp only
  rw [if_neg (by decide), if_neg (by rw [State.island_of_running hk]; decide), if_neg (by decide)]
  rfl

/-- The third repeat resets one level deeper. -/
theorem islandFault_escalates (code detail : Nat) (hk : u.running k = true) (hc : (u.reps k).cls = some .island) (h2 : 2 ≤ (u.reps k).count) :
    ∃ v, v = addRecord (recordKey k code) k code .island (levelAction (escalated k)) detail 3 2 u ∧
      islandFault k code detail u = escalate (recordKey k code) [(k, escalated k)] v := by
  obtain ⟨-, -, hrel⟩ := outside_recovery hrec
  refine ⟨_, rfl, ?_⟩
  rw [islandFault]
  dsimp only
  rw [hrel, escalatedBy_none hrec, repeatAfter_third hrec hk hc h2, hrec, if_neg (by decide : ¬Option.any _ none = true)]
  dsimp only
  rw [if_neg (by decide), if_neg (by rw [State.island_of_running hk]; decide), if_pos rfl]
  rfl

end

theorem addRecord_rst (key island code : Nat) (cls : FaultClass) (action detail rep flags : Nat) (s : State) :
    (addRecord key island code cls action detail rep flags s).rst = s.rst := by
  obtain ⟨f, e, m, p, h, heq⟩ := addRecord_eq key island code cls action detail rep flags s
  rw [heq]

/-- An escalation of one recovery outside an episode begins a reset by source 15. -/
theorem escalate_begins (key k : Nat) (l : Level) {s : State} (he : s.rst.episode = none) (hr : s.rst.release = none) :
    Began 15 l 0 (escalate key [(k, l)] s) := by
  unfold escalate
  simp only [List.foldl_cons, List.foldl_nil]
  have hrst : (((addRecord key k 0xF0 .device (levelAction l) k 0 0 s).setBits 0x37014 (putAt 1 k)).setReps k RepeatState.init).rst =
      s.rst := addRecord_rst ..
  exact assertAt_began 15 l 0 _ (by rw [hrst]; exact he) (by rw [hrst]; exact hr)

/-- An ISLAND fault that isolates its island. -/
theorem islandFault_spec {k code : Nat} {u t : State} {l : Level} (detail : Nat) (hrec : inRecovery u = false) (hk : u.running k = true)
    (hcode : faultClass code = some (.island, l)) (hi : faultIsland code = k)
    (hc : (u.reps k).cls ≠ some .island ∨ (u.reps k).count < 2) (ht : t = islandFault k code detail u) :
    t.island k = .isolated ∧ t.rst.episode = none ∧ t.fault.fseq = (u.fault.fseq + 1) % 2 ^ 32 ∧
      (t.reps k).count = (if (u.reps k).cls = some .island then (u.reps k).count + 1 else 0) ∧
      ∀ j, j ≠ k → t.island j = u.island j := by
  have hmem : k ∈ [3, 6, 7, 8, 9, 10, 11] := hi ▸ faultIsland_of_island hcode
  have hlt : k < 12 := by
    simp only [List.mem_cons, List.not_mem_nil, or_false] at hmem
    omega
  obtain ⟨n, hn, v, hv, heq⟩ := islandFault_isolates hrec code detail hk hc
  have hiso := isolate_isolated hmem (v.setReps k { cls := some .island, time := v.fault.timeBase, count := n })
  rw [← heq, ← ht] at hiso
  have hrst : v.rst = u.rst := by rw [hv, addRecord_rst]
  obtain ⟨q, o, h, hf⟩ := addRecord_fault (recordKey k code) k code .island 2 detail n 0 u
  rw [← hv] at hf
  obtain ⟨-, hep, -⟩ := outside_recovery hrec
  refine ⟨?_, ?_, ?_, ?_, fun j hj => ?_⟩
  · rw [State.island, hiso.islands]
    exact Tab.at_upd_same hlt
  · rw [hiso.episode]
    exact (congrArg ResetCtl.episode hrst).trans hep
  · rw [hiso.fseq]
    exact congrArg Faults.fseq hf
  · rw [State.reps, hiso.reps, ← hn]
    exact congrArg RepeatState.count (Tab.at_upd_same hlt)
  · rw [State.island, hiso.islands]
    exact (Tab.at_upd_other hj).trans (by rw [show (v.setReps k _).rst = v.rst from rfl, hrst]; rfl)

/-- Holding EMBER in reset leaves the episode that began. -/
theorem Began.holdEmber {c : Nat} {l : Level} {clk : Nat} {t : State} (p : Prop) [Decidable p] (h : Began c l clk t) :
    Began c l clk (if p then t.setIsland Isl.ember .inReset else t) := by
  obtain ⟨h1, h2, h3⟩ := h
  split
  · refine ⟨h1, h2, fun i hi => ?_⟩
    rw [State.island]
    by_cases he : i = Isl.ember
    · exact absurd hi (by rw [he]; decide)
    · exact (Tab.at_upd_other he).trans (h3 i hi)
  · exact ⟨h1, h2, h3⟩

/-- The reset of a DEVICE fault, once it is recorded. -/
theorem deviceReset_began (k : Nat) (lvl : Level) {u w : State} (hw : w.rst = u.rst) (hrec : inRecovery u = false) :
    Began 15 lvl 0 (if k = Isl.ember ∧ (assertAt 15 lvl 0 w).ember.trigger.isSome then (assertAt 15 lvl 0 w).setIsland Isl.ember .inReset
      else assertAt 15 lvl 0 w) := by
  obtain ⟨-, hep, hrel⟩ := outside_recovery hrec
  exact (assertAt_began 15 lvl 0 w (by rw [hw]; exact hep) (by rw [hw]; exact hrel)).holdEmber _

/-- A DEVICE fault outside any recovery begins its own reset. -/
theorem deviceFault_begins {k : Nat} {u : State} (code detail : Nat) (own : Level) (hrec : inRecovery u = false)
    (hk : u.running k = true) (hc : (u.reps k).cls ≠ some .device) :
    Began 15 (match mapField u 15 with | some m => m.deeper own | none => own) 0 (deviceFault k code detail own u) := by
  obtain ⟨-, -, hrel⟩ := outside_recovery hrec
  have hno : ∀ lvl : Level, ¬(false = true ∧ lvl = .l2) := fun lvl h => Bool.false_ne_true h.1
  rw [deviceFault]
  dsimp only
  rw [hrel, repeatAfter_first hrec hk (.inl hc), if_neg hc]
  cases mapField u 15 with
  | none =>
    dsimp only
    rw [if_neg (hno _), if_neg Bool.false_ne_true]
    exact deviceReset_began k own (addRecord_rst ..) hrec
  | some m =>
    dsimp only
    rw [if_neg (hno _), if_neg Bool.false_ne_true]
    exact deviceReset_began k (m.deeper own) (addRecord_rst ..) hrec

end Sys2Proof.Machine

/-! FAULT and the commands of the fault collector (R34, R40, R280 to R284, R288, R295). -/

namespace Sys2Proof.Machine

/-! The local action of a source. -/

theorem plainAction_frame (code : Nat) (s : State) : ∃ r c d k, plainAction code s = { s with regs := r, rtc := c, dram := d, clk := k } := by
  unfold plainAction
  split
  · exact ⟨_, _, s.dram, s.clk, rfl⟩
  · exact ⟨s.regs, s.rtc, _, s.clk, rfl⟩
  · exact ⟨s.regs, s.rtc, _, s.clk, rfl⟩
  · exact ⟨s.regs, s.rtc, _, s.clk, rfl⟩
  · exact ⟨s.regs, s.rtc, s.dram, _, rfl⟩
  · exact ⟨s.regs, s.rtc, s.dram, s.clk, rfl⟩

theorem localAction_frame (code : Nat) (x : Word) (s : State) : ∃ r c d k p m, localAction code x s =
    { s with regs := r, rtc := c, dram := d, clk := k, point := p, damper := m } := by
  unfold localAction
  split
  · exact ⟨_, s.rtc, s.dram, s.clk, s.point, _, rfl⟩
  · split
    · exact ⟨s.regs, s.rtc, s.dram, s.clk, _, s.damper, rfl⟩
    · obtain ⟨r, c, d, k, h⟩ := plainAction_frame 0x83 { s with dram := { s.dram with eccAddr := x } }
      exact ⟨r, c, d, k, s.point, s.damper, h⟩
    · obtain ⟨r, c, d, k, h⟩ := plainAction_frame code s
      exact ⟨r, c, d, k, s.point, s.damper, h⟩

/-- The sources of CORRECTABLE faults that FAULT raises act on DRAM's counter only. -/
theorem localAction_correctable {code : Nat} {l : Level} (hc : faultClass code = some (.correctable, l)) (hf : code ∉ foundElsewhere)
    (x : Word) (s : State) : ∃ d, localAction code x s = { s with dram := d } := by
  have hm := faultClass_correctable hc
  simp only [List.mem_cons, List.not_mem_nil, or_false] at hm
  rcases hm with rfl | rfl | rfl | rfl | rfl | rfl | rfl | rfl | rfl
  · exact absurd (by decide) hf
  · exact ⟨s.dram, rfl⟩
  · exact absurd (by decide) hf
  · exact absurd (by decide) hf
  · exact ⟨s.dram, rfl⟩
  · exact ⟨s.dram, rfl⟩
  · exact absurd (by decide) hf
  · exact ⟨_, rfl⟩
  · exact absurd (by decide) hf

/-- The source of the POINT fault that FAULT raises marks its point. -/
theorem localAction_point {code : Nat} {l : Level} (hc : faultClass code = some (.point, l)) (hf : code ∉ foundElsewhere)
    (x : Word) (s : State) : localAction code x s = s.updPoint (fieldOf x 4 0) fun p => { p with missNext := true } := by
  have hm := faultClass_point hc
  simp only [List.mem_cons, List.not_mem_nil, or_false] at hm
  rcases hm with rfl | rfl | rfl | rfl | rfl | rfl | rfl
  · exact absurd (by decide) hf
  · exact absurd (by decide) hf
  · exact absurd (by decide) hf
  · exact absurd (by decide) hf
  · rfl
  · exact absurd (by decide) hf
  · exact absurd (by decide) hf

/-! FAULT. -/

section
variable {k : Fin 12} {code : BitVec 8} {x : Word} {s : State} (hk : s.running k = true) (hs : s.running Isl.sys = true)
  (hi : faultIsland code.toNat = k) (hf : code.toNat ∉ foundElsewhere) (hw : withinBound code.toNat x s = false)
include hk hs hi hf hw

theorem exec_fault {c : FaultClass × Level} (hc : faultClass code.toNat = some c) : exec (.fault k code x) s =
    .next (reportFault k code.toNat (recordDetail code.toNat x) (localAction code.toNat x s)) := by
  show execFault k code x s = _
  rw [execFault]
  rw [if_neg, if_neg]
  · rw [State.island_of_running hk, hs]
    simp
  · simp [hi, hc, hf, hw]

end

/-- FAULT leaves the reset controller, the collector and the fuses to the report. -/
theorem localAction_kept_parts (code : Nat) (x : Word) (s : State) : (localAction code x s).rst = s.rst ∧
    (localAction code x s).fault = s.fault ∧ (localAction code x s).trust = s.trust := by
  obtain ⟨r, c, d, k, p, m, h⟩ := localAction_frame code x s
  rw [h]
  exact ⟨rfl, rfl, rfl⟩

theorem reportFault_of_class {k code : Nat} {u : State} (detail : Nat) (hk : u.running k = true) (hs : u.running Isl.sys = true) {l : Level} :
    (faultClass code = some (.point, l) →
      reportFault k code detail u = addRecord (recordKey k code) k code .point 1 detail 0 (if inRecovery u then 1 else 0) u) ∧
    (faultClass code = some (.island, l) → reportFault k code detail u = islandFault k code detail u) ∧
    (faultClass code = some (.device, l) → reportFault k code detail u = deviceFault k code detail l u) := by
  have hno : ¬(u.island k = .inReset ∨ !(u.running Isl.sys)) := by
    rw [State.island_of_running hk, hs]
    simp
  refine ⟨fun hc => ?_, fun hc => ?_, fun hc => ?_⟩
  · rw [reportFault, if_neg hno, hc]
  · rw [reportFault, if_neg hno, hc]
  · rw [reportFault, if_neg hno, hc]

theorem State.running_congr {s u : State} (h : u.rst = s.rst) (k : Nat) : u.running k = s.running k := by
  rw [State.running, State.island, h]
  rfl
theorem inRecovery_congr {s u : State} (h : u.rst = s.rst) : inRecovery u = inRecovery s := by
  have hi : ∀ i, u.island i = s.island i := fun i => by rw [State.island, h]; rfl
  have hr : recovering u = recovering s := by
    unfold recovering
    simp only [hi]
  rw [inRecovery, hr, h, ← inRecovery]

/-- Settles O57: what the local action leaves, then the report by class. -/
theorem faultsByClass : Obligations.FaultsByClass := by
  unfold Obligations.FaultsByClass
  intro k code x s
  refine ⟨fun h => ?_, fun hk hs hi hf hw l => ?_⟩
  · show execFault k code x s = _
    rw [execFault]
    rcases h with h | h | h | h | h | h
    · exact if_pos (.inl h)
    · exact if_pos (.inr (.inl (by rw [h]; rfl)))
    · exact if_pos (.inr (.inr (.inl (List.contains_iff_mem.mpr h))))
    · exact if_pos (.inr (.inr (.inr h)))
    · exact (ite_congr rfl (fun _ => rfl) fun _ => if_pos (.inl h)).trans (ite_self _)
    · exact (ite_congr rfl (fun _ => rfl) fun _ => if_pos (.inr h)).trans (ite_self _)
  · obtain ⟨hrst, hfault, htrust⟩ := localAction_kept_parts code.toNat x s
    have hku : (localAction code.toNat x s).running k = true := (State.running_congr hrst k).trans hk
    have hsu : (localAction code.toNat x s).running Isl.sys = true := (State.running_congr hrst _).trans hs
    have hreps : (localAction code.toNat x s).reps k = s.reps k := by rw [State.reps, hfault]; rfl
    refine ⟨fun hc => ?_, fun hc => ?_, fun hc hrec => ⟨fun hrep => ?_, fun hcls h2 => ?_⟩, fun hc hrec hcls => ?_⟩
    · have hex := exec_fault hk hs hi hf hw hc
      obtain ⟨q, o, h, hcount⟩ := reportFault_counted (recordDetail code.toNat x)
        (by rw [State.island_of_running hku]; decide) hsu hc
      obtain ⟨f, e, m, p, g, heq⟩ := reportFault_correctable k code.toNat (recordDetail code.toNat x) (localAction code.toNat x s) l hc
      obtain ⟨d, hd⟩ := localAction_correctable hc hf x s
      refine ⟨_, hex, ?_, ?_, ?_⟩
      · rw [hcount, hfault]
        exact Tab.at_upd_same k.isLt
      · rw [hcount, hfault]
      · rw [heq, hd]
    · have hex := exec_fault hk hs hi hf hw hc
      rw [(reportFault_of_class _ hku hsu).1 hc] at hex
      generalize hu : localAction code.toNat x s = u at hex hfault
      obtain ⟨q, o, h, hrec⟩ := addRecord_fault (recordKey k code.toNat) k code.toNat .point 1 (recordDetail code.toNat x) 0
        (if inRecovery u then 1 else 0) u
      obtain ⟨f, e, m, p, g, heq⟩ := addRecord_eq (recordKey k code.toNat) k code.toNat .point 1 (recordDetail code.toNat x) 0
        (if inRecovery u then 1 else 0) u
      refine ⟨_, hex, ?_, ?_, ?_⟩
      · rw [hrec, hfault]
      · rw [heq, ← hu, localAction_point hc hf]
        have hlt : fieldOf x 4 0 < 32 := Nat.mod_lt _ (by decide)
        exact congrArg Point.missNext (Tab.at_upd_same (v := s.point) hlt :)
      · rw [heq, ← hu, localAction_point hc hf]
        rfl
    · have hex := exec_fault hk hs hi hf hw hc
      rw [(reportFault_of_class _ hku hsu).2.1 hc] at hex
      obtain ⟨hiso, hep, hseq, hcount, hother⟩ := islandFault_spec (recordDetail code.toNat x)
        ((inRecovery_congr hrst).trans hrec) hku hc hi (by rw [hreps]; exact hrep) rfl
      refine ⟨_, hex, hiso, hep, by rw [hseq, hfault], by rw [hcount, hreps], fun j hj => ?_⟩
      rw [hother j (fun h => hj (Fin.ext h)), State.island, hrst]
      rfl
    · have hex := exec_fault hk hs hi hf hw hc
      rw [(reportFault_of_class _ hku hsu).2.1 hc] at hex
      obtain ⟨v, hv, heq⟩ := islandFault_escalates ((inRecovery_congr hrst).trans hrec) code.toNat (recordDetail code.toNat x) hku
        (by rw [hreps]; exact hcls) (by rw [hreps]; exact h2)
      have hvr : v.rst = s.rst := by rw [hv, addRecord_rst, hrst]
      obtain ⟨-, hep, hrel⟩ := outside_recovery hrec
      rw [hex, heq]
      exact (escalate_begins _ _ _ (by rw [hvr]; exact hep) (by rw [hvr]; exact hrel)).begins
    · have hex := exec_fault hk hs hi hf hw hc
      rw [(reportFault_of_class _ hku hsu).2.2 hc] at hex
      have hmap : mapField (localAction code.toNat x s) 15 = mapField s 15 := by rw [mapField, resetMap, htrust]; rfl
      rw [hex, ← hmap]
      exact (deviceFault_begins code.toNat (recordDetail code.toNat x) l ((inRecovery_congr hrst).trans hrec) hku
        (by rw [hreps]; exact hcls)).begins

/-! FAULT_INJECT. -/

theorem exec_faultInject {v : Word} {s : State} (hs : s.running Isl.sys = true) : exec (.faultInject v) s = .next (
    if bitOf v 31 && injectable (writeReg 0x37060 v s) (fieldOf v 3 0) (fieldOf v 15 8) then
      (if (writeReg 0x37060 v s).island (fieldOf v 3 0) = .inReset then writeReg 0x37060 v s
        else reportFault (fieldOf v 3 0) (fieldOf v 15 8) 0xFFFF (plainAction (fieldOf v 15 8) (writeReg 0x37060 v s)))
    else writeReg 0x37060 v s) := by
  show execFaultInject v s = _
  rw [execFaultInject, if_pos hs]
  dsimp only
  split
  · rfl
  · rfl

theorem injectable_writeReg (a : Nat) (v : Word) (s : State) (k code : Nat) : injectable (writeReg a v s) k code = injectable s k code := by
  obtain ⟨m, r, h⟩ := writeReg_eq a v s
  rw [h]
  rfl

/-- What the report of an injected fault finds: the state but for registers, clock and DRAM. -/
theorem injected_parts (code : Nat) (v : Word) (s : State) : (plainAction code (writeReg 0x37060 v s)).rst = s.rst ∧
    (plainAction code (writeReg 0x37060 v s)).fault = s.fault := by
  obtain ⟨m, c, h⟩ := writeReg_eq 0x37060 v s
  obtain ⟨r, c', d, k, hp⟩ := plainAction_frame code (writeReg 0x37060 v s)
  rw [hp, h]
  exact ⟨rfl, rfl⟩

theorem exec_faultInject_go {v : Word} {s : State} {k : Nat} (hs : s.running Isl.sys = true) (hv : bitOf v 31 = true)
    (hj : injectable s k (fieldOf v 15 8) = true) (hk : k = fieldOf v 3 0) (hr : s.running k = true) :
    exec (.faultInject v) s = .next (reportFault k (fieldOf v 15 8) 0xFFFF (plainAction (fieldOf v 15 8) (writeReg 0x37060 v s))) := by
  subst hk
  have hi : (writeReg 0x37060 v s).island (fieldOf v 3 0) = .running := by
    obtain ⟨m, r, h⟩ := writeReg_eq 0x37060 v s
    rw [h]
    exact State.island_of_running hr
  rw [exec_faultInject hs, injectable_writeReg, hj, hv, hi]
  rfl

theorem exec_islandRecoveryComplete {k : Fin 12} {s : State} (hi : s.island k = .isolated) (hk : k.val ≠ Isl.flue) :
    exec (.islandRecoveryComplete k) s = .next (islandBack k (s.setIsland k .running)) := by
  show execIslandRecoveryComplete k s = _
  rw [execIslandRecoveryComplete, if_pos ⟨hi, hk⟩]

/-- Settles O58. -/
theorem faultCollector : Obligations.FaultCollector := by
  unfold Obligations.FaultCollector
  intro s
  refine ⟨fun hs => ?_, fun k => ⟨fun h1 h2 h3 => ?_, fun h => ?_, fun hk hi => ?_, fun h => ?_⟩, ?_⟩
  · show execFaultPop s = _
    rw [execFaultPop, if_pos hs, List.drop_one]
  · show execRepeatCountClear k s = _
    rw [execRepeatCountClear, if_neg (by simp [h1, h2, h3])]
  · show execRepeatCountClear k s = _
    rw [execRepeatCountClear, if_pos h]
  · obtain ⟨r, sp, w, b, c, t, tr, f, lk, mt, dr, heq⟩ := islandBack_frame k (s.setIsland k .running)
    refine ⟨_, (exec_islandRecoveryComplete hi hk).trans (congrArg _ heq), ?_, fun j hj => ?_, rfl, rfl⟩
    · exact decide_eq_true (Tab.at_upd_same (v := s.rst.islands) k.isLt)
    · exact Tab.at_upd_other (v := s.rst.islands) (fun h => hj (Fin.ext h))
  · show execIslandRecoveryComplete k s = _
    rw [execIslandRecoveryComplete, if_neg]
    rintro ⟨h1, h2⟩
    exact h.elim h2 (fun h => h h1)
  · rintro v w k code hs rfl rfl rfl
    refine ⟨fun h => ?_, fun c l hc hn hk => ?_, fun l hv hseal hk hi hr => ⟨fun hc => ?_, fun hc h6 hrec hcls => ?_⟩⟩
    · rw [exec_faultInject hs, injectable_writeReg, if_neg]
      rcases h with h | h | h | h | h
      · simp [h]
      · simp [injectable, isSealed, h]
      · simp [injectable, not_lt.mpr h]
      · simp [injectable, h]
      · simp [injectable, h]
    · rw [exec_faultInject hs, injectable_writeReg, if_neg]
      cases c
      · exact absurd rfl hn
      all_goals simp [injectable, hc, hk]
    · have hj : injectable s (fieldOf v 3 0) (fieldOf v 15 8) = true := by simp [injectable, isSealed, hseal, hk, hi, hc]
      obtain ⟨hrst, hfault⟩ := injected_parts (fieldOf v 15 8) v s
      have hru := (State.running_congr hrst (fieldOf v 3 0)).trans hr
      obtain ⟨q, o, h, hcount⟩ := reportFault_counted 0xFFFF (by rw [State.island_of_running hru]; decide)
        ((State.running_congr hrst _).trans hs) hc
      refine ⟨_, exec_faultInject_go hs hv hj rfl hr, ?_⟩
      rw [hcount, hfault]
      exact ⟨rfl, Tab.at_upd_same hk⟩
    · have hj : injectable s (fieldOf v 3 0) (fieldOf v 15 8) = true := by simp [injectable, isSealed, hseal, hk, hi, hc, h6]
      obtain ⟨hrst, hfault⟩ := injected_parts (fieldOf v 15 8) v s
      have hru := (State.running_congr hrst (fieldOf v 3 0)).trans hr
      have hex := exec_faultInject_go hs hv hj rfl hr
      rw [(reportFault_of_class _ hru ((State.running_congr hrst _).trans hs)).2.1 hc] at hex
      have hreps : (plainAction (fieldOf v 15 8) (writeReg 0x37060 v s)).reps (fieldOf v 3 0) = s.reps (fieldOf v 3 0) := by
        rw [State.reps, hfault]
        rfl
      obtain ⟨hiso, -, hseq, -, hother⟩ := islandFault_spec 0xFFFF ((inRecovery_congr hrst).trans hrec) hru hc hi
        (.inl (by rw [hreps, hcls]; decide)) rfl
      refine ⟨_, hex, by rw [hseq, hfault], hiso, fun j _ hjk => ?_⟩
      rw [hother j hjk, State.island, hrst]
      rfl

end Sys2Proof.Machine

/-! Power-fail triggers and final banks (R240, R241, R405). -/

namespace Sys2Proof.Machine

/-! Banks in the store. -/

/-- A bank's bytes go to the store, and nothing else of the ember controller changes with a cut. -/
theorem writeBank_frame (final : Bool) (cut : Option Nat) (s : State) : ∃ m a q b l, writeBank final cut s =
    { s with ember := { s.ember with store := m, area := a, bankSeq := q, bankBeat := b, bankLen := l } } := by
  have hput : ∀ (l : List (Nat × List Byte)) (e : Ember) (n : Nat), ∃ m,
      (l.foldl (fun (acc : Ember × Nat) (w : Nat × List Byte) => (acc.1.put w.1 (w.2.take acc.2), acc.2 - w.2.length)) (e, n)).1 =
        { e with store := m } := by
    intro l
    induction l with
    | nil => exact fun e n => ⟨e.store, rfl⟩
    | cons w l ih =>
      intro e n
      obtain ⟨m, hm⟩ := ih (e.put w.1 (w.2.take n)) (n - w.2.length)
      exact ⟨m, hm⟩
  unfold writeBank
  extract_lets area seq bs body order put e whole
  obtain ⟨m, hm⟩ : ∃ m, e = { s.ember with store := m } := hput order s.ember (cut.getD bs.length)
  rw [hm]
  split
  · exact ⟨m, _, _, _, _, rfl⟩
  · exact ⟨m, s.ember.area, s.ember.bankSeq, s.ember.bankBeat, s.ember.bankLen, rfl⟩

/-- A bank that is written whole goes to the area that does not hold the newest valid one. -/
theorem writeBank_whole (final : Bool) (s : State) : (writeBank final none s).ember.bankBeat = publishedBeat s ∧
    (writeBank final none s).ember.area = (match s.ember.newestArea with | some b => !b | none => false) := ⟨rfl, rfl⟩

theorem finalBank_frame (s : State) : ∃ m a q b l, finalBank s =
    { s with ember := { s.ember with store := m, area := a, bankSeq := q, bankBeat := b, bankLen := l } } := by
  unfold finalBank
  split
  · split
    · exact ⟨s.ember.store, s.ember.area, s.ember.bankSeq, s.ember.bankBeat, s.ember.bankLen, rfl⟩
    · exact writeBank_frame ..
  · exact writeBank_frame ..

theorem writeMarker_frame (s : State) : ∃ e, writeMarker s = { s with ember := e } := by
  unfold writeMarker
  split
  · exact ⟨_, rfl⟩
  · exact ⟨s.ember, rfl⟩

theorem writeMarker_trigger {s : State} {x : Trigger} {b : Bool} (hx : s.ember.trigger = some x) (hb : s.ember.newestArea = some b) :
    (writeMarker s).ember.trigger = some { x with done := true } := by
  rw [writeMarker, hx, hb]
  rfl

/-- The marker of the trigger in force, behind its final bank. -/
theorem marked_frame (s : State) : ∃ e, writeMarker (finalBank s) = { s with ember := e } := by
  obtain ⟨m, a, q, b, l, hf⟩ := finalBank_frame s
  obtain ⟨e, he⟩ := writeMarker_frame (finalBank s)
  exact ⟨e, by rw [he, hf]⟩

theorem marked_trigger {s : State} {x : Trigger} {b : Bool} (hx : s.ember.trigger = some x) (hb : (finalBank s).ember.newestArea = some b) :
    (writeMarker (finalBank s)).ember.trigger = some { x with done := true } := by
  refine writeMarker_trigger ?_ hb
  obtain ⟨m, a, q, b, l, hf⟩ := finalBank_frame s
  rw [hf]
  exact hx

/-! The waiting reset goes on. -/

theorem endWait_spec {s : State} {e : Episode} (he : s.rst.episode = some e) :
    (endWait s).rst.episode = some { e with waiting := false } ∧
      ∀ i ∈ [Isl.sys, Isl.conv, Isl.flue, Isl.metro, Isl.ember], (endWait s).island i = .inReset := by
  refine ⟨?_, fun i hi => enterMetrologyReset_island _ i hi⟩
  unfold endWait
  dsimp only
  rw [enterMetrologyReset_rst]
  exact congrArg (Option.map fun e => { e with waiting := false }) he

/-! A trigger from the supply. -/

theorem Tab.at_map {α β : Type} {n : Nat} (f : α → β) (v : Vector α n) {i : Nat} (h : i < n) (d : α) (d' : β) :
    Tab.at (v.map f) i d' = f (Tab.at v i d) := by
  simp [Tab.at, List.getD, h]

/-- An abort ends a port's update with its high voltage. -/
theorem Port.abort_updating {q : Port} {v : Update} (now : Nat) (h : q.phase = .rising v ∨ q.phase = .scanning v) :
    (q.abort now).phase = .idle ∧ (q.abort now).hven = false ∧ (q.abort now).aborted = true := by
  unfold Port.abort
  rcases h with h | h
  · rw [h]
    exact ⟨rfl, rfl, rfl⟩
  · rw [h]
    exact ⟨rfl, rfl, rfl⟩

theorem abortPanels_port {s t : State} (h : t.mantel = (abortPanels s).mantel) {p : Nat} {v : Update} (hp : p < 4)
    (hv : (s.portAt p).phase = .rising v ∨ (s.portAt p).phase = .scanning v) :
    (t.portAt p).phase = .idle ∧ (t.portAt p).hven = false ∧ (t.portAt p).aborted = true := by
  have hat : t.portAt p = (s.portAt p).abort s.fault.timeBase := by
    rw [State.portAt, h]
    exact Tab.at_map _ _ hp _ _
  rw [hat]
  exact Port.abort_updating _ hv

/-- What a supply trigger does where none is in force. -/
theorem supplyTrigger_spec (cause : Nat) (s t : State) (h : canBank s = false ∨ s.ember.trigger = none) (ht : t = supplyTrigger cause s) :
    t = { s with mantel := t.mantel, ember := t.ember } ∧
    t.ember = (if canBank s then { s.ember with
      trigger := some { cause := cause, source := 0, beat := publishedBeat s, done := false } } else s.ember) ∧
    t.mantel = (abortPanels s).mantel := by
  cases hc : canBank s with
  | false =>
    rw [supplyTrigger, hc, if_neg Bool.false_ne_true] at ht
    subst ht
    exact ⟨rfl, rfl, rfl⟩
  | true =>
    have hn : s.ember.trigger = none := h.resolve_left (by rw [hc]; decide)
    rw [supplyTrigger, hc, if_pos rfl, triggerBank, hc, hn, if_pos (by decide)] at ht
    subst ht
    exact ⟨rfl, rfl, rfl⟩

theorem supplyTrigger_again {cause : Nat} {s : State} (hc : canBank s = true) (ht : s.ember.trigger.isSome = true) :
    supplyTrigger cause s = s := by
  rw [supplyTrigger, if_pos hc, triggerBank, if_neg]
  rw [← Option.not_isSome, ht]
  simp

/-- PFW_N and POWER_FAIL_MONITOR: the level, and the trigger where it falls and is fused. -/
theorem exec_supplyPin {s u : State} {low en was : Bool} {cause : Nat} {c : Instr}
    (h : c = .pfwN low ∧ u = { s with pins := { s.pins with pfw := low } } ∧ en = pinEn s ∧ was = s.pins.pfw ∧ cause = 0 ∨
      c = .powerFailMonitor low ∧ u = { s with pins := { s.pins with vddIo33Low := low } } ∧ en = monEn s ∧
        was = s.pins.vddIo33Low ∧ cause = 1) :
    exec c s = .next (if (low && !was) && en then supplyTrigger cause u else u) ∧ canBank u = canBank s ∧ u.ember = s.ember ∧
      publishedBeat u = publishedBeat s ∧ ∀ p, u.portAt p = s.portAt p := by
  rcases h with ⟨rfl, rfl, rfl, rfl, rfl⟩ | ⟨rfl, rfl, rfl, rfl, rfl⟩
  · exact ⟨rfl, rfl, rfl, rfl, fun _ => rfl⟩
  · exact ⟨rfl, rfl, rfl, rfl, fun _ => rfl⟩

theorem exec_markerWritten {s : State} {x : Trigger} (hx : s.ember.trigger = some x) (hd : x.done = false) (hr : s.running Isl.ember = true) :
    exec .markerWritten s = .next (
      if (writeMarker (finalBank s)).rst.episode.any Episode.waiting then endWait (writeMarker (finalBank s))
      else if (writeMarker (finalBank s)).rst.episode.any Episode.bank then
        enterReset Isl.ember { writeMarker (finalBank s) with rst := { (writeMarker (finalBank s)).rst with
          episode := (writeMarker (finalBank s)).rst.episode.map fun e => { e with bank := false } } }
      else if (writeMarker (finalBank s)).fw.hold.isSome then (writeMarker (finalBank s)).updEmber fun e => { e with trigger := none }
      else writeMarker (finalBank s)) := by
  show execMarkerWritten s = _
  rw [execMarkerWritten, hx]
  dsimp only
  rw [hd, hr, if_neg (by decide)]
  generalize writeMarker (finalBank s) = u
  split_ifs
  all_goals rfl

/-- Settles O49. -/
theorem finalBanks : Obligations.FinalBanks := by
  unfold Obligations.FinalBanks
  refine ⟨fun s u low en was cause c h => ?_, fun s => ⟨fun h => ?_, fun x hx => ⟨fun hd => ?_, fun hd hr => ⟨fun b hb he => ?_, fun e he =>
    ⟨fun hw => ?_, fun hw hb => ?_⟩⟩⟩, fun e he => ⟨fun hw hd => ?_, fun h => ?_⟩, fun x passed hx hp => ⟨fun hc hd he hr h => ?_, fun h => ?_⟩⟩⟩
  · obtain ⟨hex, hcan, hember, hpub, hport⟩ := exec_supplyPin h
    refine ⟨fun hq => ?_, fun h1 h2 h3 => ⟨fun hc ht => ?_, fun hq => ?_⟩⟩
    · rw [hex, if_neg]
      rcases hq with hq | hq | hq
      · simp [hq]
      · simp [hq]
      · simp [hq]
    · rw [hex, supplyTrigger_again (hcan.trans hc) (by rw [hember]; exact ht), ite_self]
    · rw [h1, h2, h3, if_pos (by decide)] at hex
      obtain ⟨hframe, htrig, hmantel⟩ := supplyTrigger_spec cause u _ (by rw [hcan, hember]; exact hq) rfl
      refine ⟨_, hex, hframe, ?_, fun p v hp hv => ?_⟩
      · rw [htrig, hcan, hember, hpub]
      · exact abortPanels_port hmantel hp (by rw [hport]; exact hv)
  · show execMarkerWritten s = _
    rw [execMarkerWritten]
    rcases h with h | h
    · rw [h]
    · split
      · rfl
      · rw [h, if_pos (by simp)]
  · show execMarkerWritten s = _
    rw [execMarkerWritten, hx]
    exact if_pos (by rw [hd]; rfl)
  · obtain ⟨g, hg⟩ := marked_frame s
    have htrig := marked_trigger hx hb
    have hex := exec_markerWritten hx hd hr
    rw [hg] at hex htrig
    rw [he] at hex
    refine ⟨_, hex, ?_, ?_⟩
    · cases s.fw.hold
      · rfl
      · rfl
    · cases s.fw.hold
      · exact htrig
      · rfl
  · obtain ⟨g, hg⟩ := marked_frame s
    have hex := exec_markerWritten hx hd hr
    rw [hg, if_pos (by rw [he]; exact hw)] at hex
    exact ⟨_, hex, endWait_spec (s := { s with ember := g }) he⟩
  · obtain ⟨g, hg⟩ := marked_frame s
    have hex := exec_markerWritten hx hd hr
    rw [hg, if_neg (by rw [he]; simp [hw]), if_pos (by rw [he]; exact hb)] at hex
    refine ⟨_, hex, ?_, enterReset_island_same _ (by decide)⟩
    rw [enterReset_rst]
    exact congrArg (Option.map fun e => { e with bank := false }) he
  · have hex : exec .finalBankWaitTimeout s = .next (endWait s) := by
      show execFinalBankWaitTimeout s = _
      rw [execFinalBankWaitTimeout, he]
      exact if_pos (by simp [hw, hd])
    exact ⟨_, hex, endWait_spec he⟩
  · show execFinalBankWaitTimeout s = _
    rw [execFinalBankWaitTimeout, he]
    refine if_neg ?_
    rcases h with h | h
    · simp [h]
    · simp [not_le.mpr h]
  · show Begins 3 _ 0 (execPowerFailTriggerEnd s)
    rw [hp, decide_eq_true_eq] at h
    rw [execPowerFailTriggerEnd, hx]
    dsimp only
    rw [if_pos]
    · exact (assertAt_began 3 _ 0 s he hr).begins
    · obtain ⟨h1, h2⟩ := h
      rcases h1 with h1 | h1 <;> rcases h2 with h2 | h2 <;> simp [hc, hd, he, h1, h2]
  · show execPowerFailTriggerEnd s = _
    rw [execPowerFailTriggerEnd, hx]
    refine if_neg ?_
    rcases h with h | h | h | h
    · simp [not_le.mpr h]
    · simp [h]
    · simp [Option.isSome_iff_ne_none.mp h]
    · rw [h] at hp
      have hno := of_decide_eq_false hp.symm
      intro hall
      simp at hall
      tauto

end Sys2Proof.Machine

/-! The issue of a record (R224, R234). -/

namespace Sys2Proof.Machine

/-- An OPEN record of session 160, which no table of the model holds: its context would stand where the first queue entry stands. -/
def beyondRecord : DueRecord :=
  { type := .openRec, session := some 160, point := 0, time := 0, beat := 0, epoch := 0, flags := 0, legal8 := 0, token := 0, nreg := 0,
    regs := Vector.replicate 9 0, uncert := 0, comp := 0, cable := 0, seg := 0, tariff := 0, detail := [], ready := true, fall := 0,
    order := 0, ord := none }

/-- A running ember controller to which that record is due, with SEQ 1024 next. -/
def beyondState : State :=
  { State.reset with
    rst := { State.reset.rst with islands := Vector.replicate 12 .running },
    ember := { Ember.init [] with due := [beyondRecord], nextSeq := 1024, ackSeq := 1023 } }

theorem exec_recordIssue_beyond :
    exec .recordIssue beyondState = .next (putRecord beyondRecord (beyondState.updEmber fun e => { e with due := [] })) := by
  have hrun : beyondState.running Isl.ember = true := by decide
  have hheld : beyondState.layerHeld = false := rfl
  have hlow : beyondState.ember.low = false := by decide
  have hfree : ¬beyondState.ember.free = 0 := by decide
  show execRecordIssue beyondState = _
  rw [execRecordIssue]
  show (if !(beyondState.running Isl.ember) || beyondState.layerHeld || !beyondRecord.ready then Host.Outcome.next beyondState else _) = _
  rw [hrun, hheld, if_neg (by decide)]
  dsimp only
  rw [hlow, if_neg (by decide), if_neg (by decide), if_neg hfree]

/-- A session's context is written into the store, whatever its number. -/
theorem saveContext_store (s : State) (k : Nat) :
    (saveContext k s).ember.store = Memory.writeN s.ember.store (ctxOff k) (ctxBytes (s.sessionAt k)) := by
  unfold saveContext
  dsimp only
  generalize ctxBytes (s.sessionAt k) = bs
  rfl

theorem readN_getElem? (m : List Host.Cell) (a : Nat) {i n : Nat} (h : i < n) : (Memory.readN m a n)[i]? = some (Memory.read m (a + i)) := by
  simp [Memory.readN, h]

/-- A context begins with the session's state and point. -/
theorem ctxBytes_begins (x : Session) : ∃ rest, ctxBytes x = leBytes 1 x.state.code ++ (leBytes 1 x.point ++ rest) := by
  unfold ctxBytes withCrc
  generalize crc32 _ = c
  simp only [List.append_assoc]
  exact ⟨_, rfl⟩

/-- An entry begins with its SEQ. -/
theorem entryBytes_begins (r : DueRecord) (seq : Nat) : ∃ rest, entryBytes r seq = leBytes 8 seq ++ rest := by
  unfold entryBytes withCrc
  generalize crc32 _ = c
  unfold entryBody
  simp only [List.append_assoc]
  exact ⟨_, rfl⟩

theorem entryBytes_seq (r : DueRecord) : (entryBytes r 1024)[1]? = some 4 := by
  obtain ⟨rest, h⟩ := entryBytes_begins r 1024
  rw [h]
  rfl

/-- A byte of the context that is written for a session beyond the table. -/
theorem read_saveContext_beyond (s : State) : Memory.read (saveContext 160 s).ember.store (entryOff 1024 + 1) = 0 := by
  have hat : s.sessionAt 160 = Session.init := Tab.at_beyond s.session (Nat.le_refl 160) Session.init
  obtain ⟨rest, h⟩ := ctxBytes_begins Session.init
  rw [saveContext_store, hat, h, show entryOff 1024 + 1 = ctxOff 160 + 1 from rfl,
    Memory.read_writeN_in _ _ _ _ (by simp [leBytes])]
  rfl

/-- The state in which the record's entry and the counter are written, before its SEQ is kept in the context. -/
def putState (r : DueRecord) : State :=
  (beyondState.updEmber fun e => { e with due := [] }).updEmber fun e =>
    { (e.put (entryOff 1024) (entryBytes r 1024)).putCounter e.epoch 1024 with nextSeq := 1025 }

theorem putRecord_beyond : putRecord beyondRecord (beyondState.updEmber fun e => { e with due := [] }) =
    fillSeq Opc.sessionOpen 160 1024 ((putState beyondRecord).setSession 160 fun x => { x with openSeq := 1024 }) := rfl

theorem read_openSeq_beyond (s : State) (f : Session → Session) (op seq : Nat) :
    Memory.read (fillSeq op 160 seq (s.setSession 160 f)).ember.store (entryOff 1024 + 1) = 0 := read_saveContext_beyond (s.updSession 160 f)

/-- Refutes O48: the record of a session beyond the table (`beyondRecord`) is issued, and the context that is written with it lies over
the queue entry, so that the entry does not hold the record's bytes. -/
theorem not_recordsIssued : ¬ Obligations.RecordsIssued := by
  unfold Obligations.RecordsIssued
  intro h
  obtain ⟨-, hdue, -⟩ := h beyondState
  obtain ⟨-, hready⟩ := hdue beyondRecord [] rfl
  obtain ⟨-, -, hissue⟩ := hready (by decide) rfl rfl
  obtain ⟨-, hfree⟩ := hissue (.inl (by decide)) (.inr (by decide))
  obtain ⟨t, ht, -, -, hbytes, -⟩ := hfree (by decide)
  rw [exec_recordIssue_beyond, putRecord_beyond] at ht
  cases ht
  have hentry := (congrArg (·[1]?) hbytes).trans (entryBytes_seq beyondRecord)
  have hread := (readN_getElem? _ _ (by decide : 1 < 320)).symm.trans hentry
  have hlost := read_openSeq_beyond (putState beyondRecord) (fun x => { x with openSeq := 1024 }) Opc.sessionOpen 1024
  exact absurd (hlost.symm.trans (Option.some.inj hread)) (by decide)

end Sys2Proof.Machine

/-! A step, the state after reset, and the reads with an effect. -/

namespace Sys2Proof.Machine

/-- Settles O1: the queue is not empty, so a step runs its front. -/
theorem stepRunsFront : Obligations.StepRunsFront := by
  unfold Obligations.StepRunsFront
  intro c rest s
  rfl

/-- A control watchdog that is not enabled does not count. -/
theorem wdtTick_disabled (r : ResetCtl) : wdtTick false r = r := by
  unfold wdtTick
  rw [if_neg fun h => Bool.false_ne_true h.1]

/-- Settles O2: outside an episode no hold runs, and with EN clear the watchdog does not count. -/
theorem idleStepCountsTimeBase : Obligations.IdleStepCountsTimeBase := by
  unfold Obligations.IdleStepCountsTimeBase
  intro s hq hsys hep hen
  have hidle : step s = .next (sysTick s) := by
    unfold step
    rw [hq]
  have hrst : { s.rst with episode := s.rst.episode.map Episode.tick } = s.rst := by
    rw [hep, Option.map_none, ← hep]
  have hcount : Tab.at s.rst.islands 1 .inReset = .running := beq_iff_eq.mp hsys
  rw [hidle, sysTick, if_pos (Or.inl hcount), hrst, show Regs.get s.regs 0x1028 = s.reg 0x1028 from rfl, hen,
    wdtTick_disabled]
  rfl

/-- Settles O8: each part is the reset state's own value. -/
theorem resetState : Obligations.ResetState := by
  unfold Obligations.ResetState
  refine ⟨⟨_, rfl, rfl, rfl⟩, by decide, rfl, rfl, rfl, rfl, rfl, rfl, ?_⟩
  decide

/-! Reads of a block's island. -/

/-- A running island answers. -/
theorem State.replies_of_running {s : State} {i : Nat} (h : s.running i = true) : s.replies i = true := by
  rw [State.replies, h, Bool.true_or]

/-- An isolated island does not answer. -/
theorem State.replies_of_isolated {s : State} {i : Nat} (h : s.island i = .isolated) : s.replies i = false := by
  rw [State.replies, State.running, h]
  simp

/-- While SYS runs, an island that is not isolated answers. -/
theorem State.replies_of_not_isolated {s : State} {i : Nat} (hsys : s.running Isl.sys = true) (h : s.island i ≠ .isolated) :
    s.replies i = true := by
  unfold State.replies State.running
  rw [State.running] at hsys
  rw [hsys]
  cases hi : s.island i with
  | isolated => exact absurd hi h
  | _ => rfl

/-- A read with an effect has it where its island runs. -/
theorem readRow_running {i : Nat} {s : State} (h : s.running (if i = Isl.aon then Isl.sys else i) = true) (f : State → State) :
    readRow i s f = f s := if_pos (State.replies_of_running h)

/-- A read of an isolated island aborts and has no effect. -/
theorem readRow_isolated {i : Nat} {s : State} (h : s.island (if i = Isl.aon then Isl.sys else i) = .isolated)
    (f : State → State) : readRow i s f = s.readAbort :=
  if_neg (Bool.eq_false_iff.mp (State.replies_of_isolated h))

/-- A read command of an isolated island answers with the abort. -/
theorem next_readRow_isolated {i : Nat} {s : State} (h : s.island (if i = Isl.aon then Isl.sys else i) = .isolated)
    (f : State → State) : (.next (readRow i s f) : Host.Outcome State Fault Refusal) = .next s.readAbort := by
  rw [readRow_isolated h]

/-- Settles O11: reads go by whether the block's island answers. -/
theorem silentIslandAborts : Obligations.SilentIslandAborts := by
  unfold Obligations.SilentIslandAborts
  intro s h hi off k
  refine ⟨fun a hiso => ?_, fun a hsys hne => ?_, fun hiso => next_readRow_isolated hiso _, fun hiso => ⟨?_, ?_, ?_⟩,
    fun hiso => next_readRow_isolated hiso _, fun hiso => ⟨?_, ?_⟩, fun hiso => ⟨?_, ?_⟩, fun hiso => ⟨?_, ?_⟩⟩
  · rw [readReg, State.replies_of_isolated hiso]
    rfl
  · rw [readReg, State.replies_of_not_isolated hsys hne]
    rfl
  all_goals exact next_readRow_isolated hiso _

/-- The read of the upper half of a pair of the ember window answers the half that was frozen, or the current one. -/
theorem exec_emberLoRead_upper {s : State} (hrun : s.running Isl.ember = true) {off : Nat} (hoff : off % 8 = 0) (w : Word)
    (hw : ((s.ember.shadows.find? fun x => x.1 == off + 4).map Prod.snd).getD (hiWord (s.ember.pairAt off)) = w) :
    exec (.emberLoRead (off + 4)) s =
      .next { s.answers w with ember := { s.ember with shadows := dropShadow (off + 4) s.ember.shadows } } := by
  have hupper : (off + 4) % 8 = 4 := by omega
  change Host.Outcome.next (readRow Isl.ember s _) = _
  rw [readRow_running hrun]
  dsimp only
  rw [if_pos hupper, show off + 4 - 4 = off by omega, hw]
  rfl

/-- Settles O14: each read, where its island runs, has the effect its row names. -/
theorem readsWithEffect : Obligations.ReadsWithEffect := by
  unfold Obligations.ReadsWithEffect
  refine ⟨?_, ?_, ?_, ?_, ?_⟩
  · intro s hsys v hv
    subst hv
    refine ⟨?_, fun w hw => ?_, fun hw => ?_⟩ <;>
      refine (congrArg Host.Outcome.next (readRow_running (i := Isl.aon) hsys _)).trans ?_
    · rfl
    · dsimp only
      rw [hw]
      rfl
    · dsimp only
      rw [hw]
      rfl
  · intro s hhost
    exact (congrArg Host.Outcome.next (readRow_running (i := Isl.host) hhost _)).trans rfl
  · intro s h hconv
    exact (congrArg Host.Outcome.next (readRow_running (i := Isl.conv) hconv _)).trans rfl
  · intro s off hemb hoff
    refine ⟨?_, fun w hw => exec_emberLoRead_upper hemb hoff w (by rw [hw]; rfl),
      fun hnone => exec_emberLoRead_upper hemb hoff _ (by rw [hnone]; rfl)⟩
    have hlower : ¬ off % 8 = 4 := by omega
    refine (congrArg Host.Outcome.next (readRow_running (i := Isl.ember) hemb _)).trans ?_
    dsimp only
    rw [if_neg hlower]
    rfl
  · intro s hemb
    exact (congrArg Host.Outcome.next (readRow_running (i := Isl.ember) hemb _)).trans rfl

end Sys2Proof.Machine

/-! The doorbells and the coalescing time (R227, R257, R270, R273). -/

namespace Sys2Proof.Machine

/-- What a doorbell's index and its ring have against it. -/
theorem doorbellErrs_eq (enabled inRange : Bool) :
    doorbellErrs enabled inRange = (if inRange then 0 else 1) ||| (if enabled then 0 else 2) := by
  cases enabled <;> cases inRange <;> decide

/-- A doorbell of four bytes reaches a running HOST. -/
theorem doorbell_arrives {s : State} (h : s.running Isl.host = true) :
    ¬ ((15 : BitVec 4) ≠ 15 ∨ s.running Isl.host = false) := by
  rw [h]
  decide

/-- An error of a doorbell is reported, records the ring where none stood before, and raises ERR_VEC. -/
theorem State.hostErrs_raised (s : State) (bits : Word) (ring : Nat) : Raised (s.fld 0x401C 3 0) s (s.hostErrs bits ring) := by
  obtain ⟨u, hu, hx⟩ : ∃ u, u = { s.setBits 0x4010 bits with
      host := { s.host with errRing := if s.reg 0x4010 = 0 then ring else s.host.errRing } } ∧
      s.hostErrs bits ring = u.raiseVector (s.fld 0x401C 3 0) := by
    refine ⟨_, rfl, ?_⟩
    unfold State.hostErrs
    by_cases h : s.reg 0x4010 = 0 <;> simp only [h, if_true, if_false] <;> rfl
  have hvector : ∀ v, u.reg (0x500C + 16 * (v % 16)) = s.reg (0x500C + 16 * (v % 16)) := fun v => by
    rw [hu]
    exact State.reg_setReg_other _ _ (by omega)
  have hmask : ∀ v, u.masked v = s.masked v := fun v => by
    rw [State.masked, hvector, hu]
    rfl
  obtain ⟨hout, hin⟩ := State.raiseVector_raised u (s.fld 0x401C 3 0)
  rw [hx]
  rw [hmask] at hout hin
  subst hu
  exact ⟨hout, hin⟩

/-- Settles O15: a tail with nothing against it is taken, and any other write is reported. -/
theorem tailDoorbell : Obligations.TailDoorbell := by
  unfold Obligations.TailDoorbell
  refine ⟨fun n v s hrun => ?_, ?_⟩
  · have hexec : exec (.sqTailDoorbell n 15 v) s = _ := if_neg (doorbell_arrives hrun)
    rw [doorbellErrs_eq] at hexec
    refine ⟨fun e he hne => ?_, fun hen hlt k hk => ?_⟩
    · have hsame : ((if (decide (fieldOf v 11 0 < sqSize s n)) then 0 else 1) ||| (if s.sqEnabled n then 0 else 2) : Word) = e := by
        rw [he]
        by_cases h : fieldOf v 11 0 < sqSize s n
        · rw [if_pos (decide_eq_true h), if_neg (Nat.not_le.mpr h)]
        · rw [if_neg (by simpa using h), if_pos (Nat.le_of_not_lt h)]
      rw [hexec, hsame, if_pos hne]
    · rw [hexec, decide_eq_true hlt, hen, if_neg (by decide), ← hk]
      rfl
  · rintro e ring s t rfl
    obtain ⟨m, p, h⟩ := State.hostErrs_eq s e ring
    have hr := State.hostErrs_raised s e ring
    rw [h] at hr ⊢
    exact ⟨State.reg_setReg_same _ _ _, rfl, hr, rfl, rfl, rfl, rfl⟩

/-! The head doorbell. -/

/-- What a head doorbell of ring `m` consumes: records of RCQ, entries of EVQ, and nothing else of the other rings. -/
def consumed (m count : Nat) (s : State) : State :=
  if m = 9 then consumeRcq count s else if m = 8 then consumeEvq count s else s

/-- An acknowledgement goes to the mailbox or waits. -/
theorem postAck_frame (seq : Nat) (s : State) : ∃ l w, postAck seq s =
    { s with damper := { s.damper with mailbox := l }, host := { s.host with ackWait := w } } ∧
    (s.running Isl.ctrl = true → s.mailRoom → l = s.damper.mailbox ++ [{ cmd := .ack seq, ord := none }]) := by
  unfold postAck post
  by_cases hc : s.running Isl.ctrl = true
  · by_cases hr : s.mailRoom
    · obtain ⟨hlen, hconv⟩ := hr
      rw [if_pos hc, if_pos (by rw [decide_eq_true hlen, hconv]; rfl)]
      exact ⟨_, _, rfl, fun _ _ => rfl⟩
    · have hroom : (decide (s.damper.mailbox.length < 64) && s.running Isl.conv) = false :=
        Bool.eq_false_iff.mpr fun h => hr (by simpa [State.mailRoom] using h)
      rw [if_pos hc, hroom]
      exact ⟨s.damper.mailbox, _, rfl, fun _ h => absurd h hr⟩
  · rw [if_neg hc]
    exact ⟨s.damper.mailbox, _, rfl, fun h => absurd h hc⟩

/-- Consuming touches the mailbox, the event log, and what RCQ and EVQ hold. -/
theorem consumed_frame (m count : Nat) (s : State) : ∃ d v r e w, consumed m count s =
      { s with damper := d, events := v, host := { s.host with rcqHeld := r, evqHeld := e, ackWait := w } } ∧
    (m ≠ 9 → d = s.damper) ∧ (m ≠ 8 → v = s.events) ∧
    (m = 9 → ∀ a, (s.host.rcqHeld.take count).getLast? = some a → r = s.host.rcqHeld.drop count ∧
      (s.running Isl.ctrl = true → s.mailRoom →
        d = { s.damper with mailbox := s.damper.mailbox ++ [{ cmd := .ack a, ord := none }] })) ∧
    (m = 8 → ∀ a, (s.host.evqHeld.take count).getLast? = some a → e = s.host.evqHeld.drop count ∧
      v = { s.events with
        unread := min s.events.unread (qBehind s a),
        qrd := (s.events.qseq + 2 ^ 32 - min s.events.unread (qBehind s a)) % 1024 }) := by
  unfold consumed
  by_cases h9 : m = 9
  · have h8 : m ≠ 8 := by omega
    rw [if_pos h9, consumeRcq]
    cases hl : (s.host.rcqHeld.take count).getLast? with
    | none =>
      exact ⟨_, _, _, _, _, rfl, fun h => absurd h9 h, fun _ => rfl, fun _ _ h => absurd h nofun, fun h => absurd h h8⟩
    | some a =>
      obtain ⟨l, w, hp, hm⟩ := postAck_frame a (s.updHost fun h => { h with rcqHeld := h.rcqHeld.drop count })
      refine ⟨_, _, _, _, _, hp, fun h => absurd h9 h, fun _ => rfl, fun _ b hb => ⟨rfl, fun hc hr => ?_⟩, fun h => absurd h h8⟩
      obtain rfl := Option.some.inj hb
      rw [hm hc hr]
      rfl
  · rw [if_neg h9]
    by_cases h8 : m = 8
    · rw [if_pos h8, consumeEvq]
      cases hl : (s.host.evqHeld.take count).getLast? with
      | none =>
        exact ⟨_, _, _, _, _, rfl, fun _ => rfl, fun h => absurd h8 h, fun h => absurd h h9, fun _ _ h => absurd h nofun⟩
      | some a =>
        refine ⟨_, _, _, _, _, rfl, fun _ => rfl, fun h => absurd h8 h, fun h => absurd h h9, fun _ b hb => ?_⟩
        obtain rfl := Option.some.inj hb
        exact ⟨rfl, rfl⟩
    · rw [if_neg h8]
      exact ⟨_, _, _, _, _, rfl, fun _ => rfl, fun _ => rfl, fun h => absurd h h9, fun h => absurd h h8⟩

/-- A head doorbell with nothing against it: the head moves, what it consumes goes on, and a message that is due goes out. -/
theorem exec_headDoorbell_taken {m : Fin 11} {v : Word} {s : State} (hrun : s.running Isl.host = true)
    (hen : s.oqEnabled m = true) (hsize : fieldOf v 11 0 < oqSize s m)
    (hn : (fieldOf v 11 0 + oqSize s m - (s.oqAt m).head) % oqSize s m ≤
      ((s.oqAt m).tail + oqSize s m - (s.oqAt m).head) % oqSize s m) :
    exec (.headDoorbell m 15 v) s = .next (announce m
      (consumed m ((fieldOf v 11 0 + oqSize s m - (s.oqAt m).head) % oqSize s m)
        (s.updOq m fun q => { q with head := fieldOf v 11 0, armed := true }))) := by
  have hexec : exec (.headDoorbell m 15 v) s = _ := if_neg (doorbell_arrives hrun)
  rw [hexec, doorbellErrs_eq, hen, decide_eq_true hsize, decide_eq_true hn]
  rfl

/-- Settles O16: the head moves, RCQ acknowledges, EVQ moves EVENT_QRD, and a due message goes out. -/
theorem headDoorbells : Obligations.HeadDoorbells := by
  unfold Obligations.HeadDoorbells
  rintro m v s hrun q size n rfl rfl rfl
  refine ⟨fun e he hne => ?_, fun hen hsize hn => ?_⟩
  · have hexec : exec (.headDoorbell m 15 v) s = _ := if_neg (doorbell_arrives hrun)
    simp only [hexec, doorbellErrs_eq, Bool.and_eq_true, decide_eq_true_eq]
    rw [← he, if_pos hne]
  · rw [exec_headDoorbell_taken hrun hen hsize hn]
    generalize (fieldOf v 11 0 + oqSize s m - (s.oqAt m).head) % oqSize s m = n
    obtain ⟨d, ev, r, e, w, hc, hd, hv, hrcq, hevq⟩ := consumed_frame m n
      (s.updOq m fun q => { q with head := fieldOf v 11 0, armed := true })
    have hown : (s.updOq m fun q => { q with head := fieldOf v 11 0, armed := true }).oqAt m =
        { s.oqAt m with head := fieldOf v 11 0, armed := true } := State.oqAt_updOq_same s m.isLt _
    have hother : ∀ k : Fin 11, k ≠ m →
        (s.updOq m fun q => { q with head := fieldOf v 11 0, armed := true }).oqAt k = s.oqAt k :=
      fun k hk => State.oqAt_updOq_other s (fun h => hk (Fin.ext h)) _
    generalize hx : consumed m n (s.updOq m fun q => { q with head := fieldOf v 11 0, armed := true }) = x
    rw [hx] at hc
    have hxown : x.oqAt m = { s.oqAt m with head := fieldOf v 11 0, armed := true } := by rw [hc]; exact hown
    have hxother : ∀ k : Fin 11, k ≠ m → x.oqAt k = s.oqAt k := fun k hk => by rw [hc]; exact hother k hk
    have hdue : messageDue x m (x.oqAt m).since =
        (decide (max (s.fld (0x420C + 0x20 * m) 7 0) 1 ≤ (s.oqAt m).since) || (s.oqAt m).late) := by
      rw [messageDue, hxown, Bool.true_and, State.fld_congr (s := s) (by rw [hc]; rfl)]
    rcases announce_cases m x with ⟨hno, ha⟩ | ⟨hyes, ⟨p, q, ha⟩, hr⟩
    · rw [hdue] at hno
      obtain ⟨hcount, hlate⟩ := Bool.or_eq_false_iff.mp hno
      refine ⟨x, by rw [ha], by rw [hxown], by rw [hxown], by rw [hxown], fun h => ?_, fun _ _ => ?_, hxother, ?_⟩
      · rcases h with h | h
        · exact absurd h (of_decide_eq_false hcount)
        · exact absurd h (by rw [hlate]; decide)
      · rw [hxown, hc]
        exact ⟨rfl, rfl, rfl, rfl⟩
      · rw [hc]
        exact ⟨rfl, rfl, rfl, rfl, hd, hv, hrcq, hevq⟩
    · rw [hdue, Bool.or_eq_true, decide_eq_true_eq] at hyes
      have hsent : (announce m x).oqAt m = OqRing.sent (x.oqAt m) := by
        rw [ha]
        exact Tab.at_upd_same m.isLt
      have hkept : ∀ k : Fin 11, k ≠ m → (announce m x).oqAt k = s.oqAt k := fun k hk => by
        rw [← hxother k hk, ha]
        exact Tab.at_upd_other fun h => hk (Fin.ext h)
      have hraised : Raised (s.fld (oqCfg m) 11 8) s (announce m x) := by
        rw [hc] at hr ⊢
        exact hr
      refine ⟨announce m x, rfl, by rw [hsent, hxown]; rfl, by rw [hsent, hxown]; rfl, by rw [hsent, hxown]; rfl,
        fun _ => ⟨by rw [hsent]; rfl, by rw [hsent]; rfl, hraised⟩, fun hlt hlate => ?_, hkept, ?_⟩
      · rcases hyes with h | h
        · exact absurd h (Nat.not_le.mpr hlt)
        · exact absurd h (by rw [hlate]; decide)
      · rw [ha, hc]
        exact ⟨rfl, rfl, rfl, rfl, hd, hv, hrcq, hevq⟩

/-- Settles O20: the expiry is noted, and the message goes out where the ring may announce. -/
theorem coalescingExpiry : Obligations.CoalescingExpiry := by
  unfold Obligations.CoalescingExpiry
  intro m s hrun htime hsince
  have hexec : exec (.coalTimeExpiry m) s = .next (announce m (s.updOq m fun q => { q with late := true })) :=
    if_pos ⟨hrun, htime, hsince⟩
  have hown : (s.updOq m fun q => { q with late := true }).oqAt m = { s.oqAt m with late := true } :=
    State.oqAt_updOq_same s m.isLt _
  have hdue : messageDue (s.updOq m fun q => { q with late := true }) m
      ((s.updOq m fun q => { q with late := true }).oqAt m).since = (s.oqAt m).armed := by
    rw [messageDue, hown, Bool.or_true, Bool.and_true]
  rw [hexec]
  rcases announce_cases m (s.updOq m fun q => { q with late := true }) with ⟨hd, ha⟩ | ⟨hd, ⟨p, q, ha⟩, hr⟩ <;> rw [hdue] at hd
  · exact ⟨fun h => absurd h (by rw [hd]; decide), fun _ => by rw [ha]; rfl⟩
  · refine ⟨fun _ => ⟨_, rfl, ?_⟩, fun h => absurd h (by rw [hd]; decide)⟩
    rw [ha] at hr ⊢
    have hsent := Tab.upd_upd s.host.oq m (fun q => { q with late := true }) OqRing.sent
    exact ⟨rfl, hsent, hr, rfl, rfl, rfl⟩

end Sys2Proof.Machine

/-! Descriptors that read, answer or post, and the fuses and measurement registers. -/

namespace Sys2Proof.Machine

/-! Reads of result windows, and SEAL's answers. -/

theorem writeBuffer_written (d : Inflight) (data result : List Byte) (s : State) :
    writeBuffer d true data result s = (s.dmaWrite d.bufAddr data).finishOk d.ord result := rfl
theorem writeBuffer_failed (d : Inflight) (data result : List Byte) (s : State) :
    writeBuffer d false data result s = bufferError d.ord 2 s := rfl

/-- Settles O25: each read writes its window and returns its beat. -/
theorem simpleReads : Obligations.SimpleReads := by
  unfold Obligations.SimpleReads
  refine ⟨fun s ord d => ⟨fun h => withDescriptor_starts h _, fun h => withDescriptor_starts h _⟩,
    fun s ord d => ⟨fun h => ⟨withBuffer_starts h _, withBuffer_starts h _⟩,
      fun h => ⟨withBuffer_starts h _, withBuffer_starts h _⟩, fun h points hp => ?_⟩⟩
  subst hp
  have hexec : ∀ ok, exec (.readTotals ord ok) s = _ := fun ok => withBuffer_starts h _
  refine ⟨?_, fun hpilot => ?_, fun hpilot hnone => ?_, fun a b hpilot hsome hb => ?_⟩
  · rw [hexec]
    split <;> rfl
  · rw [hexec]
    simp only [hpilot, Bool.false_eq_true, if_false]
    rfl
  · rw [hexec]
    simp only [hpilot, if_true, hnone]
    rfl
  · rw [hexec, hb]
    simp only [hpilot, if_true, hsome]
    rfl

/-- An answer of SEAL that fits its buffer is written there, or the write fails; one that does not fit leaves its length. -/
theorem answer_spec (d : Inflight) (a : List Byte) (s : State) :
    (a.length ≤ d.bufLen → answer d true a s = (s.dmaWrite d.bufAddr a).finishOk d.ord (leBytes 4 a.length) ∧
      answer d false a s = bufferError d.ord 2 s) ∧
    (d.bufLen < a.length → ∀ ok, answer d ok a s = s.finish d.ord 0x02 16 (leBytes 4 a.length)) :=
  ⟨fun h => ⟨if_neg (Nat.not_lt.mpr h), if_neg (Nat.not_lt.mpr h)⟩, fun h _ => if_pos h⟩

/-- A KEY_INFO that passes its checks names one of the three maps. -/
theorem staticFault_keyInfo {s : State} {d : Inflight} (hop : d.opcode = Opc.keyInfo) (h : staticFault s d = none) :
    d.op 20 1 ≤ 2 := by
  have ho := staticFault_operands h
  rw [operandFaults, hop] at ho
  have hmem : ¬ decide (2 < d.op 20 1) = true := fun hc => by simp [offending, Opc.keyInfo, hc] at ho
  exact Nat.le_of_not_lt (by simpa using hmem)

/-- Settles O26: both answer with the response that their opcode names. -/
theorem sealAnswers : Obligations.SealAnswers := by
  unfold Obligations.SealAnswers
  intro s ord d a ok
  refine ⟨fun h ha => ?_, fun h ha => ?_⟩
  · have hresp : (response s d).getD [] = a := by
      rw [response, if_pos h.opcode, ha]
      rfl
    have hexec : ∀ ok, exec (.attest ord ok) s = .next (answer d ok a s) := fun ok => by
      rw [← hresp]
      exact withBuffer_starts h _
    obtain ⟨hfits, hshort⟩ := answer_spec d a s
    refine ⟨fun hl => ?_, fun hl => by rw [hexec, hshort hl]⟩
    rw [hexec, hexec, (hfits hl).1, (hfits hl).2]
    exact ⟨rfl, rfl⟩
  · have hresp : (response s d).getD [] = a := by
      rw [response, if_neg (by rw [h.opcode]; decide), if_pos ⟨h.opcode, staticFault_keyInfo h.opcode h.fields⟩, ha]
      rfl
    have hexec : ∀ ok, exec (.keyInfo ord ok) s = .next (answer d ok a s) := fun ok => by
      rw [← hresp]
      exact withBuffer_starts h _
    obtain ⟨hfits, hshort⟩ := answer_spec d a s
    refine ⟨fun hl => ?_, fun hl => by rw [hexec, hshort hl]⟩
    rw [hexec, hexec, (hfits hl).1, (hfits hl).2]
    exact ⟨rfl, rfl⟩

/-! Commands that post to the mailbox (R22). -/

/-- With room in the mailbox the command is posted and the descriptor waits for its boundary. -/
theorem post_room {s : State} (h : s.mailRoom) (cmd : MailCmd) (ord : Option Nat) : post cmd ord s = some (s.posted cmd ord) := by
  obtain ⟨hlen, hconv⟩ := h
  exact if_pos (by rw [decide_eq_true hlen, hconv]; rfl)
/-- A full mailbox takes nothing. -/
theorem post_full {s : State} (h : s.damper.mailbox.length = 64) (cmd : MailCmd) (ord : Option Nat) : post cmd ord s = none := by
  unfold post
  rw [if_neg (by rw [h]; simp)]

theorem postFor_room {s : State} (h : s.mailRoom) {ord : Nat} {d : Inflight} (hd : s.flight ord = some d) (cmd : MailCmd) :
    postFor d cmd s = (s.posted cmd (some ord)).setPhase ord .posted := by
  unfold postFor
  rw [State.flight_ord hd, post_room h]
theorem postFor_full {s : State} (h : s.damper.mailbox.length = 64) (d : Inflight) (cmd : MailCmd) : postFor d cmd s = s := by
  unfold postFor
  rw [post_full h]

/-- Settles O27: a command is posted where the mailbox has room and waits where it has none. -/
theorem sessionCommandsPost : Obligations.SessionCommandsPost := by
  unfold Obligations.SessionCommandsPost
  intro s ord d
  have hfull : ∀ (hlen : s.damper.mailbox.length = 64) {op : Nat} (cmd : MailCmd), Starts s ord op d →
      withDescriptor [op] ord s (fun d => postFor d cmd s) = .next s := fun hlen _ cmd h => by
    rw [withDescriptor_starts h, postFor_full hlen]
  refine ⟨fun hroom => ⟨fun h id => ?_, fun h => ?_, fun h => ?_, fun h => ?_, fun h => ?_, fun h => ?_, fun h hlayer => ?_⟩,
    fun hlen => ⟨fun h id => ?_, ?_⟩, fun h => withBuffer_starts h _⟩
  · exact (withBuffer_starts h _).trans (congrArg _ (postFor_room hroom h.flight _))
  iterate 5 exact (withDescriptor_starts h _).trans (congrArg _ (postFor_room hroom h.flight _))
  · refine (withDescriptor_starts h _).trans ?_
    rw [if_neg (not_not_intro hlayer), post_room hroom]
    rfl
  · exact (withBuffer_starts h _).trans (congrArg _ (postFor_full hlen _ _))
  · simp only [List.forall_mem_cons]
    refine ⟨?_, ?_, ?_, ?_, ?_, ?_, by simp⟩
    iterate 5 exact fun h => (withDescriptor_starts h _).trans (congrArg _ (postFor_full hlen _ _))
    intro h
    refine (withDescriptor_starts h _).trans ?_
    rw [post_full hlen]
    split <;> rfl

/-! Fuses and measurement registers. -/

/-- What refuses a request to program a fuse word. -/
theorem fuseRefused_iff (s : State) (a : Nat) (x : Word) : fuseRefused s a x = true ↔
    sealState s = .sealed ∨ s.trust.program.isSome = true ∨ 18 < a ∨ (a = 18 ∧ bitOf x 0 = true ∧ sealState s = .openState) := by
  simp only [fuseRefused, isSealed, Bool.or_eq_true, Bool.and_eq_true, beq_iff_eq, decide_eq_true_eq, or_assoc, and_assoc]

/-- A command of SEAL acts where SEAL runs. -/
theorem sealWrite_running {s : State} (h : s.running Isl.seal = true) (f : State → State) : sealWrite s f = .next (f s) := by
  rw [sealWrite, if_pos h]

/-- Settles O42: each clause is one branch of its command. -/
theorem fusesAndRegisters : Obligations.FusesAndRegisters := by
  unfold Obligations.FusesAndRegisters
  refine ⟨fun v s a x hrun ha hx => ?_, fun s w x h => ?_, fun s h => ?_⟩
  · subst ha hx
    have hprog : exec (.fuseProgram v) s = _ := show execFuseProgram v s = _ from sealWrite_running hrun _
    have hext : exec (.extend v) s = _ := show execExtend v s = _ from sealWrite_running hrun _
    refine ⟨fun h => by rw [hprog, if_pos h], fun hgo hkey => ?_, fun h => by rw [hext, if_pos h], fun hgo => ?_⟩
    · have hon : ¬ (bitOf v 0 = false ∨ fieldOf v 31 16 ≠ 0xF05E) := by
        rw [hgo]
        simp [hkey]
      rw [hprog, if_neg hon]
      refine ⟨fun hns hfree hle hlast => ?_, fun h => ?_⟩
      · have hok : ¬ fuseRefused s (s.fld 0x31004 4 0) (s.reg 0x31008) = true := by
          rw [fuseRefused_iff]
          rintro (h | h | h | ⟨h1, h2, h3⟩)
          · exact hns h
          · rw [hfree] at h; exact absurd h (by decide)
          · omega
          · exact absurd ((hlast h1 h2).symm.trans h3) (by decide)
        exact congrArg _ (if_neg hok)
      · exact (congrArg _ (if_pos ((fuseRefused_iff ..).mpr h))).trans rfl
    · rw [hext, if_neg (by rw [hgo]; decide)]
      refine ⟨fun h => (congrArg _ (if_neg (by omega))).trans rfl, ?_⟩
      rintro n rfl h
      refine (congrArg _ (if_pos h)).trans ?_
      rw [setMreg, if_neg (by omega)]
      rfl
  · change execFuseProgramComplete s = _
    rw [execFuseProgramComplete, h]
  · change execFuseProgramComplete s = _
    rw [execFuseProgramComplete, h]

end Sys2Proof.Machine

/-! The state of the PCIe link, and replies that waited for it (R250, R251, R291; log entry 122). -/

namespace Sys2Proof.Machine

/-! Replies that wait. -/

/-- Descriptor `ord` waits for nothing: it is not in flight, or it has finished. -/
def Settled (ord : Nat) (s : State) : Prop := ∀ d, s.flight ord = some d → d.phase.isDone = true

theorem Settled.congr {ord : Nat} {s t : State} (h : t.host.inflight = s.host.inflight) (hs : Settled ord s) : Settled ord t :=
  fun d hd => hs d ((State.flight_congr h ord).symm.trans hd)

/-- A descriptor that is finished waits for nothing. -/
theorem settled_finish (s : State) (ord status detail : Nat) (r : List Byte) : Settled ord (s.finish ord status detail r) := by
  intro d hd
  cases he : s.flight ord with
  | none =>
    rw [State.finish, flight_setPhase_same, he] at hd
    cases hd
  | some e =>
    cases hp : e.phase.isDone with
    | true =>
      rw [State.flight_finish_done he hp] at hd
      obtain rfl := Option.some.inj hd
      exact hp
    | false =>
      rw [State.flight_finish he hp] at hd
      obtain rfl := Option.some.inj hd
      rfl

/-- Finishing one descriptor leaves every other's state as it is. -/
theorem Settled.finish {o : Nat} {s : State} (h : Settled o s) (ord status detail : Nat) (r : List Byte) :
    Settled o (s.finish ord status detail r) := by
  by_cases ho : o = ord
  · rw [ho]
    exact settled_finish s ord status detail r
  · intro d hd
    rw [State.flight_finish_other s ho] at hd
    exact h d hd

/-- A reply that waited finishes its descriptor, and leaves the link and the replies that wait as they were. -/
theorem payReply_spec (s : State) (w : OwedReply) : Settled w.ord (payReply s w) ∧
    (∀ o, Settled o s → Settled o (payReply s w)) ∧
    (payReply s w).link = s.link ∧ (payReply s w).host.linkUp = s.host.linkUp ∧
    (payReply s w).host.busMaster = s.host.busMaster := by
  unfold payReply
  split
  next h => exact ⟨fun d hd => absurd (hd.symm.trans (Option.isNone_iff_eq_none.mp h)) nofun, fun _ ho => ho, rfl, rfl, rfl⟩
  next =>
    extract_lets rst t
    split
    · have hin : (t.dmaWrite w.addr w.data).host.inflight = s.host.inflight := rfl
      exact ⟨settled_finish _ _ _ _ _, fun o ho => (ho.congr hin).finish _ _ _ _, rfl, rfl, rfl⟩
    · rw [bufferError, State.finishFail]
      obtain ⟨f, e, m, p, h, r, c, he⟩ := transferError_eq 4 ((t.flight w.ord).map Inflight.sq |>.getD 0) t
      rw [he]
      exact ⟨settled_finish _ _ _ _ _, fun o ho => Settled.finish (ho.congr (s := s) rfl) _ _ _ _, rfl, rfl, rfl⟩

/-- Once the replies of a list have been paid, their descriptors wait for nothing. -/
theorem foldl_payReply_spec (l : List OwedReply) : ∀ s : State, (∀ w ∈ l, Settled w.ord (l.foldl payReply s)) ∧
    (∀ o, Settled o s → Settled o (l.foldl payReply s)) ∧
    (l.foldl payReply s).link = s.link ∧ (l.foldl payReply s).host.linkUp = s.host.linkUp ∧
    (l.foldl payReply s).host.busMaster = s.host.busMaster := by
  induction l with
  | nil => exact fun s => ⟨nofun, fun _ h => h, rfl, rfl, rfl⟩
  | cons w l ih =>
    intro s
    obtain ⟨hown, hother, hlink, hup, hbm⟩ := payReply_spec s w
    obtain ⟨hrest, hkept, hlink', hup', hbm'⟩ := ih (payReply s w)
    refine ⟨fun x hx => ?_, fun o ho => hkept o (hother o ho), hlink'.trans hlink, hup'.trans hup, hbm'.trans hbm⟩
    rcases List.mem_cons.mp hx with rfl | hx
    · exact hkept _ hown
    · exact hrest x hx

/-- With no reply waiting nothing is paid. -/
theorem payOwed_none {s : State} (h : s.link.owed = []) : payOwed s = s := by
  unfold payOwed
  split
  · rw [h, List.foldl_nil, ← h]
  · rfl

/-- Where the device may issue requests, every reply that waited is paid. -/
theorem payOwed_paid {s : State} (h : canDma s = true) : (payOwed s).link.owed = [] ∧
    (payOwed s).host.linkUp = s.host.linkUp ∧ (payOwed s).host.busMaster = s.host.busMaster ∧
    ∀ w ∈ s.link.owed, Settled w.ord (payOwed s) := by
  unfold payOwed
  rw [if_pos h]
  obtain ⟨hpaid, -, hlink, hup, hbm⟩ := foldl_payReply_spec s.link.owed { s with link := { s.link with owed := [] } }
  exact ⟨by rw [hlink], hup, hbm, hpaid⟩

/-! The commands. -/

/-- PCIE_LINK_UP of a link that was down. -/
theorem exec_pcieLinkUp {speed width : Nat} {s u : State} (hrun : s.running Isl.host = true) (hdown : s.host.linkUp = false)
    (hu : u = { s with host := { s.host with linkUp := true, speed := speed, width := width, faultHeld := false },
                       clk := { s.clk with pcie := true } }) :
    exec (.pcieLinkUp speed width) s =
      .next (payOwed (if s.host.faultHeld then u.raiseVector (s.fld 0x401C 7 4) else u)) := by
  subst hu
  exact if_pos ⟨hrun, hdown⟩

/-- While the device may not issue requests no vector is sent. -/
theorem flushVectors_masked {u : State} (h : u.host.busMaster = false) : flushVectors u = u := by
  have hm : ∀ v, u.masked v = true := fun v => by simp [State.masked, h]
  obtain ⟨hframe, hsent, hpba⟩ := flushVectors_sends u
  have hnone : ((List.range 16).filter fun v => u.host.pba.testBit v && !(u.masked v)) = [] :=
    List.filter_eq_nil_iff.mpr fun v _ => by simp [hm]
  have hsame : (flushVectors u).host.pba = u.host.pba := Nat.eq_of_testBit_eq fun v => by
    rw [hpba, hm, Bool.or_true, Bool.and_true]
  rw [hframe, hsent, hnone, hsame]
  rfl

/-- Settles O22: the link, Bus Master Enable and D3hot are set, vectors follow the mask, and waiting replies are paid. -/
theorem pcieState : Obligations.PcieState := by
  unfold Obligations.PcieState
  refine ⟨fun speed width s u hrun hu => ⟨fun hup => ?_, fun hdown hno => ?_, fun hdown hbm => ?_⟩, fun s => rfl,
    fun on s hrun => if_pos hrun, fun s hrun => ?_⟩
  · exact if_neg fun h => by rw [hup] at h; exact Bool.false_ne_true h.2.symm
  · have hexec := exec_pcieLinkUp hrun hdown hu
    refine ⟨fun hheld => ?_, fun hheld => ⟨_, hexec, ?_⟩⟩
    · rw [hexec, hheld, if_neg Bool.false_ne_true, payOwed_none (by rw [hu]; exact hno)]
    · have heq := State.raiseVector_eq u (s.fld 0x401C 7 4)
      rw [hheld, if_pos rfl, payOwed_none (by rw [heq, hu]; exact hno)]
      exact ⟨State.raiseVector_raised u _, heq⟩
  · obtain ⟨x, hx, hlink, hhost⟩ : ∃ x, (if s.host.faultHeld then u.raiseVector (s.fld 0x401C 7 4) else u) = x ∧
        x.link = s.link ∧ (x.host.linkUp = true ∧ x.host.busMaster = true ∧ x.running Isl.host = true) := by
      refine ⟨_, rfl, ?_⟩
      rw [State.raiseVector_eq]
      split <;> rw [hu] <;> exact ⟨rfl, rfl, hbm, hrun⟩
    obtain ⟨hup, hmaster, hrun'⟩ := hhost
    obtain ⟨howed, hup', -, hpaid⟩ := payOwed_paid (s := x) (by rw [canDma, hrun', hup, hmaster]; rfl)
    refine ⟨payOwed x, by rw [exec_pcieLinkUp hrun hdown hu, hx], hup'.trans hup, howed, ?_⟩
    rw [← hlink]
    exact hpaid
  · have hexec : ∀ on, exec (.busMasterEnable on) s =
        .next (payOwed (flushVectors { s with host := { s.host with busMaster := on } })) := fun _ => if_pos hrun
    refine ⟨?_, fun hno => ?_, fun hup => ?_⟩
    · rw [hexec, flushVectors_masked rfl]
      exact congrArg _ (if_neg (by simp [canDma]))
    · have hsends := flushVectors_sends { s with host := { s.host with busMaster := true } }
      refine ⟨_, hexec true, ?_⟩
      rw [payOwed_none (by rw [hsends.1]; exact hno)]
      exact hsends
    · obtain ⟨hframe, -⟩ := flushVectors_sends { s with host := { s.host with busMaster := true } }
      have hlink : (flushVectors { s with host := { s.host with busMaster := true } }).link = s.link := by rw [hframe]
      have hbm : (flushVectors { s with host := { s.host with busMaster := true } }).host.busMaster = true := by rw [hframe]
      have hdma : canDma (flushVectors { s with host := { s.host with busMaster := true } }) = true := by
        rw [hframe]
        exact (congrArg₂ _ (congrArg₂ _ hrun hup) rfl :)
      obtain ⟨howed, -, hbm', hpaid⟩ := payOwed_paid hdma
      rw [hlink] at hpaid
      exact ⟨_, hexec true, hbm'.trans hbm, howed, hpaid⟩

end Sys2Proof.Machine

/-! The loader window (R359, R364; log entry 102). -/

namespace Sys2Proof.Machine

/-! The window's commands. -/

section
variable {s : State} (hrun : s.running Isl.sys = true)
include hrun

/-- While the loader is taken by another side the window's commands do nothing. -/
theorem window_taken (h : s.fw.win.taken false = true) (v : Word) :
    exec (.begin v) s = .next s ∧ exec (.fwupdWinData v) s = .next s ∧ exec .endWindow s = .next s :=
  ⟨if_pos (.inr (.inr h)), if_pos (.inr h), (if_pos hrun).trans (congrArg _ (if_pos h))⟩

variable (hfree : s.fw.win.taken false = false)
include hfree

theorem exec_begin {v : Word} (hv : bitOf v 2 = true) : exec (.begin v) s =
    if !(windowMode s) then .next (s.updWin fun w => { w with result := 0x01 })
    else .next (if bitOf v 3 then windowEnd (s.updWin fun _ => Loader.begin (fieldOf v 1 0) (4 * fieldOf v 28 5) false)
      else s.updWin fun _ => Loader.begin (fieldOf v 1 0) (4 * fieldOf v 28 5) false) :=
  if_neg (by rw [hrun, hv, hfree]; decide)

theorem exec_fwupdWinData (v : Word) : exec (.fwupdWinData v) s = .next (s.updWin fun w =>
    if w.isOpen && decide (w.data.length + 4 ≤ w.total) then { w with data := w.data ++ leBytes 4 v.toNat }
    else { w with bad := true }) :=
  if_neg (by rw [hrun, hfree]; decide)

theorem exec_endWindow : exec .endWindow s = .next (
    if !(windowMode s) then s.updWin fun w => { w with result := 0x01 }
    else if s.fw.win.isOpen then endLoad s else s.updWin fun w => { w with bad := false, result := 0x02 }) :=
  (if_pos hrun).trans (congrArg _ (if_neg (by rw [hfree]; decide)))
end

/-- The end of the data begins the verification, or leaves RESULT 2. -/
theorem endLoad_eq (s : State) : endLoad s = s.updWin fun w =>
    if w.bad = true ∨ w.data.length ≠ w.total then { w with isOpen := false, bad := false, result := 0x02 }
    else { w with isOpen := false, busy := true } := by
  simp only [endLoad, Bool.or_eq_true, bne_iff_ne]

/-- The mode does not depend on the window. -/
theorem windowMode_updWin (s : State) (f : Loader → Loader) : windowMode (s.updWin f) = windowMode s := rfl

/-- END beside BEGIN ends the transfer that it opens. -/
theorem windowEnd_begun {s : State} (hm : windowMode s = true) (layer total : Nat) :
    windowEnd (s.updWin fun _ => Loader.begin layer total false) = s.updWin fun _ =>
      if total = 0 then { Loader.begin layer total false with isOpen := false, busy := true }
      else { Loader.begin layer total false with isOpen := false, result := 2 } := by
  have hmode : ¬ (!(windowMode (s.updWin fun _ => Loader.begin layer total false))) = true := by
    rw [windowMode_updWin, hm]
    decide
  rw [windowEnd, if_neg (by simp [State.updWin, Loader.begin, Loader.taken]), if_neg hmode,
    if_pos (show (s.updWin fun _ => Loader.begin layer total false).fw.win.isOpen = true from rfl), endLoad_eq]
  by_cases ht : total = 0
  · subst ht
    rfl
  · have hlen : (Loader.begin layer total false).bad = true ∨
        (Loader.begin layer total false).data.length ≠ (Loader.begin layer total false).total := .inr (Ne.symm ht)
    rw [if_neg ht]
    exact congrArg (fun w : Loader => { s with fw := { s.fw with win := w } }) (if_pos hlen)

/-! Verification. -/

/-- What the loader leaves of an item: nothing changes where it fails; host load keeps it, and recovery has it written. -/
structure LoadOutcome (s : State) (layer : Nat) (bs : List Byte) (out : State × Nat) : Prop where
  aud : out.1.aud = s.aud
  win : out.1.fw.win = s.fw.win
  failed : out.2 ≠ 0 → out.2 ≠ 8 → out.1 = s
  held : out.2 = 0 → hostLoading s = true → out.1.fw.flash = s.fw.flash ∧ out.1.rtc = s.rtc ∧
    (layer = 1 → out.1.fw.hostMet = some bs) ∧ (layer = 2 → out.1.fw.hostCtl = some bs) ∧
    (layer = 3 → out.1.fw.hostImage = some ⟨Memory.ofBytes bs, bs.length⟩)
  written : out.2 = 0 → hostLoading s = false → out.1.rtc = { s.rtc with starts := 0 } ∧ (layer = 1 ∨ layer = 2 →
    activeSlot out.1 layer = (!(activeSlot s layer)) ∧ slotState out.1 layer (!(activeSlot s layer)) = 1 ∧
    layerTrial out.1 layer = false)

/-- An item refused changes nothing. -/
theorem LoadOutcome.refused (s : State) (layer : Nat) (bs : List Byte) {r : Nat} (h : r ≠ 0) : LoadOutcome s layer bs (s, r) :=
  ⟨rfl, rfl, fun _ _ => rfl, fun h0 => absurd h0 h, fun h0 => absurd h0 h⟩

/-- An item fits its slot. -/
theorem loadedItem_length {w : Loader} {bs : List Byte} (h : loadedItem w = some bs) : bs.length ≤ slotSize w.layer := by
  unfold loadedItem at h
  dsimp only at h
  split at h
  next hfits =>
    obtain rfl := Option.some.inj h
    exact (List.length_take_le _ _).trans hfits.2.2
  next => cases h

/-- RESULT for an image. -/
def imageResult (s : State) (bs back : List Byte) : Nat :=
  if (admission s ⟨Memory.ofBytes bs, bs.length⟩).isSome then 9 else if hostLoading s then 0 else
    if padTo bs.length back = bs then 0 else 8
/-- RESULT for a layer. -/
def layerResult (s : State) (layer : Nat) (bs back : List Byte) : Nat :=
  if layer = 0 then 3 else if verifyStep s layer bs ≠ 0 then 2 + verifyStep s layer bs else
    if hostLoading s then 0 else if verifyStep s layer (padTo bs.length back) = 0 then 0 else 8

theorem setImageSlot_frame (b : Bool) (s : State) : ∃ m, setImageSlot b s = { s with fw := { s.fw with flash := m } } :=
  ⟨_, by rw [setImageSlot, writeBoot]⟩

theorem loadImage_spec (bs back : List Byte) (s : State) :
    (loadImage bs back s).2 = imageResult s bs back ∧ LoadOutcome s 3 bs (loadImage bs back s) := by
  unfold loadImage imageResult
  extract_lets g fw b copy t
  by_cases hadm : (admission s g).isSome = true
  · rw [if_pos hadm, if_pos hadm]
    exact ⟨rfl, .refused _ _ _ (by decide)⟩
  · rw [if_neg hadm, if_neg hadm]
    by_cases hhost : hostLoading s = true
    · rw [if_pos hhost, if_pos hhost]
      exact ⟨rfl, rfl, rfl, fun h => absurd rfl h, fun _ _ => ⟨rfl, rfl, nofun, nofun, fun _ => rfl⟩,
        fun _ h => absurd hhost (by rw [h]; decide)⟩
    · rw [if_neg hhost, if_neg hhost]
      obtain ⟨m, hm⟩ := setImageSlot_frame b t
      by_cases hcopy : copy = bs
      · rw [if_pos hcopy, if_pos hcopy, hm]
        exact ⟨rfl, rfl, rfl, fun h => absurd rfl h, fun _ h => absurd h hhost, fun _ _ => ⟨rfl, nofun⟩⟩
      · rw [if_neg hcopy, if_neg hcopy]
        exact ⟨rfl, rfl, rfl, fun _ h => absurd rfl h, nofun, nofun⟩

theorem slotState_congr {s t : State} (h : t.fw.flash = s.fw.flash) (k : Nat) (b : Bool) : slotState t k b = slotState s k b := by
  rw [slotState, layerByte_congr h, ← slotState]

/-- Writing an inactive slot changes only the flash. -/
theorem writtenSlot_frame (layer : Nat) (b : Bool) (st : Nat) (copy : List Byte) (s : State) : ∃ m,
    setSlot layer b st (writeSlot layer b copy (setSlot layer b 3 s)) = { s with fw := { s.fw with flash := m } } := by
  obtain ⟨m1, h1⟩ := setSlot_frame layer b 3 s
  obtain ⟨m2, h2⟩ := setSlot_frame layer b st (writeSlot layer b copy (setSlot layer b 3 s))
  rw [h2, h1]
  exact ⟨m2, rfl⟩

theorem loadLayer_spec {layer : Nat} {bs : List Byte} (back : List Byte) {s : State} (h3 : layer ≠ 3)
    (hsize : bs.length ≤ slotSize layer) (hg : leField (bootBytes s) 4 8 + 3 < 2 ^ 64) :
    (loadLayer layer bs back s).2 = layerResult s layer bs back ∧ LoadOutcome s layer bs (loadLayer layer bs back s) := by
  unfold loadLayer layerResult
  dsimp only
  by_cases h0 : layer = 0
  · rw [if_pos h0, if_pos h0]
    exact ⟨rfl, .refused _ _ _ (by decide)⟩
  rw [if_neg h0, if_neg h0]
  by_cases hv : verifyStep s layer bs ≠ 0
  · rw [if_pos hv, if_pos hv]
    exact ⟨rfl, .refused _ _ _ (by omega)⟩
  rw [if_neg hv, if_neg hv]
  by_cases hhost : hostLoading s = true
  · rw [if_pos hhost, if_pos hhost]
    have hno : hostLoading s ≠ false := by rw [hhost]; decide
    by_cases h1 : layer = 1
    · rw [if_pos h1]
      exact ⟨rfl, rfl, rfl, fun h => absurd rfl h, fun _ _ => ⟨rfl, rfl, fun _ => rfl, by omega, by omega⟩,
        fun _ h => absurd h hno⟩
    · rw [if_neg h1]
      exact ⟨rfl, rfl, rfl, fun h => absurd rfl h, fun _ _ => ⟨rfl, rfl, fun h => absurd h h1, fun _ => rfl, fun h => absurd h h3⟩,
        fun _ h => absurd h hno⟩
  rw [if_neg hhost, if_neg hhost]
  obtain ⟨b, hb⟩ : ∃ b, b = !(activeSlot s layer) := ⟨_, rfl⟩
  rw [writeInactive_eq layer bs back s hb rfl]
  have hlen : (padTo bs.length back).length ≤ slotSize layer := by rw [padTo_length]; exact hsize
  generalize padTo bs.length back = copy at hlen
  by_cases hcopy : verifyStep s layer copy = 0
  · rw [hcopy, if_pos rfl, decide_eq_true rfl, if_pos rfl]
    dsimp only
    obtain ⟨m, hm⟩ := writtenSlot_frame layer b 1 copy s
    generalize ht : setSlot layer b 1 (writeSlot layer b copy (setSlot layer b 3 s)) = t at hm
    obtain ⟨m', hact⟩ := activateSlot_frame layer (!(activeSlot t layer)) false t
    refine ⟨rfl, ?_, ?_, fun h => absurd rfl h, fun _ h => absurd h hhost, fun _ _ => ⟨?_, fun hl => ?_⟩⟩
    · rw [loadDone, hact, hm]
    · rw [loadDone, hact, hm]
    · rw [loadDone, hact, hm]
    · obtain ⟨hst, -⟩ := writeSlot_staged b (by omega) hl (by decide) hlen t ht.symm
      have hgen : leField (bootBytes t) 4 8 + 1 < 2 ^ 64 := by
        have hfirst := bootGen_setSlot layer b 3 s (by omega)
        have hsecond := bootGen_setSlot layer b 1 (writeSlot layer b copy (setSlot layer b 3 s))
          (by rw [bootBytes_writeSlot, hfirst]; omega)
        rw [ht, bootBytes_writeSlot, hfirst] at hsecond
        omega
      obtain ⟨hactive, htrial, hslot, -⟩ := layerByte_activateSlot layer (!(activeSlot t layer)) false t hgen hl
      generalize activateSlot layer (!(activeSlot t layer)) false t = u at hactive htrial hslot
      have hflash : (loadDone u).fw.flash = u.fw.flash := rfl
      rw [activeSlot_congr hflash, slotState_congr hflash, layerTrial_congr hflash, hactive, hslot, htrial, hst.active, ← hb]
      exact ⟨rfl, hst.slot, rfl⟩
  · rw [if_neg hcopy, decide_eq_false hcopy, if_neg hcopy]
    dsimp only
    obtain ⟨m, hm⟩ := writtenSlot_frame layer b 0 copy s
    rw [hm]
    exact ⟨rfl, rfl, rfl, fun _ h => absurd rfl h, nofun, nofun⟩

/-! The settling theorem. -/

/-- What WINDOW_VERIFY_COMPLETE makes of the loader's outcome: BUSY clears, and a waiting LOAD_END has its answer. -/
def answered (out : State × Nat) : State :=
  { out.1 with
    fw := { out.1.fw with win := { out.1.fw.win with busy := false, result := out.2, data := [] } },
    aud := if out.1.aud.pend then { out.1.aud with pend := false, st := .ready (loadCode out.2) (leBytes 1 out.2) } else out.1.aud }

theorem exec_windowVerifyComplete {s : State} (hb : s.fw.win.busy = true) (hs : s.running Isl.seal = true)
    (hm : windowMode s = true) (back : List Byte) : exec (.windowVerifyComplete back) s = .next (answered (runLoaded back s)) := by
  show execWindowVerifyComplete back s = _
  unfold execWindowVerifyComplete
  rw [if_pos (by rw [hb, hs, hm]; decide)]
  unfold answered
  generalize runLoaded back s = out
  obtain ⟨t, r⟩ := out
  dsimp only
  split
  next h => rw [if_pos (by exact h)]; rfl
  next h => rw [if_neg (by exact h)]; rfl

/-- What a loaded item makes of the state, once the loader has answered. -/
theorem LoadOutcome.answered_spec {s : State} {layer : Nat} {bs : List Byte} {out : State × Nat} (h : LoadOutcome s layer bs out) :
    (answered out).fw.win = { s.fw.win with busy := false, result := out.2, data := [] } ∧
    (answered out).aud =
      (if s.aud.pend then { s.aud with pend := false, st := .ready (loadCode out.2) (leBytes 1 out.2) } else s.aud) ∧
    (out.2 ≠ 0 → out.2 ≠ 8 → answered out = { s with fw := { s.fw with win := (answered out).fw.win }, aud := (answered out).aud }) ∧
    (out.2 = 0 →
      (hostLoading s = true → (answered out).fw.flash = s.fw.flash ∧ (answered out).rtc = s.rtc ∧
        (layer = 1 → (answered out).fw.hostMet = some bs) ∧ (layer = 2 → (answered out).fw.hostCtl = some bs) ∧
        (layer = 3 → (answered out).fw.hostImage = some ⟨Memory.ofBytes bs, bs.length⟩)) ∧
      (hostLoading s = false → (answered out).rtc = { s.rtc with starts := 0 } ∧ (layer = 1 ∨ layer = 2 →
        activeSlot (answered out) layer = (!(activeSlot s layer)) ∧
        slotState (answered out) layer (!(activeSlot s layer)) = 1 ∧ layerTrial (answered out) layer = false))) := by
  obtain ⟨haud, hwin, hfailed, hheld, hwritten⟩ := h
  have hflash : (answered out).fw.flash = out.1.fw.flash := rfl
  refine ⟨?_, ?_, fun h0 h8 => ?_, fun h0 => ⟨hheld h0, fun hh => ?_⟩⟩
  · rw [answered, hwin]
  · rw [answered, haud]
  · have := hfailed h0 h8
    obtain ⟨t, r⟩ := out
    obtain rfl : t = s := this
    rfl
  · rw [activeSlot_congr hflash, slotState_congr hflash, layerTrial_congr hflash]
    exact hwritten h0 hh

/-- Settles O43: the window's commands by mode and length, and the loader's outcome by item. -/
theorem loaderWindow : Obligations.LoaderWindow := by
  unfold Obligations.LoaderWindow
  rintro s w hrun rfl
  refine ⟨fun htaken v => window_taken hrun ?_ v, fun hb hopen => ?_, fun hb hs hm hg back r hr => ?_⟩
  · rcases htaken with h | ⟨h1, h2⟩
    · rw [Loader.taken, h, Bool.true_or]
    · rw [Loader.taken, h1, h2, Bool.or_comm]
      rfl
  · have hfree : s.fw.win.taken false = false := by
      rw [Loader.taken, hb, Bool.false_or]
      rcases hopen with h | h <;> rw [h]
      · rfl
      · rw [bne_self_eq_false, Bool.and_false]
    refine ⟨fun v w1 hv hw1 => ?_, fun v => ?_, fun hm => ?_, fun hm => ?_⟩
    · subst hw1
      rw [exec_begin hrun hfree hv]
      refine ⟨fun hm => by rw [hm]; rfl, fun hm => ?_⟩
      rw [hm, if_neg (by decide), windowEnd_begun hm]
      refine ⟨fun hend => ?_, fun hend ht => ?_, fun hend ht => ?_⟩ <;> rw [hend]
      · rfl
      · rw [if_pos rfl, if_pos (by exact ht)]
        rfl
      · rw [if_pos rfl, if_neg (by exact ht)]
        rfl
    · rw [exec_fwupdWinData hrun hfree]
      refine ⟨fun ho hl => ?_, fun h => ?_⟩
      · have hyes : (s.fw.win.isOpen && decide (s.fw.win.data.length + 4 ≤ s.fw.win.total)) = true := by
          rw [ho, decide_eq_true hl]
          rfl
        exact congrArg (fun w : Loader => Host.Outcome.next { s with fw := { s.fw with win := w } }) (if_pos hyes)
      · have hno : ¬ (s.fw.win.isOpen && decide (s.fw.win.data.length + 4 ≤ s.fw.win.total)) = true := by
          rcases h with h | h
          · rw [h, Bool.false_and]
            decide
          · rw [decide_eq_false (Nat.not_le.mpr h), Bool.and_false]
            decide
        exact congrArg (fun w : Loader => Host.Outcome.next { s with fw := { s.fw with win := w } }) (if_neg hno)
    · rw [exec_endWindow hrun hfree, hm]
      rfl
    · rw [exec_endWindow hrun hfree, hm, if_neg (by decide), endLoad_eq]
      refine ⟨fun ho hbad hl => ?_, fun h => ?_⟩
      · have hok : ¬ (s.fw.win.bad = true ∨ s.fw.win.data.length ≠ s.fw.win.total) := by
          rw [hbad]
          simp [hl]
        rw [if_pos ho]
        exact congrArg (fun w : Loader => Host.Outcome.next { s with fw := { s.fw with win := w } }) (if_neg hok)
      · by_cases ho : s.fw.win.isOpen = true
        · rw [if_pos ho]
          exact congrArg (fun w : Loader => Host.Outcome.next { s with fw := { s.fw with win := w } })
            (if_pos (h.resolve_left (by rw [ho]; decide)))
        · rw [if_neg ho]
          have hclosed : s.fw.win.isOpen = false := Bool.eq_false_iff.mpr ho
          rw [State.updWin, ← hclosed]
  · refine ⟨_, exec_windowVerifyComplete hb hs hm back, ?_⟩
    cases hl : loadedItem s.fw.win with
    | none =>
      rw [hl] at hr
      obtain rfl : r = 2 := hr
      have hout : runLoaded back s = (s, 2) := by rw [runLoaded, hl]
      rw [hout]
      obtain ⟨hwin, haud, hfailed, -⟩ := (LoadOutcome.refused s 0 [] (r := 2) (by decide)).answered_spec
      exact ⟨hwin, haud, hfailed, fun h => absurd h (by decide)⟩
    | some bs =>
      rw [hl] at hr
      obtain ⟨hres, hout⟩ : (runLoaded back s).2 = r ∧ LoadOutcome s s.fw.win.layer bs (runLoaded back s) := by
        rw [runLoaded, hl]
        dsimp only at hr ⊢
        by_cases h3 : s.fw.win.layer = 3
        · rw [if_pos h3] at hr ⊢
          rw [hr, h3]
          exact loadImage_spec bs back s
        · rw [if_neg h3] at hr ⊢
          rw [hr]
          exact loadLayer_spec back h3 (loadedItem_length hl) hg
      obtain ⟨hwin, haud, hfailed, htook⟩ := hout.answered_spec
      rw [hres] at hwin haud hfailed htook
      refine ⟨hwin, haud, hfailed, fun h0 b hb => ?_⟩
      obtain rfl := Option.some.inj hb
      exact htook h0

end Sys2Proof.Machine

/-! The auditor port (R298, R360, R361; log entry 102). -/

namespace Sys2Proof.Machine

/-! Requests. -/

/-- The commands that carry a request, each a row of the table of CMD. -/
theorem exec_auditorRequest (req : List Byte) (s : State) : ∀ c ∈ [Instr.ident req, .auditorRead req, .auditorAttest req, .recover req,
    .loadBegin req, .loadData req, .loadEnd req], ∃ cmd ∈ [0x01, 0x02, 0x03, 0x04, 0x10, 0x11, 0x12], ∃ f,
    exec c s = auditorRequest cmd req s f := by
  simp only [List.forall_mem_cons]
  have hload : ∀ cmd f, ∃ g, loadRequest cmd req s f = auditorRequest cmd req s g := fun _ _ => ⟨_, rfl⟩
  refine ⟨⟨0x01, by decide, ?_⟩, ⟨0x02, by decide, ?_⟩, ⟨0x03, by decide, ?_⟩, ⟨0x04, by decide, ?_⟩, ⟨0x10, by decide, ?_⟩,
    ⟨0x11, by decide, ?_⟩, ⟨0x12, by decide, ?_⟩, by simp⟩
  · exact ⟨_, show execIdent req s = _ from rfl⟩
  · exact ⟨_, show execAuditorRead req s = _ from rfl⟩
  · exact ⟨_, show execAuditorAttest req s = _ from rfl⟩
  · show ∃ f, execRecover req s = _
    exact ⟨_, by rw [execRecover]⟩
  · show ∃ f, execLoadBegin req s = _
    rw [execLoadBegin]
    exact hload 0x10 _
  · show ∃ f, execLoadData req s = _
    rw [execLoadData]
    exact hload 0x11 _
  · show ∃ f, execLoadEnd req s = _
    rw [execLoadEnd]
    exact hload 0x12 _

/-- While the port is not idle a request is discarded. -/
theorem auditorRequest_discarded {s : State} (h : s.aud.st ≠ .idle) (cmd : Nat) (req : List Byte)
    (f : List Byte → State → State) : auditorRequest cmd req s f = .next s :=
  if_neg (by simp [h])

section
variable {s : State} {req : List Byte} (hp : portServed s = true) (hi : s.aud.st = .idle) (h5 : leField req 0 1 = 0x5A)
include hp hi h5

/-- The idle port takes a request up. -/
theorem auditorRequest_idle (cmd : Nat) (f : List Byte → State → State) : auditorRequest cmd req s f =
    if !(requestWhole req) then .next (respond 0x03 [] s)
    else if leField req 1 1 = cmd then .next (f (requestPayload req) s)
    else if [0x01, 0x02, 0x03, 0x04, 0x10, 0x11, 0x12].contains (leField req 1 1) then .next s
    else .next (respond 0x01 [] s) :=
  if_pos (by rw [hp, hi, h5]; decide)

theorem auditorRequest_broken (hw : requestWhole req = false) (cmd : Nat) (f : List Byte → State → State) :
    auditorRequest cmd req s f = .next (respond 0x03 [] s) := by
  rw [auditorRequest_idle hp hi h5, hw]
  rfl

theorem auditorRequest_taken (hw : requestWhole req = true) {cmd : Nat} (hc : leField req 1 1 = cmd)
    (f : List Byte → State → State) : auditorRequest cmd req s f = .next (f (requestPayload req) s) := by
  rw [auditorRequest_idle hp hi h5, hw, if_neg (by decide), if_pos hc]

theorem auditorRequest_unknown (hw : requestWhole req = true)
    (hc : leField req 1 1 ∉ [0x01, 0x02, 0x03, 0x04, 0x10, 0x11, 0x12]) {cmd : Nat}
    (hcmd : cmd ∈ [0x01, 0x02, 0x03, 0x04, 0x10, 0x11, 0x12]) (f : List Byte → State → State) :
    auditorRequest cmd req s f = .next (respond 0x01 [] s) := by
  have hother : ¬ leField req 1 1 = cmd := fun h => hc (h ▸ hcmd)
  rw [auditorRequest_idle hp hi h5, hw, if_neg (by decide), if_neg hother, if_neg (by simpa using hc)]

/-- A LOAD command in a mode that takes it. -/
theorem loadRequest_taken (hw : requestWhole req = true) {cmd : Nat} (hc : leField req 1 1 = cmd) (hm : recoveryMode s = true)
    (f : List Byte → State → State) : loadRequest cmd req s f = .next (f (requestPayload req) s) :=
  (auditorRequest_taken hp hi h5 hw hc _).trans (congrArg _ (if_pos hm))
/-- A LOAD command in a mode that takes none. -/
theorem loadRequest_refused (hw : requestWhole req = true) {cmd : Nat} (hc : leField req 1 1 = cmd) (hm : recoveryMode s = false)
    (f : List Byte → State → State) : loadRequest cmd req s f = .next (respond 0x05 [] s) :=
  (auditorRequest_taken hp hi h5 hw hc _).trans (congrArg _ (if_neg (by rw [hm]; decide)))
end

/-- The auditor's end of the data hands the item to verification. -/
theorem endLoad_whole {s : State} (hb : s.fw.win.bad = false) (hl : s.fw.win.data.length = s.fw.win.total) :
    endLoad s = s.updWin fun w => { w with isOpen := false, busy := true } := by
  have hok : ¬ (s.fw.win.bad = true ∨ s.fw.win.data.length ≠ s.fw.win.total) := by
    rw [hb]
    simp [hl]
  rw [endLoad_eq]
  exact congrArg (fun w : Loader => { s with fw := { s.fw with win := w } }) (if_neg hok)
/-- An item of the wrong length is not verified. -/
theorem endLoad_wrong {s : State} (h : s.fw.win.bad = true ∨ s.fw.win.data.length ≠ s.fw.win.total) :
    endLoad s = s.updWin fun w => { w with isOpen := false, bad := false, result := 2 } := by
  rw [endLoad_eq]
  exact congrArg (fun w : Loader => { s with fw := { s.fw with win := w } }) (if_pos h)

/-! Polls. -/

/-- A poll of a served port. -/
theorem exec_auditorPoll {s : State} (hp : portServed s = true) (cut : Bool) : exec (.auditorPoll cut) s =
    if cut then .next { s with aud := { s.aud with out := s.aud.st.shifted.take 1 } }
    else match s.aud.st with
      | .ready _ _ => .next (if s.aud.recover then
          assertSource 14 { s with aud := { s.aud with out := s.aud.st.shifted, st := .idle, recover := false },
                                   rtc := { s.rtc with pilotReq := true } }
        else { s with aud := { s.aud with out := s.aud.st.shifted, st := .idle, recover := false } })
      | _ => .next { s with aud := { s.aud with out := s.aud.st.shifted } } := by
  show execAuditorPoll cut s = _
  rw [execAuditorPoll, hp, if_neg (by decide)]
    <;> rcases s.aud.st with _ | _ | ⟨code, data⟩
    <;> rfl

/-- Settles O44: a request by its CMD and payload, a poll by the state of the port. -/
theorem auditorPort : Obligations.AuditorPort := by
  unfold Obligations.AuditorPort
  refine fun s hp => ⟨fun req p h5 hpay => ⟨fun hst c hc => ?_, fun hi bad hbad => ⟨fun hw c hc => ?_, fun hw hcmd c hc => ?_,
    fun hw => ⟨fun hcmd => ?_, fun hcmd a n ha hn => ?_, fun hcmd => ?_, fun hcmd => ?_, fun hm c hc => ?_,
      fun hm w hwin => ⟨fun hcmd => ?_, fun hcmd off b hoff hb => ?_, fun hcmd => ?_⟩⟩⟩⟩, fun code data out hst hout => ?_, fun hst => ?_,
      fun hst => ?_⟩
  · obtain ⟨cmd, -, f, hf⟩ := exec_auditorRequest req s c hc
    rw [hf, auditorRequest_discarded hst]
  · obtain ⟨cmd, -, f, hf⟩ := exec_auditorRequest req s c hc
    rw [hf, auditorRequest_broken hp hi h5 hw]
    rfl
  · obtain ⟨cmd, hmem, f, hf⟩ := exec_auditorRequest req s c hc
    rw [hf, auditorRequest_unknown hp hi h5 hw hcmd hmem]
    rfl
  · have hexec : exec (.ident req) s = _ := show execIdent req s = _ from auditorRequest_taken hp hi h5 hw hcmd _
    rw [hexec, ← hpay]
    refine ⟨fun h => ?_, fun h => ?_⟩
    · rw [hbad]
      exact congrArg _ (if_neg (by simpa using h))
    · exact congrArg _ (if_pos (by rw [h]; rfl))
  · have hexec : exec (.auditorRead req) s = _ := show execAuditorRead req s = _ from auditorRequest_taken hp hi h5 hw hcmd _
    rw [hexec, ← hpay, hbad, ha, hn]
    exact ⟨fun h1 h2 h3 h4 => congrArg _ (if_pos ⟨h1, h2, h3, h4⟩), fun h => congrArg _ (if_neg (by omega))⟩
  · have hexec : exec (.auditorAttest req) s = _ := show execAuditorAttest req s = _ from auditorRequest_taken hp hi h5 hw hcmd _
    rw [hexec, ← hpay, hbad]
    refine ⟨fun hs hl => ?_, fun hs hl => ?_, fun hs => congrArg _ (if_pos hs)⟩
    · exact congrArg _ ((if_neg (by rw [hs]; decide)).trans (if_pos hl))
    · exact congrArg _ ((if_neg (by rw [hs]; decide)).trans (if_neg hl))
  · have hexec : exec (.recover req) s = _ := show execRecover req s = _ from auditorRequest_taken hp hi h5 hw hcmd _
    rw [hexec, ← hpay, hbad]
    exact ⟨fun h => congrArg _ (if_pos h), fun h => congrArg _ (if_neg h)⟩
  · rcases hc with ⟨hcmd, rfl⟩ | ⟨hcmd, rfl⟩ | ⟨hcmd, rfl⟩
    · exact show execLoadBegin req s = _ from loadRequest_refused hp hi h5 hw hcmd hm _
    · exact show execLoadData req s = _ from loadRequest_refused hp hi h5 hw hcmd hm _
    · exact show execLoadEnd req s = _ from loadRequest_refused hp hi h5 hw hcmd hm _
  · have hexec : exec (.loadBegin req) s = _ := show execLoadBegin req s = _ from loadRequest_taken hp hi h5 hw hcmd hm _
    rw [hexec, ← hpay, hbad, hwin]
    refine ⟨fun h1 h2 h3 hbusy hopen => ?_, fun h => ?_⟩
    · have hfree : s.fw.win.taken true = false := by
        rw [Loader.taken, hbusy]
        rcases hopen with h | h <;> simp [h]
      exact congrArg _ (if_pos ⟨h1, h2, h3, hfree⟩)
    · refine congrArg _ (if_neg ?_)
      rintro ⟨h1, h2, h3, h4⟩
      rcases h with h | h | h | h | ⟨h, h'⟩
      · exact h h1
      · omega
      · omega
      · rw [Loader.taken, h, Bool.true_or] at h4
        cases h4
      · rw [Loader.taken, h, h', Bool.or_comm] at h4
        cases h4
  · have hexec : exec (.loadData req) s = _ := show execLoadData req s = _ from loadRequest_taken hp hi h5 hw hcmd hm _
    rw [hexec, ← hpay, hbad, hwin, hoff, hb]
    refine ⟨fun h1 h2 h3 h4 h5 h6 => congrArg _ (if_pos ⟨h1, h2, h3, h4, h5, h6⟩), fun h => ?_⟩
    refine congrArg _ (if_neg ?_)
    rintro ⟨h1, h2, h3, h4, h5, h6⟩
    rcases h with h | h | h | h | h | h
    · omega
    · omega
    · rw [h] at h3
      cases h3
    · rw [h] at h4
      cases h4
    · omega
    · omega
  · have hexec : exec (.loadEnd req) s = _ := show execLoadEnd req s = _ from loadRequest_taken hp hi h5 hw hcmd hm _
    rw [hexec, ← hpay, hbad, hwin]
    refine ⟨fun h => ?_, fun hnil ho haud => ⟨fun hb hl => ?_, fun hbusy h => ?_⟩⟩
    · refine congrArg _ (if_neg ?_)
      rw [Bool.and_eq_true, Bool.and_eq_true, List.isEmpty_iff]
      rintro ⟨⟨h1, h2⟩, h3⟩
      rcases h with h | h | h
      · exact h h1
      · rw [h] at h2
        cases h2
      · rw [h] at h3
        cases h3
    · refine congrArg _ ((if_pos (by rw [hnil, ho, haud]; rfl)).trans ?_)
      dsimp only
      rw [endLoad_whole hb hl]
      rfl
    · refine congrArg _ ((if_pos (by rw [hnil, ho, haud]; rfl)).trans ?_)
      dsimp only
      rw [endLoad_wrong h, if_neg (by exact Bool.eq_false_iff.mp hbusy)]
      rfl
  · have hshift : s.aud.st.shifted = out := by
      rw [hst, hout]
      rfl
    rw [exec_auditorPoll hp, exec_auditorPoll hp, hshift, if_pos rfl, if_neg Bool.false_ne_true, hst]
    exact ⟨rfl, fun hr => by rw [hr]; rfl, fun hr => by rw [hr]; rfl⟩
  · rw [exec_auditorPoll hp, if_neg Bool.false_ne_true, hst]
    rfl
  · rw [exec_auditorPoll hp, if_neg Bool.false_ne_true, hst]
    rfl

end Sys2Proof.Machine

/-! What the work of a frame and the end of a beat leave of the state. -/

namespace Sys2Proof.Machine

/-- The parts of the state that the work of the hearths, the flue, METRO and the spectral engine leaves alone. -/
def State.beyond (s : State) : List Instr × Option Word × Damper × Ember × HostIf × Faults × ResetCtl × Clocks × Rtc × Seal × Firmware ×
    Auditor × Link × Mantel × Dram × Pins :=
  (s.pending, s.energyHi, s.damper, s.ember, s.host, s.fault, s.rst, s.clk, s.rtc, s.trust, s.fw, s.aud, s.link, s.mantel, s.dram, s.pins)

@[simp] theorem State.beyond_mk (pending regs hearth flue chain window evals point energyHi pulse spectral events damper session ember host
    fault rst clk rtc trust fw aud link mantel dram pins) :
    State.beyond (State.mk pending regs hearth flue chain window evals point energyHi pulse spectral events damper session ember host
      fault rst clk rtc trust fw aud link mantel dram pins) =
    (pending, energyHi, damper, ember, host, fault, rst, clk, rtc, trust, fw, aud, link, mantel, dram, pins) := rfl
@[simp] theorem State.beyond_parts (s : State) : (s.pending, s.energyHi, s.damper, s.ember, s.host, s.fault, s.rst, s.clk, s.rtc,
    s.trust, s.fw, s.aud, s.link, s.mantel, s.dram, s.pins) = s.beyond := rfl
@[simp] theorem State.beyond_ite {c : Prop} [Decidable c] (s t : State) :
    (if c then s else t).beyond = if c then s.beyond else t.beyond := apply_ite State.beyond c s t
@[simp] theorem State.foldl_beyond {α : Type} {f : State → α → State} (hf : ∀ s a, (f s a).beyond = s.beyond) (l : List α) (s : State) :
    (l.foldl f s).beyond = s.beyond := State.foldl_part _ hf l s

section
variable (s : State)
@[simp] theorem State.setReg_beyond (a : Nat) (v : Word) : (s.setReg a v).beyond = s.beyond := rfl
@[simp] theorem State.setBits_beyond (a : Nat) (m : Word) : (s.setBits a m).beyond = s.beyond := rfl
@[simp] theorem State.setFlag_beyond (a i : Nat) : (s.setFlag a i).beyond = s.beyond := rfl
@[simp] theorem State.updHearth_beyond (h : Nat) (f : Hearth → Hearth) : (s.updHearth h f).beyond = s.beyond := rfl
@[simp] theorem State.updFlue_beyond (h : Nat) (f : Flue → Flue) : (s.updFlue h f).beyond = s.beyond := rfl
@[simp] theorem State.updChain_beyond (i : Nat) (f : Chain → Chain) : (s.updChain i f).beyond = s.beyond := rfl
@[simp] theorem State.updPoint_beyond (p : Nat) (f : Point → Point) : (s.updPoint p f).beyond = s.beyond := rfl
@[simp] theorem State.updSession_beyond (k : Nat) (f : Session → Session) : (s.updSession k f).beyond = s.beyond := rfl
@[simp] theorem State.updPulse_beyond (c : Nat) (f : Pulse → Pulse) : (s.updPulse c f).beyond = s.beyond := rfl
@[simp] theorem State.updHarm_beyond (ch : Nat) (f : HarmChan → HarmChan) : (s.updHarm ch f).beyond = s.beyond := rfl
@[simp] theorem State.updEvents_beyond (p : Nat) (f : PointEvents → PointEvents) : (s.updEvents p f).beyond = s.beyond := rfl
end

/-! The hearths and the flue. -/

@[simp] theorem markOver_beyond (h i : Nat) (s : State) : (markOver h i s).beyond = s.beyond := by
  unfold markOver
  dsimp only
  split <;> simp
@[simp] theorem overFrame_beyond (h : Nat) (s : State) : (overFrame h s).beyond = s.beyond := by
  simp [overFrame]
@[simp] theorem clampInput_beyond (h i : Nat) (s : State) : (clampInput h i s).beyond = s.beyond := by
  simp [clampInput]
@[simp] theorem flueFrame_beyond (h : Nat) (s : State) : (flueFrame h s).beyond = s.beyond := by
  simp [flueFrame]
@[simp] theorem engineStart_beyond (h : Nat) (s : State) : (engineStart h s).beyond = s.beyond := by
  unfold engineStart
  rw [State.foldl_beyond fun s i => State.updChain_beyond s _ _, State.updFlue_beyond]
@[simp] theorem chainStart_beyond (i : Nat) (s : State) : (chainStart i s).beyond = s.beyond := rfl
@[simp] theorem frameFields_beyond (s : State) : (frameFields s).beyond = s.beyond := by
  simp [frameFields]
@[simp] theorem frameClamps_beyond (fc : FrameCodes) (h : Nat) (s : State) : (frameClamps fc h s).beyond = s.beyond := by
  simp [frameClamps]
@[simp] theorem frameWitness_beyond (fc : FrameCodes) (h : Nat) (s : State) : (frameWitness fc h s).beyond = s.beyond := by
  unfold frameWitness
  dsimp only
  split <;> simp
@[simp] theorem frameChain_beyond (fc : FrameCodes) (f h : Nat) (s : State) (i : Nat) : (frameChain fc f h s i).beyond = s.beyond := by
  simp [frameChain]
@[simp] theorem frameHearth_beyond (fc : FrameCodes) (f : Nat) (s : State) (h : Nat) : (frameHearth fc f s h).beyond = s.beyond := by
  simp [frameHearth]
@[simp] theorem frameTracker_beyond (w : Nat) (s : State) (t : Nat) : (frameTracker w s t).beyond = s.beyond := by
  unfold frameTracker
  split <;> simp

/-! Events. -/

@[simp] theorem flagOpen_beyond (p code : Nat) (s : State) : (flagOpen p code s).beyond = s.beyond := by
  unfold flagOpen
  split <;> simp
@[simp] theorem addEntry_beyond (e : EventEntry) (s : State) : (addEntry e s).beyond = s.beyond := rfl
@[simp] theorem declare_beyond (p code kind : Nat) (d : Detector) (ts pos : Nat) (s : State) :
    (declare p code kind d ts pos s).beyond = s.beyond := by
  simp [declare]
@[simp] theorem runDetector_beyond (p code minStart minEnd : Nat) (hit clear : Bool) (onset ts : Nat) (value : Rat)
    (pick : Rat → Rat → Rat) (pos : Nat) (s : State) :
    (runDetector p code minStart minEnd hit clear onset ts value pick pos s).beyond = s.beyond := by
  unfold runDetector
  dsimp only
  split <;> simp
@[simp] theorem scheduleUrms_beyond (w : Nat) (s : State) (p : Nat) : (scheduleUrms w s p).beyond = s.beyond := by
  simp [scheduleUrms]
@[simp] theorem noteSample_beyond (f : Nat) (s : State) (p : Nat) : (noteSample f s p).beyond = s.beyond := by
  unfold noteSample
  split <;> simp
@[simp] theorem judgeFreq_beyond (ts : Nat) (f : Rat) (locked : Bool) (s : State) (p : Nat) :
    (judgeFreq ts f locked s p).beyond = s.beyond := by
  simp [judgeFreq]
@[simp] theorem nominalTick_beyond (w : Nat) (s : State) (p : Nat) : (nominalTick w s p).beyond = s.beyond := by
  simp [nominalTick]
@[simp] theorem overrangeWide_beyond (w : Nat) (s : State) (p : Nat) : (overrangeWide w s p).beyond = s.beyond := by
  simp [overrangeWide]
@[simp] theorem judgeDc_beyond (g : Image) (s : State) (p : Nat) : (judgeDc g s p).beyond = s.beyond := by
  simp [judgeDc]
@[simp] theorem witnessEvents_beyond (g : Image) (i beat meanAbs : Nat) (s : State) :
    (witnessEvents g i beat meanAbs s).beyond = s.beyond := by
  unfold witnessEvents
  dsimp only
  split
  · exact addEntry_beyond _ s
  · rw [State.foldl_beyond fun s p => addEntry_beyond _ s]
@[simp] theorem truncateEvents_beyond (b : Nat) (s : State) (p : Nat) : (truncateEvents b s p).beyond = s.beyond := by
  simp [truncateEvents]

/-! Energy, impulses and spectra. -/

@[simp] theorem takeSamples_beyond (f : Nat) (s : State) : (takeSamples f s).beyond = s.beyond := by
  refine State.foldl_part State.beyond (fun s p => ?_) _ _
  split
  · rfl
  · refine State.foldl_part State.beyond (fun s i => ?_) _ _
    split <;> rfl
@[simp] theorem dropDelivered_beyond (f : Nat) (s : State) : (dropDelivered f s).beyond = s.beyond := rfl
@[simp] theorem pointSample_beyond (f : Nat) (s : State) (p : Nat) : (pointSample f s p).beyond = s.beyond := by
  unfold pointSample
  dsimp only
  split <;> simp
@[simp] theorem missTaken_beyond (f : Nat) (s : State) (p : Nat) : (missTaken f s p).beyond = s.beyond := by
  simp [missTaken]
@[simp] theorem countInput_beyond (s : State) (i : Nat) : (countInput s i).beyond = s.beyond := rfl
@[simp] theorem pulseFrame_beyond (f : Nat) (s : State) (c : Nat) : (pulseFrame f s c).beyond = s.beyond := by
  simp [pulseFrame]
@[simp] theorem frameEnergy_beyond (f : Nat) (s : State) : (frameEnergy f s).beyond = s.beyond := by
  simp [frameEnergy]
@[simp] theorem pqInput_beyond (w : Nat) (s : State) (i : Nat) : (pqInput w s i).beyond = s.beyond := by
  unfold pqInput
  dsimp only
  cases s.img.chanOf i <;> split <;> simp
@[simp] theorem ashInput_beyond (s : State) (j : Nat) : (ashInput s j).beyond = s.beyond := by
  unfold ashInput
  split <;> simp
@[simp] theorem spectralFrame_beyond (w : Nat) (s : State) : (spectralFrame w s).beyond = s.beyond := by
  simp [spectralFrame]
@[simp] theorem restartHarm_beyond (h : Nat) (s : State) : (restartHarm h s).beyond = s.beyond := by
  unfold restartHarm
  rw [State.foldl_beyond fun s j => State.updHarm_beyond s _ _]

/-! The end of a beat. -/

@[simp] theorem closePoint_beyond (g : Image) (s : State) (p : Nat) : (closePoint g s p).beyond = s.beyond := rfl
@[simp] theorem flagPoint_beyond (s : State) (p : Nat) : (flagPoint s p).beyond = s.beyond := by
  unfold flagPoint
  split <;> rfl
@[simp] theorem publishHearth_beyond (g : Image) (s : State) : (publishHearth g s).beyond = s.beyond := rfl

end Sys2Proof.Machine

/-! FRAME_BOUNDARY (R12, R41, R85; log entry 84). -/

namespace Sys2Proof.Machine

/-- What no work of a frame changes. -/
def State.aloof (s : State) : List Instr × Option Word × Damper × ResetCtl × Clocks × Rtc × Seal × Firmware × Auditor × Mantel × Dram × Pins :=
  (s.pending, s.energyHi, s.damper, s.rst, s.clk, s.rtc, s.trust, s.fw, s.aud, s.mantel, s.dram, s.pins)
/-- What only a failed write of a capture changes. -/
def State.spared (s : State) : Faults × Ember := (s.fault, s.ember)

theorem State.aloof_of_beyond {s t : State} (h : t.beyond = s.beyond) : t.aloof = s.aloof := by
  simp only [State.beyond, Prod.mk.injEq] at h
  simp only [State.aloof, h]
theorem State.spared_of_beyond {s t : State} (h : t.beyond = s.beyond) : t.spared = s.spared := by
  simp only [State.beyond, Prod.mk.injEq] at h
  simp only [State.spared, h]

/-! The link. -/

/-- An exchange that is cut off, or a poll that is answered, leaves everything outside the link, the rings and the registers. -/
theorem finishExchange_frame (e : Exchange) (code : Nat) (s : State) :
    ∃ r l h, finishExchange e code true s = { s with regs := r, link := l, host := h } := by
  have hafter : ∀ u : State, (∃ r l h, u = { s with regs := r, link := l, host := h }) →
      ∃ r l h, betweenExchanges u = { s with regs := r, link := l, host := h } := by
    rintro u ⟨r, l, h, rfl⟩
    exact ⟨_, _, _, (betweenExchanges_cycled _).frame⟩
  unfold finishExchange
  refine hafter _ ?_
  split
  · unfold finishSend
    extract_lets u data result
    rw [if_pos rfl]
    split
    · exact ⟨_, _, _, rfl⟩
    · split <;> exact ⟨_, _, _, rfl⟩
  · unfold finishPoll
    dsimp only
    split <;> exact ⟨_, _, _, rfl⟩

/-- The link goes off without touching anything but itself, the rings and the registers. -/
theorem linkOff_frame (s : State) : ∃ r l h, linkOff s = { s with regs := r, link := l, host := h } := by
  have hcut : ∃ r l h, s.lineCut.exchangeCut = { s with regs := r, link := l, host := h } := by
    unfold State.exchangeCut
    split
    next e _ =>
      obtain ⟨r, l, h, he⟩ := finishExchange_frame e e.cutCode s.lineCut
      exact ⟨r, l, h, he⟩
    next => exact ⟨_, _, _, rfl⟩
  obtain ⟨r, l, h, hc⟩ := hcut
  have hcyc := (State.cycleCut_cycled s.lineCut.exchangeCut).frame
  rw [linkOff_eq, (finishAll_cycled ..).frame, hcyc, hc]
  exact ⟨_, _, _, rfl⟩

theorem afterFrame_frame (s : State) : ∃ r l h, afterFrame s = { s with regs := r, link := l, host := h } := by
  unfold afterFrame
  split
  · exact linkOff_frame _
  · exact ⟨_, _, _, rfl⟩

theorem linkConsume_frame (b : RxBlock) (s : State) : ∃ r l h, linkConsume b s = { s with regs := r, link := l, host := h } := by
  unfold linkConsume
  split
  · extract_lets u
    split
    · exact afterFrame_frame u
    · exact ⟨_, _, _, rfl⟩
  · exact ⟨_, _, _, rfl⟩

theorem publishRx_frame (w : Nat) (s : State) :
    ∃ r x l h, publishRx w s = { s with regs := r, window := x, link := l, host := h } := by
  unfold publishRx
  split
  · extract_lets b x
    obtain ⟨r, l, h, he⟩ := linkConsume_frame b _
    exact ⟨_, _, _, _, he⟩
  · exact ⟨_, _, _, _, rfl⟩

/-! Captures. -/

theorem endCapture_host (n cause : Nat) (s : State) : ∃ h, endCapture n cause s = { s with host := h } := by
  unfold endCapture
  split <;> exact ⟨_, rfl⟩

/-- A capture writes to host memory; only a write that fails reaches the fault collector. -/
theorem captureTake_frame (out : CapWrite) (n idx : Nat) (x : Samp) (s : State) :
    (∃ r f e h, captureTake out n idx x s = { s with regs := r, fault := f, ember := e, host := h }) ∧
    (out ≠ .failed → ∃ h, captureTake out n idx x s = { s with host := h }) := by
  have hwhole : ∀ {u : State}, (∃ h, u = { s with host := h }) →
      (∃ r f e h, u = { s with regs := r, fault := f, ember := e, host := h }) ∧
      (out ≠ .failed → ∃ h, u = { s with host := h }) :=
    fun ⟨h, he⟩ => ⟨⟨s.regs, s.fault, s.ember, h, he⟩, fun _ => ⟨h, he⟩⟩
  unfold captureTake
  split
  next => exact hwhole ⟨_, rfl⟩
  next c hc =>
    split
    · exact hwhole ⟨_, rfl⟩
    split
    · exact hwhole (endCapture_host ..)
    split
    next hfail =>
      obtain ⟨h, he⟩ := endCapture_host n 4 s
      obtain ⟨f, e, m, p, g, r, cfg, ht⟩ := transferError_eq 4 18 (endCapture n 4 s)
      rw [ht, he]
      exact ⟨⟨_, _, _, _, rfl⟩, fun hne => absurd (beq_iff_eq.mp hfail) hne⟩
    next =>
      extract_lets c1 s1 c2 full s2 c3 s3
      have hspan : ∃ h, s2 = { s with host := h } := by
        simp only [s2]
        split <;> exact ⟨_, rfl⟩
      obtain ⟨h, hs2⟩ := hspan
      refine hwhole ?_
      split
      · obtain ⟨h', he⟩ := endCapture_host n 0 s3
        rw [he]
        simp only [s3, hs2]
        exact ⟨_, rfl⟩
      · simp only [s3, hs2]
        exact ⟨_, rfl⟩

section
variable (caps : List CapWrite) (w : Nat) (s : State) (n : Nat)

theorem captureTake_aloof (out : CapWrite) (n idx : Nat) (x : Samp) (s : State) : (captureTake out n idx x s).aloof = s.aloof := by
  obtain ⟨⟨r, f, e, h, he⟩, -⟩ := captureTake_frame out n idx x s
  rw [he]
  rfl
theorem captureTake_spared {out : CapWrite} (ho : out ≠ .failed) (n idx : Nat) (x : Samp) (s : State) :
    (captureTake out n idx x s).spared = s.spared := by
  obtain ⟨h, he⟩ := (captureTake_frame out n idx x s).2 ho
  rw [he]
  rfl

/-- What every write of a capture leaves, a capture leaves at a whole sample. -/
theorem captureOne_part {β : Type} (part : State → β)
    (htake : ∀ out, out = caps.getD n .carried → ∀ idx x u, part (captureTake out n idx x u) = part u) :
    part (captureOne caps w s n) = part s := by
  unfold captureOne
  extract_lets out
  split
  next c _ =>
    split
    · refine State.foldl_part part (fun u k => ?_) _ _
      split
      · exact htake _ rfl _ _ _
      · rfl
    · rfl
    · exact htake _ rfl _ _ _
    · rfl
  next => rfl

theorem captureFrame_aloof : (captureFrame caps w s).aloof = s.aloof :=
  State.foldl_part State.aloof (fun u n => captureOne_part caps w u n State.aloof fun out _ => captureTake_aloof out n) _ _

theorem captureFrame_spared (h : CapWrite.failed ∉ caps) : (captureFrame caps w s).spared = s.spared := by
  refine State.foldl_part State.spared (fun u n => captureOne_part caps w u n State.spared fun out ho => captureTake_spared ?_ n) _ _
  rw [ho, List.getD_eq_getElem?_getD]
  cases hc : caps[n]? with
  | none => decide
  | some x =>
    rintro rfl
    exact h (List.mem_of_getElem? hc)
end

/-! The frame. -/

/-- What the parts of a frame's wide-stream work leave, the whole of it leaves. -/
theorem frameWide_part {β : Type} (part : State → β) (hbeyond : ∀ s t : State, t.beyond = s.beyond → part t = part s)
    (caps : List CapWrite) (w : Nat) (s : State) (hrx : ∀ u, part (publishRx w u) = part u)
    (hcap : ∀ u, part (captureFrame caps w u) = part u) : part (frameWide caps w s) = part s := by
  unfold frameWide
  extract_lets s1 s2 s3 s4
  have h1 : part s1 = part s := hbeyond _ _ (State.foldl_beyond (fun u h => State.updFlue_beyond u _ _) _ _)
  have h2 : part s2 = part s1 := (hrx _).trans (hbeyond _ _ (State.foldl_beyond (frameTracker_beyond w) _ _))
  have h3 : part s3 = part s2 := hbeyond _ _ (by simp only [s3]; split <;> simp)
  have h4 : part s4 = part s3 := hcap _
  have h5 : ∀ u : State, ((List.range 32).foldl (fun s p => scheduleUrms w (nominalTick w (overrangeWide w s p) p) p) u).beyond = u.beyond :=
    fun u => State.foldl_beyond (fun s p => by simp) _ _
  calc _ = part s4 := hbeyond _ _ (by split <;> [exact h5 s4; rfl])
    _ = part s := h4.trans (h3.trans (h2.trans h1))

theorem frameWork_part {β : Type} (part : State → β) (hbeyond : ∀ s t : State, t.beyond = s.beyond → part t = part s)
    (fc : FrameCodes) (f : Nat) (s : State) (hrx : ∀ w u, part (publishRx w u) = part u)
    (hcap : ∀ w u, part (captureFrame fc.caps w u) = part u) : part (frameWork fc f s) = part s := by
  unfold frameWork
  extract_lets s1 s2 s3 s4
  have h1 : part s1 = part s := hbeyond _ _ (State.foldl_beyond (frameHearth_beyond fc f) _ _)
  have h2 : part s2 = part s1 := by
    simp only [s2]
    split
    · split
      · exact frameWide_part part hbeyond fc.caps _ s1 (hrx _) (hcap _)
      · rfl
    · rfl
  have h3 : part s3 = part s2 := hbeyond _ _ (by simp only [s3]; split <;> simp)
  have h4 : part s4 = part s3 := hbeyond _ _ (State.foldl_beyond countInput_beyond _ _)
  calc _ = part s4 := hbeyond _ _ (State.foldl_beyond (fun s h => overFrame_beyond h s) _ _)
    _ = part s := h4.trans (h3.trans (h2.trans h1))

theorem frameWork_aloof (fc : FrameCodes) (f : Nat) (s : State) : (frameWork fc f s).aloof = s.aloof := by
  refine frameWork_part State.aloof (fun _ _ => State.aloof_of_beyond) fc f s (fun w u => ?_) (captureFrame_aloof fc.caps)
  obtain ⟨r, x, l, h, he⟩ := publishRx_frame w u
  rw [he]
  rfl
theorem frameWork_spared {fc : FrameCodes} (hc : CapWrite.failed ∉ fc.caps) (f : Nat) (s : State) :
    (frameWork fc f s).spared = s.spared := by
  refine frameWork_part State.spared (fun _ _ => State.spared_of_beyond) fc f s (fun w u => ?_)
    fun w u => captureFrame_spared fc.caps w u hc
  obtain ⟨r, x, l, h, he⟩ := publishRx_frame w u
  rw [he]
  rfl

/-- The FRAME-class fields stand in the hearths, the flue and their flags. -/
theorem frameFields_frame (s : State) : ∃ r h f, frameFields s = { s with regs := r, hearth := h, flue := f } := by
  have hstep : ∀ (u : State) (k : Nat), ∃ r h f, flueFrame k (u.updHearth k fun x => { x with tap := x.tap.frame (u.reg (hearthReg k 0x040)) }) =
      { u with regs := r, hearth := h, flue := f } := by
    intro u k
    unfold flueFrame
    dsimp only
    split <;> exact ⟨_, _, _, rfl⟩
  unfold frameFields
  induction List.range 8 generalizing s with
  | nil => exact ⟨_, _, _, rfl⟩
  | cons k l ih =>
    obtain ⟨r, h, f, he⟩ := hstep s k
    rw [List.foldl_cons, he]
    exact ih _

/-- Whether frames of the grid pass is not of the hearths or the flue. -/
theorem framesRun_of_beyond {s t : State} (h : t.beyond = s.beyond) : t.framesRun = s.framesRun := by
  simp only [State.beyond, Prod.mk.injEq] at h
  simp only [State.framesRun, State.hearthRunning, State.active, State.running, State.island, h]

/-- A state that differs nowhere but in what a frame's work may change. -/
theorem State.eq_of_aloof {s t : State} (h : t.aloof = s.aloof) : t = { s with
    regs := t.regs, hearth := t.hearth, flue := t.flue, chain := t.chain, window := t.window, evals := t.evals, point := t.point,
    pulse := t.pulse, spectral := t.spectral, events := t.events, session := t.session, host := t.host, link := t.link,
    fault := t.fault, ember := t.ember } := by
  simp only [State.aloof, Prod.mk.injEq] at h
  obtain ⟨h1, h2, h3, h4, h5, h6, h7, h8, h9, h10, h11, h12⟩ := h
  rw [← h1, ← h2, ← h3, ← h4, ← h5, ← h6, ← h7, ← h8, ← h9, ← h10, ← h11, ← h12]

/-- Settles O45: the frame's work keeps what lies beyond it, and the fault collector and EMBER where no capture's write fails. -/
theorem frameAdvances : Obligations.FrameAdvances := by
  unfold Obligations.FrameAdvances
  refine fun fc s => ⟨fun hrun hfr => ?_, fun hrun hfr => ?_, fun hrun => if_pos (by rw [hrun]; rfl)⟩
  · have hexec : exec (.frameBoundary fc) s =
        .next ((frameWork fc ((frameFields s).gridFrame + 1) (frameFields s)).updDamper fun d =>
          { d with frame := (d.frame + 1) % 10000 }) := by
      refine (if_neg (by rw [hrun]; decide)).trans (if_pos ?_)
      rw [framesRun_of_beyond (frameFields_beyond s), hfr]
    generalize (frameFields s).gridFrame + 1 = f at hexec
    have haloof := (frameWork_aloof fc f (frameFields s)).trans (State.aloof_of_beyond (frameFields_beyond s))
    have hspared := fun hc : CapWrite.failed ∉ fc.caps => (frameWork_spared hc f (frameFields s)).trans (State.spared_of_beyond (frameFields_beyond s))
    generalize frameWork fc f (frameFields s) = u at hexec haloof hspared
    have hu := State.eq_of_aloof haloof
    refine ⟨_, hexec, ?_, fun hc => ?_⟩
    · rw [hu]
      rfl
    · obtain ⟨hfault, hember⟩ := Prod.mk.inj (hspared hc)
      exact ⟨hfault, hember, (congrArg State.dram hu :)⟩
  · obtain ⟨r, h, f, he⟩ := frameFields_frame s
    have hexec : exec (.frameBoundary fc) s = .next (frameFields s) := by
      refine (if_neg (by rw [hrun]; decide)).trans (if_neg ?_)
      rw [framesRun_of_beyond (frameFields_beyond s), hfr]
      decide
    exact ⟨_, hexec, by rw [he]⟩

end Sys2Proof.Machine

/-! The beat and round boundaries, and the latch of the mailbox (R22, R180, R208, R223; log entry 84). -/

namespace Sys2Proof.Machine

/-- What no beat boundary changes, apart from the link where an image is decided on. -/
def State.aside (s : State) : Link × Auditor × Dram × Pins × Clocks × Nat × Option Release × IslandState :=
  (s.link, s.aud, s.dram, s.pins, s.clk, s.rtc.count, s.rst.release, s.island Isl.metro)

@[simp] theorem State.aside_mk (pending regs hearth flue chain window evals point energyHi pulse spectral events damper session ember host
    fault rst clk rtc trust fw aud link mantel dram pins) :
    State.aside (State.mk pending regs hearth flue chain window evals point energyHi pulse spectral events damper session ember host
      fault rst clk rtc trust fw aud link mantel dram pins) = (link, aud, dram, pins, clk, Rtc.count rtc, ResetCtl.release rst, Tab.at (ResetCtl.islands rst) Isl.metro .inReset) := rfl
@[simp] theorem State.aside_parts (s : State) : (s.link, s.aud, s.dram, s.pins, s.clk, s.rtc.count, s.rst.release,
    Tab.at s.rst.islands Isl.metro .inReset) = s.aside := rfl
@[simp] theorem State.aside_ite {c : Prop} [Decidable c] (s t : State) :
    (if c then s else t).aside = if c then s.aside else t.aside := apply_ite State.aside c s t
@[simp] theorem State.foldl_aside {α : Type} {f : State → α → State} (hf : ∀ s a, (f s a).aside = s.aside) (l : List α) (s : State) :
    (l.foldl f s).aside = s.aside := State.foldl_part _ hf l s

theorem State.aside_of_beyond {s t : State} (h : t.beyond = s.beyond) : t.aside = s.aside := by
  simp only [State.beyond, Prod.mk.injEq] at h
  simp only [State.aside, State.island, h]

section
variable (s : State)
@[simp] theorem State.setFlag_aside (a i : Nat) : (s.setFlag a i).aside = s.aside := rfl
@[simp] theorem State.putField_aside (a hi lo v : Nat) : (s.putField a hi lo v).aside = s.aside := rfl
@[simp] theorem State.updHearth_aside (h : Nat) (f : Hearth → Hearth) : (s.updHearth h f).aside = s.aside := rfl
@[simp] theorem State.updChain_aside (i : Nat) (f : Chain → Chain) : (s.updChain i f).aside = s.aside := rfl
@[simp] theorem State.updPoint_aside (p : Nat) (f : Point → Point) : (s.updPoint p f).aside = s.aside := rfl
@[simp] theorem State.updSession_aside (k : Nat) (f : Session → Session) : (s.updSession k f).aside = s.aside := rfl
@[simp] theorem State.updPulse_aside (c : Nat) (f : Pulse → Pulse) : (s.updPulse c f).aside = s.aside := rfl
@[simp] theorem State.updDamper_aside (f : Damper → Damper) : (s.updDamper f).aside = s.aside := rfl
@[simp] theorem State.updEmber_aside (f : Ember → Ember) : (s.updEmber f).aside = s.aside := rfl
@[simp] theorem State.updHost_aside (f : HostIf → HostIf) : (s.updHost f).aside = s.aside := rfl
@[simp] theorem State.updPort_aside (p : Nat) (f : Port → Port) : (s.updPort p f).aside = s.aside := rfl
@[simp] theorem State.setPhase_aside (ord : Nat) (ph : Phase) : (s.setPhase ord ph).aside = s.aside := rfl
@[simp] theorem State.finish_aside (ord st det : Nat) (r : List Byte) : (s.finish ord st det r).aside = s.aside := rfl
@[simp] theorem State.finishOk_aside (ord : Nat) (r : List Byte) : (s.finishOk ord r).aside = s.aside := rfl
@[simp] theorem State.finishOpt_aside (ord : Option Nat) (st det : Nat) (r : List Byte) :
    (s.finishOpt ord st det r).aside = s.aside := by
  cases ord <;> rfl
@[simp] theorem engineStart_aside (h : Nat) : (engineStart h s).aside = s.aside := State.aside_of_beyond (engineStart_beyond h s)
@[simp] theorem chainStart_aside (i : Nat) : (chainStart i s).aside = s.aside := rfl
@[simp] theorem restartHarm_aside (h : Nat) : (restartHarm h s).aside = s.aside := State.aside_of_beyond (restartHarm_beyond h s)
@[simp] theorem truncateEvents_aside (b p : Nat) : (truncateEvents b s p).aside = s.aside :=
  State.aside_of_beyond (truncateEvents_beyond b s p)
end

/-! Sessions and the mailbox. -/

@[simp] theorem saveContext_aside (k : Nat) (s : State) : (saveContext k s).aside = s.aside := by
  rw [saveContext, State.updEmber_aside]
@[simp] theorem State.setSession_aside (s : State) (k : Nat) (f : Session → Session) : (s.setSession k f).aside = s.aside := by
  rw [State.setSession, saveContext_aside, State.updSession_aside]
@[simp] theorem addDue_aside (r : DueRecord) (s : State) : (addDue r s).aside = s.aside := by
  rw [addDue, State.updEmber_aside]
@[simp] theorem flagSession_aside (k bits : Nat) (s : State) : (flagSession k bits s).aside = s.aside := rfl
@[simp] theorem gapSession_aside (s : State) (k : Nat) : (gapSession s k).aside = s.aside := by
  rw [gapSession, State.setSession_aside]
@[simp] theorem outageRecords_aside (r : Restore) (s : State) : (outageRecords r s).aside = s.aside := by
  simp [outageRecords]
@[simp] theorem beginEpoch_aside (s : State) : (beginEpoch s).aside = s.aside := by
  unfold beginEpoch
  cases s.ember.restore <;> simp
@[simp] theorem checkFwChange_aside (s : State) : (checkFwChange s).aside = s.aside := by
  simp [checkFwChange]
@[simp] theorem fallDue_aside (k : Nat) (g : Segment) (replace : Bool) (s : State) : (fallDue k g replace s).aside = s.aside := by
  simp [fallDue]
@[simp] theorem dueChanges_aside (s : State) (k : Nat) : (dueChanges s k).aside = s.aside := by
  unfold dueChanges
  dsimp only
  split
  · rfl
  · exact State.foldl_aside (fun s g => fallDue_aside k g _ s) _ _
@[simp] theorem awaitRecord_aside (m : MailEntry) (signed : Bool) (k : Nat) (s : State) : (awaitRecord m signed k s).aside = s.aside := by
  unfold awaitRecord
  split <;> simp
@[simp] theorem failEntry_aside (m : MailEntry) (status detail : Nat) (s : State) : (failEntry m status detail s).aside = s.aside := by
  simp [failEntry]
@[simp] theorem applyOpen_aside (m : MailEntry) (p : Nat) (onCur : Bool) (iStart interval tariff : Nat) (token : BitVec 256) (s : State) :
    (applyOpen m p onCur iStart interval tariff token s).aside = s.aside := by
  unfold applyOpen
  split
  · simp
  · split
    · simp
    · cases m.ord <;> simp
@[simp] theorem applyTariff_aside (m : MailEntry) (k : Nat) (programmed : Bool) (t tariff : Nat) (s : State) :
    (applyTariff m k programmed t tariff s).aside = s.aside := by
  simp [applyTariff]
@[simp] theorem applyMove_aside (m : MailEntry) (k : Nat) (src dst : SessState) (t : RecType) (gate : Bool) (s : State) :
    (applyMove m k src dst t gate s).aside = s.aside := by
  simp [applyMove]
@[simp] theorem applyClose_aside (m : MailEntry) (k : Nat) (s : State) : (applyClose m k s).aside = s.aside := by
  simp [applyClose]
@[simp] theorem applyRelease_aside (m : MailEntry) (k : Nat) (s : State) : (applyRelease m k s).aside = s.aside := by
  simp [applyRelease]
@[simp] theorem signedDone_aside (seq : Nat) (s : State) : (signedDone seq s).aside = s.aside := by
  refine State.foldl_aside (fun s d => ?_) _ _
  cases d.phase <;> simp
@[simp] theorem applySign_aside (seq : Nat) (sig : BitVec 512) (replace : Bool) (s : State) :
    (applySign seq sig replace s).aside = s.aside := by
  unfold applySign
  extract_lets sealed sealing
  split
  · rfl
  · rw [signedDone_aside, State.foldl_aside fun s k => State.setSession_aside s k _]
    rfl
@[simp] theorem applyAck_aside (seq : Nat) (s : State) : (applyAck seq s).aside = s.aside := by
  simp [applyAck]
@[simp] theorem triggerBank_aside (cause source : Nat) (s : State) : (triggerBank cause source s).aside = s.aside := by
  simp [triggerBank, abortPanels]
@[simp] theorem beginHold_aside (slot fallback : Bool) (ord : Option Nat) (s : State) : (beginHold slot fallback ord s).aside = s.aside := by
  obtain ⟨m, hm⟩ := activateSlot_frame 1 slot (!fallback) (triggerBank 3 0 s)
  unfold beginHold
  dsimp only
  rw [hm]
  exact triggerBank_aside 3 0 s
@[simp] theorem applyActivate_aside (m : MailEntry) (s : State) : (applyActivate m s).aside = s.aside := by
  unfold applyActivate
  split <;> simp
@[simp] theorem applyEntry_aside (s : State) (m : MailEntry) : (applyEntry s m).aside = s.aside := by
  unfold applyEntry
  cases m.cmd <;> simp
theorem applyMailbox_aside (n : Nat) (s : State) : (applyMailbox n s).aside = s.aside := by
  induction n generalizing s with
  | zero => rfl
  | succ n ih =>
    unfold applyMailbox
    split
    · rfl
    · split
      · rfl
      · exact (ih _).trans (applyEntry_aside _ _)
@[simp] theorem startSession_aside (k b : Nat) (s : State) : (startSession k b s).aside = s.aside := by
  simp [startSession]
@[simp] theorem startImmediate_aside (s : State) (k : Nat) : (startImmediate s k).aside = s.aside := by
  simp [startImmediate]
@[simp] theorem intervalDue_aside (s : State) (k : Nat) : (intervalDue s k).aside = s.aside := by
  simp [intervalDue]
@[simp] theorem openDone_aside (s : State) : (openDone s).aside = s.aside := by
  refine State.foldl_aside (fun s d => ?_) _ _
  cases d.phase <;> simp
@[simp] theorem sessionBoundary_aside (s : State) : (sessionBoundary s).aside = s.aside := by
  simp [sessionBoundary]
@[simp] theorem rollSessions_aside (s : State) : (rollSessions s).aside = s.aside := by
  unfold rollSessions
  rw [State.foldl_aside fun s k => saveContext_aside k s]
  rfl

end Sys2Proof.Machine

/-! The boundaries themselves (R22, R180, R208, R223; log entry 84). -/

namespace Sys2Proof.Machine

/-! The end of a beat. -/

theorem reportFault_point_aside (island code detail : Nat) (s : State) {l : Level} (hc : faultClass code = some (.point, l)) :
    (reportFault island code detail s).aside = s.aside := by
  obtain ⟨f, e, m, p, h, he⟩ := reportFault_point island code detail s l hc
  rw [he]
  rfl

@[simp] theorem endHearth_aside (g : Image) (refs : Vector Nat 8) (beat : Nat) (metro : Bool) (s : State) (h : Nat) :
    (endHearth g refs beat metro s h).aside = s.aside := by
  have h21 : ∀ d u, (reportFault Isl.conv 0x21 d u).aside = u.aside := fun d u => reportFault_point_aside _ _ d u rfl
  have h22 : ∀ d u, (reportFault Isl.conv 0x22 d u).aside = u.aside := fun d u => reportFault_point_aside _ _ d u rfl
  have hwit : ∀ i beat m u, (witnessEvents g i beat m u).aside = u.aside :=
    fun i beat m u => State.aside_of_beyond (witnessEvents_beyond g i beat m u)
  unfold endHearth
  dsimp only
  cases ((s.hearthAt h).judge g h beat).2 <;> simp [h21, h22, hwit]

@[simp] theorem endBeat_aside (g : Image) (refs : Vector Nat 8) (s : State) : (endBeat g refs s).aside = s.aside := by
  have hclose : ∀ u p, (closePoint g u p).aside = u.aside := fun u p => State.aside_of_beyond (closePoint_beyond g u p)
  have hdc : ∀ u p, (judgeDc g u p).aside = u.aside := fun u p => State.aside_of_beyond (judgeDc_beyond g u p)
  have hflag : ∀ u p, (flagPoint u p).aside = u.aside := fun u p => State.aside_of_beyond (flagPoint_beyond u p)
  have hpub : ∀ u, (publishHearth g u).aside = u.aside := fun u => State.aside_of_beyond (publishHearth_beyond g u)
  simp [endBeat, hclose, hdc, hflag, hpub]

/-! The switch of an image. -/

@[simp] theorem switchHearth_aside (a b : Image) (beat : Nat) (s : State) (h : Nat) : (switchHearth a b beat s h).aside = s.aside := rfl
@[simp] theorem switchEngine_aside (a b : Image) (s : State) (h : Nat) : (switchEngine a b s h).aside = s.aside := by
  simp [switchEngine]
@[simp] theorem switchPoint_aside (a b : Image) (s : State) (p : Nat) : (switchPoint a b s p).aside = s.aside := by
  unfold switchPoint
  dsimp only
  split <;> simp
@[simp] theorem switchSpectral_aside (a b : Image) (beat : Nat) (s : State) : (switchSpectral a b beat s).aside = s.aside := by
  simp [switchSpectral]
@[simp] theorem captureSwap_aside (s : State) : (captureSwap s).aside = s.aside := by
  refine State.foldl_aside (fun u n => ?_) _ _
  split
  · split
    · rfl
    · obtain ⟨h, he⟩ := endCapture_host n 3 u
      rw [he]
      rfl
  · rfl

theorem linkDisable_frame (s : State) : ∃ r l h, linkDisable s = { s with regs := r, link := l, host := h } := by
  obtain ⟨r, l, h, he⟩ := linkOff_frame (s.updLink fun k => { k with enPend := false, en := false })
  exact ⟨r, l, h, he⟩

/-- The link at an image switch changes itself, the rings and the registers. -/
theorem switchLink_frame (old new : Image) (s : State) : ∃ r l h, switchLink old new s = { s with regs := r, link := l, host := h } := by
  unfold switchLink
  split
  · split
    · exact linkDisable_frame s
    · exact linkOff_frame s
  · split
    · exact ⟨_, _, _, (startCycle_cycled s).frame⟩
    · exact ⟨_, _, _, rfl⟩

/-- What the switch leaves, apart from the link. -/
theorem switchImage_aside (new : Image) (beat : Nat) (s : State) : (switchImage new beat s).aside.2 = s.aside.2 := by
  have himage : ∀ b u, (setImageSlot b u).aside = u.aside := fun b u => by
    obtain ⟨m, hm⟩ := setImageSlot_frame b u
    rw [hm]
    rfl
  have hmreg : ∀ i v u, (setMreg i v u).aside = u.aside := fun i v u => by
    obtain ⟨m, l, hm⟩ := setMreg_frame i v u
    rw [hm]
    rfl
  have hevents : ∀ (old : Image) (l : List Nat) (u : State), (l.foldl (fun s p =>
      if old.defChanged new p || thresholdsChanged old new p then truncateEvents beat s p else s) u).aside = u.aside :=
    fun old l u => State.foldl_aside (fun s p => by split <;> simp) l u
  have hpulse : ∀ (old : Image) (l : List Nat) (u : State), (l.foldl (fun s c =>
      if old.pulseChanged new c then s.updPulse c (Pulse.restart (old.pulseSet new c)) else s) u).aside = u.aside :=
    fun old l u => State.foldl_aside (fun s c => by split <;> rfl) l u
  have hrest : ∀ (u v : State) (old : Image), v.aside = u.aside → (switchLink old new v).aside.2 = u.aside.2 := by
    intro u v old h
    obtain ⟨r, l, g, he⟩ := switchLink_frame old new v
    rw [he]
    show v.aside.2 = u.aside.2
    rw [h]
  unfold switchImage
  dsimp only
  refine hrest _ _ _ ?_
  rw [captureSwap_aside, switchSpectral_aside, hpulse, State.foldl_aside (switchPoint_aside _ _), hevents,
    State.foldl_aside (switchEngine_aside _ _), State.foldl_aside (switchHearth_aside _ _ _), hmreg]
  split
  · rw [himage]
    rfl
  · rfl

/-- Where no activation is latched a round boundary decides nothing. -/
theorem decideActivation_none {s : State} (h : s.damper.latchedAct = false) : decideActivation s = s := by
  unfold decideActivation
  rw [h]

theorem decideActivation_aside (s : State) : (decideActivation s).aside.2 = s.aside.2 := by
  unfold decideActivation
  split
  · dsimp only
    split
    · rw [State.finishOpt_aside, State.putField_aside]
      rfl
    · rw [State.finishOpt_aside, State.putField_aside, switchImage_aside]
      rfl
  · rfl

/-! The beginning of a beat. -/

theorem latchLegal_aside (s : State) : (latchLegal s).aside = s.aside := rfl
theorem swapRecords_aside (s : State) : (swapRecords s).aside = s.aside := by
  unfold swapRecords
  split
  · dsimp only
    rw [State.foldl_aside fun s k => by rw [addDue_aside, flagSession_aside]]
  · rfl
theorem takeNotice_aside (s : State) : (takeNotice s).aside = s.aside := by
  unfold takeNotice
  split
  · rw [addDue_aside]
    rfl
  · rfl
theorem postAck_aside (seq : Nat) (s : State) : (postAck seq s).aside = s.aside := by
  obtain ⟨l, w, he, -⟩ := postAck_frame seq s
  rw [he]
  rfl
theorem ackLate_aside (s : State) : (ackLate s).aside = s.aside := by
  unfold ackLate
  split
  · exact postAck_aside _ s
  · rfl
theorem armPoint_aside (s : State) (p : Nat) : (armPoint s p).aside = s.aside := by
  simp [armPoint]
theorem flagTimeSet_aside (taken : Bool) (s : State) : (flagTimeSet taken s).aside = s.aside := by
  unfold flagTimeSet
  split
  · rw [State.foldl_aside fun s k => flagSession_aside k 512 s]
  · rfl
theorem endHold_aside (s : State) : (endHold s).aside = s.aside := by
  have hspectral : ∀ (u : State) x, ({ u with spectral := x } : State).aside = u.aside := fun _ _ => rfl
  unfold endHold
  split
  · split
    · dsimp only
      rw [State.finishOpt_aside, hspectral, State.foldl_aside fun s h => by rw [restartHarm_aside, engineStart_aside]]
      rfl
    · rfl
  · rfl
theorem recoverFlue_aside (s : State) : (recoverFlue s).aside = s.aside := by
  unfold recoverFlue
  split
  · split
    · dsimp only
      rw [State.foldl_aside fun s h => by rw [restartHarm_aside, engineStart_aside]]
      simp only [State.aside, State.island, State.setIsland]
      rw [Tab.at_upd_other (by decide)]
    · rfl
  · rfl
theorem renderAll_aside (s : State) : (renderAll s).aside = s.aside := by
  unfold renderAll
  split
  · rw [State.foldl_aside fun s p => by rw [renderPort, State.updPort_aside, State.updPort_aside]]
    rfl
  · rfl

/-- A beat begins, once an activation has been decided. -/
theorem beginBeat_aside (round : Bool) (s : State) :
    (beginBeat round s).aside = (if round then decideActivation s else s).aside := by
  unfold beginBeat
  dsimp only
  rw [checkFwChange_aside, flagTimeSet_aside, sessionBoundary_aside, State.foldl_aside armPoint_aside, ackLate_aside,
    applyMailbox_aside, takeNotice_aside, swapRecords_aside, beginEpoch_aside, latchLegal_aside]

/-! The beat's own place in the damper. -/

/-- The beat, its frame, and the counts of the clock latched for it and for the one before. -/
def State.beatClock (s : State) : Nat × Nat × Nat × Nat := (s.damper.beat, s.damper.frame, s.damper.rtc, s.damper.rtcBefore)

theorem State.beatClock_congr {s t : State} (h : t.damper = s.damper) : t.beatClock = s.beatClock := by
  rw [State.beatClock, h]
  rfl

theorem postAck_beatClock (seq : Nat) (s : State) : (postAck seq s).beatClock = s.beatClock := by
  obtain ⟨l, w, he, -⟩ := postAck_frame seq s
  rw [he]
  rfl
theorem ackLate_beatClock (s : State) : (ackLate s).beatClock = s.beatClock := by
  unfold ackLate
  split
  · exact postAck_beatClock _ s
  · rfl
theorem applyMailbox_beatClock (n : Nat) (s : State) : (applyMailbox n s).beatClock = s.beatClock := by
  induction n generalizing s with
  | zero => rfl
  | succ n ih =>
    unfold applyMailbox
    split
    · rfl
    · split
      · rfl
      · refine (ih _).trans ?_
        rw [State.beatClock_congr (applyEntry_damper _ _)]
        rfl
theorem switchImage_beatClock (new : Image) (beat : Nat) (s : State) : (switchImage new beat s).beatClock = s.beatClock := by
  simp [switchImage, State.beatClock]
theorem decideActivation_beatClock (s : State) : (decideActivation s).beatClock = s.beatClock := by
  unfold decideActivation
  split
  · dsimp only
    split
    · simp [State.beatClock]
    · refine (State.beatClock_congr ((State.finishOpt_damper _ _ _ _ _).trans (State.putField_damper _ _ _ _ _))).trans ?_
      exact switchImage_beatClock _ _ _
  · rfl
theorem beginBeat_beatClock (round : Bool) (s : State) : (beginBeat round s).beatClock = s.beatClock := by
  have hd : (if round then decideActivation s else s).beatClock = s.beatClock := by
    split
    · exact decideActivation_beatClock s
    · rfl
  have hafter : ∀ taken u, (checkFwChange (flagTimeSet taken (sessionBoundary ((List.range 32).foldl armPoint u)))).damper = u.damper :=
    fun taken u => by simp
  have hbefore : ∀ u, (takeNotice (swapRecords (beginEpoch (latchLegal u)))).damper = u.damper := fun u => by simp
  unfold beginBeat
  dsimp only
  rw [State.beatClock_congr (hafter _ _), ackLate_beatClock, applyMailbox_beatClock, State.beatClock_congr (hbefore _), hd]

/-! The boundary. -/

/-- The state in which a beat begins: the last one has ended, and a hold that is over has ended too. -/
def beatEnded (refs : Vector Nat 8) (s : State) : State := endHold (nextBeat (endBeat s.img refs s))

theorem beatEnded_aside (refs : Vector Nat 8) (s : State) : (beatEnded refs s).aside = s.aside :=
  (endHold_aside _).trans (endBeat_aside s.img refs s)
theorem beatEnded_damper (refs : Vector Nat 8) (s : State) : (beatEnded refs s).damper = { s.damper with
    beat := s.damper.beat + 1, frame := 0, outgoing := none, rtcBefore := s.damper.rtc, rtc := s.rtc.count } := by
  have hcount : (endBeat s.img refs s).rtc.count = s.rtc.count :=
    congrArg (fun x => x.2.2.2.2.2.1) (endBeat_aside s.img refs s)
  rw [beatEnded, endHold_damper, nextBeat, State.updDamper_damper, endBeat_damper, hcount]

theorem boundary_eq (round : Bool) (refs : Vector Nat 8) {s : State} (h : s.framesRun = true) : boundary round refs s =
    (if round then renderAll (latchTimeBase (recoverFlue
      (if (beatEnded refs s).metering then beginBeat round (beatEnded refs s) else beatEnded refs s)))
    else recoverFlue (if (beatEnded refs s).metering then beginBeat round (beatEnded refs s) else beatEnded refs s)) := by
  unfold boundary
  rw [if_neg (by rw [h]; decide)]
  rfl

/-- A boundary moves the beat on and leaves what is aside, but for the link where it decides on an image. -/
theorem boundary_spec (round : Bool) (refs : Vector Nat 8) {s t : State} (h : s.framesRun = true) (ht : t = boundary round refs s) :
    t.beatClock = (s.damper.beat + 1, 0, s.rtc.count, s.damper.rtc) ∧ t.aside.2 = s.aside.2 ∧
    (round = false ∨ s.damper.latchedAct = false → t.aside = s.aside) := by
  subst ht
  rw [boundary_eq round refs h]
  have hd := beatEnded_damper refs s
  have ha := beatEnded_aside refs s
  generalize beatEnded refs s = u at hd ha
  have hclock : u.beatClock = (s.damper.beat + 1, 0, s.rtc.count, s.damper.rtc) := by
    rw [State.beatClock, hd]
  obtain ⟨v, hv, hvc, hva, hvl⟩ : ∃ v, (if u.metering then beginBeat round u else u) = v ∧ v.beatClock = u.beatClock ∧
      v.aside.2 = u.aside.2 ∧ (round = false ∨ u.damper.latchedAct = false → v.aside = u.aside) := by
    refine ⟨_, rfl, ?_⟩
    split
    · refine ⟨beginBeat_beatClock round u, ?_, fun hr => ?_⟩
      · rw [beginBeat_aside]
        split
        · exact decideActivation_aside u
        · rfl
      · rw [beginBeat_aside]
        rcases hr with hr | hr
        · rw [hr]
          rfl
        · rw [decideActivation_none hr, ite_self]
    · exact ⟨rfl, rfl, fun _ => rfl⟩
  rw [hv]
  obtain ⟨hwc, hwa⟩ : (if round then renderAll (latchTimeBase (recoverFlue v)) else recoverFlue v).beatClock = v.beatClock ∧
      (if round then renderAll (latchTimeBase (recoverFlue v)) else recoverFlue v).aside = v.aside := by
    split
    · exact ⟨State.beatClock_congr (by simp), (renderAll_aside _).trans (recoverFlue_aside v)⟩
    · exact ⟨State.beatClock_congr (by simp), recoverFlue_aside v⟩
  rw [hwc, hwa, hvc, hva, ha, hclock]
  refine ⟨rfl, rfl, fun hr => (hvl (hr.imp_right fun hr => ?_)).trans ha⟩
  rw [hd]
  exact hr

/-- Settles O46: the damper moves on with `nextBeat`, and nothing that begins or ends a beat touches what is aside. -/
theorem beatsAndMailbox : Obligations.BeatsAndMailbox := by
  unfold Obligations.BeatsAndMailbox
  refine ⟨fun refs s c hc => ⟨fun hfr => ?_, fun hfr => ?_⟩, fun s hact => ⟨fun hf => ?_, fun hf => ?_⟩⟩
  · obtain ⟨round, hexec, hbeat⟩ : ∃ round, exec c s = .next (boundary round refs s) ∧ (c = .beatBoundary refs → round = false) := by
      rcases List.mem_pair.mp hc with rfl | rfl
      · exact ⟨false, rfl, fun _ => rfl⟩
      · exact ⟨_, rfl, nofun⟩
    obtain ⟨hclock, hside, hlink⟩ := boundary_spec round refs hfr rfl
    generalize boundary round refs s = t at hexec hclock hside hlink
    simp only [State.beatClock, Prod.mk.injEq] at hclock
    obtain ⟨hb, hf, hrtc, hbefore⟩ := hclock
    simp only [State.aside, Prod.mk.injEq] at hside
    obtain ⟨haud, hdram, hpins, hclk, -⟩ := hside
    refine ⟨t, hexec, hb, hf, hrtc, hbefore, haud, hclk, hdram, hpins, fun hor => ?_⟩
    exact congrArg Prod.fst (hlink (hor.imp_left hbeat))
  · have hstay : ∀ round, boundary round refs s = s := fun round => by
      unfold boundary
      rw [if_pos (by rw [hfr]; rfl)]
    rcases List.mem_pair.mp hc with rfl | rfl
    · exact congrArg Host.Outcome.next (hstay _)
    · exact congrArg Host.Outcome.next (hstay _)
  · exact if_pos ⟨hact, hf⟩
  · exact if_neg fun h => hf h.2

end Sys2Proof.Machine

/-! The publication cycle (R26, R27, R128, R129, R247; log entry 94). -/

namespace Sys2Proof.Machine

/-! Points. -/

/-- A point once its window for beat `b` has been written: its registers take the rounded increments of a beat in which it was
METERING. -/
def Point.published (g : Image) (b p : Nat) (pt : Point) : Point :=
  if pt.closing.state = PointState.metering ∧ g.isUsed p then
    let r := pt.round ((pt.closing.energies g p).increments (g.isDC p))
    let regs := Vector.ofFn fun (k : Fin 9) => pt.regs[k] + r.1[k]
    { pt with regs := regs, residue := if pt.state = PointState.metering then r.2 else Vector.replicate 9 0 }.stage
      (pointWindow g p b pt.closing.state pt.closing.doubt pt.closing regs)
  else pt.stage (pointWindow g p b pt.closing.state pt.closing.doubt pt.closing pt.regs)

theorem State.updPoint_congr_at {s : State} {p : Nat} {f g : Point → Point} (h : f (s.pointAt p) = g (s.pointAt p)) :
    s.updPoint p f = s.updPoint p g :=
  congrArg (fun v => { s with point := v }) (Tab.upd_congr_at h)

theorem publishPoint_state (g : Image) (b p : Nat) (s : State) :
    (publishPoint g b p s).1 = s.updPoint p fun _ => (s.pointAt p).published g b p := by
  unfold publishPoint Point.published
  dsimp only
  split <;> exact State.updPoint_congr_at rfl

theorem Point.stage_half (pt : Point) (w : PointWindow) : (pt.stage w).half = pt.half := by
  unfold Point.stage
  split
  · rfl
  · rfl
theorem Point.stage_regs (pt : Point) (w : PointWindow) : (pt.stage w).regs = pt.regs := by
  unfold Point.stage
  split <;> rfl
/-- What is written is what the flip publishes. -/
theorem Point.stage_flip (pt : Point) (w : PointWindow) :
    (if (pt.stage w).flip.half then (pt.stage w).flip.half1 else (pt.stage w).flip.half0) = w := by
  unfold Point.stage Point.flip
  cases pt.half <;> rfl

/-- A point's window and registers after the flip. -/
theorem Point.published_flip (g : Image) (b p : Nat) (pt : Point) (q : Point) (hq : q = (pt.published g b p).flip) :
    q.half = (!pt.half) ∧
    (if q.half then q.half1 else q.half0) = pointWindow g p b pt.closing.state pt.closing.doubt pt.closing q.regs ∧
    (pt.closing.state = .metering ∧ g.isUsed p = true → ∀ inc, inc = (pt.round ((pt.closing.energies g p).increments (g.isDC p))).1 →
      ∀ k : Fin 9, q.regs[k] = pt.regs[k] + inc[k]) ∧
    (pt.closing.state ≠ .metering ∨ g.isUsed p = false → q.regs = pt.regs) := by
  have hflip : ∀ (x : Point) w, x.half = pt.half → q = (x.stage w).flip → q.half = (!pt.half) ∧ q.regs = x.regs ∧
      (if q.half then q.half1 else q.half0) = w := by
    rintro x w hx rfl
    refine ⟨?_, Point.stage_regs x w, Point.stage_flip x w⟩
    show (!(x.stage w).half) = _
    rw [Point.stage_half, hx]
  unfold Point.published at hq
  by_cases hm : pt.closing.state = .metering ∧ g.isUsed p = true
  · rw [if_pos hm] at hq
    obtain ⟨hhalf, hregs, hwin⟩ := hflip _ _ (by rfl) hq
    refine ⟨hhalf, by rw [hwin, hregs], fun _ inc hinc k => ?_, fun h => ?_⟩
    · rw [hregs, hinc]
      simp
    · rcases h with h | h
      · exact absurd hm.1 h
      · exact absurd hm.2 (by rw [h]; decide)
  · rw [if_neg hm] at hq
    obtain ⟨hhalf, hregs, hwin⟩ := hflip _ _ rfl hq
    exact ⟨hhalf, by rw [hwin, hregs], fun h => absurd h hm, fun _ => hregs⟩

/-- One step of the cycle over the points: the window, and the marks of a point out of its range or with a gap. -/
def publishStep (g : Image) (b : Nat) (s : State) (p : Nat) : State :=
  let t := s.updPoint p fun _ => (s.pointAt p).published g b p
  let a := (t.pointAt p).closing
  let t := if g.isUsed p && a.range then t.setFlag 0x2101C p else t
  if g.isUsed p && a.state == .metering && a.gap then t.setFlag 0x21020 p else t

theorem publishPoints_state (g : Image) (b : Nat) (s : State) : (publishPoints g b s).1 = (List.range 32).foldl (publishStep g b) s := by
  have hfold : ∀ (l : List Nat) (acc : State × List (Vector Nat 9)),
      (l.foldl (fun (acc : State × List (Vector Nat 9)) p =>
        let (s, inc) := publishPoint g b p acc.1
        let a := (s.pointAt p).closing
        let s := if g.isUsed p && a.range then s.setFlag 0x2101C p else s
        (if g.isUsed p && a.state == .metering && a.gap then s.setFlag 0x21020 p else s, acc.2 ++ [inc])) acc).1 =
      l.foldl (publishStep g b) acc.1 := by
    intro l
    induction l with
    | nil => exact fun acc => rfl
    | cons p l ih =>
      intro acc
      rw [List.foldl_cons, List.foldl_cons, ih, publishStep, ← publishPoint_state]
  exact hfold _ _

theorem publishStep_frame (g : Image) (b : Nat) (s : State) (p : Nat) : ∃ r, publishStep g b s p =
    { s with regs := r, point := Tab.upd s.point p fun _ => (s.pointAt p).published g b p } := by
  unfold publishStep
  dsimp only
  split <;> split <;> exact ⟨_, rfl⟩

/-- Each of the first `n` points is published, and the others stay as they are. -/
theorem publishSteps_spec (g : Image) (b : Nat) (s : State) (n : Nat) (hn : n ≤ 32) :
    (∃ r x, (List.range n).foldl (publishStep g b) s = { s with regs := r, point := x }) ∧
    ∀ k, k < 32 → ((List.range n).foldl (publishStep g b) s).pointAt k =
      if k < n then (s.pointAt k).published g b k else s.pointAt k := by
  induction n with
  | zero => exact ⟨⟨s.regs, s.point, rfl⟩, fun k _ => rfl⟩
  | succ n ih =>
    obtain ⟨⟨r, x, hframe⟩, hat⟩ := ih (by omega)
    rw [List.range_succ, List.foldl_append, List.foldl_cons, List.foldl_nil]
    obtain ⟨r', hstep⟩ := publishStep_frame g b ((List.range n).foldl (publishStep g b) s) n
    refine ⟨⟨_, _, by rw [hstep, hframe]⟩, fun k hk => ?_⟩
    have hself := hat n (by omega)
    have hother := hat k hk
    generalize (List.range n).foldl (publishStep g b) s = u at hstep hself hother
    rw [hstep]
    by_cases hkn : k = n
    · subst hkn
      rw [if_pos (by omega), State.pointAt, Tab.at_upd_same hk, hself, if_neg (by omega)]
    · rw [State.pointAt, Tab.at_upd_other hkn, ← State.pointAt, hother]
      by_cases hlt : k < n
      · rw [if_pos hlt, if_pos (by omega)]
      · rw [if_neg hlt, if_neg (by omega)]

theorem publishPoints_spec (g : Image) (b : Nat) (s t : State) (ht : t = (publishPoints g b s).1) :
    (∃ r x, t = { s with regs := r, point := x }) ∧ ∀ p : Fin 32, t.pointAt p = (s.pointAt p).published g b p := by
  rw [publishPoints_state] at ht
  obtain ⟨hframe, hat⟩ := publishSteps_spec g b s 32 (Nat.le_refl _)
  rw [ht]
  exact ⟨hframe, fun p => (hat p p.isLt).trans (if_pos p.isLt)⟩

/-! Impulses, sessions, events and records. -/

theorem feedPulses_frame (incs : List (Vector Nat 9)) (s : State) : ∃ x, feedPulses incs s = { s with pulse := x } := by
  have hstep : ∀ (f : State → Nat → State), (∀ u c, ∃ x, f u c = { u with pulse := x }) → ∀ (l : List Nat) (u : State),
      ∃ x, l.foldl f u = { u with pulse := x } := by
    intro f hf l
    induction l with
    | nil => exact fun u => ⟨u.pulse, rfl⟩
    | cons c l ih =>
      intro u
      obtain ⟨x, hx⟩ := hf u c
      rw [List.foldl_cons, hx]
      exact ih _
  unfold feedPulses
  dsimp only
  refine hstep _ (fun u c => ?_) _ _
  split <;> split <;> exact ⟨_, rfl⟩

/-- Sessions, events and what EMBER keeps of them have moved on, and the half of the windows that is published has not. -/
def SessionsOnly (s t : State) : Prop :=
  ∃ x v e, t = { s with session := x, events := v, ember := e } ∧ e.half = s.ember.half

theorem SessionsOnly.refl (s : State) : SessionsOnly s s := ⟨_, _, _, rfl, rfl⟩
theorem SessionsOnly.trans {s t u : State} (h : SessionsOnly s t) (g : SessionsOnly t u) : SessionsOnly s u := by
  obtain ⟨x, v, e, rfl, he⟩ := h
  obtain ⟨x', v', e', rfl, he'⟩ := g
  exact ⟨x', v', e', rfl, he'.trans he⟩
theorem SessionsOnly.foldl {α : Type} {f : State → α → State} (hf : ∀ s a, SessionsOnly s (f s a)) (l : List α) (s : State) :
    SessionsOnly s (l.foldl f s) := by
  induction l generalizing s with
  | nil => exact .refl s
  | cons a l ih => exact (hf s a).trans (ih (f s a))

theorem State.setSession_only (s : State) (k : Nat) (f : Session → Session) : SessionsOnly s (s.setSession k f) := by
  rw [State.setSession, saveContext]
  generalize ctxBytes ((s.updSession k f).sessionAt k) = bs
  exact ⟨_, _, _, rfl, rfl⟩
theorem addDue_only (r : DueRecord) (s : State) : SessionsOnly s (addDue r s) := by
  rw [addDue]
  generalize insertDue r = f
  exact ⟨_, _, _, rfl, rfl⟩
theorem startSession_only (k b : Nat) (s : State) : SessionsOnly s (startSession k b s) := by
  unfold startSession
  extract_lets old u x detail r
  exact (State.setSession_only s k _).trans (addDue_only _ u)
theorem fallDue_only (k : Nat) (g : Segment) (replace : Bool) (s : State) : SessionsOnly s (fallDue k g replace s) := by
  unfold fallDue
  extract_lets x detail rest u
  split
  · exact State.setSession_only s k _
  · exact (State.setSession_only s k _).trans (addDue_only _ u)
theorem judgeCurrent_only (reading : Nat → Nat) (metered : Nat → Bool) (s : State) (k : Nat) :
    SessionsOnly s (judgeCurrent reading metered s k) := by
  unfold judgeCurrent
  extract_lets x hit u
  split
  · exact .refl s
  · have hu : SessionsOnly s u := by
      simp only [u]
      split
      · exact (startSession_only k _ s).trans ⟨_, _, _, rfl, rfl⟩
      · exact .refl s
    exact hu.trans (.foldl (fun v g => fallDue_only k g _ v) _ _)
theorem publishSessions_only (g : Image) (incs : List (Vector Nat 9)) (s : State) : SessionsOnly s (publishSessions g incs s) := by
  unfold publishSessions
  extract_lets reading metered u
  have hu : SessionsOnly s u := .foldl (judgeCurrent_only reading metered) _ s
  exact hu.trans ⟨_, _, _, rfl, rfl⟩
theorem pushEntry_only (s : State) (e : EventEntry) : SessionsOnly s (pushEntry s e) := ⟨_, _, _, rfl, rfl⟩
theorem eventRecord_only (s : State) (e : EventEntry) : SessionsOnly s (eventRecord s e) := by
  unfold eventRecord
  split
  · exact .refl s
  · split
    · exact addDue_only _ s
    · exact .refl s
theorem publishEvents_only (s : State) : SessionsOnly s (publishEvents s) := by
  unfold publishEvents
  extract_lets l v u
  have hu : SessionsOnly s u := ⟨_, _, _, rfl, rfl⟩
  exact hu.trans (.foldl (fun s e => (pushEntry_only s e).trans (eventRecord_only _ _)) _ _)
theorem completeRecords_frame (s : State) : ∃ d, completeRecords s = { s with ember := { s.ember with due := d } } := by
  unfold completeRecords fillRecords State.updEmber
  exact ⟨_, rfl⟩

/-! The flip. -/

/-- The half that is written is the one that the flip publishes. -/
theorem Ember.published_half (e : Ember) (v : SessView) :
    (if (!e.half) = true then
      (if e.half = true then { e with half0 := v } else { e with half1 := v } : Ember).half1
    else (if e.half = true then { e with half0 := v } else { e with half1 := v } : Ember).half0) = v := by
  cases e.half <;> rfl

theorem flipViews_spec (b : Nat) (s t : State) (ht : t = flipViews b s) :
    t.ember.lastPub = some b ∧ t.ember.half = (!s.ember.half) ∧
    (if t.ember.half then t.ember.half1 else t.ember.half0).beat = b ∧
    (if t.ember.half then t.ember.half1 else t.ember.half0).sessions = t.session ∧
    (∀ p : Fin 32, t.pointAt p = (s.pointAt p).flip) ∧ t = { s with point := t.point, ember := t.ember } := by
  subst ht
  unfold flipViews State.updEmber
  dsimp only
  have hview := Ember.published_half s.ember { beat := b, sessions := s.session, queue := s.ember.free }
  exact ⟨rfl, rfl, congrArg SessView.beat hview, congrArg SessView.sessions hview, fun p => Tab.at_map _ _ p.isLt _ _, rfl⟩

/-- Settles O47: the points are published one by one, the sessions and events follow, and the flip shows them all. -/
theorem publicationFlips : Obligations.PublicationFlips := by
  unfold Obligations.PublicationFlips
  rintro s b rfl
  refine ⟨fun hm hfirst hpub => ?_, fun hm hdone => ?_, fun hm => if_pos (by rw [hm]; rfl)⟩
  · obtain ⟨incs, hexec⟩ : ∃ incs, exec .publicationCycle s = .next (flipViews (s.damper.beat - 1) (completeRecords (publishEvents
        (publishSessions s.imgOfBeat incs (feedPulses incs (publishPoints s.imgOfBeat (s.damper.beat - 1) s).1))))) := by
      show ∃ incs, execPublicationCycle s = _
      unfold execPublicationCycle
      dsimp only
      rw [hm, if_neg (by decide), if_neg fun h => h.elim hfirst hpub]
      exact ⟨_, rfl⟩
    obtain ⟨⟨r, x, hframe⟩, hat⟩ := publishPoints_spec s.imgOfBeat (s.damper.beat - 1) s _ rfl
    generalize (publishPoints s.imgOfBeat (s.damper.beat - 1) s).1 = u at hexec hframe hat
    obtain ⟨y, hpulse⟩ := feedPulses_frame incs u
    have hsess := (publishSessions_only s.imgOfBeat incs (feedPulses incs u)).trans (publishEvents_only _)
    rw [hpulse] at hsess hexec
    generalize publishEvents (publishSessions s.imgOfBeat incs _) = v at hexec hsess
    obtain ⟨x', v', e', hv, hhalf⟩ := hsess
    obtain ⟨d, hcomp⟩ := completeRecords_frame v
    obtain ⟨hlast, hflip, hbeat, hsessions, hpoints, hall⟩ := flipViews_spec (s.damper.beat - 1) (completeRecords v) _ rfl
    generalize flipViews (s.damper.beat - 1) (completeRecords v) = t at hexec hlast hflip hbeat hsessions hpoints hall
    have hpoint : (completeRecords v).point = u.point := by rw [hcomp, hv]
    refine ⟨t, hexec, hlast, ?_, hbeat, hsessions, ?_, ?_⟩
    · rw [hflip, hcomp, hv]
      exact (congrArg (!·) (hhalf.trans (by rw [hframe])) :)
    · rintro p a rfl
      refine Point.published_flip s.imgOfBeat (s.damper.beat - 1) p (s.pointAt p) _ ?_
      rw [hpoints, ← hat, State.pointAt, hpoint]
      rfl
    · rw [hall, hcomp, hv, hframe]
  · have hexec : exec .publicationCycle s = .next (completeRecords s) :=
      (if_neg (by rw [hm]; decide)).trans (if_pos hdone)
    obtain ⟨d, hd⟩ := completeRecords_frame s
    exact ⟨_, hexec, by rw [hd], by rw [hd]⟩

end Sys2Proof.Machine

/-! The harmonic and supraharmonic channels (R148 to R160; log entry 79). -/

namespace Sys2Proof.Machine

/-! Channels in the state. -/

theorem State.harmAt_updHarm_same (s : State) (ch : Fin 48) (f : HarmChan → HarmChan) : (s.updHarm ch f).harmAt ch = f (s.harmAt ch) :=
  Tab.at_upd_same ch.isLt
theorem State.harmAt_updHarm_other (s : State) {ch j : Nat} (h : j ≠ ch) (f : HarmChan → HarmChan) :
    (s.updHarm ch f).harmAt j = s.harmAt j := Tab.at_upd_other h
theorem State.supraAt_updSupra_same (s : State) (ch : Fin 24) (f : SupraChan → SupraChan) :
    (s.updSupra ch f).supraAt ch = f (s.supraAt ch) := Tab.at_upd_same ch.isLt
theorem State.supraAt_updSupra_other (s : State) {ch j : Nat} (h : j ≠ ch) (f : SupraChan → SupraChan) :
    (s.updSupra ch f).supraAt j = s.supraAt j := Tab.at_upd_other h
theorem State.harmAt_congr {s t : State} (h : t.spectral.harm = s.spectral.harm) (j : Nat) : t.harmAt j = s.harmAt j :=
  congrArg (Tab.at · j HarmChan.init) h

/-! Windows and cycles of a harmonic channel. -/

theorem HarmChan.setWindow_frame (x : HarmChan) (v : Window) : ∃ w, x.setWindow v = { x with windows := w } := by
  unfold HarmChan.setWindow
  split <;> exact ⟨_, rfl⟩

theorem HarmChan.mark_frame (x : HarmChan) (m num : Nat) (f : Window → Window) : ∃ w, x.mark m num f = { x with windows := w } := by
  unfold HarmChan.mark
  split
  · exact ⟨_, rfl⟩
  · exact HarmChan.setWindow_frame ..

/-- A closed cycle leaves the open ones. -/
theorem HarmChan.closeCycle_frame (x : HarmChan) (m : Nat) (c : Cycle) (beat : Nat) (restart : Bool) :
    ∃ w, x.closeCycle m c beat restart = { x with opened := x.opened.filter fun d => d.num != c.num, windows := w } := by
  unfold HarmChan.closeCycle
  extract_lets gone y v last v'
  split
  · exact ⟨_, rfl⟩
  · exact HarmChan.setWindow_frame y _

/-- A confirmed cycle hands its offset on. -/
theorem HarmChan.confirm_offset (x : HarmChan) (m : Nat) (c : Cycle) (e : Int) (beat : Nat) (restart : Bool) :
    (x.confirm m c e beat restart).offset = e := by
  unfold HarmChan.confirm
  extract_lets y
  split
  · rfl
  · obtain ⟨w, hw⟩ := y.closeCycle_frame m c beat restart
    rw [hw]

/-- The oldest open cycle closes by timeout. -/
theorem HarmChan.timeoutOldest_spec {x : HarmChan} (m beat : Nat) (restart : Bool) (h : x.opened ≠ []) :
    (x.timeoutOldest m beat restart).offset = 0 ∧ (x.timeoutOldest m beat restart).opened.length < x.opened.length := by
  obtain ⟨c, l, hl⟩ := List.exists_cons_of_ne_nil h
  unfold HarmChan.timeoutOldest
  rw [hl]
  dsimp only
  obtain ⟨w, hw⟩ := x.mark_frame m c.num fun v => { v with timeout := true }
  rw [hw]
  obtain ⟨w', hw'⟩ := HarmChan.closeCycle_frame { x with windows := w, offset := 0 } m c beat restart
  rw [hw']
  refine ⟨rfl, ?_⟩
  show (x.opened.filter fun d => d.num != c.num).length < _
  rw [hl, List.filter_cons_of_neg (by simp), List.length_cons]
  exact Nat.lt_succ_of_le (List.length_filter_le _ _)

/-! Closing by measurement (R154). -/

/-- Can a cycle be made again from the ash buffer (R154, R155)? -/
def redoable (s : State) (ch c pos lm : Nat) : Bool :=
  decide (((s.harmAt ch).window (c / s.img.harmM ch)).redos < 2) && s.ashUp && !s.spectral.restart &&
    !(s.harmAt ch).published (s.img.harmM ch) (c / s.img.harmM ch) &&
    decide (resampleBase ((pos - lm) * 1024 + 1023 * lm) + 12 ≤ newestWide s.gridFrame) &&
    decide (newestWide s.gridFrame + 1 - (resampleBase ((pos - lm) * 1024) - 11) ≤ (s.harmAt ch).ash.length)

theorem redoable_iff (s : State) (ch c pos lm : Nat) : redoable s ch c pos lm = true ↔
    ((s.harmAt ch).window (c / s.img.harmM ch)).redos < 2 ∧
    (s.ashUp && !s.spectral.restart && decide (resampleBase ((pos - lm) * 1024 + 1023 * lm) + 12 ≤ newestWide s.gridFrame) &&
      decide (newestWide s.gridFrame + 1 - (resampleBase ((pos - lm) * 1024) - 11) ≤ (s.harmAt ch).ash.length)) = true ∧
    (s.harmAt ch).published (s.img.harmM ch) (c / s.img.harmM ch) = false := by
  simp only [redoable, Bool.and_eq_true, decide_eq_true_eq, Bool.not_eq_true', and_assoc]
  constructor
  · rintro ⟨h1, h2, h3, h4, h5, h6⟩
    exact ⟨h1, h2, h3, h5, h6, h4⟩
  · rintro ⟨h1, h2, h3, h5, h6, h4⟩
    exact ⟨h1, h2, h3, h4, h5, h6⟩

/-- The channel after a squash: the cycle made again is closed, and the next one starts at the crossing. -/
def HarmChan.redone (x : HarmChan) (m : Nat) (v : Window) (done again : Cycle) (beat : Nat) (restart : Bool) : HarmChan :=
  let x := (x.setWindow v).discardFrom m done.num
  { x with offset := 0, next := done.num + 2, opened := x.opened ++ [again] }.closeCycle m done beat restart

theorem HarmChan.redone_spec (x : HarmChan) (m : Nat) (v : Window) (done again : Cycle) (beat : Nat) (restart : Bool) :
    (x.redone m v done again beat restart).offset = 0 ∧ (x.redone m v done again beat restart).next = done.num + 2 := by
  unfold HarmChan.redone
  extract_lets y
  obtain ⟨w, hw⟩ := HarmChan.closeCycle_frame { y with offset := 0, next := done.num + 2, opened := y.opened ++ [again] } m done beat restart
  rw [hw]
  exact ⟨rfl, rfl⟩

/-- What a squash with a redo makes of the state, but for an error of the ash buffer. -/
def squashed (ch pos lm : Nat) (x : HarmChan) (s : State) : State :=
  let s := (s.updHarm ch fun _ => x).updChain (s.img.harmInput ch) fun c =>
    { c with pq := [], rs := { c.rs with running := true, start := pos, len := lm, k := 0 } }
  { s with spectral := { s.spectral with squashes := (s.spectral.squashes + 1) % 2 ^ 32, redos := (s.spectral.redos + 1) % 2 ^ 32 } }

theorem closeMeasured_confirmed {ch : Nat} {c : Cycle} {pos lm : Nat} (ecc : Option Word) {s : State} {e : Int}
    (he : e = (c.start + c.len : Nat) - (pos : Int)) (h : 5000 * e.natAbs ≤ lm) : closeMeasured ch c pos lm ecc s =
      s.updHarm ch fun x => x.confirm (s.img.harmM ch) c e s.damper.beat s.spectral.restart := by
  subst he
  exact if_pos h

theorem closeMeasured_redone {ch : Nat} {c : Cycle} {pos lm : Nat} (ecc : Option Word) {s : State} {e : Int}
    (he : e = (c.start + c.len : Nat) - (pos : Int)) (h : lm < 5000 * e.natAbs) (hr : redoable s ch c.num pos lm = true) :
    ∃ (v : Window) (done again : Cycle), done.num = c.num ∧ closeMeasured ch c pos lm ecc s =
      (match ecc with | some a => ashEcc a | none => id)
        (squashed ch pos lm ((s.harmAt ch).redone (s.img.harmM ch) v done again s.damper.beat s.spectral.restart) s) := by
  subst he
  obtain ⟨hbudget, hheld, hopen⟩ := (redoable_iff s ch c.num pos lm).mp hr
  unfold closeMeasured
  extract_lets g i m x beat restart e sp s1 w v ms newest last held can f chain done v' again
  rw [if_neg (Nat.not_le.mpr h)]
  refine ⟨v', done, again, rfl, (if_pos ⟨hbudget, hheld, hopen⟩).trans ?_⟩
  cases ecc <;> rfl

theorem closeMeasured_unredone {ch : Nat} {c : Cycle} {pos lm : Nat} (ecc : Option Word) {s : State} {e : Int}
    (he : e = (c.start + c.len : Nat) - (pos : Int)) (h : lm < 5000 * e.natAbs) (hr : redoable s ch c.num pos lm = false) :
    ∃ f, closeMeasured ch c pos lm ecc s =
      ({ s with spectral := { s.spectral with squashes := (s.spectral.squashes + 1) % 2 ^ 32 } } : State).updHarm ch fun x =>
        (x.mark (s.img.harmM ch) c.num f).confirm (s.img.harmM ch) c e s.damper.beat s.spectral.restart := by
  subst he
  have hno := mt (redoable_iff s ch c.num pos lm).mpr (by rw [hr]; decide)
  unfold closeMeasured
  extract_lets g i m x beat restart e sp s1 w v ms newest last held can f chain done v' again
  rw [if_neg (Nat.not_le.mpr h)]
  exact ⟨_, if_neg hno⟩

/-- An uncorrectable error of the ash buffer counts, leaves its address, and is reported. -/
theorem ashEcc_frame (a : Word) (s : State) : ∃ f e h, ashEcc a s =
    { s with dram := { s.dram with uncorr := min (s.dram.uncorr + 1) (2 ^ 32 - 1), eccAddr := a }, fault := f, ember := e, host := h } := by
  obtain ⟨f, e, m, p, h, he⟩ := reportFault_correctable Isl.dram 0x82 0
    { s with dram := { s.dram with uncorr := min (s.dram.uncorr + 1) (2 ^ 32 - 1), eccAddr := a } } _ rfl
  exact ⟨f, e, _, he⟩

section
variable {ch : Fin 48} {s : State} (hrun : s.spectralRuns = true) (hch : ch.val ∈ s.img.harmChans)
include hrun hch

/-- CYCLE_CLOSE judges a crossing that the locked tracker has found. -/
theorem exec_cycleClose (pos : Nat) (ecc : Option Word) : exec (.cycleClose ch pos ecc) s =
    if (s.flueAt (s.img.trkSel (s.img.harmInput ch))).tracker.locked = true ∧
        (s.flueAt (s.img.trkSel (s.img.harmInput ch))).tracker.last = some pos then
      match (s.harmAt ch).nearest pos, (s.flueAt (s.img.trkSel (s.img.harmInput ch))).tracker.measured with
      | some c, some lm => .next (closeMeasured ch c pos lm ecc s)
      | _, _ => .next s
    else .next s := by
  have hmem : s.img.harmChans.contains ch.val = true := List.contains_iff_mem.mpr hch
  show execCycleClose ch pos ecc s = _
  unfold execCycleClose
  dsimp only
  simp only [hrun, hmem, Bool.true_and, Bool.and_eq_true, beq_iff_eq]
  <;> rfl

theorem exec_cycleClose_taken {pos lm : Nat} {c : Cycle} (ecc : Option Word)
    (hlock : (s.flueAt (s.img.trkSel (s.img.harmInput ch))).tracker.locked = true)
    (hlast : (s.flueAt (s.img.trkSel (s.img.harmInput ch))).tracker.last = some pos)
    (hlm : (s.flueAt (s.img.trkSel (s.img.harmInput ch))).tracker.measured = some lm)
    (hc : (s.harmAt ch).nearest pos = some c) :
    exec (.cycleClose ch pos ecc) s = .next (closeMeasured ch c pos lm ecc s) := by
  rw [exec_cycleClose hrun hch, if_pos ⟨hlock, hlast⟩, hc, hlm]

theorem exec_cycleTimeout : exec (.cycleTimeout ch) s =
    if 12 ≤ (s.harmAt ch).opened.length ∧ (s.chainAt (s.img.harmInput ch)).rs.len = 0 then
      .next (s.updHarm ch fun x => x.timeoutOldest (s.img.harmM ch) s.damper.beat s.spectral.restart)
    else .next s := by
  have hmem : s.img.harmChans.contains ch.val = true := List.contains_iff_mem.mpr hch
  show execCycleTimeout ch s = _
  unfold execCycleTimeout
  dsimp only
  simp only [hrun, hmem, Bool.true_and, Bool.and_eq_true, beq_iff_eq, decide_eq_true_eq]

theorem exec_harmonicWindowClose_some {v : Window}
    (ho : ((s.harmAt ch).windows.find? fun v => v.isClosed (s.img.harmM ch) && v.result.isNone) = some v) :
    exec (.harmonicWindowClose ch) s =
      .next (s.updHarm ch fun x => x.setWindow { v with result := some (v.compute s.img ch) }) := by
  have hmem : s.img.harmChans.contains ch.val = true := List.contains_iff_mem.mpr hch
  show execHarmonicWindowClose ch s = _
  unfold execHarmonicWindowClose
  dsimp only
  rw [if_pos (by rw [hrun, hmem]; rfl), ho]
omit hrun hch in
theorem exec_harmonicWindowClose_none
    (ho : ((s.harmAt ch).windows.find? fun v => v.isClosed (s.img.harmM ch) && v.result.isNone) = none) :
    exec (.harmonicWindowClose ch) s = .next s := by
  show execHarmonicWindowClose ch s = _
  unfold execHarmonicWindowClose
  dsimp only
  rw [ho, ite_self]
end

/-! Publication. -/

/-- The published view of a window. -/
def Window.view (v : Window) (g : Image) (ch : Nat) (est : Bool) : HarmView :=
  { num := v.num, words := [v.info (g.harmInput ch) ch est, loWord (v.start / 2 ^ 32), hiWord (v.start / 2 ^ 32)] ++
      v.result.getD ((List.range 385).map fun k => Config.unfinalWord v.num k) }

/-- A channel publishes a view in the half that is not published. -/
def HarmChan.publish (x : HarmChan) (view : HarmView) : HarmChan :=
  let x := { x with windows := x.windows.filter fun u => u.num != view.num, half := !x.half }
  if x.half then { x with half1 := view } else { x with half0 := view }

theorem HarmChan.publish_spec (x : HarmChan) (view : HarmView) :
    (x.publish view).half = (!x.half) ∧
    (if (x.publish view).half then (x.publish view).half1 else (x.publish view).half0) = view ∧
    (if (x.publish view).half then (x.publish view).half0 else (x.publish view).half1) =
      (if (x.publish view).half then x.half0 else x.half1) := by
  unfold HarmChan.publish
  cases x.half <;> exact ⟨rfl, rfl, rfl⟩

/-- A published interval of a supraharmonic channel. -/
def SupraChan.publish (x : SupraChan) (rest : List (Nat × List Rat × Bool × Bool)) (view : HarmView) : SupraChan :=
  let x := { x with ready := rest, half := !x.half }
  if x.half then { x with half1 := view } else { x with half0 := view }

theorem SupraChan.publish_spec (x : SupraChan) (rest : List (Nat × List Rat × Bool × Bool)) (view : HarmView) :
    (x.publish rest view).ready = rest ∧ (x.publish rest view).half = (!x.half) ∧
    (if (x.publish rest view).half then (x.publish rest view).half1 else (x.publish rest view).half0) = view := by
  unfold SupraChan.publish
  cases x.half <;> exact ⟨rfl, rfl, rfl⟩

/-- An estimated result is counted. -/
def State.countEstimated (s : State) (est : Bool) : State :=
  if est then { s with spectral := { s.spectral with estimated := (s.spectral.estimated + 1) % 2 ^ 32 } } else s

theorem State.countEstimated_frame (s : State) (est : Bool) : s.countEstimated est = { s with spectral := { s.spectral with
    estimated := if est then (s.spectral.estimated + 1) % 2 ^ 32 else s.spectral.estimated } } := by
  cases est <;> rfl

/-- Bits from `n` on of a value below `2 ^ n` are clear. -/
theorem bitOf_putAt_above {v lo j n : Nat} (hv : v < 2 ^ n) (h : lo + n ≤ j) : bitOf (putAt v lo) j = false := by
  rw [bitOf_putAt, Nat.testBit_lt_two_pow (hv.trans_le (Nat.pow_le_pow_right (by decide) (by omega))), Bool.and_false, Bool.and_false]
theorem bitOf_putAt_below {v lo j : Nat} (h : j < lo) : bitOf (putAt v lo) j = false := by
  rw [bitOf_putAt, decide_eq_false (p := lo ≤ j) (by omega), Bool.false_and, Bool.and_false]

theorem Window.info_estimated (v : Window) {i : Nat} (hi : i < 2 ^ 8) (ch : Fin 48) (est : Bool) : bitOf (v.info i ch est) 16 = est := by
  simp only [Window.info, bitOf_or, bitOf_flagAt]
  rw [bitOf_putAt_above (n := 6) (ch.isLt.trans (by decide)) (by decide), bitOf_putAt_above hi (by decide),
    bitOf_putAt_below (by decide), bitOf_putAt_below (by decide)]
  simp

/-- S_INFO of a published interval. -/
def supraInfo (g : Image) (ch : Nat) (est inv : Bool) : Word :=
  putAt ch 0 ||| putAt (g.supraInput ch) 8 ||| flagAt est 16 ||| flagAt inv 17 ||| putAt (g.supraPhase ch) 20

theorem supraInfo_bits (g : Image) (ch : Fin 24) (est inv : Bool) :
    bitOf (supraInfo g ch est inv) 16 = est ∧ bitOf (supraInfo g ch est inv) 17 = inv := by
  have hin : g.supraInput ch < 2 ^ 8 := (Nat.mod_lt _ (by decide)).trans (by decide)
  simp only [supraInfo, bitOf_or, bitOf_flagAt]
  constructor <;>
    rw [bitOf_putAt_above (n := 5) (ch.isLt.trans (by decide)) (by decide), bitOf_putAt_above hin (by decide),
      bitOf_putAt_below (by decide)] <;>
    simp

/-- The view of a finished interval. -/
def supraView (s : State) (ch j : Nat) (power : List Rat) (inv est : Bool) : HarmView :=
  { num := j, words := [supraInfo s.img ch est inv, loWord (s.spectral.base * 625 / 2 + 62500 * j),
      hiWord (s.spectral.base * 625 / 2 + 62500 * j)] ++
      (List.range 370).map fun k => putAt (bandCode (power.getD (2 * k) 0 / 400)) 0 ||| putAt (bandCode (power.getD (2 * k + 1) 0 / 400)) 16 }

section
variable {ch : Fin 48} {s : State} (hrun : s.spectralRuns = true) (hch : ch.val ∈ s.img.harmChans)
include hrun hch

theorem exec_harmonicPublication_some {v : Window} (ht : s.ember.trigger = none)
    (ho : ((s.harmAt ch).windows.find? fun v => v.lastClosed (s.img.harmM ch) && decide (v.beatC + s.img.dH ≤ s.damper.beat)) = some v)
    {est : Bool} (he : est = (v.budget || v.timeout || v.dramErr || v.restart || v.result.isNone)) :
    exec (.harmonicPublication ch) s = .next ((s.updHarm ch fun x => x.publish (v.view s.img ch est)).countEstimated est) := by
  have hmem : s.img.harmChans.contains ch.val = true := List.contains_iff_mem.mpr hch
  subst he
  show execHarmonicPublication ch s = _
  unfold execHarmonicPublication
  dsimp only
  rw [if_pos (by rw [hrun, hmem, ht]; rfl), ho]
  <;> rfl

omit hrun hch in
theorem exec_harmonicPublication_none (h : s.ember.trigger.isSome = true ∨
    ((s.harmAt ch).windows.find? fun v => v.lastClosed (s.img.harmM ch) && decide (v.beatC + s.img.dH ≤ s.damper.beat)) = none) :
    exec (.harmonicPublication ch) s = .next s := by
  show execHarmonicPublication ch s = _
  unfold execHarmonicPublication
  dsimp only
  rcases h with h | h
  · refine if_neg ?_
    rw [Option.isNone_eq_false_iff.mpr h]
    simp
  · rw [h, ite_self]
end

/-! Supraharmonic channels. -/

/-- A block adds to its own channel. -/
theorem supraBlock_frame (t : Nat) (s : State) (j : Nat) : ∃ f, supraBlock t s j = s.updSupra j f := ⟨_, rfl⟩

/-- The blocks of a list of channels leave every other channel. -/
theorem foldl_supraBlock_spec (t : Nat) (l : List Nat) (s : State) :
    (∃ x, l.foldl (supraBlock t) s = { s with spectral := { s.spectral with supra := x } }) ∧
    ∀ k, k ∉ l → (l.foldl (supraBlock t) s).supraAt k = s.supraAt k := by
  induction l generalizing s with
  | nil => exact ⟨⟨_, rfl⟩, fun _ _ => rfl⟩
  | cons j l ih =>
    obtain ⟨f, hf⟩ := supraBlock_frame t s j
    obtain ⟨⟨x, hx⟩, hk⟩ := ih (supraBlock t s j)
    rw [List.foldl_cons]
    refine ⟨⟨x, by rw [hx, hf]; rfl⟩, fun k hmem => ?_⟩
    rw [List.mem_cons, not_or] at hmem
    rw [hk k hmem.2, hf, State.supraAt_updSupra_other s hmem.1]

section
variable {s : State} (hrun : s.spectralRuns = true)
include hrun

theorem exec_supraharmonicBlock : exec .supraharmonicBlock s =
    if supraNeeds (160 * (2 * s.spectral.base + s.spectral.block) + 159) ≤ newestWide s.gridFrame then
      .next { s.img.supraChans.foldl (supraBlock s.spectral.block) s with
        spectral := { (s.img.supraChans.foldl (supraBlock s.spectral.block) s).spectral with block := s.spectral.block + 1 } }
    else .next s := by
  show execSupraharmonicBlock s = _
  unfold execSupraharmonicBlock
  simp only [hrun, Bool.true_and, decide_eq_true_eq]

variable {ch : Fin 24} (hch : ch.val ∈ s.img.supraChans)
include hch

theorem exec_intervalPublication {j : Nat} {power : List Rat} {inv est : Bool} {rest : List (Nat × List Rat × Bool × Bool)}
    (ht : s.ember.trigger = none) (hr : (s.supraAt ch).ready = (j, power, inv, est) :: rest) :
    exec (.supraharmonicIntervalPublication ch) s =
      if s.spectral.base + 200 * (j + 1) + s.img.dS ≤ s.damper.beat then
        .next ((s.updSupra ch fun x => x.publish rest (supraView s ch j power inv est)).countEstimated est)
      else .next s := by
  have hmem : s.img.supraChans.contains ch.val = true := List.contains_iff_mem.mpr hch
  show execSupraharmonicIntervalPublication ch s = _
  unfold execSupraharmonicIntervalPublication
  dsimp only
  rw [if_pos (by rw [hrun, hmem, ht]; rfl), hr]
  <;> rfl

omit hrun hch in
theorem exec_intervalPublication_none (h : s.ember.trigger.isSome = true ∨ (s.supraAt ch).ready = []) :
    exec (.supraharmonicIntervalPublication ch) s = .next s := by
  show execSupraharmonicIntervalPublication ch s = _
  unfold execSupraharmonicIntervalPublication
  dsimp only
  rcases h with h | h
  · refine if_neg ?_
    rw [Option.isNone_eq_false_iff.mpr h]
    simp
  · rw [h, ite_self]
end

/-! CYCLE_CLOSE. -/

section
variable (ch : Fin 48) (c : Cycle) (pos lm : Nat) (ecc : Option Word) (s : State) {e : Int}
  (he : e = (c.start + c.len : Nat) - (pos : Int))
include he

theorem closeMeasured_confirmed_spec (h : 5000 * e.natAbs ≤ lm) (t : State) (ht : t = closeMeasured ch c pos lm ecc s) :
    t = { s with spectral := t.spectral } ∧ (t.harmAt ch).offset = e ∧ (∀ j, j ≠ ch.val → t.harmAt j = s.harmAt j) ∧
    t.spectral.squashes = s.spectral.squashes := by
  rw [closeMeasured_confirmed ecc he h] at ht
  subst ht
  refine ⟨rfl, ?_, fun j hj => State.harmAt_updHarm_other s hj _, rfl⟩
  rw [State.harmAt_updHarm_same, HarmChan.confirm_offset]

theorem closeMeasured_unredone_spec (h : lm < 5000 * e.natAbs) (hr : redoable s ch c.num pos lm = false) (t : State)
    (ht : t = closeMeasured ch c pos lm ecc s) :
    t = { s with spectral := t.spectral } ∧ t.spectral.squashes = (s.spectral.squashes + 1) % 2 ^ 32 ∧
    t.spectral.redos = s.spectral.redos ∧ (t.harmAt ch).offset = e ∧ (∀ j, j ≠ ch.val → t.harmAt j = s.harmAt j) := by
  obtain ⟨f, hf⟩ := closeMeasured_unredone ecc he h hr
  rw [hf] at ht
  subst ht
  refine ⟨rfl, rfl, rfl, ?_, fun j hj => State.harmAt_updHarm_other _ hj _⟩
  rw [State.harmAt_updHarm_same, HarmChan.confirm_offset]

/-- A squash with its redo, as the state it leaves shows it. -/
theorem closeMeasured_redone_spec (h : lm < 5000 * e.natAbs) (hr : redoable s ch c.num pos lm = true) (t : State)
    (ht : t = closeMeasured ch c pos lm ecc s) :
    t = { s with spectral := t.spectral, chain := t.chain, dram := t.dram, fault := t.fault, ember := t.ember, host := t.host } ∧
    t.spectral.squashes = (s.spectral.squashes + 1) % 2 ^ 32 ∧ t.spectral.redos = (s.spectral.redos + 1) % 2 ^ 32 ∧
    (t.harmAt ch).offset = 0 ∧ (t.harmAt ch).next = c.num + 2 ∧ (∀ j, j ≠ ch.val → t.harmAt j = s.harmAt j) ∧
    (s.img.harmInput ch < 128 → (t.chainAt (s.img.harmInput ch)).rs.start = pos ∧
      (t.chainAt (s.img.harmInput ch)).rs.len = lm ∧ (t.chainAt (s.img.harmInput ch)).rs.k = 0) ∧
    (ecc = none → t.dram = s.dram ∧ t.fault = s.fault ∧ t.ember = s.ember ∧ t.host = s.host) ∧
    (∀ a, ecc = some a → t.dram.eccAddr = a ∧ t.dram.uncorr = min (s.dram.uncorr + 1) (2 ^ 32 - 1)) := by
  obtain ⟨v, done, again, hnum, hclose⟩ := closeMeasured_redone ecc he h hr
  obtain ⟨hoff, hnext⟩ := HarmChan.redone_spec (s.harmAt ch) (s.img.harmM ch) v done again s.damper.beat s.spectral.restart
  generalize (s.harmAt ch).redone (s.img.harmM ch) v done again s.damper.beat s.spectral.restart = x at hclose hoff hnext
  rw [hclose] at ht
  have hown : ((squashed ch pos lm x s).harmAt ch) = x := State.harmAt_updHarm_same s ch _
  have hother : ∀ j, j ≠ ch.val → (squashed ch pos lm x s).harmAt j = s.harmAt j := fun j hj => State.harmAt_updHarm_other s hj _
  have hchain : s.img.harmInput ch < 128 → ((squashed ch pos lm x s).chainAt (s.img.harmInput ch)).rs.start = pos ∧
      ((squashed ch pos lm x s).chainAt (s.img.harmInput ch)).rs.len = lm ∧
      ((squashed ch pos lm x s).chainAt (s.img.harmInput ch)).rs.k = 0 := fun hi => by
    have hat : (squashed ch pos lm x s).chainAt (s.img.harmInput ch) = _ := Tab.at_upd_same hi
    rw [hat]
    exact ⟨rfl, rfl, rfl⟩
  have hframe : squashed ch pos lm x s =
      { s with spectral := (squashed ch pos lm x s).spectral, chain := (squashed ch pos lm x s).chain } := rfl
  have hsq : (squashed ch pos lm x s).spectral.squashes = (s.spectral.squashes + 1) % 2 ^ 32 := rfl
  have hre : (squashed ch pos lm x s).spectral.redos = (s.spectral.redos + 1) % 2 ^ 32 := rfl
  rw [hnum] at hnext
  generalize squashed ch pos lm x s = u at ht hown hother hchain hframe hsq hre
  cases ecc with
  | none =>
    obtain rfl : t = u := ht
    refine ⟨?_, hsq, hre, by rw [hown, hoff], by rw [hown, hnext], hother, hchain, fun _ => ?_, nofun⟩
    · rw [hframe]
    · rw [hframe]
      exact ⟨rfl, rfl, rfl, rfl⟩
  | some a =>
    obtain ⟨f, em, g, hecc⟩ := ashEcc_frame a u
    obtain rfl : t = _ := ht.trans hecc
    refine ⟨?_, hsq, hre, by rw [← hoff, ← hown]; rfl, by rw [← hnext, ← hown]; rfl, hother, hchain, nofun, ?_⟩
    · rw [hframe]
    · rintro b hb
      obtain rfl := Option.some.inj hb
      rw [hframe]
      exact ⟨rfl, rfl⟩
end

/-- The spectral engine runs in METRO. -/
theorem State.metro_of_spectralRuns {s : State} (h : s.spectralRuns = true) : s.running Isl.metro = true := by
  rw [State.spectralRuns, Bool.and_eq_true, Bool.and_eq_true] at h
  exact h.1.2

/-- Settles O53: crossings by their distance from the prediction, windows and intervals by what is closed and due. -/
theorem spectralChannels : Obligations.SpectralChannels := by
  unfold Obligations.SpectralChannels
  refine ⟨fun ch s hrun hch => ⟨?_, ?_, ?_, ?_, ?_⟩, fun s hrun => ⟨?_, ?_, ?_, ?_⟩⟩
  · rintro pos lm ecc k rfl
    refine ⟨fun h => ?_, fun hlock hlast hlm c e hc he => ⟨fun hle => ?_, fun hlt v redo hv hr => ?_⟩⟩
    · rw [exec_cycleClose hrun hch]
      split
      next hcond =>
        rw [h.resolve_left (by rw [hcond.1]; decide) |>.resolve_left (not_not_intro hcond.2)]
      next => rfl
    · exact ⟨_, exec_cycleClose_taken hrun hch ecc hlock hlast hlm hc,
        closeMeasured_confirmed_spec ch c pos lm ecc s he hle _ rfl⟩
    · have hredo : redo = redoable s ch c.num pos lm := by
        rw [hr, hv]
        rfl
      exact ⟨fun h => ⟨_, exec_cycleClose_taken hrun hch ecc hlock hlast hlm hc,
          closeMeasured_redone_spec ch c pos lm ecc s he hlt (hredo ▸ h) _ rfl⟩,
        fun h => ⟨_, exec_cycleClose_taken hrun hch ecc hlock hlast hlm hc,
          closeMeasured_unredone_spec ch c pos lm ecc s he hlt (hredo ▸ h) _ rfl⟩⟩
  · intro hlen hzero
    have hne : (s.harmAt ch).opened ≠ [] := List.ne_nil_of_length_pos (by omega)
    refine ⟨_, by rw [exec_cycleTimeout hrun hch, if_pos ⟨hlen, hzero⟩], rfl, ?_⟩
    rw [State.harmAt_updHarm_same]
    exact HarmChan.timeoutOldest_spec _ _ _ hne
  · intro h
    rw [exec_cycleTimeout hrun hch, if_neg fun hc => h.elim (Nat.not_lt.mpr hc.1) fun hz => hz hc.2]
  · intro o ho
    exact ⟨fun v hv => exec_harmonicWindowClose_some hrun hch (ho.symm.trans hv), fun hn => exec_harmonicWindowClose_none (ho.symm.trans hn)⟩
  · intro o ho
    refine ⟨fun h => exec_harmonicPublication_none (h.imp_right ho.symm.trans), fun v est ht hv he => ?_⟩
    obtain ⟨hhalf, hview, hkept⟩ := (s.harmAt ch).publish_spec (v.view s.img ch est)
    have hown := State.harmAt_updHarm_same s ch fun x => x.publish (v.view s.img ch est)
    have hexec := exec_harmonicPublication_some hrun hch ht (ho.symm.trans hv) he
    have hat : ∀ n, ({ s.updHarm ch fun x => x.publish (v.view s.img ch est) with spectral :=
        { (s.updHarm ch fun x => x.publish (v.view s.img ch est)).spectral with estimated := n } } : State).harmAt ch =
          (s.harmAt ch).publish (v.view s.img ch est) := fun n => (State.harmAt_congr rfl _).trans hown
    rw [State.countEstimated_frame] at hexec
    refine ⟨_, v.view s.img ch est, hexec, rfl, ?_, ?_, rfl, Window.info_estimated v ?_ ch est, fun r hr => ?_, rfl, ?_⟩
    · rw [hat, hhalf]
    · rw [hat, hview]
    · exact (Nat.mod_lt _ (by decide)).trans (by decide)
    · show v.result.getD _ = r
      rw [hr]
      rfl
    · rw [hat, hkept]
  · intro h
    rw [exec_supraharmonicBlock hrun, if_neg (Nat.not_le.mpr h)]
  · intro h
    obtain ⟨⟨x, hx⟩, hk⟩ := foldl_supraBlock_spec s.spectral.block s.img.supraChans s
    rw [exec_supraharmonicBlock hrun, if_pos h]
    refine ⟨_, rfl, ?_, rfl, ?_, fun ch hch => hk ch hch⟩
    · rw [hx]
    · rw [hx]
  · intro ch hch
    refine ⟨exec_intervalPublication_none, fun j power inv est rest ht hr => ⟨fun h => ?_, fun h => ?_⟩⟩
    · obtain ⟨hready, hhalf, hview⟩ := (s.supraAt ch).publish_spec rest (supraView s ch j power inv est)
      have hown := State.supraAt_updSupra_same s ch fun x => x.publish rest (supraView s ch j power inv est)
      have hat : ∀ n, ({ s.updSupra ch fun x => x.publish rest (supraView s ch j power inv est) with spectral :=
          { (s.updSupra ch fun x => x.publish rest (supraView s ch j power inv est)).spectral with estimated := n } } : State).supraAt ch =
            (s.supraAt ch).publish rest (supraView s ch j power inv est) := fun n => hown
      obtain ⟨hest, hinv⟩ := supraInfo_bits s.img ch est inv
      refine ⟨_, supraView s ch j power inv est,
        by rw [exec_intervalPublication hrun hch ht hr, if_pos h, State.countEstimated_frame], rfl, ?_, ?_, ?_, rfl, hest, hinv, rfl⟩
      · rw [hat, hready]
      · rw [hat, hhalf]
      · rw [hat, hview]
    · rw [exec_intervalPublication hrun hch ht hr, if_neg (Nat.not_le.mpr h)]
  · exact if_pos (State.metro_of_spectralRuns hrun)

end Sys2Proof.Machine

/-! How a start is decided, and what the restore of the metrology plane leaves alone (R242, R318, R357). -/

namespace Sys2Proof.Machine

/-! The decision. -/

section
variable {s : State} (act : Bool) (hb : s.clk.bootSel < 2) (hp : s.rtc.pilotReq = false)
include hb hp

theorem decideStart_run (deep : Bool) (hs : s.rtc.starts < fuseLimit s) :
    decideStart s deep act = .run (s.rtc.trial && decide (1 ≤ s.rtc.starts) && !act) := by
  unfold decideStart
  rw [if_neg (by omega), if_neg (by simp [hp]), if_neg (by omega)]

theorem decideStart_limit (deep : Bool) (hs : fuseLimit s ≤ s.rtc.starts) :
    decideStart s deep act = if deep then .pilot 1 else .deepen := by
  unfold decideStart
  rw [if_neg (by omega), if_neg (by simp [hp]), if_pos hs]
end

/-- A start that is deepened is an L1 of the episode given, with nothing released. -/
theorem deepenStart_spec (e : Episode) (s : State) : ∃ e1, (deepenStart e s).rst.episode = some e1 ∧ e1.level = .l1 ∧
    e1.sources = e.sources ∧ e1.deepened = true ∧ (deepenStart e s).rst.release = none ∧
    (deepenStart e s).island Isl.ctrl = .inReset := by
  unfold deepenStart
  extract_lets u
  have hu : u.island Isl.ctrl = .inReset := enterControlReset_island _ _ (by decide)
  generalize hv : ({ u with rst := _ } : State) = v
  have hvr : v.rst.episode = some { e with level := .l1, deepened := true, deep := some 0 } ∧ v.rst.release = none ∧
      v.island Isl.ctrl = .inReset := by subst hv; exact ⟨rfl, rfl, hu⟩
  obtain ⟨he, hr, hi⟩ := hvr
  have hmet : ∀ w : State, w.rst = v.rst → ∃ e1, (enterMetrologyReset false w).rst.episode = some e1 ∧ e1.level = .l1 ∧
      e1.sources = e.sources ∧ e1.deepened = true ∧ (enterMetrologyReset false w).rst.release = none ∧
      (enterMetrologyReset false w).island Isl.ctrl = .inReset := by
    intro w hw
    rw [enterMetrologyReset_island_other false w _ (by decide), enterMetrologyReset_rst]
    refine ⟨{ e with level := .l1, deepened := true, deep := some 0 }, ?_, rfl, rfl, rfl, ?_, ?_⟩
    · exact (congrArg ResetCtl.episode hw).trans he
    · exact (congrArg ResetCtl.release hw).trans hr
    · exact (congrArg (fun r => Tab.at (ResetCtl.islands r) Isl.ctrl .inReset) hw).trans hi
  unfold awaitBank
  split
  · dsimp only
    split
    · exact hmet _ (triggerBank_rst 2 0 v)
    · simp only [State.island, triggerBank_rst, he, Option.map_some]
      exact ⟨_, rfl, rfl, rfl, rfl, hr, hi⟩
  · exact hmet v rfl

/-! The restore. -/

/-- What the restore of the store and the points may touch. -/
def StoreOnly (s t : State) : Prop :=
  ∃ r p x e h f, t = { s with regs := r, point := p, session := x, ember := e, host := h, fault := f }

theorem StoreOnly.refl (s : State) : StoreOnly s s := ⟨_, _, _, _, _, _, rfl⟩
theorem StoreOnly.trans {s t u : State} (h : StoreOnly s t) (g : StoreOnly t u) : StoreOnly s u := by
  obtain ⟨r, p, x, e, k, f, rfl⟩ := h
  obtain ⟨r', p', x', e', k', f', rfl⟩ := g
  exact ⟨_, _, _, _, _, _, rfl⟩
theorem StoreOnly.foldl {α : Type} {f : State → α → State} (hf : ∀ s a, StoreOnly s (f s a)) (l : List α) (s : State) :
    StoreOnly s (l.foldl f s) := by
  induction l generalizing s with
  | nil => exact .refl s
  | cons a l ih => exact (hf s a).trans (ih _)

theorem State.setFlag_storeOnly (s : State) (a i : Nat) : StoreOnly s (s.setFlag a i) := ⟨_, _, _, _, _, _, rfl⟩
theorem reportFault_storeOnly (island code detail : Nat) (s : State) (h : ∃ l, faultClass code = some (.point, l)) :
    StoreOnly s (reportFault island code detail s) := by
  obtain ⟨l, hl⟩ := h
  obtain ⟨f, e, m, p, g, he⟩ := reportFault_point island code detail s l hl
  rw [he]
  exact ⟨_, _, _, _, _, _, rfl⟩

theorem restoreStore_storeOnly (s : State) : StoreOnly s (restoreStore s) := by
  have herr : ∀ (b : Bool) (i : Nat) (u : State), StoreOnly u (if b then u.setFlag 0x30038 i else u) := by
    intro b i u
    split
    · exact u.setFlag_storeOnly _ _
    · exact .refl u
  unfold restoreStore
  extract_lets e err bad u v
  have hu : StoreOnly s u := ⟨_, _, _, _, _, _, rfl⟩
  exact ((((hu.trans (herr _ _ _)).trans (herr _ _ _)).trans (herr _ _ _)).trans (herr _ _ _)).trans
    (.foldl (fun s k => reportFault_storeOnly _ _ _ s ⟨_, rfl⟩) _ _)

theorem restorePoint_storeOnly (s : State) (p : Nat) : StoreOnly s (restorePoint s p) := by
  unfold restorePoint
  split
  · exact .refl s
  · extract_lets regs type u first v w
    have hu : StoreOnly s u := ⟨_, _, _, _, _, _, rfl⟩
    split
    · have hw : StoreOnly u (w.setFlag 0x30038 4) := ⟨_, _, _, _, _, _, rfl⟩
      exact (hu.trans hw).trans (reportFault_storeOnly _ _ _ _ ⟨_, rfl⟩)
    · exact hu
theorem restorePoints_storeOnly (s : State) : StoreOnly s (restorePoints s) :=
  (StoreOnly.foldl restorePoint_storeOnly _ s).trans ⟨_, _, _, _, _, _, rfl⟩
theorem armPoints_storeOnly (s : State) : StoreOnly s (armPoints s) :=
  .foldl (fun _ _ => ⟨_, _, _, _, _, _, rfl⟩) _ s
theorem flushRecords_storeOnly (s : State) : StoreOnly s (flushRecords s) := by
  unfold flushRecords
  split
  · exact ⟨_, _, _, _, _, _, rfl⟩
  · exact .refl s

theorem Ember.foldl_putFault_restored (l : List FaultRecord) (e : Ember) :
    (l.foldl (fun e r => e.putFault r) e).restored = e.restored := by
  induction l generalizing e with
  | nil => rfl
  | cons r l ih => exact ih _
theorem flushRecords_restored (s : State) : (flushRecords s).ember.restored = s.ember.restored := by
  unfold flushRecords
  split
  · exact Ember.foldl_putFault_restored _ _
  · rfl

end Sys2Proof.Machine

/-! The starts of the firmware layers: FW_ACTIVATE of layer 2, CONTROL_FIRMWARE_RESTART, METROLOGY_LAYER_READY (R318, R356 to R358). -/

namespace Sys2Proof.Machine

/-! The slot that is loaded. -/

theorem slotImage_of_reads {s t : State} {layer : Nat} (hl : layer = 1 ∨ layer = 2) (b : Bool)
    (h : ∀ a n, 0x2000 ≤ a → Memory.readN t.fw.flash a n = Memory.readN s.fw.flash a n) : slotImage t layer b = slotImage s layer b := by
  obtain ⟨hb, -⟩ := slotBase_apart hl b
  unfold slotImage Flash.bytes Memory.readLE
  rw [h _ _ hb, h _ _ (hb.trans (Nat.le_add_right _ 8))]

theorem slotImage_congr {s t : State} (h : t.fw.flash = s.fw.flash) (layer : Nat) (b : Bool) :
    slotImage t layer b = slotImage s layer b := by
  unfold slotImage Flash.bytes
  rw [h]

theorem verifyStep_congr {s t : State} (h : t.trust = s.trust) (layer : Nat) (fw : List Byte) :
    verifyStep t layer fw = verifyStep s layer fw := by
  have hfuse : ∀ w, t.fuse w = s.fuse w := fun w => by rw [State.fuse, h, State.fuse]
  have hhash : makerHash t = makerHash s := by rw [makerHash, funext hfuse, makerHash]
  have hsvn : minSvn t layer = minSvn s layer := by rw [minSvn, hfuse, minSvn]
  have hseal : isSealed t = isSealed s := by rw [isSealed, sealState, hfuse, hhash, isSealed, sealState]
  have hmaker : Fwh.makerOk t fw = Fwh.makerOk s fw := by rw [Fwh.makerOk, hseal, hhash, Fwh.makerOk]
  have hplain : Fwh.plain t fw = Fwh.plain s fw := by rw [Fwh.plain, h, Fwh.plain]
  rw [verifyStep, hsvn, hmaker, hplain, verifyStep]

theorem slotVerifies_congr {s t : State} (hf : t.fw.flash = s.fw.flash) (ht : t.trust = s.trust) (layer : Nat) (b : Bool) :
    slotVerifies t layer b = slotVerifies s layer b := by
  unfold slotVerifies
  rw [slotImage_congr hf, verifyStep_congr ht]

/-- A slot that is given up makes the other one ACTIVE; no image is touched. -/
theorem giveUp_spec {layer : Nat} (hl : layer = 1 ∨ layer = 2) (s : State) (hg : leField (bootBytes s) 4 8 + 1 < 2 ^ 64) :
    activeSlot (giveUp layer s) layer = (!(activeSlot s layer)) ∧ ∀ b, slotImage (giveUp layer s) layer b = slotImage s layer b := by
  unfold giveUp
  extract_lets a z u
  have hu : u.fw.flash = s.fw.flash := by
    simp only [u]
    split <;> rfl
  have hx : (if a then slotState s layer false else 2) < 4 := by
    split
    · exact slotState_lt ..
    · decide
  have hy : (if a then 2 else slotState s layer true) < 4 := by
    split
    · decide
    · exact slotState_lt ..
  have hq := packLayer_parts (!a) false _ hx _ hy
  obtain ⟨hbyte, -⟩ := layerByte_writeLayer layer _ u (by rw [bootBytes_of_flash hu]; exact hg) hl hq.1
  refine ⟨?_, fun b => slotImage_of_reads hl b fun a n ha => ?_⟩
  · rw [activeSlot, hbyte]
    exact hq.2.2.2.1
  · exact (readN_writeBoot _ _ _ u n ha).trans (by rw [hu])

section
variable {u : State} (hpilot : u.rst.pilot = false) (hhost : u.fw.hostCtl = none)
include hpilot hhost

theorem loadControl_chosen : loadControl u = runChosen (chooseSlot 2 u) u := by
  unfold loadControl
  simp only [hpilot, hhost, Bool.false_eq_true, if_false]

theorem loadControl_active (hv : slotVerifies u 2 (activeSlot u 2) = true) :
    loadControl u = runControl (activeSlot u 2) (slotImage u 2 (activeSlot u 2)) u := by
  rw [loadControl_chosen hpilot hhost]
  unfold chooseSlot
  rw [if_pos hv]
  rfl

theorem loadControl_other (hg : leField (bootBytes u) 4 8 + 1 < 2 ^ 64) (ha : slotVerifies u 2 (activeSlot u 2) = false)
    (hv : slotVerifies u 2 (!(activeSlot u 2)) = true) : ∃ r m b, bitOf (Regs.get r 0x1000) 6 = true ∧
    loadControl u = runControl (!(activeSlot u 2)) (slotImage u 2 (!(activeSlot u 2)))
      { u with regs := r, rtc := { u.rtc with trial := b }, fw := { u.fw with flash := m } } := by
  rw [loadControl_chosen hpilot hhost]
  unfold chooseSlot
  dsimp only
  rw [if_neg (by rw [ha]; decide), if_pos hv]
  obtain ⟨hact, himg⟩ := giveUp_spec (.inr rfl) u hg
  obtain ⟨m, b, he⟩ := giveUp_frame 2 u
  have hbit := State.setFlag_flag (giveUp 2 u) 0x1000 (i := 6) (by decide)
  unfold runChosen
  dsimp only
  have hflash : (markRollback (giveUp 2 u)).fw.flash = (giveUp 2 u).fw.flash := rfl
  rw [activeSlot_congr hflash, slotImage_congr hflash, hact, himg, markRollback]
  rw [he] at hbit ⊢
  exact ⟨_, m, b, hbit, rfl⟩

theorem loadControl_loader (hw : u.rst.window = true) (ha : slotVerifies u 2 (activeSlot u 2) = false)
    (hv : slotVerifies u 2 (!(activeSlot u 2)) = false) : loadControl u = acceptStart (runLoader true u) := by
  rw [loadControl_chosen hpilot hhost]
  unfold chooseSlot
  dsimp only
  rw [if_neg (by rw [ha]; decide), if_neg (by rw [hv]; decide)]
  exact if_pos hw
end

/-! FW_ACTIVATE of layer 2 (R356). -/

theorem exec_fwActivateControl {s : State} {ord : Nat} {d : Inflight} (h : Starts s ord Opc.fwActivate d) (h2 : d.op 20 1 = 2) :
    exec (.fwActivateControl ord) s = .next (
      if slotState s 2 (!(activeSlot s 2)) ≠ 1 then s.finish ord 0x0E 0 []
      else if s.fw.ctlAct.isSome then s.finish ord 0x06 2 []
      else ctlPause ({ s with fw := { s.fw with ctlAct := some ord, staging := some ord } }.setPhase ord .working)) := by
  show execFwActivateControl ord s = _
  unfold execFwActivateControl
  rw [withDescriptor_starts h, if_neg (by simp [h2])]
  rfl

/-- The pause waits for the one before it and for every other descriptor in flight. -/
theorem ctlPause_waits {u : State} {o : Nat} (hc : u.fw.ctlAct = some o)
    (hw : u.host.paused = true ∨ ∃ e ∈ u.host.inflight, e.ord ≠ o) : ctlPause u = u := by
  unfold ctlPause
  rw [hc]
  refine if_pos ?_
  rcases hw with hw | ⟨e, he, hne⟩
  · simp [hw]
  · have : u.host.inflight.any (fun d => d.ord != o) = true := List.any_eq_true.mpr ⟨e, he, by simpa using hne⟩
    simp [this]

/-- With nothing else in flight CTRL enters reset on the other slot, on trial. -/
theorem ctlPause_pauses {u t : State} {o : Nat} (hc : u.fw.ctlAct = some o) (hp : u.host.paused = false)
    (hall : ∀ e ∈ u.host.inflight, e.ord = o) (hg : leField (bootBytes u) 4 8 + 1 < 2 ^ 64) (ht : t = ctlPause u) :
    t.island Isl.ctrl = .inReset ∧ t.host.paused = true ∧ t.fw.ctlAct = some o ∧ t.rtc.trial = true ∧
    activeSlot t 2 = (!(activeSlot u 2)) ∧ layerTrial t 2 = true ∧ t.damper = u.damper ∧ t.ember = u.ember ∧
    t.session = u.session ∧ t.point = u.point ∧ t.hearth = u.hearth := by
  have hany : (u.host.paused || u.host.inflight.any fun d => d.ord != o) = false := by
    rw [hp, Bool.false_or, List.any_eq_false]
    intro e he
    simp [hall e he]
  obtain ⟨hact, htrial, -, -⟩ := layerByte_activateSlot 2 (!(activeSlot u 2)) true u hg (.inr rfl)
  obtain ⟨m, hm⟩ := activateSlot_frame 2 (!(activeSlot u 2)) true u
  unfold ctlPause at ht
  simp only [hc, hany, Bool.false_eq_true, if_false] at ht
  rw [hm] at ht hact htrial
  have hflash : t.fw.flash = ({ u with fw := { u.fw with flash := m } } : State).fw.flash := by rw [ht]; rfl
  rw [activeSlot_congr hflash, layerTrial_congr hflash]
  subst ht
  exact ⟨Tab.at_upd_same (by decide), rfl, hc, rfl, hact, htrial, rfl, rfl, rfl, rfl, rfl⟩

theorem fwActivateControl_outcomes {s u : State} {ord : Nat} {d : Inflight} (hst : Starts s ord Opc.fwActivate d)
    (h2 : d.op 20 1 = 2)
    (hu : u = { s with fw := { s.fw with ctlAct := some ord, staging := some ord } }.setPhase ord .working) :
    (slotState s 2 (!(activeSlot s 2)) ≠ 1 → exec (.fwActivateControl ord) s = .next (s.finish ord 0x0E 0 [])) ∧
    (slotState s 2 (!(activeSlot s 2)) = 1 →
      (s.fw.ctlAct.isSome = true → exec (.fwActivateControl ord) s = .next (s.finish ord 0x06 2 [])) ∧
      (s.fw.ctlAct = none → exec (.fwActivateControl ord) s = .next (ctlPause u))) := by
  rw [exec_fwActivateControl hst h2, ← hu]
  refine ⟨fun h => ?_, fun h => ⟨fun hc => ?_, fun hc => ?_⟩⟩
  · rw [if_pos h]
  · rw [if_neg (not_not.mpr h), if_pos hc]
  · rw [if_neg (not_not.mpr h), if_neg (by rw [hc]; decide)]

/-- The descriptors in flight, with one that is at work. -/
theorem forall_ord_setPhase {s : State} {ord : Nat} {ph : Phase} {p : Nat → Prop} :
    (∀ e ∈ (s.setPhase ord ph).host.inflight, p e.ord) ↔ ∀ e ∈ s.host.inflight, p e.ord := by
  have hord : ∀ d : Inflight, (if d.ord = ord then d.toPhase ph else d).ord = d.ord := fun d => by
    split <;> simp
  simp only [State.setPhase_host, List.forall_mem_map, hord]

end Sys2Proof.Machine

/-! CONTROL_FIRMWARE_RESTART and METROLOGY_LAYER_READY (R318, R356 to R358). -/

namespace Sys2Proof.Machine

/-! The restart of CTRL. -/

/-- CTRL runs again, its start counted and its window open. -/
def State.restarting (s : State) : State := (openWindow (s.setIsland Isl.ctrl .running)).putField 0x1000 6 6 0

theorem bankFromWork_none {s : State} (h : s.link.work = none) : bankFromWork s = s := by
  unfold bankFromWork
  rw [h]

/-- A counted restart, its completion written into the descriptor; the end of the pause where the descriptor is gone. -/
theorem exec_restart {s : State} {o : Nat} {x : Bool} (hc : s.fw.ctlAct = some o) (hi : s.island Isl.ctrl = .inReset)
    (he : s.rst.episode = none) (hl : s.link.work = none) (hk : decideStart s false true = .run x) :
    ∃ c g p w, w = (loadControl s.restarting).finish o (if slotVerifies s 2 (activeSlot s 2) then 0 else 8) 0
        (if slotVerifies s 2 (activeSlot s 2) then (bytes384 (loadControl s.restarting).fw.ctlDigest).take 16 else []) ∧
      exec .controlFirmwareRestart s = .next { w with fw := { w.fw with ctlAct := c, staging := g }, host := { w.host with paused := p } } := by
  have hbank : bankFromWork (loadControl s.restarting) = loadControl s.restarting := by
    obtain ⟨r, w, b, c, m, f, h⟩ := loadControl_frame s.restarting
    refine bankFromWork_none ?_
    rw [h]
    exact hl
  have hexec : ∀ v, v = (loadControl s.restarting).finish o (if slotVerifies s 2 (activeSlot s 2) then 0 else 8) 0
        (if slotVerifies s 2 (activeSlot s 2) then (bytes384 (loadControl s.restarting).fw.ctlDigest).take 16 else []) →
      exec .controlFirmwareRestart s = .next (if (v.flight o).isNone then
        { v with fw := { v.fw with ctlAct := none, staging := none }, host := { v.host with paused := false } } else v) := by
    intro v hv
    show execControlFirmwareRestart s = _
    unfold execControlFirmwareRestart
    rw [hc]
    dsimp only
    rw [if_pos (by simp [hi, he]), hk]
    dsimp only
    rw [show (openWindow (s.setIsland Isl.ctrl .running)).putField 0x1000 6 6 0 = s.restarting from rfl, hbank]
    rw [hv]
    cases slotVerifies s 2 (activeSlot s 2) <;> rfl
  obtain ⟨v, hv⟩ : ∃ v, v = (loadControl s.restarting).finish o (if slotVerifies s 2 (activeSlot s 2) then 0 else 8) 0
      (if slotVerifies s 2 (activeSlot s 2) then (bytes384 (loadControl s.restarting).fw.ctlDigest).take 16 else []) := ⟨_, rfl⟩
  by_cases h : (v.flight o).isNone
  · exact ⟨none, none, false, v, hv, by rw [hexec v hv, if_pos h]⟩
  · exact ⟨v.fw.ctlAct, v.fw.staging, v.host.paused, v, hv, by rw [hexec v hv, if_neg h]⟩

theorem exec_restart_limit {s : State} {o : Nat} (hc : s.fw.ctlAct = some o) (hi : s.island Isl.ctrl = .inReset)
    (he : s.rst.episode = none) (hk : decideStart s false true = .deepen) :
    exec .controlFirmwareRestart s = .next (deepenStart Episode.ofStart s) := by
  show execControlFirmwareRestart s = _
  unfold execControlFirmwareRestart
  rw [hc]
  dsimp only
  rw [if_pos (by simp [hi, he]), hk]

section
variable {u : State} {a : Bool} (hpilot : u.rst.pilot = false) (hhost : u.fw.hostCtl = none) (hw : u.rst.window = true)
  (hact : a = activeSlot u 2) (hg : leField (bootBytes u) 4 8 + 1 < 2 ^ 64)
include hpilot hhost hw hact hg

/-- What CTRL runs with its window open: the active slot, else the other one with ROLLBACK, else the recovery loader, which is
accepted at once. -/
theorem loadControl_started {L : State} (hL : L = loadControl u) :
    (slotVerifies u 2 a = true ∨ slotVerifies u 2 (!a) = true → L.fw.loader = false ∧ L.rst = u.rst ∧ L.rtc.starts = u.rtc.starts) ∧
    (slotVerifies u 2 a = true → L.fw.ctlSlot = a ∧ L.fw.ctlDigest = Fwh.digest (slotImage u 2 a) ∧
      L.mreg 3 = ext 0 (Fwh.digest (slotImage u 2 a))) ∧
    (slotVerifies u 2 a = false → slotVerifies u 2 (!a) = true → L.fw.ctlSlot = (!a) ∧
      L.mreg 3 = ext 0 (Fwh.digest (slotImage u 2 (!a))) ∧ bitOf (L.reg 0x1000) 6 = true) ∧
    (slotVerifies u 2 a = false → slotVerifies u 2 (!a) = false → L.fw.loader = true ∧ L.mreg 3 = ext 0 Config.recoveryDigest ∧
      L.rst.window = false ∧ L.rst.started = true ∧ L.rtc.starts = 0) := by
  have hmreg : ∀ x : Vector (BitVec 384) 8, ∀ v, Tab.at (Tab.upd x 3 fun _ => v) 3 0 = v := fun x v => Tab.at_upd_same (by decide)
  subst hact
  cases ha : slotVerifies u 2 (activeSlot u 2) with
  | true =>
    rw [loadControl_active hpilot hhost ha] at hL
    subst hL
    exact ⟨fun _ => ⟨rfl, rfl, rfl⟩, fun _ => ⟨rfl, rfl, hmreg _ _⟩, nofun, nofun⟩
  | false =>
    cases hb : slotVerifies u 2 (!(activeSlot u 2)) with
    | true =>
      obtain ⟨r, m, b, hbit, he⟩ := loadControl_other hpilot hhost hg ha hb
      rw [he] at hL
      subst hL
      exact ⟨fun _ => ⟨rfl, rfl, rfl⟩, nofun, fun _ _ => ⟨rfl, hmreg _ _, hbit⟩, nofun⟩
    | false =>
      rw [loadControl_loader hpilot hhost hw ha hb] at hL
      obtain ⟨m, he⟩ := acceptStart_frame (runLoader true u)
      rw [he] at hL
      subst hL
      exact ⟨nofun, nofun, nofun, fun _ _ => ⟨rfl, hmreg _ _, rfl, rfl, rfl⟩⟩
end

/-- A restart below the limit of starts. -/
theorem controlRestart_spec {s : State} {ord : Nat} {a : Bool} (hc : s.fw.ctlAct = some ord) (hi : s.island Isl.ctrl = .inReset)
    (he : s.rst.episode = none) (hb : s.clk.bootSel < 2) (hp : s.rtc.pilotReq = false) (ha : a = activeSlot s 2)
    (hs : s.rtc.starts < fuseLimit s) (hpilot : s.rst.pilot = false) (hhost : s.fw.hostCtl = none) (hl : s.link.work = none)
    (hg : leField (bootBytes s) 4 8 + 1 < 2 ^ 64) :
    ∃ t, exec .controlFirmwareRestart s = .next t ∧ t.running Isl.ctrl = true ∧ t.damper = s.damper ∧ t.ember = s.ember ∧
      (slotVerifies s 2 a = true ∨ slotVerifies s 2 (!a) = true → t.fw.loader = false ∧ t.rst.window = true ∧
        t.rst.started = false ∧ t.rtc.starts = min (s.rtc.starts + 1) 255) ∧
      (slotVerifies s 2 a = true → t.fw.ctlSlot = a ∧ t.mreg 3 = ext 0 (Fwh.digest (slotImage s 2 a))) ∧
      (slotVerifies s 2 a = false → slotVerifies s 2 (!a) = true → t.fw.ctlSlot = (!a) ∧
        t.mreg 3 = ext 0 (Fwh.digest (slotImage s 2 (!a))) ∧ bitOf (t.reg 0x1000) 6 = true) ∧
      (slotVerifies s 2 a = false → slotVerifies s 2 (!a) = false → t.fw.loader = true ∧
        t.mreg 3 = ext 0 Config.recoveryDigest ∧ t.rst.window = false ∧ t.rst.started = true ∧ t.rtc.starts = 0) ∧
      ∀ d, s.flight ord = some d → d.phase.isDone = false → t.flight ord = some { d with
        phase := .done (if slotVerifies s 2 a then ⟨0, 0, padTo 24 ((bytes384 (Fwh.digest (slotImage s 2 a))).take 16)⟩
                        else ⟨0x08, 0, zeros 24⟩) } := by
  obtain ⟨c, g, p, w, hw, hexec⟩ := exec_restart hc hi he hl (decideStart_run true hb hp false hs)
  have hflash : s.restarting.fw.flash = s.fw.flash := rfl
  obtain ⟨hrun, hact, hother, hnone⟩ := loadControl_started (u := s.restarting) (a := a) hpilot hhost rfl
    (ha.trans (activeSlot_congr hflash 2).symm) (by rw [bootBytes_of_flash hflash]; exact hg) rfl
  obtain ⟨r, wi, st, rtc, m, f, hframe⟩ := loadControl_frame s.restarting
  simp only [slotVerifies_congr (t := s.restarting) hflash rfl, slotImage_congr hflash] at hrun hact hother hnone
  rw [← ha] at hw
  generalize hL : loadControl s.restarting = L at hw hrun hact hother hnone hframe
  refine ⟨_, hexec, ?_, ?_, ?_, ?_, ?_, ?_, ?_, ?_⟩
  all_goals subst hw
  · subst hframe
    exact beq_iff_eq.mpr (Tab.at_upd_same (by decide))
  · subst hframe
    rfl
  · subst hframe
    rfl
  · intro h
    obtain ⟨h1, h2, h3⟩ := hrun h
    exact ⟨h1, congrArg ResetCtl.window h2, congrArg ResetCtl.started h2, h3⟩
  · intro h
    obtain ⟨h1, -, h3⟩ := hact h
    exact ⟨h1, h3⟩
  · exact hother
  · exact hnone
  · intro d hd hdone
    have hflight : L.flight ord = some d := by subst hframe; exact hd
    refine (State.flight_finish hflight hdone _ _ _).trans ?_
    cases hv : slotVerifies s 2 a with
    | true =>
      obtain ⟨-, hdig, -⟩ := hact hv
      rw [hdig]
      rfl
    | false => rfl

/-! METROLOGY_LAYER_READY (R357). -/

/-- What the load of a layer 1 touches. -/
theorem loadMetrology_frame {s t : State} (h : loadMetrology s = some t) : ∃ r b m l f, t =
    { s with regs := r, rtc := { s.rtc with trial := b }, trust := { s.trust with mreg := m, legal := l }, fw := f } := by
  have hrun : ∀ slot fw u, ∃ m l f, runMetrology slot fw u = { u with trust := { u.trust with mreg := m, legal := l }, fw := f } := by
    intro slot fw u
    obtain ⟨m, l, h⟩ := setMreg_frame 1 (ext 0 (Fwh.digest fw))
      { u with fw := { u.fw with metSlot := slot, metDigest := Fwh.digest fw, metSvn := Fwh.svn fw } }
    exact ⟨m, l, _, h⟩
  unfold loadMetrology at h
  split at h
  · obtain ⟨m, l, f, he⟩ := hrun false _ s
    rw [he] at h
    cases h
    exact ⟨_, s.rtc.trial, m, l, f, rfl⟩
  · obtain ⟨u, hu, rfl⟩ := Option.map_eq_some_iff.mp h
    obtain ⟨r, m, b, rfl⟩ := chooseSlot_frame hu
    obtain ⟨mr, l, f, he⟩ := hrun _ _ _
    rw [he]
    exact ⟨r, b, mr, l, f, rfl⟩

/-- The plane once its layer is measured: what was under way is dropped, the restore is complete and the hold is ready. -/
def State.layerLoaded (h : MetHold) (t : State) : State :=
  flushRecords (restorePoints (armPoints (restoreStore { t with
    evals := [], energyHi := none, pulse := t.pulse.map (Pulse.restart true), fw := { t.fw with hold := some { h with ready := true } } })))

theorem State.layerLoaded_storeOnly (h : MetHold) (t : State) : StoreOnly { t with
    evals := [], energyHi := none, pulse := t.pulse.map (Pulse.restart true), fw := { t.fw with hold := some { h with ready := true } } }
    (t.layerLoaded h) :=
  (((restoreStore_storeOnly _).trans (armPoints_storeOnly _)).trans (restorePoints_storeOnly _)).trans (flushRecords_storeOnly _)
theorem restorePoints_restored (s : State) : (restorePoints s).ember.restored = true := rfl
theorem State.layerLoaded_restored (h : MetHold) (t : State) : (t.layerLoaded h).ember.restored = true := by
  rw [State.layerLoaded, flushRecords_restored, restorePoints_restored]

section
variable {s : State} {h : MetHold} (hh : s.fw.hold = some h) (hr : h.ready = false) (htr : s.ember.trigger = none)
  (he : s.rst.episode = none) (hm : s.running Isl.metro = true)
include hh hr htr he hm

theorem exec_metrologyLayerReady : exec .metrologyLayerReady s =
    match loadMetrology (if h.fallback then s else s.putField 0x1000 6 6 0) with
    | none => .next (pilotNow 4 s)
    | some t => if h.fallback then .next (t.layerLoaded h) else match decideStart (t.layerLoaded h) false true with
      | .run _ => .next (openWindow (t.layerLoaded h))
      | _ => .next (deepenStart Episode.ofStart (t.layerLoaded h)) := by
  show execMetrologyLayerReady s = _
  unfold execMetrologyLayerReady
  rw [hh]
  refine (if_neg (by simp [hr, htr, he, hm])).trans ?_
  generalize loadMetrology (if h.fallback then s else s.putField 0x1000 6 6 0) = o
  cases o with
  | none => rfl
  | some t =>
    dsimp only
    rw [show flushRecords _ = t.layerLoaded h from rfl] <;> cases h.fallback <;> cases decideStart (t.layerLoaded h) false true <;> rfl

/-- With a layer that verifies the hold is ready, and a start that is no fallback counts. -/
theorem metrologyLayerReady_loaded {t0 : State} (h0 : loadMetrology (if h.fallback then s else s.putField 0x1000 6 6 0) = some t0)
    (hor : h.fallback = true ∨ (s.clk.bootSel < 2 ∧ s.rtc.pilotReq = false ∧ s.rtc.starts < fuseLimit s)) :
    ∃ t, exec .metrologyLayerReady s = .next t ∧ t.fw.hold = some { h with ready := true } ∧ t.evals = [] ∧
      t.energyHi = none ∧ t.ember.restored = true ∧ t.damper = s.damper ∧ t.hearth = s.hearth ∧
      (h.fallback = false → t.rst.window = true ∧ t.rst.started = false ∧ t.rtc.starts = min (s.rtc.starts + 1) 255) := by
  have hs : ∃ r b m l f, t0 =
      { s with regs := r, rtc := { s.rtc with trial := b }, trust := { s.trust with mreg := m, legal := l }, fw := f } := by
    obtain ⟨r, b, m, l, f, he⟩ := loadMetrology_frame h0
    rw [he]
    split <;> exact ⟨_, _, _, _, _, rfl⟩
  obtain ⟨r, b, m, l, f, ht0⟩ := hs
  have hrest := t0.layerLoaded_restored h
  have hframe := t0.layerLoaded_storeOnly h
  rw [exec_metrologyLayerReady hh hr htr he hm, h0]
  dsimp only
  generalize t0.layerLoaded h = v at hrest hframe
  obtain ⟨r', p, x, e, k, fa, hv⟩ := hframe
  subst ht0
  by_cases hfb : h.fallback = true
  · refine ⟨v, if_pos hfb, ?_⟩
    subst hv
    exact ⟨rfl, rfl, rfl, hrest, rfl, rfl, fun hno => absurd (hfb.symm.trans hno) (by decide)⟩
  · obtain ⟨hb, hp, hst⟩ := hor.resolve_left hfb
    have hk := decideStart_run true (by rw [hv]; exact hb) (by rw [hv]; exact hp) false (s := v) (by rw [hv]; exact hst)
    refine ⟨openWindow v, ?_, ?_⟩
    · rw [if_neg hfb, hk]
    · subst hv
      exact ⟨rfl, rfl, rfl, hrest, rfl, rfl, fun _ => ⟨rfl, rfl, rfl⟩⟩
end

/-! Pilot-light mode. -/

@[simp] theorem enterReset_hold (i : Nat) (s : State) : (enterReset i s).fw.hold = s.fw.hold := by
  unfold enterReset clearIsland
  split <;> rfl
@[simp] theorem enterReset_rtc (i : Nat) (s : State) : (enterReset i s).rtc = s.rtc := by
  unfold enterReset clearIsland
  split <;> rfl

/-- Islands that are held in reset, seen from the parts that a reset leaves alone. -/
theorem foldl_enterReset_parts (l : List Nat) (s : State) : (l.foldl (fun s i => enterReset i s) s).rtc = s.rtc ∧
    (l.foldl (fun s i => enterReset i s) s).fw.hold = s.fw.hold :=
  ⟨State.foldl_part State.rtc (fun s i => enterReset_rtc i s) l s,
    State.foldl_part (fun s => s.fw.hold) (fun s i => enterReset_hold i s) l s⟩

/-- In pilot-light mode CTRL runs the recovery loader. -/
theorem loadControl_pilot {w : State} (h : w.rst.pilot = true) : ∃ m d v l, loadControl w =
    { w with trust := { w.trust with mreg := m }, fw := { w.fw with ctlDigest := d, ctlSvn := v, loader := l } } :=
  ⟨_, _, _, _, if_pos h⟩

/-- A metrology restart without a layer: pilot-light mode of the cause, with the plane, DRAM, LINK and MANTEL held in reset. -/
theorem pilotNow_spec (cause : Nat) (s t : State) (ht : t = pilotNow cause s) : t.rst.pilot = true ∧ t.rst.pilotCause = cause ∧
    t.rtc.pilotReq = false ∧ (∀ k ∈ [Isl.conv, Isl.flue, Isl.metro, Isl.dram, Isl.link, Isl.mantel], t.island k = .inReset) ∧
    t.fw.hold = none := by
  rw [pilotNow] at ht
  generalize hu : enterPilot cause { s with fw := { s.fw with hold := none, staging := none } } = u at ht
  have hisl : ∀ k ∈ [2, 3, 4, 8, 10, 11], ([2, 3, 4, 8, 10, 11].foldl (fun s i => enterReset i s) u).island k = .inReset :=
    fun k hk => foldl_enterReset_island _ u k hk (by simp at hk; omega)
  have hrst := foldl_enterReset_rst [2, 3, 4, 8, 10, 11] u
  obtain ⟨hrtc, hhold⟩ := foldl_enterReset_parts [2, 3, 4, 8, 10, 11] u
  generalize [2, 3, 4, 8, 10, 11].foldl (fun s i => enterReset i s) u = v at ht hisl hrst hrtc hhold
  obtain ⟨r, p, x, e, h, g, hw⟩ := flushRecords_storeOnly (v.updEmber fun e => { e with restore := none })
  have hup : u.rst.pilot = true ∧ u.rst.pilotCause = cause ∧ u.rtc.pilotReq = false ∧ u.fw.hold = none := by
    subst hu
    exact ⟨rfl, rfl, rfl, rfl⟩
  obtain ⟨hu1, hu2, hu3, hu4⟩ := hup
  have hv1 : v.rst.pilot = true := (congrArg ResetCtl.pilot hrst).trans hu1
  have hv2 : v.rst.pilotCause = cause := (congrArg ResetCtl.pilotCause hrst).trans hu2
  have hp : (flushRecords (v.updEmber fun e => { e with restore := none })).rst.pilot = true := by rw [hw]; exact hv1
  obtain ⟨m, d, k, l, hm⟩ := loadControl_pilot hp
  rw [hm, hw] at ht
  subst ht
  exact ⟨hv1, hv2, (congrArg Rtc.pilotReq hrtc).trans hu3, hisl, hhold.trans hu4⟩

/-- Settles O41: the pause is `ctlPause`, the restart runs what `loadControl` finds in the slots, and the metrology restart either
loads a layer and restores, or is pilot-light mode. -/
theorem layerActivation : Obligations.LayerActivation := by
  unfold Obligations.LayerActivation
  refine ⟨⟨fun s u ord d hst h2 hu => ?_, fun s ord a hc hi he hb hp ha => ⟨fun hs hpilot hhost hl hg => ?_, fun hs => ?_⟩⟩,
    fun s h hh hr htr he hm => ⟨fun t0 h0 hor => metrologyLayerReady_loaded hh hr htr he hm h0 hor, fun h0 => ?_⟩⟩
  · obtain ⟨hinvalid, hvalid⟩ := fwActivateControl_outcomes hst h2 hu
    have hact : u.fw.ctlAct = some ord := by rw [hu]; rfl
    have hpause : u.host.paused = s.host.paused := by rw [hu]; rfl
    have hflash : u.fw.flash = s.fw.flash := by rw [hu]; rfl
    refine ⟨hinvalid, fun hv => ⟨(hvalid hv).1, fun hn hor => ?_, fun hn hpd hall hg => ?_⟩⟩
    · rw [(hvalid hv).2 hn, ctlPause_waits hact]
      rw [hpause]
      refine hor.imp_right fun hex => ?_
      by_contra hno
      have hall : ∀ e ∈ u.host.inflight, e.ord = ord := fun e he => not_not.mp fun hne => hno ⟨e, he, hne⟩
      rw [hu] at hall
      obtain ⟨e, he, hne⟩ := hex
      exact hne (forall_ord_setPhase (p := (· = ord)).mp hall e he)
    · obtain ⟨h1, h2, h3, h4, h5, h6, h7, h8, h9, h10, h11⟩ := ctlPause_pauses hact (hpause.trans hpd)
        (by rw [hu]; exact forall_ord_setPhase (p := (· = ord)).mpr hall) (by rw [bootBytes_of_flash hflash]; exact hg) rfl
      rw [activeSlot_congr hflash] at h5
      refine ⟨ctlPause u, (hvalid hv).2 hn, h1, h2, h3, h4, h5, h6, ?_⟩
      subst hu
      exact ⟨h7, h8, h9, h10, h11⟩
  · exact controlRestart_spec hc hi he hb hp ha hs hpilot hhost hl hg
  · obtain ⟨e1, h1, h2, h3, -, -, h6⟩ := deepenStart_spec Episode.ofStart s
    exact ⟨_, e1, exec_restart_limit hc hi he (decideStart_limit true hb hp false hs), h1, h2, h3, h6⟩
  · rw [exec_metrologyLayerReady hh hr htr he hm, h0]
    exact ⟨_, rfl, pilotNow_spec 4 s _ rfl⟩

end Sys2Proof.Machine

/-! EPISODE_RELEASE: the start of an episode's level is decided, and its sequence begins (R304, R308, R318, R320, R325). -/

namespace Sys2Proof.Machine

/-! The parts of a release. -/

theorem Release.steps_head (r : Release) : r.steps.headD 1 = if r.level = .l2 then (if r.pilot then 10 else 9) else 1 := by
  unfold Release.steps
  by_cases hl : r.level = .l2
  · simp only [hl, if_true]
    cases r.pilot <;> rfl
  · simp only [hl, if_false]
    cases r.pilot <;> cases r.hostLoad <;> rfl

theorem beginRelease_spec (e : Episode) (pilot : Bool) (outcome : Nat) (s : State) : ∃ r, beginRelease e pilot outcome s =
      { s with rst := { s.rst with episode := none, pinDrive := false, release := some r } } ∧
    r.level = e.level ∧ r.pilot = pilot ∧ r.step = if e.level = .l2 then (if pilot then 10 else 9) else 1 :=
  ⟨_, rfl, rfl, rfl, Release.steps_head _⟩

theorem triggerBank_frame (cause source : Nat) (s : State) : ∃ m e, triggerBank cause source s = { s with mantel := m, ember := e } := by
  unfold triggerBank abortPanels
  split
  · exact ⟨_, _, rfl⟩
  · exact ⟨s.mantel, s.ember, rfl⟩

theorem markRollback_giveUp_frame (layer : Nat) (s : State) : ∃ r b f, markRollback (giveUp layer s) =
    { s with regs := r, rtc := { s.rtc with trial := b }, fw := f } := by
  obtain ⟨m, c, h⟩ := giveUp_frame layer s
  unfold markRollback
  rw [h]
  exact ⟨_, _, _, rfl⟩
theorem beginHold_frame (slot fallback : Bool) (ord : Option Nat) (s : State) : ∃ v e b f m, beginHold slot fallback ord s =
    { s with events := v, ember := e, rtc := { s.rtc with trial := b }, fw := f, mantel := m } := by
  obtain ⟨m, e, ht⟩ := triggerBank_frame 3 0 s
  obtain ⟨fl, ha⟩ := activateSlot_frame 1 slot (!fallback) (triggerBank 3 0 s)
  rw [beginHold, ha, ht]
  exact ⟨_, _, _, _, _, rfl⟩

/-- What giving up a layer on trial touches. -/
theorem rollbackTrial_frame (deep : Bool) (s : State) : ∃ r v e b f m, rollbackTrial deep s =
    { s with regs := r, events := v, ember := e, rtc := { s.rtc with trial := b }, fw := f, mantel := m } := by
  have hstep : ∀ u : State, ∃ r v e b f m, (if layerTrial u 2 then markRollback (giveUp 2 u)
      else if layerTrial u 1 then
        if deep then markRollback (giveUp 1 u)
        else beginHold (activeSlot (markRollback (giveUp 1 u)) 1) true none (markRollback (giveUp 1 u))
      else u) = { u with regs := r, events := v, ember := e, rtc := { u.rtc with trial := b }, fw := f, mantel := m } := by
    intro u
    obtain ⟨r2, b2, f2, h2⟩ := markRollback_giveUp_frame 2 u
    obtain ⟨r1, b1, f1, h1⟩ := markRollback_giveUp_frame 1 u
    split
    · rw [h2]
      exact ⟨_, _, _, _, _, _, rfl⟩
    · split
      · split
        · rw [h1]
          exact ⟨_, _, _, _, _, _, rfl⟩
        · obtain ⟨v, e, b, f, m, h⟩ := beginHold_frame (activeSlot (markRollback (giveUp 1 u)) 1) true none (markRollback (giveUp 1 u))
          rw [h, h1]
          exact ⟨_, _, _, _, _, _, rfl⟩
      · exact ⟨_, _, _, _, _, _, rfl⟩
  exact hstep { s with rtc := { s.rtc with trial := false } }

/-- A start of firmware, with or without a layer given up. -/
theorem startedWith_frame (x deep : Bool) (s : State) : ∃ r v e b f m, (if x then rollbackTrial deep s else s) =
    { s with regs := r, events := v, ember := e, rtc := { s.rtc with trial := b }, fw := f, mantel := m } := by
  split
  · exact rollbackTrial_frame deep s
  · exact ⟨_, _, _, _, _, _, rfl⟩

/-- Why an L1 or L0 release starts in pilot-light mode: the straps, the auditor's request, the limit of starts (R320). -/
theorem decideStart_pilot {s : State} {c : Nat} (act : Bool) (h : 2 ≤ s.clk.bootSel ∧ c = 2 ∨
    s.clk.bootSel < 2 ∧ s.rtc.pilotReq = true ∧ c = 3 ∨
    s.clk.bootSel < 2 ∧ s.rtc.pilotReq = false ∧ fuseLimit s ≤ s.rtc.starts ∧ c = 1) : decideStart s true act = .pilot c := by
  rcases h with ⟨h, rfl⟩ | ⟨hb, h, rfl⟩ | ⟨hb, hp, h, rfl⟩
  · exact if_pos h
  · exact (if_neg (by omega)).trans (if_pos h)
  · exact decideStart_limit act hb hp true h

/-! The command. -/

/-- The episode's registers as the release loads them (R325). -/
def State.episodeLoaded (s : State) (e : Episode) : State := (loadEpisode e s).putField 0x1000 6 6 0

theorem exec_episodeRelease_waits (straps : Straps) {s : State} {e : Episode} (he : s.rst.episode = some e)
    (h : canRelease s e = false) : exec (.episodeRelease straps) s = .next s := by
  show execEpisodeRelease straps s = _
  unfold execEpisodeRelease
  rw [he]
  exact if_pos (by rw [h]; rfl)

section
variable (straps : Straps) {s : State} {e : Episode} (he : s.rst.episode = some e) (hr : canRelease s e = true)
  (hd : e.deepened = false)
include he hr hd

/-- After L1 or L0 the straps and fuses are taken before the start is decided. -/
theorem exec_episodeRelease_deep (hl : e.level ≠ .l2) : exec (.episodeRelease straps) s =
    match decideStart (latchRelease straps s) true false with
    | .deepen => .next (deepenStart e (latchRelease straps s))
    | .pilot c => .next (beginRelease e true 1 (enterPilot c ((latchRelease straps s).episodeLoaded e)))
    | .run rollback => .next (beginRelease e false (if rollback then 2 else 0)
        (openWindow (if rollback then rollbackTrial true ((latchRelease straps s).episodeLoaded e)
          else (latchRelease straps s).episodeLoaded e))) := by
  have hdeep : decide (e.level ≠ .l2) = true := by simpa using hl
  show execEpisodeRelease straps s = _
  unfold execEpisodeRelease
  simp only [he, hr, hd, hdeep, Bool.not_true, Bool.false_eq_true, if_false, if_true]
  rw [if_neg (show ¬(latchRelease straps s).rst.pilot = true from nofun)]
  generalize decideStart (latchRelease straps s) true false = k
  cases k <;> simp only [true_or, if_true] <;> rfl

theorem exec_episodeRelease_l2 (hl : e.level = .l2) (hp : s.rst.pilot = false) : exec (.episodeRelease straps) s =
    match decideStart s false false with
    | .deepen => .next (deepenStart e s)
    | .pilot c => .next (beginRelease e true 1 (enterPilot c ([2, 3, 4].foldl (fun s i => enterReset i s) (s.episodeLoaded e))))
    | .run rollback => .next (beginRelease e false (if rollback then 2 else 0)
        (openWindow (if rollback then rollbackTrial false (s.episodeLoaded e) else s.episodeLoaded e))) := by
  have hdeep : decide (e.level ≠ .l2) = false := by simpa using hl
  show execEpisodeRelease straps s = _
  unfold execEpisodeRelease
  simp only [he, hr, hd, hdeep, hp, Bool.not_true, Bool.false_eq_true, if_false]
  generalize decideStart s false false = k
  cases k <;> simp only [or_self, if_false] <;> rfl

theorem episodeRelease_deep (hl : e.level ≠ .l2) {u : State} (hu : u = { s with trust := { s.trust with fuses := s.trust.blown } }) :
    ∃ t r, exec (.episodeRelease straps) s = .next t ∧ t.rst.episode = none ∧ t.rst.release = some r ∧ r.level = e.level ∧
      r.step = 1 ∧ t.clk.bootSel = straps.bootSel ∧ t.clk.clkMode = straps.clkMode ∧ t.trust.fuses = s.trust.blown ∧
      t.rst.cause = e.sources ∧ t.rst.first = e.first ∧ t.rst.lastLevel = e.level ∧ t.rst.pinDrive = false ∧
      (∀ c, (2 ≤ straps.bootSel ∧ c = 2 ∨ straps.bootSel < 2 ∧ s.rtc.pilotReq = true ∧ c = 3 ∨
          straps.bootSel < 2 ∧ s.rtc.pilotReq = false ∧ fuseLimit u ≤ s.rtc.starts ∧ c = 1) →
        t.rst.pilot = true ∧ t.rst.pilotCause = c ∧ r.pilot = true ∧ t.rtc.starts = s.rtc.starts ∧ t.rtc.pilotReq = false ∧
          t.rst.window = false) ∧
      (straps.bootSel < 2 → s.rtc.pilotReq = false → s.rtc.starts < fuseLimit u →
        t.rst.pilot = false ∧ t.rst.window = true ∧ t.rtc.starts = min (s.rtc.starts + 1) 255 ∧ r.pilot = false) := by
  have hlim : fuseLimit (latchRelease straps s) = fuseLimit u := by subst hu; rfl
  have hexec := exec_episodeRelease_deep straps he hr hd hl
  by_cases hrun : straps.bootSel < 2 ∧ s.rtc.pilotReq = false ∧ s.rtc.starts < fuseLimit u
  · obtain ⟨hb, hp, hs⟩ := hrun
    rw [decideStart_run (s := latchRelease straps s) false hb hp true (by rw [hlim]; exact hs)] at hexec
    dsimp only at hexec
    obtain ⟨g, v, m, b, f, k, hx⟩ := startedWith_frame ((latchRelease straps s).rtc.trial && decide (1 ≤ (latchRelease straps s).rtc.starts) && !false)
      true ((latchRelease straps s).episodeLoaded e)
    rw [hx] at hexec
    obtain ⟨r, hbegin, h1, h2, h3⟩ := beginRelease_spec e false _ (openWindow _)
    rw [hbegin] at hexec
    rw [if_neg hl] at h3
    refine ⟨_, r, hexec, rfl, rfl, h1, h3, rfl, rfl, rfl, rfl, rfl, rfl, rfl, fun c hc => ?_, fun _ _ _ => ⟨rfl, rfl, rfl, h2⟩⟩
    rcases hc with ⟨h, -⟩ | ⟨-, h, -⟩ | ⟨-, -, h, -⟩
    · omega
    · rw [hp] at h
      cases h
    · omega
  · obtain ⟨c, hc⟩ : ∃ c, 2 ≤ straps.bootSel ∧ c = 2 ∨ straps.bootSel < 2 ∧ s.rtc.pilotReq = true ∧ c = 3 ∨
        straps.bootSel < 2 ∧ s.rtc.pilotReq = false ∧ fuseLimit u ≤ s.rtc.starts ∧ c = 1 := by
      by_cases hb : 2 ≤ straps.bootSel
      · exact ⟨2, .inl ⟨hb, rfl⟩⟩
      · cases hp : s.rtc.pilotReq with
        | true => exact ⟨3, .inr (.inl ⟨by omega, rfl, rfl⟩)⟩
        | false => exact ⟨1, .inr (.inr ⟨by omega, rfl, not_lt.mp fun hs => hrun ⟨by omega, hp, hs⟩, rfl⟩)⟩
    rw [← hlim] at hc
    have hk := decideStart_pilot (s := latchRelease straps s) false hc
    rw [hk] at hexec
    dsimp only at hexec
    obtain ⟨r, hbegin, h1, h2, h3⟩ := beginRelease_spec e true 1 (enterPilot c ((latchRelease straps s).episodeLoaded e))
    rw [hbegin] at hexec
    rw [if_neg hl] at h3
    refine ⟨_, r, hexec, rfl, rfl, h1, h3, rfl, rfl, rfl, rfl, rfl, rfl, rfl, fun c' hc' => ?_, fun hb hp hs => absurd ⟨hb, hp, hs⟩ hrun⟩
    rw [← hlim] at hc'
    have hk' := decideStart_pilot (s := latchRelease straps s) false hc'
    exact ⟨rfl, StartKind.pilot.inj (hk.symm.trans hk'), h2, rfl, rfl, rfl⟩

/-- After L2 the sequence begins with DRAM, or at the limit of starts the episode is deepened to an L1. -/
theorem episodeRelease_l2 (hl : e.level = .l2) (hp : s.rst.pilot = false) (hb : s.clk.bootSel < 2) (hq : s.rtc.pilotReq = false) :
    (s.rtc.starts < fuseLimit s → ∃ t r, exec (.episodeRelease straps) s = .next t ∧ t.rst.episode = none ∧
      t.rst.release = some r ∧ r.level = .l2 ∧ r.step = 9 ∧ r.pilot = false ∧ t.rst.window = true ∧
      t.rtc.starts = min (s.rtc.starts + 1) 255 ∧ t.clk = s.clk ∧ t.trust.fuses = s.trust.fuses) ∧
    (fuseLimit s ≤ s.rtc.starts → ∃ t e1, exec (.episodeRelease straps) s = .next t ∧ t.rst.episode = some e1 ∧
      e1.level = .l1 ∧ e1.deepened = true ∧ t.rst.release = none) := by
  have hexec := exec_episodeRelease_l2 straps he hr hd hl hp
  refine ⟨fun hs => ?_, fun hs => ?_⟩
  · rw [decideStart_run false hb hq false hs] at hexec
    dsimp only at hexec
    obtain ⟨g, v, m, b, f, k, hx⟩ := startedWith_frame (s.rtc.trial && decide (1 ≤ s.rtc.starts) && !false) false (s.episodeLoaded e)
    rw [hx] at hexec
    obtain ⟨r, hbegin, h1, h2, h3⟩ := beginRelease_spec e false _ (openWindow _)
    rw [hbegin] at hexec
    rw [if_pos hl] at h3
    exact ⟨_, r, hexec, rfl, rfl, h1.trans hl, h3, h2, rfl, rfl, rfl, rfl⟩
  · rw [decideStart_limit false hb hq false hs] at hexec
    obtain ⟨e1, h1, h2, -, h4, h5, -⟩ := deepenStart_spec e s
    exact ⟨_, e1, hexec, h1, h2, h4, h5⟩
end

end Sys2Proof.Machine

/-! STEP_READY: the awaited step of a release sequence reports ready (R203, R313, R321). -/

namespace Sys2Proof.Machine

/-! What each step does to the islands and the sequence. -/

/-- The step's island runs, and the sequence is where it was. -/
def Ready (i : Nat) (s t : State) : Prop := t.running i = true ∧ t.rst.release = s.rst.release

theorem State.running_setIsland {i : Nat} (h : i < 12) (s : State) : (s.setIsland i .running).running i = true :=
  beq_iff_eq.mpr (Tab.at_upd_same h)
theorem Ready.setIsland {i : Nat} (h : i < 12) (s : State) : Ready i s (s.setIsland i .running) := ⟨s.running_setIsland h, rfl⟩
theorem Ready.of_rst {i : Nat} {s t u : State} (h : Ready i s t) (hu : u.rst = t.rst) : Ready i s u := by
  obtain ⟨h1, h2⟩ := h
  refine ⟨?_, (congrArg ResetCtl.release hu).trans h2⟩
  rw [State.running, State.island, hu]
  exact h1
theorem Ready.of_islands {i : Nat} {s t u : State} (h : Ready i s t) (hi : u.rst.islands = t.rst.islands)
    (hr : u.rst.release = t.rst.release) : Ready i s u := by
  refine ⟨?_, hr.trans h.2⟩
  rw [State.running, State.island, hi]
  exact h.1

theorem StoreOnly.rst {s t : State} (h : StoreOnly s t) : t.rst = s.rst := by
  obtain ⟨r, p, x, e, k, f, rfl⟩ := h
  rfl
theorem State.rst_of_beyond {s t : State} (h : t.beyond = s.beyond) : t.rst = s.rst := by
  simp only [State.beyond, Prod.mk.injEq] at h
  exact h.2.2.2.2.2.2.1

theorem stepSys_ready (s : State) : Ready Isl.sys s (stepSys s) := by
  refine (Ready.setIsland (i := Isl.sys) (by decide) s).of_rst ?_
  unfold stepSys
  dsimp only
  split
  · obtain ⟨f, e, m, p, h, he⟩ := reportFault_correctable Isl.aon 0x01 0
      (loadTrim ({ s.setIsland Isl.sys .running with
        fault := { (s.setIsland Isl.sys .running).fault with fseq := (s.setIsland Isl.sys .running).ember.highestFseq },
        rtc := { (s.setIsland Isl.sys .running).rtc with cleared := false } }.setFlag 0x3004 7)) .l2 rfl
    exact (congrArg State.rst he).trans rfl
  · rfl

theorem stepEmber_ready (s : State) : Ready Isl.ember s (stepEmber s) := by
  refine (Ready.setIsland (i := Isl.ember) (by decide) s).of_rst ?_
  unfold stepEmber
  generalize s.setIsland Isl.ember .running = u
  have hstore := ((restoreStore_storeOnly u).trans (flushRecords_storeOnly _)).rst
  generalize flushRecords (restoreStore u) = w at hstore
  dsimp only
  split
  · exact hstore
  · exact hstore

theorem stepConv_ready (s : State) : Ready Isl.conv s (stepConv s) := by
  refine (Ready.setIsland (i := Isl.conv) (by decide) s).of_rst ?_
  unfold stepConv
  generalize s.setIsland Isl.conv .running = u
  exact State.foldl_part State.rst (fun s h => State.setReg_rst s (hearthReg h 0x050) 0) (List.range 8) u

theorem stepFlue_ready (s : State) : Ready Isl.flue s (stepFlue s) := by
  refine (Ready.setIsland (i := Isl.flue) (by decide) s).of_rst ?_
  unfold stepFlue
  generalize s.setIsland Isl.flue .running = u
  exact State.foldl_part State.rst
    (fun s h => State.rst_of_beyond ((restartHarm_beyond h _).trans (engineStart_beyond h s))) (List.range 8) u

theorem latchTimeBase_aside (s : State) : (latchTimeBase s).aside = s.aside := rfl
theorem stepMetro_aside (u : State) : (renderAll (latchTimeBase (beginBeat false u))).aside = u.aside := by
  rw [renderAll_aside, latchTimeBase_aside, beginBeat_aside]
  exact congrArg State.aside (if_neg (by decide))
theorem stepMetro_ready (s : State) : Ready Isl.metro s (stepMetro s) := by
  obtain ⟨h1, h2⟩ := Ready.setIsland (i := Isl.metro) (by decide) s
  unfold stepMetro
  generalize s.setIsland Isl.metro .running = u at h1 h2
  dsimp only
  generalize hv : u.updDamper (fun d => { d with beat := 0, frame := 0, rtcBefore := u.rtc.count, rtc := u.rtc.count }) = v
  have hside : (renderAll (latchTimeBase (beginBeat false v))).aside = u.aside := by
    rw [stepMetro_aside, ← hv, State.updDamper_aside]
  generalize renderAll (latchTimeBase (beginBeat false v)) = t at hside
  simp only [State.aside, Prod.mk.injEq] at hside
  obtain ⟨-, -, -, -, -, -, hrel, hisl⟩ := hside
  refine ⟨?_, hrel.trans h2⟩
  rw [State.running, hisl]
  exact h1

theorem measuredBoot_ready (s : State) : Ready Isl.seal s (measuredBoot (s.setIsland Isl.seal .running)) := by
  obtain ⟨m, l, h⟩ := measuredBoot_frame (s.setIsland Isl.seal .running)
  exact (Ready.setIsland (i := Isl.seal) (by decide) s).of_rst (by rw [h])

theorem bankFromWork_rst (s : State) : (bankFromWork s).rst = s.rst := by
  unfold bankFromWork
  split <;> rfl
theorem workFromBank_rst (s : State) : (workFromBank s).rst = s.rst := by
  unfold workFromBank
  split <;> rfl
theorem loadControl_rst (s : State) : (loadControl s).rst.islands = s.rst.islands ∧ (loadControl s).rst.release = s.rst.release := by
  obtain ⟨r, w, b, c, m, f, h⟩ := loadControl_frame s
  rw [h]
  exact ⟨rfl, rfl⟩

theorem stepCtrl_ready (hostLoad : Bool) (s : State) : Ready Isl.ctrl s (if hostLoad then s.setIsland Isl.ctrl .running
    else bankFromWork (loadControl (s.setIsland Isl.ctrl .running))) := by
  have hset := Ready.setIsland (i := Isl.ctrl) (by decide) s
  split
  · exact hset
  · obtain ⟨hi, hr⟩ := loadControl_rst (s.setIsland Isl.ctrl .running)
    exact (hset.of_islands hi hr).of_rst (bankFromWork_rst _)

/-- A step that only brings its island up, or back with what it finds. -/
theorem stepWork_ready {k i : Nat} (hk : (k, i) ∈ [(1, Isl.aon), (2, Isl.sys), (4, Isl.ember), (6, Isl.conv), (7, Isl.flue),
      (8, Isl.metro), (10, Isl.seal), (11, Isl.ctrl), (12, Isl.host)]) (rep : StepReport) (s : State) {r : Release} (hr : r.step = k) :
    ∃ t, stepWork r rep s = some t ∧ Ready i s t := by
  have hw : stepWork r rep s = stepWork { r with step := k } rep s := by rw [← hr]
  rw [hw]
  simp only [List.mem_cons, Prod.mk.injEq, List.not_mem_nil, or_false] at hk
  rcases hk with ⟨rfl, rfl⟩ | ⟨rfl, rfl⟩ | ⟨rfl, rfl⟩ | ⟨rfl, rfl⟩ | ⟨rfl, rfl⟩ | ⟨rfl, rfl⟩ | ⟨rfl, rfl⟩ | ⟨rfl, rfl⟩ | ⟨rfl, rfl⟩
  · exact ⟨_, rfl, .setIsland (by decide) s⟩
  · exact ⟨_, rfl, stepSys_ready s⟩
  · exact ⟨_, rfl, stepEmber_ready s⟩
  · exact ⟨_, rfl, stepConv_ready s⟩
  · exact ⟨_, rfl, stepFlue_ready s⟩
  · exact ⟨_, rfl, stepMetro_ready s⟩
  · exact ⟨_, rfl, measuredBoot_ready s⟩
  · exact ⟨_, rfl, stepCtrl_ready r.hostLoad s⟩
  · exact ⟨_, rfl, (Ready.setIsland (i := Isl.host) (by decide) s).of_rst rfl⟩

end Sys2Proof.Machine

/-! The sequence goes on: steps 3, 5, 9 and 13, and the settlement (R203, R304, R313, R318, R320, R321, R325). -/

namespace Sys2Proof.Machine

theorem exec_stepReady {rep : StepReport} {s : State} {r : Release} (hr : s.rst.release = some r) :
    exec (.stepReady rep) s = match stepWork r rep s with | some t => .next (advance r.step t) | none => .next s := by
  show execStepReady rep s = _
  unfold execStepReady
  rw [hr] <;> rfl

theorem advance_next {k j : Nat} {t : State} {r : Release} (hr : t.rst.release = some r) (hk : k ≠ 5 ∨ r.pilot = false)
    (hj : stepAfter k r.steps = some j) :
    advance k t = { t with rst := { t.rst with release := some { r with step := j } } } := by
  have hno : ¬(k = 5 ∧ r.pilot = true) := fun h => hk.elim (· h.1) fun hp => by simp [hp] at h
  unfold advance
  rw [hr]
  dsimp only
  rw [if_neg hno, hj]

/-- A step whose work leaves the sequence where it was: the next step is awaited. -/
theorem exec_stepReady_next {rep : StepReport} {s t : State} {r : Release} {j : Nat} (hr : s.rst.release = some r)
    (hw : stepWork r rep s = some t) (ht : t.rst.release = s.rst.release) (h5 : r.step ≠ 5) (hj : stepAfter r.step r.steps = some j) :
    exec (.stepReady rep) s = .next { t with rst := { t.rst with release := some { r with step := j } } } := by
  rw [exec_stepReady hr, hw]
  exact congrArg Host.Outcome.next (advance_next (ht.trans hr) (.inl h5) hj)

theorem stepWork_at {r : Release} {k : Nat} (h : r.step = k) (rep : StepReport) (s : State) :
    stepWork r rep s = stepWork { r with step := k } rep s := by rw [← h]

/-! Step 9. -/

theorem dramUp_dram (s : State) : (dramUp s).dram = { s.dram with trained := true, failed := false, setup := dramSetup s } ∧
    (dramUp s).rst = s.rst := ⟨rfl, rfl⟩
theorem dramCap_pos (w : Word) : 1 ≤ dramCap w := by
  unfold dramCap
  split <;> decide

theorem stepDram_spec (rep : StepReport) (s t : State) (hrate : 1 ≤ rep.rate) (ht : t = stepDram rep s) :
    t.running Isl.dram = true ∧ t.dram.trained = true ∧ t.dram.rate = min rep.rate (dramCap (dramSetup s)) ∧
    t.rst.release = s.rst.release := by
  have hpos := dramCap_pos (dramSetup s)
  unfold stepDram at ht
  extract_lets rate u d v at ht
  rw [if_neg (by simp only [rate]; omega)] at ht
  obtain ⟨hd, hr⟩ := dramUp_dram v
  rw [← ht] at hd hr
  refine ⟨?_, by rw [hd], by rw [hd], by rw [hr]; rfl⟩
  rw [State.running, State.island, hr]
  exact s.running_setIsland (by decide)

/-! The end of the sequence. -/

theorem logRelease_frame (s : State) : ∃ r e, logRelease s = { s with ember := e, rst := { s.rst with release := r } } ∧
    r = s.rst.release.map fun x => if x.logged ∨ s.running Isl.ember = false then x else { x with logged := true } := by
  unfold logRelease
  split
  · next r hr =>
    split
    · next h => exact ⟨some r, s.ember, by rw [← hr], by rw [hr, Option.map_some, if_pos h]⟩
    · next h => exact ⟨some { r with logged := true }, _, rfl, by rw [hr, Option.map_some, if_neg h]⟩
  · next hr => exact ⟨none, s.ember, by rw [← hr], by rw [hr]; rfl⟩

theorem advance_last {k : Nat} {t : State} {r : Release} (hr : t.rst.release = some r) (hk : k ≠ 5)
    (hj : stepAfter k r.steps = none) : ∃ e, advance k t = { t with ember := e, rst := { t.rst with release := none } } := by
  obtain ⟨r', e, h, -⟩ := logRelease_frame t
  unfold advance
  rw [hr]
  dsimp only
  rw [if_neg fun h => hk h.1, hj]
  dsimp only
  rw [h]
  exact ⟨e, rfl⟩

theorem stepLink_rst (s : State) : (mantelStart false (workFromBank s)).rst = s.rst := by
  obtain ⟨m, h⟩ := mantelStart_frame false (workFromBank s)
  rw [h]
  exact workFromBank_rst s

theorem stepWork_last {r : Release} (hk : r.step = 13) (rep : StepReport) (s : State) : stepWork r rep s =
    some (mantelStart false (workFromBank ((s.setIsland Isl.link .running).setIsland Isl.mantel .running))) := by
  unfold stepWork
  rw [hk] <;> rfl
theorem State.running_setIsland_other {i j : Nat} {v : IslandState} (h : j ≠ i) (s : State) :
    (s.setIsland i v).running j = s.running j := by
  rw [State.running, State.running, State.island, State.setIsland_rst]
  exact congrArg (· == IslandState.running) (Tab.at_upd_other h)

theorem setIsland_link_ready (s : State) :
    Ready Isl.link s ((s.setIsland Isl.link .running).setIsland Isl.mantel .running) :=
  ⟨(State.running_setIsland_other (by decide) _).trans (s.running_setIsland (by decide)), rfl⟩
theorem setIsland_mantel_ready (s : State) :
    Ready Isl.mantel s ((s.setIsland Isl.link .running).setIsland Isl.mantel .running) :=
  ⟨State.running_setIsland (by decide) _, rfl⟩

/-- The last step done, the sequence is over and the islands are as the step left them. -/
theorem exec_stepReady_last {rep : StepReport} {s u : State} {r : Release} (hr : s.rst.release = some r) (hk : r.step = 13)
    (hw : stepWork r rep s = some u) (hu : u.rst.release = s.rst.release) (hj : stepAfter 13 r.steps = none) :
    ∃ t, exec (.stepReady rep) s = .next t ∧ (∀ i, t.running i = u.running i) ∧ t.rst.release = none := by
  obtain ⟨e, ha⟩ := advance_last (hu.trans hr) (k := 13) (by decide) hj
  refine ⟨{ u with ember := e, rst := { u.rst with release := none } }, ?_, fun i => rfl, rfl⟩
  rw [exec_stepReady hr, hw, hk, ← ha]

theorem stepReady_last {rep : StepReport} {s : State} {r : Release} (hr : s.rst.release = some r) (hk : r.step = 13)
    (hj : stepAfter 13 r.steps = none) :
    ∃ t, exec (.stepReady rep) s = .next t ∧ t.running Isl.link = true ∧ t.running Isl.mantel = true ∧ t.rst.release = none := by
  have hw := stepWork_last hk rep s
  have hlink := setIsland_link_ready s
  have hmantel := setIsland_mantel_ready s
  generalize (s.setIsland Isl.link .running).setIsland Isl.mantel .running = v at hw hlink hmantel
  obtain ⟨hl, hrel⟩ := hlink.of_rst (stepLink_rst v)
  obtain ⟨hm, -⟩ := hmantel.of_rst (stepLink_rst v)
  obtain ⟨t, ht, hrun, hnone⟩ := exec_stepReady_last hr hk hw hrel hj
  exact ⟨t, ht, (hrun _).trans hl, (hrun _).trans hm, hnone⟩

/-! Step 5 (R203, R313, R355). -/

/-- What is in force once step 5 has decided for pilot-light mode, before the sequence goes on. -/
def PilotAt (cause : Nat) (s t : State) : Prop :=
  t.rst.pilot = true ∧ t.rst.pilotCause = cause ∧ t.damper = s.damper ∧ t.rst.release = s.rst.release

theorem enterPilot_at (cause : Nat) (s : State) : PilotAt cause s (enterReset Isl.dram
    ((enterPilot cause { s with rtc := { s.rtc with starts := s.rtc.starts - 1 } }).updEmber fun e => { e with restore := none })) := by
  refine ⟨?_, ?_, rfl, ?_⟩
  all_goals rw [enterReset_rst]
  all_goals rfl
theorem PilotAt.control {cause : Nat} {s t : State} (h : PilotAt cause s t) :
    PilotAt cause s (if t.running Isl.ctrl then loadControl t else t) := by
  split
  · obtain ⟨m, d, v, l, he⟩ := loadControl_pilot h.1
    rw [he]
    exact h
  · exact h

theorem pilotAtStep5_at (cause : Nat) (s : State) : ∃ t, PilotAt cause s t ∧ pilotAtStep5 cause s =
    { t with rst := { t.rst with release := t.rst.release.map fun r => { r with pilot := true, outcome := 1 } } } :=
  ⟨_, (enterPilot_at cause s).control, rfl⟩

/-- Pilot-light mode decided at step 5 goes on with SEAL. -/
theorem pilotAtStep5_spec {s t : State} {r : Release} (cause : Nat) (hr : s.rst.release = some r) (hh : r.hostLoad = false)
    (ht : t = advance 5 (pilotAtStep5 cause s)) : t.rst.pilot = true ∧ t.rst.pilotCause = cause ∧ t.damper = s.damper ∧
      t.rst.release = some { r with pilot := true, outcome := 1, step := 10 } := by
  obtain ⟨u, ⟨h1, h2, h3, h4⟩, hu⟩ := pilotAtStep5_at cause s
  rw [hu, h4, hr, Option.map_some] at ht
  have hadv : t = { u with rst := { u.rst with release := some { r with pilot := true, outcome := 1, step := 10 } } } := by
    rw [ht]
    unfold advance
    dsimp only
    rw [if_pos (show 5 = 5 ∧ true = true from ⟨rfl, rfl⟩), hh] <;> rfl
  subst hadv
  exact ⟨h1, h2, h3, rfl⟩

theorem measureStart_frame (s : State) : ∃ m l, measureStart s = { s with trust := { s.trust with mreg := m, legal := l } } := by
  unfold measureStart
  split
  · exact setMreg_frame ..
  · exact measuredBoot_frame s
/-- An image that is adopted is the one in force; the sequence is where it was. -/
theorem adoptImage_spec (g : Image) (s : State) : (adoptImage g s).damper.image = some g ∧ (adoptImage g s).rst = s.rst := by
  unfold adoptImage
  extract_lets u
  obtain ⟨m, l, hm⟩ := measureStart_frame (restorePoints (armPoints u))
  obtain ⟨r, p, x, e, h, f, hs⟩ := (armPoints_storeOnly u).trans (restorePoints_storeOnly _)
  rw [hm, hs]
  exact ⟨rfl, rfl⟩

theorem stepAfter_five {r : Release} {j : Nat} (hj : stepAfter 5 r.steps = some j) : r.pilot = false := by
  cases hp : r.pilot with
  | false => rfl
  | true =>
    unfold Release.steps at hj
    rw [hp, if_pos rfl] at hj
    split at hj <;> simp [stepAfter] at hj

/-- What step 5 does once a layer is loaded. -/
theorem stepWork_loaded {s u : State} {r : Release} (h5 : r.step = 5) (rep : StepReport) (hh : r.hostLoad = false)
    (hl : loadMetrology s = some u) {g : Image} (hg : g = u.fw.hostImage.getD (flashImage u (slotWith u u.ember.heldImage))) :
    stepWork r rep s = match admission u g with
      | some (reason, sec, off) => some (pilotAtStep5 5 (u.updDamper fun d => { d with reason := reason, sect := sec, offset := off }))
      | none => some { logRelease (adoptImage g u) with
          fw := { (logRelease (adoptImage g u)).fw with hostMet := none, hostImage := none } } := by
  rw [stepWork_at h5]
  show stepLoad r.hostLoad s = _
  unfold stepLoad
  rw [hh, hl]
  dsimp only
  rw [← hg, if_neg (show ¬(false && _) = true from nofun)]
  <;> rcases admission u g with _ | ⟨reason, sec, off⟩ <;> rfl

theorem loadMetrology_release {s t : State} (h : loadMetrology s = some t) : t.rst.release = s.rst.release := by
  obtain ⟨r, b, m, l, f, rfl⟩ := loadMetrology_frame h
  rfl

section
variable {rep : StepReport} {s : State} {r : Release} (hr : s.rst.release = some r) (h5 : r.step = 5)
include hr h5

theorem stepReady_hostWait (hh : r.hostLoad = true) (hn : s.fw.hostMet = none ∨ s.fw.hostCtl = none ∨ s.fw.hostImage = none) :
    exec (.stepReady rep) s = .next s := by
  have hw : stepWork r rep s = none := by
    rw [stepWork_at h5]
    refine if_pos ?_
    rcases hn with h | h | h <;> simp [hh, h]
  rw [exec_stepReady hr, hw]

theorem stepReady_noLayer (hh : r.hostLoad = false) (hl : loadMetrology s = none) :
    ∃ t, exec (.stepReady rep) s = .next t ∧ t.rst.pilot = true ∧ t.rst.pilotCause = 4 ∧
      t.rst.release = some { r with pilot := true, outcome := 1, step := 10 } := by
  have hw : stepWork r rep s = some (pilotAtStep5 4 s) := by
    rw [stepWork_at h5]
    show stepLoad r.hostLoad s = _
    unfold stepLoad
    rw [hh, hl] <;> rfl
  obtain ⟨h1, h2, -, h4⟩ := pilotAtStep5_spec 4 hr hh rfl
  exact ⟨_, by rw [exec_stepReady hr, hw, h5], h1, h2, h4⟩

/-- A rejected image is pilot-light mode of cause 5 with the reason of its rejection. -/
theorem stepReady_rejected (hh : r.hostLoad = false) {u : State} (hl : loadMetrology s = some u) {g : Image}
    (hg : g = u.fw.hostImage.getD (flashImage u (slotWith u u.ember.heldImage))) {reason sec off : Nat}
    (ha : admission u g = some (reason, sec, off)) :
    ∃ t, exec (.stepReady rep) s = .next t ∧ t.rst.pilot = true ∧ t.rst.pilotCause = 5 ∧ t.damper.reason = reason ∧
      t.damper.sect = sec ∧ t.damper.offset = off := by
  have hw := stepWork_loaded h5 rep hh hl hg
  rw [ha] at hw
  have hu : u.rst.release = some r := (loadMetrology_release hl).trans hr
  obtain ⟨h1, h2, h3, -⟩ := pilotAtStep5_spec (s := u.updDamper fun d => { d with reason := reason, sect := sec, offset := off })
    5 hu hh rfl
  refine ⟨_, by rw [exec_stepReady hr, hw, h5], h1, h2, ?_⟩
  rw [h3]
  exact ⟨rfl, rfl, rfl⟩

/-- An admitted image is in force, and the sequence goes on as it was. -/
theorem stepReady_admitted (hh : r.hostLoad = false) {u : State} (hl : loadMetrology s = some u) {g : Image}
    (hg : g = u.fw.hostImage.getD (flashImage u (slotWith u u.ember.heldImage))) (ha : admission u g = none) {j : Nat}
    (hj : stepAfter 5 r.steps = some j) :
    ∃ t r1, exec (.stepReady rep) s = .next t ∧ t.damper.image = some g ∧ t.rst.release = some r1 ∧ r1.step = j ∧
      r1.pilot = r.pilot := by
  have hw := stepWork_loaded h5 rep hh hl hg
  rw [ha] at hw
  obtain ⟨himg, hrst⟩ := adoptImage_spec g u
  have hrel : (adoptImage g u).rst.release = some r :=
    (congrArg ResetCtl.release hrst).trans ((loadMetrology_release hl).trans hr)
  generalize adoptImage g u = v at hw himg hrel
  obtain ⟨o, e, hlog, ho⟩ := logRelease_frame v
  rw [hrel, Option.map_some] at ho
  obtain ⟨r1, hr1, hsteps, hpilot⟩ : ∃ r1, o = some r1 ∧ r1.steps = r.steps ∧ r1.pilot = r.pilot := by
    rw [ho]
    split <;> exact ⟨_, rfl, rfl, rfl⟩
  rw [hlog] at hw
  generalize hx : ({ v with ember := e, rst := { v.rst with release := o }, fw := { v.fw with hostMet := none, hostImage := none } } : State)
    = x at hw
  have hxr : x.rst.release = some r1 := by rw [← hx]; exact hr1
  have hadv := advance_next hxr (k := 5) (.inr (hpilot.trans (stepAfter_five hj))) (hsteps.symm ▸ hj)
  have hexec : exec (.stepReady rep) s = .next (advance 5 x) := by rw [exec_stepReady hr, hw, h5]
  refine ⟨_, { r1 with step := j }, hexec.trans (congrArg Host.Outcome.next hadv), ?_, rfl, rfl, hpilot⟩
  rw [← hx]
  exact himg
end

/-- Settles O59: the release is decided by `decideStart`, and each step leaves the sequence to `advance`. -/
theorem releases : Obligations.Releases := by
  unfold Obligations.Releases
  refine ⟨fun straps s => ⟨fun hn => ?_, fun e he => ⟨exec_episodeRelease_waits straps he, fun hr hd =>
      ⟨fun hl u hu => episodeRelease_deep straps he hr hd hl hu, fun hl hp hb hq => episodeRelease_l2 straps he hr hd hl hp hb hq⟩⟩⟩,
    fun rep s r hr => ⟨fun k i hk hrk j hj => ?_, fun h3 j hj => ?_, fun h9 hrate j hj => ?_,
      fun h5 hh hn => stepReady_hostWait hr h5 hh hn, fun h5 hh => ⟨fun hl => stepReady_noLayer hr h5 hh hl,
        fun u g hl hg => ⟨fun reason sec off ha => stepReady_rejected hr h5 hh hl hg ha,
          fun ha j hj => stepReady_admitted hr h5 hh hl hg ha hj⟩⟩, fun hk hj => stepReady_last hr hk hj⟩⟩
  · show execEpisodeRelease straps s = _
    unfold execEpisodeRelease
    rw [hn]
  · obtain ⟨t, hw, hrun, hrel⟩ := stepWork_ready hk rep s hrk
    have h5 : r.step ≠ 5 := by
      rintro h
      rw [← hrk, h] at hk
      simp at hk
    exact ⟨_, exec_stepReady_next hr hw hrel h5 (by rw [hrk]; exact hj), hrun, rfl⟩
  · have hw : stepWork r rep s = some { s with clk := { s.clk with pllM := true, pllC := true, pllD := true } } := by
      rw [stepWork_at h3]
      rfl
    exact exec_stepReady_next hr hw rfl (by omega) (by rw [h3]; exact hj)
  · have hw : stepWork r rep s = some (stepDram rep s) := by
      rw [stepWork_at h9]
      rfl
    obtain ⟨h1, h2, h3, h4⟩ := stepDram_spec rep s _ hrate rfl
    exact ⟨_, exec_stepReady_next hr hw h4 (by omega) (by rw [h9]; exact hj), h1, h2, h3, rfl⟩

end Sys2Proof.Machine
